-- ==== Sys2Proof/Word.lean ====
section
/-!
DEFINITION. Sys2Proof/Word.lean: the words of the machine (R4, R15) and the sparse table the state is built of.
-/
namespace Sys2Proof

/-- A byte of memory. -/
abbrev Byte := BitVec 8
/-- A general register, an address or a CSR (R15, R94). -/
abbrev W64 := BitVec 64
/-- A vector register (R15, R181). -/
abbrev Vec := BitVec 1024

/-- A finite table: number and entry, numbers rising. An entry that is not listed has the default the reader names. -/
abbrev Tab (α : Type) := List (Nat × α)

end Sys2Proof
end

