-- ==== Sys2Proof/Syntax.lean ====
section
/-!
DEFINITION. Sys2Proof/Syntax.lean: the instruction set as a syntax, one constructor per row of spec/opcode_table.json.

The first 170 constructors are the instruction words (R55 to R58); each carries the bit fields its encoding leaves
free, in the table's own names and order: p is PR, t is T0, u is T1 of formats D and G. The other 110 are the events of the machine
(spec/95_what_each_step_holds.md): a step that no word encodes, whose arguments say which unit it concerns and what
the outside world sends. No constructor gives a meaning; Sys2Proof/Machine does.
-/
namespace Sys2Proof

/-- One instruction word or one event of the machine, by its row of the opcode table. -/
inductive Instr where
  | add (p : BitVec 2) (t : BitVec 9) (u : BitVec 9)
  | sub (p : BitVec 2) (t : BitVec 9) (u : BitVec 9)
  | mul (p : BitVec 2) (t : BitVec 9) (u : BitVec 9)
  | mulh (p : BitVec 2) (t : BitVec 9) (u : BitVec 9)
  | mulhz (p : BitVec 2) (t : BitVec 9) (u : BitVec 9)
  | div (p : BitVec 2) (t : BitVec 9) (u : BitVec 9)
  | divz (p : BitVec 2) (t : BitVec 9) (u : BitVec 9)
  | rem (p : BitVec 2) (t : BitVec 9) (u : BitVec 9)
  | remz (p : BitVec 2) (t : BitVec 9) (u : BitVec 9)
  | and (p : BitVec 2) (t : BitVec 9) (u : BitVec 9)
  | or (p : BitVec 2) (t : BitVec 9) (u : BitVec 9)
  | xor (p : BitVec 2) (t : BitVec 9) (u : BitVec 9)
  | andn (p : BitVec 2) (t : BitVec 9) (u : BitVec 9)
  | orn (p : BitVec 2) (t : BitVec 9) (u : BitVec 9)
  | shl (p : BitVec 2) (t : BitVec 9) (u : BitVec 9)
  | shr (p : BitVec 2) (t : BitVec 9) (u : BitVec 9)
  | sar (p : BitVec 2) (t : BitVec 9) (u : BitVec 9)
  | ror (p : BitVec 2) (t : BitVec 9) (u : BitVec 9)
  | min (p : BitVec 2) (t : BitVec 9) (u : BitVec 9)
  | max (p : BitVec 2) (t : BitVec 9) (u : BitVec 9)
  | minz (p : BitVec 2) (t : BitVec 9) (u : BitVec 9)
  | maxz (p : BitVec 2) (t : BitVec 9) (u : BitVec 9)
  | mov (p : BitVec 2) (t : BitVec 9) (u : BitVec 9)
  | clz (p : BitVec 2) (t : BitVec 9) (u : BitVec 9)
  | ctz (p : BitVec 2) (t : BitVec 9) (u : BitVec 9)
  | popc (p : BitVec 2) (t : BitVec 9) (u : BitVec 9)
  | brev (p : BitVec 2) (t : BitVec 9) (u : BitVec 9)
  | ceq (p : BitVec 2) (t : BitVec 9) (u : BitVec 9)
  | cne (p : BitVec 2) (t : BitVec 9) (u : BitVec 9)
  | clt (p : BitVec 2) (t : BitVec 9) (u : BitVec 9)
  | cle (p : BitVec 2) (t : BitVec 9) (u : BitVec 9)
  | cltz (p : BitVec 2) (t : BitVec 9) (u : BitVec 9)
  | clez (p : BitVec 2) (t : BitVec 9) (u : BitVec 9)
  | addi (p : BitVec 2) (i : BitVec 14) (t : BitVec 9)
  | muli (p : BitVec 2) (i : BitVec 14) (t : BitVec 9)
  | andi (p : BitVec 2) (i : BitVec 14) (t : BitVec 9)
  | ori (p : BitVec 2) (i : BitVec 14) (t : BitVec 9)
  | xori (p : BitVec 2) (i : BitVec 14) (t : BitVec 9)
  | shli (p : BitVec 2) (k : BitVec 6) (t : BitVec 9)
  | shri (p : BitVec 2) (k : BitVec 6) (t : BitVec 9)
  | sari (p : BitVec 2) (k : BitVec 6) (t : BitVec 9)
  | ceqi (p : BitVec 2) (i : BitVec 14) (t : BitVec 9)
  | cnei (p : BitVec 2) (i : BitVec 14) (t : BitVec 9)
  | clti (p : BitVec 2) (i : BitVec 14) (t : BitVec 9)
  | clei (p : BitVec 2) (i : BitVec 14) (t : BitVec 9)
  | cltzi (p : BitVec 2) (i : BitVec 14) (t : BitVec 9)
  | clezi (p : BitVec 2) (i : BitVec 14) (t : BitVec 9)
  | lea (p : BitVec 2) (s : BitVec 3) (o : BitVec 11) (t : BitVec 9)
  | sext (p : BitVec 2) (n : BitVec 6) (t : BitVec 9)
  | zext (p : BitVec 2) (n : BitVec 6) (t : BitVec 9)
  | extr (p : BitVec 2) (s : BitVec 1) (o : BitVec 6) (l : BitVec 6) (t : BitVec 9)
  | ins (p : BitVec 2) (o : BitVec 6) (l : BitVec 6) (t : BitVec 9)
  | constI (t : BitVec 9) (i : BitVec 16)
  | consth (t : BitVec 9) (i : BitVec 16)
  | get (r : BitVec 7) (u : BitVec 9) (t : BitVec 9)
  | null (p : BitVec 2) (t : BitVec 9) (u : BitVec 9)
  | br (p : BitVec 2) (o : BitVec 20)
  | bri (p : BitVec 2)
  | call (p : BitVec 2) (o : BitVec 20)
  | calli (p : BitVec 2)
  | ret (p : BitVec 2)
  | tend (p : BitVec 2)
  | park (p : BitVec 2) (o : BitVec 20)
  | tabort (p : BitVec 2)
  | ld (p : BitVec 2) (y : BitVec 4) (d : BitVec 10) (t : BitVec 9)
  | st (p : BitVec 2) (y : BitVec 4) (d : BitVec 10)
  | ldv (p : BitVec 2) (v : BitVec 5) (d : BitVec 5)
  | stv (p : BitVec 2) (v : BitVec 5) (d : BitVec 5)
  | ldvs (p : BitVec 2) (y : BitVec 4) (v : BitVec 5)
  | stvs (p : BitVec 2) (y : BitVec 4) (v : BitVec 5)
  | vgather (p : BitVec 2) (z : BitVec 2) (s : BitVec 1) (k : BitVec 3)
  | vscatter (p : BitVec 2) (z : BitVec 2) (s : BitVec 1) (k : BitVec 3)
  | cmt (p : BitVec 2)
  | seal (p : BitVec 2)
  | fenceAcq (p : BitVec 2) (s : BitVec 3)
  | fenceRel (p : BitVec 2) (s : BitVec 3)
  | fenceSc (p : BitVec 2) (s : BitVec 3)
  | lprobe (p : BitVec 2) (t : BitVec 9)
  | amo (p : BitVec 2) (o : BitVec 4) (w : BitVec 1) (t : BitVec 9)
  | cas (p : BitVec 2) (w : BitVec 1) (t : BitVec 9)
  | red (p : BitVec 2) (o : BitVec 4) (w : BitVec 1)
  | redf (p : BitVec 2) (y : BitVec 4)
  | cellinit (p : BitVec 2)
  | cellrd (p : BitVec 2) (t : BitVec 9)
  | spawn (p : BitVec 2) (t : BitVec 9)
  | dqpush (p : BitVec 2) (t : BitVec 9)
  | dqpop (p : BitVec 2) (t : BitVec 9)
  | qlen (p : BitVec 2) (k : BitVec 1) (q : BitVec 6) (t : BitVec 9)
  | qrsv (p : BitVec 2) (k : BitVec 1) (q : BitVec 6) (t : BitVec 9)
  | semadd (p : BitVec 2) (t : BitVec 9)
  | semset (p : BitVec 2)
  | semrd (p : BitVec 2) (t : BitVec 9)
  | vadd (p : BitVec 2) (d : BitVec 5) (a : BitVec 5) (b : BitVec 5) (r : BitVec 2) (y : BitVec 4)
  | vsub (p : BitVec 2) (d : BitVec 5) (a : BitVec 5) (b : BitVec 5) (r : BitVec 2) (y : BitVec 4)
  | vmul (p : BitVec 2) (d : BitVec 5) (a : BitVec 5) (b : BitVec 5) (r : BitVec 2) (y : BitVec 4)
  | vdiv (p : BitVec 2) (d : BitVec 5) (a : BitVec 5) (b : BitVec 5) (r : BitVec 2) (y : BitVec 4)
  | vfma (p : BitVec 2) (d : BitVec 5) (a : BitVec 5) (b : BitVec 5) (r : BitVec 2) (y : BitVec 4)
  | vfms (p : BitVec 2) (d : BitVec 5) (a : BitVec 5) (b : BitVec 5) (r : BitVec 2) (y : BitVec 4)
  | vmin (p : BitVec 2) (d : BitVec 5) (a : BitVec 5) (b : BitVec 5) (y : BitVec 4)
  | vmax (p : BitVec 2) (d : BitVec 5) (a : BitVec 5) (b : BitVec 5) (y : BitVec 4)
  | vabs (p : BitVec 2) (d : BitVec 5) (a : BitVec 5) (y : BitVec 4)
  | vneg (p : BitVec 2) (d : BitVec 5) (a : BitVec 5) (y : BitVec 4)
  | vsqrt (p : BitVec 2) (d : BitVec 5) (a : BitVec 5) (r : BitVec 2) (y : BitVec 4)
  | vrcp (p : BitVec 2) (d : BitVec 5) (a : BitVec 5) (r : BitVec 2) (y : BitVec 4)
  | vrsq (p : BitVec 2) (d : BitVec 5) (a : BitVec 5) (r : BitVec 2) (y : BitVec 4)
  | vexp2 (p : BitVec 2) (d : BitVec 5) (a : BitVec 5) (r : BitVec 2) (y : BitVec 4)
  | vlog2 (p : BitVec 2) (d : BitVec 5) (a : BitVec 5) (r : BitVec 2) (y : BitVec 4)
  | vcmp (p : BitVec 2) (d : BitVec 5) (a : BitVec 5) (b : BitVec 5) (c : BitVec 2) (y : BitVec 4)
  | vsel (p : BitVec 2) (d : BitVec 5) (a : BitVec 5) (b : BitVec 5) (y : BitVec 4)
  | vand (p : BitVec 2) (d : BitVec 5) (a : BitVec 5) (b : BitVec 5) (y : BitVec 4)
  | vor (p : BitVec 2) (d : BitVec 5) (a : BitVec 5) (b : BitVec 5) (y : BitVec 4)
  | vxor (p : BitVec 2) (d : BitVec 5) (a : BitVec 5) (b : BitVec 5) (y : BitVec 4)
  | vnot (p : BitVec 2) (d : BitVec 5) (a : BitVec 5) (y : BitVec 4)
  | vshl (p : BitVec 2) (d : BitVec 5) (a : BitVec 5) (b : BitVec 5) (y : BitVec 4)
  | vshr (p : BitVec 2) (d : BitVec 5) (a : BitVec 5) (b : BitVec 5) (y : BitVec 4)
  | vsar (p : BitVec 2) (d : BitVec 5) (a : BitVec 5) (b : BitVec 5) (y : BitVec 4)
  | viadd (p : BitVec 2) (d : BitVec 5) (a : BitVec 5) (b : BitVec 5) (y : BitVec 4)
  | visub (p : BitVec 2) (d : BitVec 5) (a : BitVec 5) (b : BitVec 5) (y : BitVec 4)
  | vimul (p : BitVec 2) (d : BitVec 5) (a : BitVec 5) (b : BitVec 5) (y : BitVec 4)
  | vcvt (p : BitVec 2) (d : BitVec 5) (a : BitVec 5) (s : BitVec 4) (r : BitVec 2) (y : BitVec 4)
  | vqnt (p : BitVec 2) (d : BitVec 5) (a : BitVec 5) (b : BitVec 5) (n : BitVec 2) (y : BitVec 4)
  | vdqnt (p : BitVec 2) (d : BitVec 5) (a : BitVec 5) (b : BitVec 5) (n : BitVec 2) (y : BitVec 4)
  | vred (p : BitVec 2) (y : BitVec 4) (a : BitVec 5) (r : BitVec 2) (o : BitVec 2) (t : BitVec 9)
  | vbcast (p : BitVec 2) (d : BitVec 5) (a : BitVec 5) (m : BitVec 2) (y : BitVec 4)
  | vshuf (p : BitVec 2) (d : BitVec 5) (a : BitVec 5) (b : BitVec 5) (y : BitVec 4)
  | vext (p : BitVec 2) (y : BitVec 4) (a : BitVec 5) (t : BitVec 9)
  | vins (p : BitVec 2) (d : BitVec 5) (y : BitVec 4)
  | vmov (p : BitVec 2) (d : BitVec 5) (a : BitVec 5)
  | vzero (p : BitVec 2) (d : BitVec 5)
  | mmac (p : BitVec 2) (s : BitVec 1) (k : BitVec 3)
  | minit (p : BitVec 2) (s : BitVec 1) (k : BitVec 3)
  | mdrain (p : BitVec 2) (s : BitVec 1) (k : BitVec 3)
  | mbudget (p : BitVec 2)
  | mstat (p : BitVec 2) (e : BitVec 2) (t : BitVec 9)
  | mgang (p : BitVec 2) (s : BitVec 1) (k : BitVec 3)
  | mgrant (p : BitVec 2) (s : BitVec 1) (k : BitVec 3)
  | spat (p : BitVec 2) (s : BitVec 1) (k : BitVec 3)
  | sstart (p : BitVec 2) (s : BitVec 1) (k : BitVec 3)
  | sacc (p : BitVec 2) (s : BitVec 1) (k : BitVec 3)
  | sstop (p : BitVec 2) (s : BitVec 1) (k : BitVec 3)
  | sprog (p : BitVec 2) (t : BitVec 9)
  | copy (p : BitVec 2) (l : BitVec 4) (k : BitVec 3)
  | copyD (p : BitVec 2) (s : BitVec 1) (k : BitVec 3)
  | copyQf (p : BitVec 2) (s : BitVec 1) (k : BitVec 3)
  | copym (p : BitVec 2) (s : BitVec 1) (k : BitVec 3)
  | tmove (p : BitVec 2) (s : BitVec 1) (k : BitVec 3)
  | tokrd (p : BitVec 2) (a : BitVec 1) (k : BitVec 3) (t : BitVec 9)
  | rboard (p : BitVec 2) (l : BitVec 3) (s : BitVec 1) (k : BitVec 3)
  | rdrop (p : BitVec 2) (s : BitVec 1) (k : BitVec 3)
  | rwhere (p : BitVec 2) (l : BitVec 3) (t : BitVec 9)
  | rstat (p : BitVec 2) (t : BitVec 9)
  | rstatLane (p : BitVec 2) (l : BitVec 3) (t : BitVec 9)
  | rbind (p : BitVec 2) (l : BitVec 3)
  | rpace (p : BitVec 2) (l : BitVec 3)
  | xfence (p : BitVec 2) (m : BitVec 5) (t : BitVec 9)
  | xwait (p : BitVec 2)
  | xsem (p : BitVec 2) (s : BitVec 1) (k : BitVec 3)
  | collReduce (p : BitVec 2) (m : BitVec 4) (s : BitVec 1) (k : BitVec 3)
  | collBcast (p : BitVec 2) (m : BitVec 4) (s : BitVec 1) (k : BitVec 3)
  | trap (p : BitVec 2) (n : BitVec 4)
  | eretDiscard (p : BitVec 2) (r : BitVec 1)
  | eretRetry (p : BitVec 2)
  | eretResume (p : BitVec 2)
  | brk (p : BitVec 2) (g : BitVec 8)
  | halt (p : BitVec 2)
  | csrr (p : BitVec 2) (c : BitVec 10) (t : BitVec 9)
  | csrw (p : BitVec 2) (c : BitVec 10)
  | time (p : BitVec 2) (s : BitVec 1) (t : BitVec 9)
  | moncfg (p : BitVec 2)
  | monrd (p : BitVec 2) (i : BitVec 5) (t : BitVec 9)
  | blockFetch (rid : Nat) (core : Nat)
  | blockStart (rid : Nat) (core : Nat)
  | divideResult (rid : Nat) (core : Nat)
  | portPushPerform (rid : Nat) (core : Nat) (k : Nat)
  | blockComplete (rid : Nat) (core : Nat)
  | leaseLookupResult (rid : Nat) (core : Nat) (k : Nat)
  | loadDataReturn (rid : Nat) (core : Nat) (k : Nat)
  | writeAck (rid : Nat) (core : Nat) (k : Nat)
  | drainEntryPerform (rid : Nat) (core : Nat) (k : Nat)
  | orderedCommit (rid : Nat) (uid : Nat)
  | corePick (rid : Nat) (core : Nat)
  | taskLaunch (rid : Nat) (core : Nat)
  | migrationStart (ext : Nat) (tier : Nat) (base : Nat)
  | migrationCommit (ext : Nat)
  | migrationTimeout (ext : Nat)
  | copyComplete (rid : Nat) (core : Nat)
  | copyChunk (rid : Nat) (core : Nat)
  | gatherElement (rid : Nat) (core : Nat)
  | tmoveRow (rid : Nat) (core : Nat)
  | copymMmacPlace (rid : Nat) (core : Nat)
  | queueFenceComplete (rid : Nat) (core : Nat) (uid : Nat)
  | streamStart (rid : Nat) (tile : Nat) (port : Nat) (n : Nat)
  | spatSlotWrite (rid : Nat) (tile : Nat) (port : Nat)
  | sstartComplete (rid : Nat) (tile : Nat) (port : Nat)
  | acceptComplete (rid : Nat) (tile : Nat) (port : Nat)
  | sstopHead (rid : Nat) (tile : Nat) (port : Nat)
  | mmacHead (rid : Nat) (core : Nat)
  | matrixLeaveGrant (rid : Nat) (core : Nat) (die : Nat)
  | matrixAttemptStart (rid : Nat) (core : Nat)
  | decryptTagCheck (rid : Nat) (core : Nat)
  | matrixAttemptEnd (rid : Nat) (core : Nat)
  | minitExecute (rid : Nat) (core : Nat)
  | mdrainExecute (rid : Nat) (core : Nat)
  | mdrainComplete (rid : Nat) (core : Nat)
  | chainValueArrive (rid : Nat) (core : Nat)
  | mgangJoin (rid : Nat) (core : Nat)
  | mgrantGranted (rid : Nat) (core : Nat) (die : Nat)
  | grantBalanceLapse (rid : Nat) (core : Nat) (k : Nat)
  | powerArbiterTick (watts : Nat)
  | balancerSample (rid : Nat)
  | balancerIntervalEnd (rid : Nat)
  | feederInject (lane : Nat)
  | haloSlotPass (lane : Nat) (die : Nat) (ok : Nat)
  | boardArm (rid : Nat) (core : Nat) (k : Nat)
  | captureWrite (rid : Nat) (core : Nat) (k : Nat)
  | boardComplete (rid : Nat) (core : Nat) (k : Nat)
  | rdropHead (rid : Nat) (core : Nat)
  | flitReceive (link : Nat) (ok : Nat)
  | flitCrcReplay (link : Nat)
  | linkRetrain (link : Nat)
  | xsemAddPerform (rid : Nat) (core : Nat)
  | collExecute (rid : Nat) (core : Nat)
  | notify (world : Nat) (tail : Nat)
  | registerWrite (world : Nat) (off : Nat) (value : Nat)
  | pktTask (world : Nat)
  | placeImage (world : Nat)
  | placeRelease (world : Nat)
  | placeFreeze (world : Nat)
  | placeResume (world : Nat)
  | placeSave (world : Nat)
  | placeRestore (world : Nat)
  | boundBlockLimit (rid : Nat)
  | pktBarrier (world : Nat)
  | pktCopy (world : Nat)
  | hostCopyComplete (world : Nat) (k : Nat) (n : Nat)
  | pktSignal (world : Nat)
  | compact (set : Nat)
  | moveCutReached (rid : Nat)
  | cutLimitExpiry (rid : Nat)
  | dieOpChange (die : Nat) (op : Nat)
  | pllRelockDone (die : Nat)
  | dieGate (die : Nat)
  | dieGateDrainDone (die : Nat) (ok : Nat)
  | dieUngate (die : Nat)
  | diePoweredUp (die : Nat)
  | thermalThrottleEnter (die : Nat)
  | thermalThrottleExit (die : Nat)
  | relreq (world : Nat) (n : Nat)
  | keySet (world : Nat) (slot : Nat) (key : Nat) (viaPf : Nat)
  | keyErase (world : Nat) (slot : Nat) (viaPf : Nat)
  | signkeySet (world : Nat) (key : Nat)
  | hbConfig (world : Nat) (period : Nat) (grace : Nat)
  | heartbeat (world : Nat)
  | accept (world : Nat) (exts : List (Nat × Nat))
  | heartbeatTimeout (world : Nat)
  | graceExpiry (world : Nat)
  | spdmNegotiateAlgorithms (world : Nat) (offers : List (Nat × Nat))
  | spdmKeyExchange (world : Nat) (requester : Nat)
  | sessionLoss (world : Nat)
  | lockInterfaceRequest (world : Nat)
  | startInterfaceRequest (world : Nat)
  | stopInterfaceRequest (world : Nat)
  | tdispError (world : Nat)
  | vfEnable (world : Nat)
  | vfDisable (world : Nat)
  | flrVf (world : Nat)
  | flrPf
  | hotReset
  | packageReset
  | periscopeArmDebug (world : Nat) (on : Nat)
  | periscopeHalt (rid : Nat)
  | periscopeResume (rid : Nat)
  | periscopeStep (rid : Nat) (core : Nat)
  | periscopeRead (rid : Nat) (core : Nat) (space : Nat) (addr : Nat)
  | periscopeWrite (rid : Nat) (core : Nat) (space : Nat) (addr : Nat) (value : Nat)
  | switchOverWindow (ext : Nat)
  | leaseExtentRequest (op : Nat) (world : Nat) (tier : Nat) (rights : Nat) (vbase : Nat) (pbase : Nat) (len : Nat)
  | linkRetrainDone (link : Nat)
  | periscopeUnlock (world : Nat)
  | measurementRequest (world : Nat) (index : Nat)
  deriving DecidableEq, Repr

end Sys2Proof
end

