-- ==== Sys2Proof/Machine/State.lean ====
section
/-!
DEFINITION. Sys2Proof/Machine/State.lean: everything the spec gives the machine, as plain data, and the machine right
after package reset. The parts stand in the order of the spec's levels: block, task and core, engines, matrix array,
memory tile, rectangle, Halo, die, world, host registers, and last State itself.
INVENTORY.md's "State" names the rule of each part and its reset value.
-/
namespace Sys2Proof.Machine

/-! ### Blocks (R34 to R54) -/

/-- An operand of a slot: deliveries still expected and the non-null value delivered (R40). -/
structure OpSt where
  left : Nat := 0
  val : Option W64 := none
  deriving DecidableEq, Repr

/-- What became of a slot (R47); `quashing` is decided and has its nulls still to deliver. -/
inductive SlotSt where
  | waiting | fired | quashing | quashed
  deriving DecidableEq, Repr

/-- A push of a block to a port (R42): not yet delivered, delivered and waiting, performed or cancelled by a null. -/
inductive PushSt where
  | undelivered
  | ready (v : W64)
  | past
  deriving DecidableEq, Repr

/-- One producer of a port, by slot (R42). -/
structure PortProd where
  slot : Nat
  port : Nat
  st : PushSt := .undelivered
  deriving DecidableEq, Repr

/-- The choice a fired exit recorded (R81 to R83, R297, R303). -/
inductive Exit where
  | br (target : Nat)
  | call (target : Nat)
  | ret (target : Nat)
  | tend
  | park (target : Nat) (sem : W64) (thresh : BitVec 32) (mask : BitVec 32)
  | tabort (code : BitVec 16)
  | discard (cause : Option (BitVec 64))
  | retry
  | resume (target : W64)
  | halt
  deriving DecidableEq, Repr

/-- The kind of an access, for its checks (R94, R97). -/
inductive Acc where
  | read | write | atomic
  deriving DecidableEq, Repr

/-- A check that the lease lookup has still to answer (R101). -/
structure Lookup where
  slot : Nat
  parts : List (W64 × Nat)
  acc : Acc
  deriving DecidableEq, Repr

/-- Where the data of a load goes when it returns (R112 to R114). -/
inductive LoadDst where
  | scalar (bytes : Nat) (signed : Bool) (t : BitVec 9)
  | vector (v : Nat)
  deriving DecidableEq, Repr

/-- A load whose data has not returned: the bytes asked for and those the task's own stores supply (R107, R111). `unchecked` is set
where its block ended before its lookup was answered (R52, R101). -/
structure Load where
  slot : Nat
  parts : List (W64 × Nat)
  own : List (Option Byte)
  dst : LoadDst
  unchecked : Bool := false
  deriving DecidableEq, Repr

/-- A product that is on its way to its consumers (R49): the slot of its multiply, its value, and the slot that issues as the second of
the same cycle, whose product, if it has one, lands with it. -/
structure Product where
  slot : Nat
  val : W64
  mate : Option Nat
  deriving DecidableEq, Repr

/-- A block that has been fetched and checked (R34 to R54), with the header and the words that the fetch took. `part` lists
the slots whose first half has performed (the commit of a fence, of a SEAL, of an overflow); `fault` is a fault with its address
and slot that waits until they have performed in full (R52); `fp0` is FPFLAGS at the block's start (R174);
`pair` is the dataflow slot that still issues in the present cycle (R48); `products` are those of its multiplies that have not landed,
oldest first (R49). -/
structure BlockRun where
  h : Nat := 0
  n : Nat := 1
  hdr : BitVec 32 := 0
  words : List (BitVec 32) := []
  pair : Option Nat := none
  id : Nat := 0
  slots : List SlotSt := []
  ops : Tab OpSt := []
  regs : Tab W64 := []
  pushes : List PortProd := []
  exit : Option Exit := none
  exitSlot : Nat := 0
  bound : Bool := false
  flags : BitVec 6 := 0
  satcnt : Nat := 0
  csrw : Tab W64 := []
  fp0 : W64 := 0
  inl : Option (BitVec 512) := none
  part : List Nat := []
  lookups : List Lookup := []
  loads : List Load := []
  divide : Option (Nat × W64) := none
  products : List Product := []
  fault : Option (Nat × W64 × Option Nat) := none
  deriving DecidableEq, Repr

/-- What a core is doing between and inside blocks (R43, R45, R149, R157); `parking` is a core whose block has completed with PARK and
whose task waits until it can be parked (R89). -/
inductive Phase where
  | idle
  | launching
  | fetch (target : Nat)
  | ready (b : BlockRun)
  | run (b : BlockRun)
  | parking (target : Nat) (sem : W64) (thresh : BitVec 32) (mask : BitVec 32)
  deriving DecidableEq, Repr

/-! ### Tasks and the commit buffer (R99, R105, R147, R158) -/

/-- A region of global memory: base, bytes, read and write rights (R99, R147). -/
structure Region where
  base : Nat
  len : Nat
  rd : Bool
  wr : Bool
  deriving DecidableEq, Repr

/-- A running, parked or finished task: its number in the model, its record (R147), its stage, how often it was
aborted (R160), whether it writes through (R109). -/
structure Task where
  uid : Nat := 0
  rcd : BitVec 512 := 0
  stage : Nat := 0
  rerun : Nat := 0
  wt : Bool := false
  resumed : Bool := false
  cyc : W64 := 0
  deriving DecidableEq, Repr

/-- What a commit-buffer entry holds (R105). -/
inductive EntKind where
  | line (mask : BitVec 64) (data : BitVec 512)
  | red (op : BitVec 4) (wide : Bool) (v : W64)
  | redf (bf16 : Bool) (v : W64)
  | cellinit (l : W64)
  | spawn (rcd : BitVec 512)
  deriving DecidableEq, Repr

/-- A commit-buffer entry, tagged with its task and the block that created it (R105). -/
structure Entry where
  id : Nat
  task : Nat
  blk : Nat
  addr : W64
  kind : EntKind
  deriving DecidableEq, Repr

/-- A write that has performed and is not yet acknowledged: its number, task and target (R133, R278). A write to host memory or
a peer package is acknowledged at package scope once the I/O die has placed it on the link (R133). -/
structure AckW where
  id : Nat
  task : Nat
  target : Nat
  host : Bool := false
  placed : Bool := false
  deriving DecidableEq, Repr

/-- A drained entry on its way, with the record of its task for error posts and the number of its commit (R108). -/
structure Draining where
  entry : Entry
  rcd : BitVec 512
  commit : Nat
  deriving DecidableEq, Repr

/-- A fence record (R278); `waits` lists target and number of each write still counted. -/
structure FenceRec where
  seq : BitVec 32
  mask : BitVec 5
  task : Nat
  waits : List (Nat × Nat)
  deriving DecidableEq, Repr

/-- A cause reported under R117 that waits for the task's next block start, or to be posted. -/
structure PendCause where
  cause : Nat
  faddr : W64
  task : Nat
  rcd : BitVec 512
  deriving DecidableEq, Repr

/-- One entry of the inline link storage (R153). -/
structure InlineLink where
  exit : Option Exit
  task : Task
  cdepth : Nat
  deriving DecidableEq, Repr

/-! ### Engine commands (R117, R137) -/

/-- What every engine command carries: number, issuing core, task and its record, token, semaphore, and the regions
it is confined to in an ordered task (R53, R99, R232). -/
structure Hdr where
  uid : Nat := 0
  core : Nat := 0
  task : Nat := 0
  rcd : BitVec 512 := 0
  tok : Nat := 0
  sem : Option (Nat × Nat) := none
  conf : Option (List Region) := none
  deriving DecidableEq, Repr

/-- The work of a copy-queue entry (R116, R241 to R244). -/
inductive CopyWork where
  | copy (dst src : W64) (len : Nat)
  | gather (dst src idx : W64) (esize count : Nat)
  | scatter (dst src idx : W64) (esize count : Nat)
  | tmove (dst src : W64) (rows rbytes : Nat) (dpitch spitch : Int)
  | copym (dst src : W64) (len : Nat) (mmac : W64)
  | fence
  deriving DecidableEq, Repr

/-- An entry of a core's copy queue with its progress index (R239, R246) and the extents it pins (R104). -/
structure CopyCmd where
  hdr : Hdr
  work : CopyWork
  started : Bool := false
  prog : Nat := 0
  pins : List Nat := []
  deriving DecidableEq, Repr

/-- An entry of a core's cross-die queue (R282 to R284); `waits` are the writes XSEM waits for (R283). -/
inductive XWork where
  | xsem (die idx : Nat) (delta : BitVec 32)
  | coll (reduce : Bool) (root off count : Nat) (mask : BitVec 4)
  | fence
  deriving DecidableEq, Repr

structure XCmd where
  hdr : Hdr
  work : XWork
  waits : List Nat := []
  deriving DecidableEq, Repr

/-- Where a board stands (R265, R272); `stopped` is STATE 7. -/
inductive BoardSt where
  | queued | armed | capturing | stopped
  deriving DecidableEq, Repr

/-- A tile on the ring: slot control, header, payload (R251 to R253). `good` is false where its feeder could not read it;
`gen` counts bindings of the lane. -/
structure RingTile where
  lane : Nat
  world : Nat
  lap : BitVec 32
  layer : Nat
  nl : Nat
  tidx : Nat
  nt : Nat
  beats : Nat
  aux : Bool
  good : Bool
  gen : Nat
  header : BitVec 512
  payload : List Byte
  feeder : Nat
  deriving DecidableEq, Repr

/-- A board: its destination, its capture so far and its buffer of 8 tiles (R258 to R262). `missedLap` is the lap that its station
was in when it performed, `missed` whether the head of its layer in that lap has passed; `failed` is the cause of a board that
waits for the commands ahead of it to signal (R117, R138). -/
structure Board where
  lane : Nat
  layer : Nat
  tile : Nat
  slot : Nat
  st : BoardSt := .queued
  missedLap : Option (BitVec 32) := none
  missed : Bool := false
  failed : Option (Nat × W64) := none
  lap : BitVec 32 := 0
  walk : Nat := 0
  hdrIx : Nat := 0
  tiles : Nat := 0
  corrupted : Nat := 0
  overrun : Bool := false
  short : Bool := false
  unbound : Bool := false
  ending : Bool := false
  buf : List (RingTile × Nat × Nat) := []
  deriving DecidableEq, Repr

inductive RingWork where
  | board (b : Board)
  | rdrop (tile slot : Nat)
  | fence
  deriving DecidableEq, Repr

structure RingCmd where
  hdr : Hdr
  work : RingWork
  deriving DecidableEq, Repr

/-! ### The matrix array (R194 to R221) -/

/-- The state of one cell (R200). -/
structure MCell where
  psum : BitVec 128 := 0
  sum : BitVec 128 := 0
  peak : Nat := 0
  pnz : Bool := false
  pinv : Bool := false
  ploss : Bool := false
  invalid : Bool := false
  gridloss : Bool := false
  deriving DecidableEq, Repr

/-- The budgets of MBUDGET (R214). -/
structure Budget where
  satb : Nat := 2097151
  undb : Nat := 2097151
  canb : Nat := 131071
  strict : Bool := false
  c : Nat := 127
  deriving DecidableEq, Repr

inductive MWork where
  | minit (e : BitVec 10)
  | mmac (w : W64) (fromCopy : Bool)
  | mdrain (w : W64) (f : BitVec 32)
  | mbudget (b : Budget)
  | mgang (w : W64)
  | mgrant (amount : Nat)
  | fence
  deriving DecidableEq, Repr

structure MCmd where
  hdr : Hdr
  work : MWork
  deriving DecidableEq, Repr

/-- The ladder state of the head operation (R204). -/
inductive Ladder where
  | idle
  | leave (granted : List Nat) (paid : Bool)
  | ready (step : Nat)
  | run (step : Nat) (tagOk : Bool)
  | drained
  | sending (left : Nat)
  deriving DecidableEq, Repr

/-- A grant balance on a die: tile-microseconds left (R217, R353). -/
structure Balance where
  die : Nat
  amount : Nat
  left : Nat
  deriving DecidableEq, Repr

structure MArray where
  e : BitVec 10 := 0
  cells : Tab MCell := []
  ga : Tab (BitVec 32) := []
  gb : Tab (BitVec 32) := []
  budget : Budget := {}
  q : List MCmd := []
  st : Ladder := .idle
  frozenStep : Option Nat := none
  keys : Option (Tab (BitVec 256)) := none
  stat0 : W64 := 0
  stat1 : W64 := 0
  anchor : Option Nat := none
  gw : Nat := 0
  gh : Nat := 0
  balances : List Balance := []
  grantDies : List Nat := []
  deriving DecidableEq, Repr

/-! ### Memory tiles (R222 to R238) -/

/-- STATE of SPROG (R238). -/
inductive SlotPh where
  | empty | loaded | queued | running | completed | cancelled | failed | frozen
  deriving DecidableEq, Repr

/-- A pattern slot: descriptor, state, progress index, whether a command holds it (R223, R238), the number of the most recent
command that used or wrote it, and the record of the most recent board into it with that board's number (R268). -/
structure PSlot where
  desc : BitVec 512 := 0
  st : SlotPh := .empty
  index : Nat := 0
  held : Bool := false
  last : Nat := 0
  board : W64 := 0
  boardUid : Nat := 0
  deriving DecidableEq, Repr

inductive SWork where
  | sstart (slot dtile dslot : Nat)
  | sacc (slot : Nat)
  | sstop (slot : Nat)
  | spat (slot : Nat) (desc : BitVec 512)
  | fence
  deriving DecidableEq, Repr

/-- A command of a stream queue with its progress; `taken` is the index that its gather walk took last, with its number
(R227). -/
structure SCmd where
  hdr : Hdr
  work : SWork
  started : Bool := false
  sent : Nat := 0
  accepted : Nat := 0
  taken : Option (Nat × Nat) := none
  deriving DecidableEq, Repr

/-- A byte that reached a slot and no accept has taken yet, with the command that sent it, and whether it ends its flit
(R235, R236). -/
structure Arrived where
  byte : Byte
  sender : Nat
  last : Bool := true
  deriving DecidableEq, Repr

structure MTile where
  slots : Tab PSlot := []
  ports : Tab (List SCmd) := []
  inbound : Tab (List Arrived) := []
  retained : List (Nat × Nat × Nat) := []
  qbase : Nat := 2097152
  deriving DecidableEq, Repr

/-! ### Rectangles (R13, R144 to R170, R308 to R327) -/

/-- A queue (R145): `resv` lists task number and entries reserved (R163); spill records in order (R154), which for
`spillGlobal` also stand in memory, the n-th ever spilled in place n mod 8 × cap of the area. -/
structure Queue where
  isTask : Bool := false
  tile : Nat := 0
  cap : Nat := 0
  spillGlobal : Bool := false
  spillBase : Nat := 0
  vals : List W64 := []
  recs : List (BitVec 512) := []
  spill : List (BitVec 512) := []
  spilled : Nat := 0
  resv : List (Nat × Nat) := []
  deriving DecidableEq, Repr

/-- A port binding of a stage (R146). -/
structure PortBind where
  port : Nat
  queue : Nat
  pop : Bool
  deriving DecidableEq, Repr

/-- A record waiting to run again (R159, R160). -/
structure ReRec where
  rcd : BitVec 512
  uid : Nat
  rerun : Nat
  deriving DecidableEq, Repr

structure Stage where
  entry : Nat := 0
  queue : Nat := 0
  min : Nat := 1
  max : Nat := 1
  depth : Nat := 0
  ports : List PortBind := []
  regions : List Region := []
  rerun : List ReRec := []
  deriving DecidableEq, Repr

/-- A continuation registered with a sync unit (R89, R90, R165). -/
structure Cont where
  core : Nat
  slot : Nat
  stage : Nat
  idx : Nat
  thresh : BitVec 32
  satisfied : Bool
  seq : Nat
  when : Nat
  task : Task
  deriving DecidableEq, Repr

/-- What a logical die holds for a rectangle (R95, R125, R164, R323). -/
structure LDie where
  dbwin : Nat := 0
  cellwin : Nat := 0
  nsem : Nat := 0
  spillBytes : Nat := 0
  sems : Tab (BitVec 32) := []
  cells : Tab (BitVec 256) := []
  conts : List Cont := []
  deriving DecidableEq, Repr

/-- A record of the commit domain that is outstanding (R136, R158 to R160). -/
structure Outst where
  uid : Nat
  rcd : BitVec 512
  ts : Nat
  stage : Nat
  core : Nat
  rerun : Nat
  started : Bool
  finished : Bool
  order : Nat
  committing : Bool
  reads : List Region
  writes : List Region
  lines : List (Nat × Nat)
  wide : List Nat
  deriving DecidableEq, Repr

structure Domain where
  out : List Outst := []
  hold : List (ReRec × List Nat) := []
  safeMark : Nat := 0
  deriving DecidableEq, Repr, Inhabited

structure Balancer where
  interval : Nat := 64
  h : Nat := 256
  samples : List (List Nat) := []
  move : Option (Nat × Nat) := none
  deriving DecidableEq, Repr, Inhabited

/-- The trap, task and debug CSRs of a core (R84, R150, R173, R219, R292, R302). -/
structure Csrs where
  fpflags : W64 := 0
  cdepth : Nat := 0
  depth : Nat := 0
  depthmax : Nat := 0
  mrepl : Tab (BitVec 32) := []
  cause : Nat := 0
  cause2 : Nat := 0
  faddr : W64 := 0
  fblk : Nat := 0
  fslot : Nat := 0
  fiter : W64 := 0
  hvec : W64 := 0
  bpskip : Bool := false
  matched : Bool := false
  tpend : Bool := false
  dbg : Bool := false
  halted : Bool := false
  cread : Bool := false
  hmode : Bool := false
  bpa : Tab W64 := []
  wpa : Tab W64 := []
  deriving DecidableEq, Repr

structure Core where
  g : Tab W64 := []
  v : Tab Vec := []
  tok : Tab Nat := []
  csr : Csrs := {}
  stage : Option Nat := none
  newStage : Option (Option Nat) := none
  task : Option Task := none
  phase : Phase := .idle
  entries : List Entry := []
  fin : List Task := []
  drain : List Draining := []
  replay : List Draining := []
  acks : List AckW := []
  fences : Tab FenceRec := []
  fseq : BitVec 32 := 0
  deque : List (BitVec 512) := []
  links : List InlineLink := []
  contUsed : List Nat := []
  copyq : List CopyCmd := []
  ringq : List RingCmd := []
  xdieq : List XCmd := []
  arr : MArray := {}
  causes : List PendCause := []
  stepping : Bool := false
  stepped : Bool := false
  vloads : List Load := []
  deriving DecidableEq, Repr

/-- Where a rectangle stands in the procedure of R308; `stuck` is past the bound-block limit (R309). -/
inductive Freeze where
  | running | stopping | stuck | frozen
  deriving DecidableEq, Repr, Inhabited

/-- A queue fence: the queues that hold its entries, the array of the matrix queue, the tile of the stream queues (R244). -/
structure QFence where
  hdr : Hdr
  arr : Nat
  copy : Bool
  matrix : Bool
  ring : Bool
  xdie : Bool
  tile : Nat
  ports : List Nat
  deriving DecidableEq, Repr

structure Rect where
  live : Bool := false
  w : Nat := 1
  h : Nat := 1
  ax : Nat := 0
  ay : Nat := 0
  age : Nat := 0
  seamOk : Bool := true
  dieMap : Tab Nat := []
  freeze : Freeze := .running
  hostStop : Bool := false
  blimit : Nat := 50
  climit : Nat := 1000
  digest : BitVec 512 := 0
  stages : Tab Stage := []
  queues : Tab Queue := []
  cores : Tab Core := []
  tiles : Tab MTile := []
  dies : Tab LDie := []
  dom : Domain := {}
  bal : Balancer := {}
  fences : Tab QFence := []
  deriving DecidableEq, Repr, Inhabited

/-! ### Leases (R100 to R104, R333) -/

/-- A migration in progress: destination, versions at its start, window open (R102). -/
structure Migr where
  tier : Nat
  base : Nat
  versions : List (BitVec 32)
  window : Bool
  deriving DecidableEq, Repr

structure Extent where
  world : Nat
  tier : Nat
  rd : Bool
  wr : Bool
  pins : Nat
  vbase : Nat
  pbase : Nat
  len : Nat
  granted : Bool := false
  mig : Option Migr := none
  leaving : Bool := false
  clean : Bool := false
  deriving DecidableEq, Repr

structure RangeEnt where
  world : Nat
  prot : Bool
  first : Nat
  last : Nat
  deriving DecidableEq, Repr

/-! ### The Halo (R249 to R274) -/

structure Binding where
  world : Nat
  table : W64
  nl : Nat
  unbind : Bool := false
  deriving DecidableEq, Repr

/-- What the station of a die saw of a lane and counted (R267, R269): the last tile, whether it ended its lap, and the layers of
that lap whose heads have passed (R258). -/
structure StationLane where
  seen : Bool := false
  ended : Bool := false
  heads : List Nat := []
  lap : BitVec 32 := 0
  layer : Nat := 0
  tidx : Nat := 0
  age : Nat := 0
  overruns : Nat := 0
  corrupt : Nat := 0
  missed : Nat := 0
  boards : Nat := 0
  deriving DecidableEq, Repr

structure Lane where
  bound : Option Binding := none
  pending : Option Binding := none
  pace : Nat := 0
  period : Nat := 0
  lap : BitVec 32 := 0
  layer : Nat := 0
  tidx : Nat := 0
  entry : Option (W64 × Nat × Nat) := none
  feeder : Nat := 0
  gen : Nat := 0
  ring : List (RingTile × List Nat) := []
  stations : Tab StationLane := []
  deriving DecidableEq, Repr

/-! ### Dies and links (R276, R350 to R354) -/

inductive GateSt where
  | up | draining | gated | powering
  deriving DecidableEq, Repr

/-- A request for leave or for a grant at a die's arbiter: rectangle, core, tiles (R217, R353). -/
structure LeaveReq where
  rid : Nat
  core : Nat
  tiles : Nat
  grant : Bool
  deriving DecidableEq, Repr

structure Die where
  op : Nat := 12
  gate : GateSt := .up
  gateRefused : Bool := false
  pwrReq : Nat := 0
  relock : Bool := false
  throttle : Bool := false
  limit : Nat := 192
  leaves : List LeaveReq := []
  reqs : List LeaveReq := []
  cyc : W64 := 0
  drops : W64 := 0
  seq : Nat := 0
  deriving DecidableEq, Repr

/-- A flit on a link (R12, R275): world tag, virtual channel, payload, and its destination as an offset from its source; the port
it enters by, the command that owns it, and how often its CRC has failed (R276). -/
structure Flit where
  world : Nat
  vc : Nat := 0
  dx : Int := 0
  dy : Int := 0
  payload : List Byte := []
  srcX : Nat
  srcY : Nat
  dieNet : Bool
  port : Nat
  enterX : Nat
  enterY : Nat
  owner : Option (Nat × Nat)
  fails : Nat := 0
  deriving DecidableEq, Repr

/-- A link in one direction with the flits its sender keeps until they are taken, oldest first (R12, R276): 0 to 3 are the seams,
4 to 7 the links of the dies to the I/O die, 8 to 15 the peer ports, and higher numbers the links between tiles. -/
structure Link where
  flits : List Flit := []
  retraining : Bool := false
  retrains : Nat := 0
  deriving DecidableEq, Repr

/-- A performance monitor (R306, R307); `ldie` is the logical die it serves after a move (R326). -/
structure Monitor where
  src : Nat := 0
  sel : Nat := 0
  period : Nat := 0
  edges : List (BitVec 32) := []
  min : BitVec 32 := 0
  max : BitVec 32 := 0
  count : BitVec 32 := 0
  bins : List (BitVec 32) := []
  sum : W64 := 0
  ldie : Option Nat := none
  deriving DecidableEq, Repr

/-! ### Worlds and the host (R329 to R347) -/

inductive WState where
  | disabled | opened | locked | run | frozen
  deriving DecidableEq, Repr

/-- A packet taken and outstanding (R345, R347). -/
inductive PktWork where
  | barrier (rect : Nat) (conds : List (Nat × Nat × BitVec 32)) (hold : Bool)
  | copy (rect : Nat) (dst src : W64) (len : Nat) (sem : Option (Nat × Nat)) (prog : Nat) (checked : Bool)
  deriving DecidableEq, Repr

structure Pkt where
  id : Nat
  work : PktWork
  irq : Option Nat
  deriving DecidableEq, Repr

/-- A PLACE Freeze that has started and not ended: rectangle slot, RESADDR, vector (R346), and the result once it is decided while it
cannot be written yet (R103). -/
structure Placing where
  slot : Nat
  res : W64
  irq : Option Nat
  result : Option Nat := none
  deriving DecidableEq, Repr

structure World where
  st : WState := .disabled
  session : Bool := false
  requester : Nat := 0
  lockKey : Nat := 0
  renewed : Bool := false
  keys : Tab (BitVec 256) := []
  signKey : Option (BitVec 20736) := none
  memKey : Option (BitVec 256) := none
  ctxKey : Option (BitVec 256) := none
  period : Nat := 2
  grace : Nat := 10
  newPeriod : Nat := 2
  newGrace : Nat := 10
  lqbase : W64 := 0
  lqsize : Nat := 0
  lqtail : BitVec 32 := 0
  lqhead : BitVec 32 := 0
  eqbase : W64 := 0
  eqsize : Nat := 0
  eqtail : BitVec 32 := 0
  eqhead : BitVec 32 := 0
  eqvec : BitVec 8 := 0
  relcnt : BitVec 32 := 0
  relpend : Bool := false
  relheld : BitVec 32 := 0
  lost : Nat := 0
  pkts : List Pkt := []
  unlocked : Bool := false
  armed : Bool := false
  keyResp : List (Nat × List Nat) := []
  negotiated : Bool := false
  placing : Option Placing := none
  deriving DecidableEq, Repr

/-- An output of the machine that only the outside world reads (R314, R330, R336). -/
inductive Out where
  | irq (fn vec : Nat)
  | spdm (world : Nat) (words : List Nat)
  | periscope (words : List Nat)
  | report (rid : Nat) (words : List Nat)
  | refused (world vbase : Nat)
  | freed (tier first n : Nat)
  deriving DecidableEq, Repr

/-- The registers of the physical function at 0x800 onward that no other part holds (R351). -/
structure HostRegs where
  pwrcap : Nat := 3600
  pwrnow : Nat := 0
  therm : BitVec 4 := 0
  compMoved : Nat := 0
  compAband : Nat := 0
  compDone : Bool := false
  deriving DecidableEq, Repr

/-- The compaction pass in progress: rectangles still to visit, die set (R324). -/
structure Pass where
  todo : List Nat := []
  dies : BitVec 4 := 0
  moving : Option (Nat × Nat × Nat) := none
  deriving DecidableEq, Repr

/-! ### The model's own bookkeeping -/

/-- Which rectangle, core and slot an instruction row acts on. -/
structure Cursor where
  rid : Nat := 0
  core : Nat := 0
  slot : Nat := 0
  deriving DecidableEq, Repr

/-- What the environment or an independent unit does next: an event, or a core issues the instruction of a slot. -/
inductive Sched where
  | event (i : Instr)
  | issue (rid core slot : Nat)
  deriving DecidableEq, Repr

/-- What a context image holds of a rectangle (R311): its state, the bytes of its scratchpads, memory tiles and windows by
kind and place, and its monitors by logical die. -/
structure Snapshot where
  rect : Rect := {}
  cells : List (Nat × Nat × Byte) := []
  mons : List (Nat × List Monitor) := []
  deriving DecidableEq, Repr, Inhabited

/-- A context image this machine wrote, before any sealing, beside its bytes: restoring the bytes restores what they hold
(R312). -/
structure Saved where
  bytes : List Byte
  shot : Snapshot
  deriving DecidableEq, Repr

/-- Silicon revision (R2). -/
inductive Rev where
  | a0 | b0
  deriving DecidableEq, Repr

/-- Product form (R1). -/
inductive Form where
  | package | module | bareDies
  deriving DecidableEq, Repr

/-- The whole machine. -/
structure State where
  cur : Cursor := {}
  agenda : List Sched := []
  free : Nat := 0
  nextId : Nat := 1
  rev : Rev := .a0
  form : Form := .module
  ns : W64 := 0
  mem : List Host.Cell := []
  bad : List Nat := []
  poison : List Nat := []
  rects : Tab Rect := []
  worlds : Tab World := []
  extents : Tab Extent := []
  versions : Tab (BitVec 32) := []
  ranges : Tab (List RangeEnt) := []
  lanes : Tab Lane := []
  dies : Tab Die := []
  links : Tab Link := []
  monAlloc : Tab (BitVec 11) := []
  monitors : Tab Monitor := []
  host : HostRegs := {}
  pass : Pass := {}
  turn : Nat := 0
  outs : List Out := []
  saved : List Saved := []
  deriving DecidableEq, Repr

/-- R6: a use of the device has a stated result or a stated cause code, so the machine itself never stops: no
meaning and no step raises a fault, and the type has no constructor. -/
inductive Fault where
  deriving DecidableEq, Repr

/-- Why a step has no meaning. -/
inductive Refusal where
  /-- Raised by exec alone, in an arm whose instruction is not modelled yet; safe: nothing is claimed of it. -/
  | notModelled (mnemonic : String)
  deriving DecidableEq, Repr

/-- The machine right after package reset: every counter, register and table entry at the value of its field's
default, world 0 open (R329, R340, R343, R351). -/
def State.reset : State :=
  { worlds := [(0, { st := .opened })] }

end Sys2Proof.Machine
end

