-- ==== Sys2Proof/Config.lean ====
section
/-!
DEFINITION. Sys2Proof/Config.lean: what a part of this machine fixes or the spec leaves open. An opaque constant has
no value in Lean: whatever is proved of it holds for every value.
-/
namespace Sys2Proof.Config

/-- Nanoseconds that pass before the n-th reading of the package time (R305: the rate of steps is not given). -/
opaque elapsed : Nat → Nat

/-- Die cycles that pass before the n-th reading of a die's cycle count (R305). -/
opaque cycles : Nat → Nat

/-- The samples of HBM latency, temperature or droop that a configured monitor took before the n-th look at it (R306). -/
opaque monSamples : Nat → List Nat

/-- How many sample periods of a monitor passed before the n-th look at its queue (R306). -/
opaque monTimes : Nat → Nat → Nat

/-- The die cycles of the n-th event that a monitor counts (R306). -/
opaque latency : Nat → Nat → Nat

/-- What the n-th seam crossing of an operand stream takes: R12 gives 4 ns and 2 to 7 cycles of the receiving die, of which
remainder 0 to 5 of this number picks one. -/
opaque crossing : Nat → Nat

/-- What an attempt that an error ended early took of a balance, in parts of a tile-microsecond, at most its whole cost (R217 gives
no figure). -/
opaque endedCost : Nat → Nat

/-- Bytes that the operand streams of a running attempt have sent when they are looked at, at most the stream (R238: a progress
index, whose rate of rise is timing). -/
opaque bytesSent : Nat → Nat

/-- The CRC-16 of a flit over its payload and bits [47:16] of its sideband (R275 gives no polynomial). -/
opaque crc16 : List (BitVec 8) → BitVec 32 → BitVec 16

/-- KIND of the n-th tile whose record its feeder could not read (R250 leaves it open). -/
opaque unreadKind : Nat → Bool

/-- PWRFLOOR, from the operating points and the gated dies: fused figures of the part (R351). -/
opaque powerFloor : List (Nat × Bool) → Nat

/-- A key the root of trust generates: the n-th (R335). -/
opaque freshKey : Nat → BitVec 256

/-- The 12-byte IV of the n-th sealed context image (R335). -/
opaque sealIv : Nat → BitVec 96

/-- The n-th result word of a context command whose result the spec does not state (R346). -/
opaque openResult : Nat → Nat

/-- Words of 8 bytes in the body of a context section, by ID, for windows and semaphores of a size: R311 names what a body
holds and lays out none but SCRATCH, WATCH and MONX. -/
opaque bodyWords : Nat → Nat → Nat → Nat → Nat

/-- Byte i of the n-th body of a context section that the spec does not lay out (R311). -/
opaque bodyByte : Nat → Nat → BitVec 8

/-- What an image that this machine did not write holds: R311 does not lay its bodies out. -/
opaque foreignShot : List Byte → Machine.Snapshot

/-- SHA3-512 of bytes, as FIPS 202 gives it (R319, R336). -/
opaque sha3_512 : List Byte → BitVec 512

/-- Whether a public key accepts a signature over a digest under ML-DSA-87, as FIPS 204 gives it (R320, R336). -/
opaque mldsaAccepts : BitVec 20736 → BitVec 512 → List Byte → Bool

/-- The public key of the image signer that the device's firmware trusts for world 0 (R320). -/
opaque firmwareSigner : BitVec 20736

/-- The firmware that the device holds, with its signature, and the public key of its root of trust that checks it (R336). -/
opaque firmware : List (BitVec 8)
opaque firmwareSignature : List (BitVec 8)
opaque rootKey : BitVec 20736

/-- What the device signs over a list of words (R336). -/
opaque deviceSignature : List Nat → Nat

/-- The device's fuses as measurement block 4 takes them (R336): the spec does not lay them out. -/
opaque fuses : Nat

/-- The device's SHA3-512 measurement of a block, by index, from what of the block the state holds: R336 does not lay the
blocks out. -/
opaque measurement : Nat → List Nat → Nat

/-- Granules of 2 MiB in one HBM4E stack of 48 GB (R16, R377): 48 × 10^9 bytes hold 22,888 whole granules. -/
def stackGranules : Nat := 22888

/-- Granules of 2 MiB in a tier 2 of 1024 GB (R17, R377): 1,024 × 10^9 bytes hold 488,281 whole granules. -/
def tier2Granules : Nat := 488281

/-- Granules of the CXL 3.x memory that the system attaches to a TY8240-P, of which it addresses up to 1,024 GB (R17, R20). -/
opaque attachedGranules : Nat

/-- Granules of the tier 2 that the integrator's package provides for a TY8240-D (R1). -/
opaque integratorGranules : Nat

/-- Wenrel's default handler: one block of one slot, ERET discard (R321, R373). -/
def defaultHandler : List (BitVec 32) := [0xE0000000, 0xF80801FF]

end Sys2Proof.Config
end

