-- ==== Sys2Proof/Machine/Tab.lean ====
section
/-!
DEFINITION. Sys2Proof/Machine/Tab.lean: reading and changing the sparse tables of the state, and byte-order helpers.
-/
namespace Sys2Proof.Machine

/-- The entry of a number, if it is listed. -/
def tfind {α : Type} : Tab α → Nat → Option α
  | [], _ => none
  | (j, x) :: t, k => if j = k then some x else tfind t k

/-- The entry of a number, with a default. -/
def tget {α : Type} (d : α) (t : Tab α) (k : Nat) : α := (tfind t k).getD d

/-- Set the entry of a number, keeping numbers rising. -/
def tset {α : Type} : Tab α → Nat → α → Tab α
  | [], k, v => [(k, v)]
  | (j, x) :: t, k, v =>
    if k < j then (k, v) :: (j, x) :: t
    else if k = j then (k, v) :: t
    else (j, x) :: tset t k v

/-- Drop the entry of a number. -/
def tdel {α : Type} : Tab α → Nat → Tab α
  | [], _ => []
  | (j, x) :: t, k => if j = k then tdel t k else (j, x) :: tdel t k

/-- Change the entry of a number. -/
def tmod {α : Type} (d : α) (t : Tab α) (k : Nat) (f : α → α) : Tab α := tset t k (f (tget d t k))

/-- Remove the k-th element of a list. -/
def dropAt {α : Type} : List α → Nat → List α
  | [], _ => []
  | _ :: l, 0 => l
  | x :: l, k + 1 => x :: dropAt l k

/-- Change the k-th element of a list. -/
def modAt {α : Type} : List α → Nat → (α → α) → List α
  | [], _, _ => []
  | x :: l, 0, f => f x :: l
  | x :: l, k + 1, f => x :: modAt l k f

/-- The first element that satisfies a test, with its place. -/
def findIx {α : Type} (p : α → Bool) : List α → Option (Nat × α)
  | [] => none
  | x :: l => if p x then some (0, x) else (findIx p l).map fun r => (r.1 + 1, r.2)

/-- Fold over a list with an early stop: the first error ends it. -/
def foldE {α β ε : Type} (f : β → α → Except ε β) : β → List α → Except ε β
  | b, [] => .ok b
  | b, x :: l =>
    match f b x with
    | .ok b' => foldE f b' l
    | .error e => .error e

/-- n bytes of a number, little-endian (R4). -/
def bytesOf : Nat → Nat → List Byte
  | 0, _ => []
  | n + 1, v => BitVec.ofNat 8 v :: bytesOf n (v / 256)

/-- The number of bytes in little-endian order (R4). -/
def natOf : List Byte → Nat
  | [] => 0
  | b :: l => b.toNat + 256 * natOf l

/-- Bits hi down to lo of a number. -/
def bitsOf (v hi lo : Nat) : Nat := v / 2 ^ lo % 2 ^ (hi - lo + 1)

/-- A number read as n-bit two's complement (R33, sign_extend). -/
def sext (n v : Nat) : Int := if v % 2 ^ n < 2 ^ (n - 1) then (v % 2 ^ n : Nat) else (v % 2 ^ n : Nat) - (2 ^ n : Nat)

/-- An integer as an n-bit pattern (R33, wrap). -/
def wrap (n : Nat) (x : Int) : Nat := (x % (2 ^ n : Nat)).toNat

end Sys2Proof.Machine
end

