-- ==== Sys2Proof/Machine/Mem.lean ====
section
/-!
DEFINITION. Sys2Proof/Machine/Mem.lean: the bytes of the machine. Every byte a program or the host can address has one
home (R131); a home has one key in the list of bytes. The list holds its keys rising and no zero byte, because a byte
nothing has written reads 0 (assumption log 4).
-/
namespace Sys2Proof.Machine

/-- The home of a byte (R131, R377): a physical byte of a tier, a scratchpad, a memory tile, a die-buffer window,
an instruction store. -/
inductive Place where
  | glob (tier addr : Nat)
  | scr (rid core off : Nat)
  | mt (rid tile off : Nat)
  | db (rid die off : Nat)
  | ist (rid core off : Nat)
  deriving DecidableEq, Repr

/-- The key of a home in the list of bytes. -/
def Place.key : Place → Nat
  | .glob tier a => tier * 2 ^ 66 + a
  | .scr rid c off => 2 ^ 70 + (rid * 256 + c) * 2 ^ 18 + off
  | .mt rid t off => 2 ^ 71 + (rid * 512 + t) * 2 ^ 21 + off
  | .db rid d off => 2 ^ 72 + (rid * 4 + d) * 2 ^ 26 + off
  | .ist rid c off => 2 ^ 73 + (rid * 256 + c) * 2 ^ 16 + off

/-- The byte at a key. -/
def cellAt : List Host.Cell → Nat → Byte
  | [], _ => 0
  | (j, b) :: m, k => if j = k then b else cellAt m k

/-- Write a byte: a zero byte is not listed. -/
def cellSet : List Host.Cell → Nat → Byte → List Host.Cell
  | [], k, b => if b = 0 then [] else [(k, b)]
  | (j, c) :: m, k, b =>
    if k < j then (if b = 0 then (j, c) :: m else (k, b) :: (j, c) :: m)
    else if k = j then (if b = 0 then m else (k, b) :: m)
    else (j, c) :: cellSet m k b

/-- Every key of the list lies above lo. -/
def above (lo : Nat) : List Host.Cell → Bool
  | [] => true
  | (j, _) :: m => decide (lo < j) && above lo m

/-- The canonical form: keys rising, no byte that an unlisted key reads as. -/
def memWf : List Host.Cell → Bool
  | [] => true
  | (j, b) :: m => decide (b ≠ 0) && above j m && memWf m

/-- The canonical form of a state's memory. -/
abbrev Memory.wf (s : State) : Bool := memWf s.mem

/-- The byte at a key of a state. -/
def readKey (s : State) (k : Nat) : Byte := cellAt s.mem k

/-- n bytes from a key up. -/
def readKeys (s : State) (k : Nat) : Nat → List Byte
  | 0 => []
  | n + 1 => readKey s k :: readKeys s (k + 1) n

/-- Write a byte at a key; a write gives the byte fresh ECC and data that is not poisoned (R98). -/
def writeKey (s : State) (k : Nat) (b : Byte) : State :=
  { s with mem := cellSet s.mem k b, bad := s.bad.filter (· != k), poison := s.poison.filter (· != k) }

/-- Write bytes from a key up. -/
def writeKeys (s : State) (k : Nat) : List Byte → State
  | [] => s
  | b :: l => writeKeys (writeKey s k b) (k + 1) l

/-- The bytes of a number of n bytes at a home (R4). -/
def writeNat (s : State) (k n v : Nat) : State := writeKeys s k (bytesOf n v)

/-- The number in n bytes at a key (R4). -/
def readNat (s : State) (k n : Nat) : Nat := natOf (readKeys s k n)

/-- Scrub the bytes of a range of keys to zero (R321, R339). -/
def scrub (s : State) (lo hi : Nat) : State :=
  { s with mem := s.mem.filter (fun c => decide (c.1 < lo) || decide (hi ≤ c.1)),
           bad := s.bad.filter (fun k => decide (k < lo) || decide (hi ≤ k)),
           poison := s.poison.filter (fun k => decide (k < lo) || decide (hi ≤ k)) }

/-- Whether some byte of a range holds an uncorrectable error (R98). -/
def badIn (s : State) (k n : Nat) : Bool := s.bad.any fun j => decide (k ≤ j) && decide (j < k + n)

/-- Some byte of a range is poisoned (R98). -/
def poisonIn (s : State) (k n : Nat) : Bool := s.poison.any fun j => decide (k ≤ j) && decide (j < k + n)

/-- The cause that reading a range of bytes at their home meets: an uncorrectable error, then poison (R98). -/
def dataError (s : State) (k n : Nat) : Option Nat :=
  if badIn s k n then some 0x081 else if poisonIn s k n then some 0x082 else none

/-- The key of a cell for its data errors: cells stand beside the die buffer, apart from the bytes (R125, R131). -/
def cellKey (rid die ix : Nat) : Nat := 2 ^ 74 + (rid * 4 + die) * 2 ^ 22 + ix

/-- An instruction word of a core's store (R34). -/
def storeWord (s : State) (rid c w : Nat) : BitVec 32 :=
  BitVec.ofNat 32 (readNat s (Place.key (.ist rid c (4 * w))) 4)

end Sys2Proof.Machine
end

