-- ==== Sys2Proof/Decode.lean ====
section
/-!
DEFINITION. Sys2Proof/Decode.lean: from a word to the instruction it encodes and back (R55 to R61), and the target codes of R38.

decodeRow reads the row of the opcode table that a word belongs to; decode also refuses a word whose fields hold a
value the instruction does not allow, by the cause R60 and R61 report. encode is written from the same tables.
-/
namespace Sys2Proof

/-! ### Targets (R38) -/

/-- A consumer named by a target field. -/
inductive Target where
  | left (slot : Nat)
  | right (slot : Nat)
  | predicate (slot : Nat)
  | reg (n : Nat)
  | port (n : Nat)
  | none
  | illegal
  deriving DecidableEq, Repr

/-- R38: the code is 8n + k. -/
def target (t : BitVec 9) : Target :=
  let n := t.toNat / 8
  match t.toNat % 8 with
  | 0 => .left n
  | 1 => .right n
  | 2 => .predicate n
  | 3 => .reg n
  | 4 => if n = 63 then .illegal else .port n
  | 7 => if n = 63 then .none else .illegal
  | _ => .illegal

/-! ### Which words belong to which row -/

/-- Detail 2 of R61 when a field that must be zero is not. -/
def z {n : Nat} (x : BitVec n) : List Nat := if x = 0 then [] else [2]

/-- Details of R61 when format S names a target where the instruction delivers nothing: 6, and 5 when the code is no target at
all. -/
def noTarget (w : BitVec 32) : List Nat :=
  if w.extractLsb' 0 9 = 0x1FF#9 then [] else if target (w.extractLsb' 0 9) = .illegal then [5, 6] else [6]

/-- Detail 7 of R61 when VMOV or VZERO holds a type code other than 0 (R185). -/
def codeZero (w : BitVec 32) : List Nat := if w.extractLsb' 0 4 = 0#4 then [] else [7]

/-- The words of opcode 0x00, told apart by their xop, fn or kind (R58, R59). -/
def decode00 (w : BitVec 32) : Except Nat (Instr × List Nat) :=
  match (w.extractLsb' 0 5).toNat with
  | 0 => .ok (.add (w.extractLsb' 23 2) (w.extractLsb' 14 9) (w.extractLsb' 5 9), [])
  | 1 => .ok (.sub (w.extractLsb' 23 2) (w.extractLsb' 14 9) (w.extractLsb' 5 9), [])
  | 2 => .ok (.mul (w.extractLsb' 23 2) (w.extractLsb' 14 9) (w.extractLsb' 5 9), [])
  | 3 => .ok (.mulh (w.extractLsb' 23 2) (w.extractLsb' 14 9) (w.extractLsb' 5 9), [])
  | 4 => .ok (.mulhz (w.extractLsb' 23 2) (w.extractLsb' 14 9) (w.extractLsb' 5 9), [])
  | 5 => .ok (.div (w.extractLsb' 23 2) (w.extractLsb' 14 9) (w.extractLsb' 5 9), [])
  | 6 => .ok (.divz (w.extractLsb' 23 2) (w.extractLsb' 14 9) (w.extractLsb' 5 9), [])
  | 7 => .ok (.rem (w.extractLsb' 23 2) (w.extractLsb' 14 9) (w.extractLsb' 5 9), [])
  | 8 => .ok (.remz (w.extractLsb' 23 2) (w.extractLsb' 14 9) (w.extractLsb' 5 9), [])
  | 9 => .ok (.and (w.extractLsb' 23 2) (w.extractLsb' 14 9) (w.extractLsb' 5 9), [])
  | 10 => .ok (.or (w.extractLsb' 23 2) (w.extractLsb' 14 9) (w.extractLsb' 5 9), [])
  | 11 => .ok (.xor (w.extractLsb' 23 2) (w.extractLsb' 14 9) (w.extractLsb' 5 9), [])
  | 12 => .ok (.andn (w.extractLsb' 23 2) (w.extractLsb' 14 9) (w.extractLsb' 5 9), [])
  | 13 => .ok (.orn (w.extractLsb' 23 2) (w.extractLsb' 14 9) (w.extractLsb' 5 9), [])
  | 14 => .ok (.shl (w.extractLsb' 23 2) (w.extractLsb' 14 9) (w.extractLsb' 5 9), [])
  | 15 => .ok (.shr (w.extractLsb' 23 2) (w.extractLsb' 14 9) (w.extractLsb' 5 9), [])
  | 16 => .ok (.sar (w.extractLsb' 23 2) (w.extractLsb' 14 9) (w.extractLsb' 5 9), [])
  | 17 => .ok (.ror (w.extractLsb' 23 2) (w.extractLsb' 14 9) (w.extractLsb' 5 9), [])
  | 18 => .ok (.min (w.extractLsb' 23 2) (w.extractLsb' 14 9) (w.extractLsb' 5 9), [])
  | 19 => .ok (.max (w.extractLsb' 23 2) (w.extractLsb' 14 9) (w.extractLsb' 5 9), [])
  | 20 => .ok (.minz (w.extractLsb' 23 2) (w.extractLsb' 14 9) (w.extractLsb' 5 9), [])
  | 21 => .ok (.maxz (w.extractLsb' 23 2) (w.extractLsb' 14 9) (w.extractLsb' 5 9), [])
  | 22 => .ok (.mov (w.extractLsb' 23 2) (w.extractLsb' 14 9) (w.extractLsb' 5 9), [])
  | 23 => .ok (.clz (w.extractLsb' 23 2) (w.extractLsb' 14 9) (w.extractLsb' 5 9), [])
  | 24 => .ok (.ctz (w.extractLsb' 23 2) (w.extractLsb' 14 9) (w.extractLsb' 5 9), [])
  | 25 => .ok (.popc (w.extractLsb' 23 2) (w.extractLsb' 14 9) (w.extractLsb' 5 9), [])
  | 26 => .ok (.brev (w.extractLsb' 23 2) (w.extractLsb' 14 9) (w.extractLsb' 5 9), [])
  | _ => .error 1

/-- The words of opcode 0x01, told apart by their xop, fn or kind (R58, R59). -/
def decode01 (w : BitVec 32) : Except Nat (Instr × List Nat) :=
  match (w.extractLsb' 0 5).toNat with
  | 0 => .ok (.ceq (w.extractLsb' 23 2) (w.extractLsb' 14 9) (w.extractLsb' 5 9), [])
  | 1 => .ok (.cne (w.extractLsb' 23 2) (w.extractLsb' 14 9) (w.extractLsb' 5 9), [])
  | 2 => .ok (.clt (w.extractLsb' 23 2) (w.extractLsb' 14 9) (w.extractLsb' 5 9), [])
  | 3 => .ok (.cle (w.extractLsb' 23 2) (w.extractLsb' 14 9) (w.extractLsb' 5 9), [])
  | 4 => .ok (.cltz (w.extractLsb' 23 2) (w.extractLsb' 14 9) (w.extractLsb' 5 9), [])
  | 5 => .ok (.clez (w.extractLsb' 23 2) (w.extractLsb' 14 9) (w.extractLsb' 5 9), [])
  | _ => .error 1

/-- The words of opcode 0x33, told apart by their xop, fn or kind (R58, R59). -/
def decode33 (w : BitVec 32) : Except Nat (Instr × List Nat) :=
  match (w.extractLsb' 0 5).toNat with
  | 0 => .ok (.null (w.extractLsb' 23 2) (w.extractLsb' 14 9) (w.extractLsb' 5 9), [])
  | _ => .error 1

/-- The words of opcode 0x38, told apart by their xop, fn or kind (R58, R59). -/
def decode38 (w : BitVec 32) : Except Nat (Instr × List Nat) :=
  match (w.extractLsb' 22 3).toNat with
  | 0 => .ok (.br (w.extractLsb' 20 2) (w.extractLsb' 0 20), [])
  | 1 => .ok (.bri (w.extractLsb' 20 2), z (w.extractLsb' 0 20))
  | 2 => .ok (.call (w.extractLsb' 20 2) (w.extractLsb' 0 20), [])
  | 3 => .ok (.calli (w.extractLsb' 20 2), z (w.extractLsb' 0 20))
  | 4 => .ok (.ret (w.extractLsb' 20 2), z (w.extractLsb' 0 20))
  | 5 => .ok (.tend (w.extractLsb' 20 2), z (w.extractLsb' 0 20))
  | 6 => .ok (.park (w.extractLsb' 20 2) (w.extractLsb' 0 20), [])
  | _ => .ok (.tabort (w.extractLsb' 20 2), z (w.extractLsb' 0 20))

/-- The words of opcode 0x42, told apart by their xop, fn or kind (R58, R59). -/
def decode42 (w : BitVec 32) : Except Nat (Instr × List Nat) :=
  match (w.extractLsb' 19 4).toNat with
  | 0 => .ok (.ldv (w.extractLsb' 23 2) (w.extractLsb' 14 5) (w.extractLsb' 9 5), noTarget w)
  | _ => .error 1

/-- The words of opcode 0x43, told apart by their xop, fn or kind (R58, R59). -/
def decode43 (w : BitVec 32) : Except Nat (Instr × List Nat) :=
  match (w.extractLsb' 19 4).toNat with
  | 0 => .ok (.stv (w.extractLsb' 23 2) (w.extractLsb' 14 5) (w.extractLsb' 9 5), noTarget w)
  | _ => .error 1

/-- The words of opcode 0x46, told apart by their xop, fn or kind (R58, R59). -/
def decode46 (w : BitVec 32) : Except Nat (Instr × List Nat) :=
  match (w.extractLsb' 19 4).toNat with
  | 0 => .ok (.vgather (w.extractLsb' 23 2) (w.extractLsb' 13 2) (w.extractLsb' 12 1) (w.extractLsb' 9 3), z (w.extractLsb' 15 4) ++ noTarget w)
  | _ => .error 1

/-- The words of opcode 0x47, told apart by their xop, fn or kind (R58, R59). -/
def decode47 (w : BitVec 32) : Except Nat (Instr × List Nat) :=
  match (w.extractLsb' 19 4).toNat with
  | 0 => .ok (.vscatter (w.extractLsb' 23 2) (w.extractLsb' 13 2) (w.extractLsb' 12 1) (w.extractLsb' 9 3), z (w.extractLsb' 15 4) ++ noTarget w)
  | _ => .error 1

/-- The words of opcode 0x48, told apart by their xop, fn or kind (R58, R59). -/
def decode48 (w : BitVec 32) : Except Nat (Instr × List Nat) :=
  match (w.extractLsb' 19 4).toNat with
  | 0 => .ok (.cmt (w.extractLsb' 23 2), z (w.extractLsb' 9 10) ++ noTarget w)
  | _ => .error 1

/-- The words of opcode 0x49, told apart by their xop, fn or kind (R58, R59). -/
def decode49 (w : BitVec 32) : Except Nat (Instr × List Nat) :=
  match (w.extractLsb' 19 4).toNat with
  | 0 => .ok (.seal (w.extractLsb' 23 2), z (w.extractLsb' 9 10) ++ noTarget w)
  | _ => .error 1

/-- The words of opcode 0x4A, told apart by their xop, fn or kind (R58, R59). -/
def decode4A (w : BitVec 32) : Except Nat (Instr × List Nat) :=
  match (w.extractLsb' 19 4).toNat with
  | 0 => .ok (.fenceAcq (w.extractLsb' 23 2) (w.extractLsb' 9 3), z (w.extractLsb' 12 7) ++ noTarget w)
  | 1 => .ok (.fenceRel (w.extractLsb' 23 2) (w.extractLsb' 9 3), z (w.extractLsb' 12 7) ++ noTarget w)
  | 2 => .ok (.fenceSc (w.extractLsb' 23 2) (w.extractLsb' 9 3), z (w.extractLsb' 12 7) ++ noTarget w)
  | _ => .error 1

/-- The words of opcode 0x4B, told apart by their xop, fn or kind (R58, R59). -/
def decode4B (w : BitVec 32) : Except Nat (Instr × List Nat) :=
  match (w.extractLsb' 19 4).toNat with
  | 0 => .ok (.lprobe (w.extractLsb' 23 2) (w.extractLsb' 0 9), z (w.extractLsb' 9 10))
  | _ => .error 1

/-- The words of opcode 0x51, told apart by their xop, fn or kind (R58, R59). -/
def decode51 (w : BitVec 32) : Except Nat (Instr × List Nat) :=
  match (w.extractLsb' 19 4).toNat with
  | 0 => .ok (.cas (w.extractLsb' 23 2) (w.extractLsb' 9 1) (w.extractLsb' 0 9), z (w.extractLsb' 10 9))
  | _ => .error 1

/-- The words of opcode 0x54, told apart by their xop, fn or kind (R58, R59). -/
def decode54 (w : BitVec 32) : Except Nat (Instr × List Nat) :=
  match (w.extractLsb' 19 4).toNat with
  | 0 => .ok (.cellinit (w.extractLsb' 23 2), z (w.extractLsb' 9 10) ++ noTarget w)
  | _ => .error 1

/-- The words of opcode 0x55, told apart by their xop, fn or kind (R58, R59). -/
def decode55 (w : BitVec 32) : Except Nat (Instr × List Nat) :=
  match (w.extractLsb' 19 4).toNat with
  | 0 => .ok (.cellrd (w.extractLsb' 23 2) (w.extractLsb' 0 9), z (w.extractLsb' 9 10))
  | _ => .error 1

/-- The words of opcode 0x58, told apart by their xop, fn or kind (R58, R59). -/
def decode58 (w : BitVec 32) : Except Nat (Instr × List Nat) :=
  match (w.extractLsb' 19 4).toNat with
  | 0 => .ok (.spawn (w.extractLsb' 23 2) (w.extractLsb' 0 9), z (w.extractLsb' 9 10))
  | _ => .error 1

/-- The words of opcode 0x59, told apart by their xop, fn or kind (R58, R59). -/
def decode59 (w : BitVec 32) : Except Nat (Instr × List Nat) :=
  match (w.extractLsb' 19 4).toNat with
  | 0 => .ok (.dqpush (w.extractLsb' 23 2) (w.extractLsb' 0 9), z (w.extractLsb' 9 10))
  | _ => .error 1

/-- The words of opcode 0x5A, told apart by their xop, fn or kind (R58, R59). -/
def decode5A (w : BitVec 32) : Except Nat (Instr × List Nat) :=
  match (w.extractLsb' 19 4).toNat with
  | 0 => .ok (.dqpop (w.extractLsb' 23 2) (w.extractLsb' 0 9), z (w.extractLsb' 9 10))
  | _ => .error 1

/-- The words of opcode 0x5B, told apart by their xop, fn or kind (R58, R59). -/
def decode5B (w : BitVec 32) : Except Nat (Instr × List Nat) :=
  match (w.extractLsb' 19 4).toNat with
  | 0 => .ok (.qlen (w.extractLsb' 23 2) (w.extractLsb' 18 1) (w.extractLsb' 9 6) (w.extractLsb' 0 9), z (w.extractLsb' 15 3))
  | _ => .error 1

/-- The words of opcode 0x5C, told apart by their xop, fn or kind (R58, R59). -/
def decode5C (w : BitVec 32) : Except Nat (Instr × List Nat) :=
  match (w.extractLsb' 19 4).toNat with
  | 0 => .ok (.qrsv (w.extractLsb' 23 2) (w.extractLsb' 18 1) (w.extractLsb' 9 6) (w.extractLsb' 0 9), z (w.extractLsb' 15 3))
  | _ => .error 1

/-- The words of opcode 0x5D, told apart by their xop, fn or kind (R58, R59). -/
def decode5D (w : BitVec 32) : Except Nat (Instr × List Nat) :=
  match (w.extractLsb' 19 4).toNat with
  | 0 => .ok (.semadd (w.extractLsb' 23 2) (w.extractLsb' 0 9), z (w.extractLsb' 9 10))
  | _ => .error 1

/-- The words of opcode 0x5E, told apart by their xop, fn or kind (R58, R59). -/
def decode5E (w : BitVec 32) : Except Nat (Instr × List Nat) :=
  match (w.extractLsb' 19 4).toNat with
  | 0 => .ok (.semset (w.extractLsb' 23 2), z (w.extractLsb' 9 10) ++ noTarget w)
  | _ => .error 1

/-- The words of opcode 0x5F, told apart by their xop, fn or kind (R58, R59). -/
def decode5F (w : BitVec 32) : Except Nat (Instr × List Nat) :=
  match (w.extractLsb' 19 4).toNat with
  | 0 => .ok (.semrd (w.extractLsb' 23 2) (w.extractLsb' 0 9), z (w.extractLsb' 9 10))
  | _ => .error 1

/-- The words of opcode 0x60, told apart by their xop, fn or kind (R58, R59). -/
def decode60 (w : BitVec 32) : Except Nat (Instr × List Nat) :=
  match (w.extractLsb' 4 2).toNat with
  | 0 => .ok (.vadd (w.extractLsb' 23 2) (w.extractLsb' 18 5) (w.extractLsb' 13 5) (w.extractLsb' 8 5) (w.extractLsb' 6 2) (w.extractLsb' 0 4), [])
  | 1 => .ok (.vsub (w.extractLsb' 23 2) (w.extractLsb' 18 5) (w.extractLsb' 13 5) (w.extractLsb' 8 5) (w.extractLsb' 6 2) (w.extractLsb' 0 4), [])
  | 2 => .ok (.vmul (w.extractLsb' 23 2) (w.extractLsb' 18 5) (w.extractLsb' 13 5) (w.extractLsb' 8 5) (w.extractLsb' 6 2) (w.extractLsb' 0 4), [])
  | _ => .ok (.vdiv (w.extractLsb' 23 2) (w.extractLsb' 18 5) (w.extractLsb' 13 5) (w.extractLsb' 8 5) (w.extractLsb' 6 2) (w.extractLsb' 0 4), [])

/-- The words of opcode 0x61, told apart by their xop, fn or kind (R58, R59). -/
def decode61 (w : BitVec 32) : Except Nat (Instr × List Nat) :=
  match (w.extractLsb' 4 2).toNat with
  | 0 => .ok (.vfma (w.extractLsb' 23 2) (w.extractLsb' 18 5) (w.extractLsb' 13 5) (w.extractLsb' 8 5) (w.extractLsb' 6 2) (w.extractLsb' 0 4), [])
  | 1 => .ok (.vfms (w.extractLsb' 23 2) (w.extractLsb' 18 5) (w.extractLsb' 13 5) (w.extractLsb' 8 5) (w.extractLsb' 6 2) (w.extractLsb' 0 4), [])
  | 2 => .ok (.vmin (w.extractLsb' 23 2) (w.extractLsb' 18 5) (w.extractLsb' 13 5) (w.extractLsb' 8 5) (w.extractLsb' 0 4), z (w.extractLsb' 6 2))
  | _ => .ok (.vmax (w.extractLsb' 23 2) (w.extractLsb' 18 5) (w.extractLsb' 13 5) (w.extractLsb' 8 5) (w.extractLsb' 0 4), z (w.extractLsb' 6 2))

/-- The words of opcode 0x62, told apart by their xop, fn or kind (R58, R59). -/
def decode62 (w : BitVec 32) : Except Nat (Instr × List Nat) :=
  match (w.extractLsb' 4 2).toNat with
  | 0 => .ok (.vabs (w.extractLsb' 23 2) (w.extractLsb' 18 5) (w.extractLsb' 13 5) (w.extractLsb' 0 4), z (w.extractLsb' 6 7))
  | 1 => .ok (.vneg (w.extractLsb' 23 2) (w.extractLsb' 18 5) (w.extractLsb' 13 5) (w.extractLsb' 0 4), z (w.extractLsb' 6 7))
  | 2 => .ok (.vsqrt (w.extractLsb' 23 2) (w.extractLsb' 18 5) (w.extractLsb' 13 5) (w.extractLsb' 6 2) (w.extractLsb' 0 4), z (w.extractLsb' 8 5))
  | _ => .ok (.vrcp (w.extractLsb' 23 2) (w.extractLsb' 18 5) (w.extractLsb' 13 5) (w.extractLsb' 6 2) (w.extractLsb' 0 4), z (w.extractLsb' 8 5))

/-- The words of opcode 0x63, told apart by their xop, fn or kind (R58, R59). -/
def decode63 (w : BitVec 32) : Except Nat (Instr × List Nat) :=
  match (w.extractLsb' 4 2).toNat with
  | 0 => .ok (.vrsq (w.extractLsb' 23 2) (w.extractLsb' 18 5) (w.extractLsb' 13 5) (w.extractLsb' 6 2) (w.extractLsb' 0 4), z (w.extractLsb' 8 5))
  | 1 => .ok (.vexp2 (w.extractLsb' 23 2) (w.extractLsb' 18 5) (w.extractLsb' 13 5) (w.extractLsb' 6 2) (w.extractLsb' 0 4), z (w.extractLsb' 8 5))
  | 2 => .ok (.vlog2 (w.extractLsb' 23 2) (w.extractLsb' 18 5) (w.extractLsb' 13 5) (w.extractLsb' 6 2) (w.extractLsb' 0 4), z (w.extractLsb' 8 5))
  | _ => .error 1

/-- The words of opcode 0x64, told apart by their xop, fn or kind (R58, R59). -/
def decode64 (w : BitVec 32) : Except Nat (Instr × List Nat) :=
  match (w.extractLsb' 4 2).toNat with
  | 0 => .ok (.vcmp (w.extractLsb' 23 2) (w.extractLsb' 18 5) (w.extractLsb' 13 5) (w.extractLsb' 8 5) (w.extractLsb' 6 2) (w.extractLsb' 0 4), [])
  | _ => .error 1

/-- The words of opcode 0x65, told apart by their xop, fn or kind (R58, R59). -/
def decode65 (w : BitVec 32) : Except Nat (Instr × List Nat) :=
  match (w.extractLsb' 4 2).toNat with
  | 0 => .ok (.vsel (w.extractLsb' 23 2) (w.extractLsb' 18 5) (w.extractLsb' 13 5) (w.extractLsb' 8 5) (w.extractLsb' 0 4), z (w.extractLsb' 6 2))
  | 1 => .ok (.vand (w.extractLsb' 23 2) (w.extractLsb' 18 5) (w.extractLsb' 13 5) (w.extractLsb' 8 5) (w.extractLsb' 0 4), z (w.extractLsb' 6 2))
  | 2 => .ok (.vor (w.extractLsb' 23 2) (w.extractLsb' 18 5) (w.extractLsb' 13 5) (w.extractLsb' 8 5) (w.extractLsb' 0 4), z (w.extractLsb' 6 2))
  | _ => .ok (.vxor (w.extractLsb' 23 2) (w.extractLsb' 18 5) (w.extractLsb' 13 5) (w.extractLsb' 8 5) (w.extractLsb' 0 4), z (w.extractLsb' 6 2))

/-- The words of opcode 0x66, told apart by their xop, fn or kind (R58, R59). -/
def decode66 (w : BitVec 32) : Except Nat (Instr × List Nat) :=
  match (w.extractLsb' 4 2).toNat with
  | 0 => .ok (.vnot (w.extractLsb' 23 2) (w.extractLsb' 18 5) (w.extractLsb' 13 5) (w.extractLsb' 0 4), z (w.extractLsb' 6 7))
  | 1 => .ok (.vshl (w.extractLsb' 23 2) (w.extractLsb' 18 5) (w.extractLsb' 13 5) (w.extractLsb' 8 5) (w.extractLsb' 0 4), z (w.extractLsb' 6 2))
  | 2 => .ok (.vshr (w.extractLsb' 23 2) (w.extractLsb' 18 5) (w.extractLsb' 13 5) (w.extractLsb' 8 5) (w.extractLsb' 0 4), z (w.extractLsb' 6 2))
  | _ => .ok (.vsar (w.extractLsb' 23 2) (w.extractLsb' 18 5) (w.extractLsb' 13 5) (w.extractLsb' 8 5) (w.extractLsb' 0 4), z (w.extractLsb' 6 2))

/-- The words of opcode 0x67, told apart by their xop, fn or kind (R58, R59). -/
def decode67 (w : BitVec 32) : Except Nat (Instr × List Nat) :=
  match (w.extractLsb' 4 2).toNat with
  | 0 => .ok (.viadd (w.extractLsb' 23 2) (w.extractLsb' 18 5) (w.extractLsb' 13 5) (w.extractLsb' 8 5) (w.extractLsb' 0 4), z (w.extractLsb' 6 2))
  | 1 => .ok (.visub (w.extractLsb' 23 2) (w.extractLsb' 18 5) (w.extractLsb' 13 5) (w.extractLsb' 8 5) (w.extractLsb' 0 4), z (w.extractLsb' 6 2))
  | 2 => .ok (.vimul (w.extractLsb' 23 2) (w.extractLsb' 18 5) (w.extractLsb' 13 5) (w.extractLsb' 8 5) (w.extractLsb' 0 4), z (w.extractLsb' 6 2))
  | _ => .error 1

/-- The words of opcode 0x68, told apart by their xop, fn or kind (R58, R59). -/
def decode68 (w : BitVec 32) : Except Nat (Instr × List Nat) :=
  match (w.extractLsb' 4 2).toNat with
  | 0 => .ok (.vcvt (w.extractLsb' 23 2) (w.extractLsb' 18 5) (w.extractLsb' 13 5) (w.extractLsb' 8 4) (w.extractLsb' 6 2) (w.extractLsb' 0 4), z (w.extractLsb' 12 1))
  | _ => .error 1

/-- The words of opcode 0x69, told apart by their xop, fn or kind (R58, R59). -/
def decode69 (w : BitVec 32) : Except Nat (Instr × List Nat) :=
  match (w.extractLsb' 4 2).toNat with
  | 0 => .ok (.vqnt (w.extractLsb' 23 2) (w.extractLsb' 18 5) (w.extractLsb' 13 5) (w.extractLsb' 8 5) (w.extractLsb' 6 2) (w.extractLsb' 0 4), [])
  | 1 => .ok (.vdqnt (w.extractLsb' 23 2) (w.extractLsb' 18 5) (w.extractLsb' 13 5) (w.extractLsb' 8 5) (w.extractLsb' 6 2) (w.extractLsb' 0 4), [])
  | _ => .error 1

/-- The words of opcode 0x6B, told apart by their xop, fn or kind (R58, R59). -/
def decode6B (w : BitVec 32) : Except Nat (Instr × List Nat) :=
  match (w.extractLsb' 4 2).toNat with
  | 0 => .ok (.vbcast (w.extractLsb' 23 2) (w.extractLsb' 18 5) (w.extractLsb' 13 5) (w.extractLsb' 6 2) (w.extractLsb' 0 4), z (w.extractLsb' 8 5))
  | _ => .error 1

/-- The words of opcode 0x6C, told apart by their xop, fn or kind (R58, R59). -/
def decode6C (w : BitVec 32) : Except Nat (Instr × List Nat) :=
  match (w.extractLsb' 4 2).toNat with
  | 0 => .ok (.vshuf (w.extractLsb' 23 2) (w.extractLsb' 18 5) (w.extractLsb' 13 5) (w.extractLsb' 8 5) (w.extractLsb' 0 4), z (w.extractLsb' 6 2))
  | _ => .error 1

/-- The words of opcode 0x6D, told apart by their xop, fn or kind (R58, R59). -/
def decode6D (w : BitVec 32) : Except Nat (Instr × List Nat) :=
  match (w.extractLsb' 9 4).toNat with
  | 0 => .ok (.vext (w.extractLsb' 23 2) (w.extractLsb' 18 4) (w.extractLsb' 13 5) (w.extractLsb' 0 9), z (w.extractLsb' 22 1))
  | _ => .error 1

/-- The words of opcode 0x6E, told apart by their xop, fn or kind (R58, R59). -/
def decode6E (w : BitVec 32) : Except Nat (Instr × List Nat) :=
  match (w.extractLsb' 4 2).toNat with
  | 0 => .ok (.vins (w.extractLsb' 23 2) (w.extractLsb' 18 5) (w.extractLsb' 0 4), z (w.extractLsb' 6 12))
  | 1 => .ok (.vmov (w.extractLsb' 23 2) (w.extractLsb' 18 5) (w.extractLsb' 13 5), z (w.extractLsb' 6 7) ++ codeZero w)
  | 2 => .ok (.vzero (w.extractLsb' 23 2) (w.extractLsb' 18 5), z (w.extractLsb' 6 12) ++ codeZero w)
  | _ => .error 1

/-- The words of opcode 0x70, told apart by their xop, fn or kind (R58, R59). -/
def decode70 (w : BitVec 32) : Except Nat (Instr × List Nat) :=
  match (w.extractLsb' 19 4).toNat with
  | 0 => .ok (.mmac (w.extractLsb' 23 2) (w.extractLsb' 12 1) (w.extractLsb' 9 3), z (w.extractLsb' 13 6) ++ noTarget w)
  | _ => .error 1

/-- The words of opcode 0x71, told apart by their xop, fn or kind (R58, R59). -/
def decode71 (w : BitVec 32) : Except Nat (Instr × List Nat) :=
  match (w.extractLsb' 19 4).toNat with
  | 0 => .ok (.minit (w.extractLsb' 23 2) (w.extractLsb' 12 1) (w.extractLsb' 9 3), z (w.extractLsb' 13 6) ++ noTarget w)
  | 1 => .ok (.mdrain (w.extractLsb' 23 2) (w.extractLsb' 12 1) (w.extractLsb' 9 3), z (w.extractLsb' 13 6) ++ noTarget w)
  | _ => .error 1

/-- The words of opcode 0x72, told apart by their xop, fn or kind (R58, R59). -/
def decode72 (w : BitVec 32) : Except Nat (Instr × List Nat) :=
  match (w.extractLsb' 19 4).toNat with
  | 0 => .ok (.mbudget (w.extractLsb' 23 2), z (w.extractLsb' 9 10) ++ noTarget w)
  | 1 => .ok (.mstat (w.extractLsb' 23 2) (w.extractLsb' 9 2) (w.extractLsb' 0 9), z (w.extractLsb' 11 8))
  | _ => .error 1

/-- The words of opcode 0x73, told apart by their xop, fn or kind (R58, R59). -/
def decode73 (w : BitVec 32) : Except Nat (Instr × List Nat) :=
  match (w.extractLsb' 19 4).toNat with
  | 0 => .ok (.mgang (w.extractLsb' 23 2) (w.extractLsb' 12 1) (w.extractLsb' 9 3), z (w.extractLsb' 13 6) ++ noTarget w)
  | 1 => .ok (.mgrant (w.extractLsb' 23 2) (w.extractLsb' 12 1) (w.extractLsb' 9 3), z (w.extractLsb' 13 6) ++ noTarget w)
  | _ => .error 1

/-- The words of opcode 0x74, told apart by their xop, fn or kind (R58, R59). -/
def decode74 (w : BitVec 32) : Except Nat (Instr × List Nat) :=
  match (w.extractLsb' 19 4).toNat with
  | 0 => .ok (.spat (w.extractLsb' 23 2) (w.extractLsb' 12 1) (w.extractLsb' 9 3), z (w.extractLsb' 13 6) ++ noTarget w)
  | 1 => .ok (.sstart (w.extractLsb' 23 2) (w.extractLsb' 12 1) (w.extractLsb' 9 3), z (w.extractLsb' 13 6) ++ noTarget w)
  | 2 => .ok (.sacc (w.extractLsb' 23 2) (w.extractLsb' 12 1) (w.extractLsb' 9 3), z (w.extractLsb' 13 6) ++ noTarget w)
  | 3 => .ok (.sstop (w.extractLsb' 23 2) (w.extractLsb' 12 1) (w.extractLsb' 9 3), z (w.extractLsb' 13 6) ++ noTarget w)
  | 4 => .ok (.sprog (w.extractLsb' 23 2) (w.extractLsb' 0 9), z (w.extractLsb' 9 10))
  | _ => .error 1

/-- The words of opcode 0x75, told apart by their xop, fn or kind (R58, R59). -/
def decode75 (w : BitVec 32) : Except Nat (Instr × List Nat) :=
  match (w.extractLsb' 19 4).toNat with
  | 0 =>
    match (w.extractLsb' 17 6).toNat with
    | 0 => .ok (.copy (w.extractLsb' 23 2) (w.extractLsb' 13 4) (w.extractLsb' 9 3), z (w.extractLsb' 12 1) ++ noTarget w)
    | 1 => .ok (.copyD (w.extractLsb' 23 2) (w.extractLsb' 12 1) (w.extractLsb' 9 3), z (w.extractLsb' 13 4) ++ noTarget w)
    | 2 => .ok (.copyQf (w.extractLsb' 23 2) (w.extractLsb' 12 1) (w.extractLsb' 9 3), z (w.extractLsb' 13 4) ++ noTarget w)
    | _ => .error 1
  | 1 => .ok (.copym (w.extractLsb' 23 2) (w.extractLsb' 12 1) (w.extractLsb' 9 3), z (w.extractLsb' 13 6) ++ noTarget w)
  | 2 => .ok (.tmove (w.extractLsb' 23 2) (w.extractLsb' 12 1) (w.extractLsb' 9 3), z (w.extractLsb' 13 6) ++ noTarget w)
  | _ => .error 1

/-- The words of opcode 0x76, told apart by their xop, fn or kind (R58, R59). -/
def decode76 (w : BitVec 32) : Except Nat (Instr × List Nat) :=
  match (w.extractLsb' 19 4).toNat with
  | 0 => .ok (.tokrd (w.extractLsb' 23 2) (w.extractLsb' 12 1) (w.extractLsb' 9 3) (w.extractLsb' 0 9), z (w.extractLsb' 13 6))
  | _ => .error 1

/-- The words of opcode 0x78, told apart by their xop, fn or kind (R58, R59). -/
def decode78 (w : BitVec 32) : Except Nat (Instr × List Nat) :=
  match (w.extractLsb' 19 4).toNat with
  | 0 => .ok (.rboard (w.extractLsb' 23 2) (w.extractLsb' 13 3) (w.extractLsb' 12 1) (w.extractLsb' 9 3), z (w.extractLsb' 16 3) ++ noTarget w)
  | 1 => .ok (.rdrop (w.extractLsb' 23 2) (w.extractLsb' 12 1) (w.extractLsb' 9 3), z (w.extractLsb' 13 6) ++ noTarget w)
  | 2 => .ok (.rwhere (w.extractLsb' 23 2) (w.extractLsb' 9 3) (w.extractLsb' 0 9), z (w.extractLsb' 12 7))
  | 3 =>
    match (w.extractLsb' 9 1).toNat with
    | 0 => .ok (.rstat (w.extractLsb' 23 2) (w.extractLsb' 0 9), z (w.extractLsb' 10 9))
    | _ => .ok (.rstatLane (w.extractLsb' 23 2) (w.extractLsb' 10 3) (w.extractLsb' 0 9), z (w.extractLsb' 13 6))
  | _ => .error 1

/-- The words of opcode 0x79, told apart by their xop, fn or kind (R58, R59). -/
def decode79 (w : BitVec 32) : Except Nat (Instr × List Nat) :=
  match (w.extractLsb' 19 4).toNat with
  | 0 => .ok (.rbind (w.extractLsb' 23 2) (w.extractLsb' 9 3), z (w.extractLsb' 12 7) ++ noTarget w)
  | 1 => .ok (.rpace (w.extractLsb' 23 2) (w.extractLsb' 9 3), z (w.extractLsb' 12 7) ++ noTarget w)
  | _ => .error 1

/-- The words of opcode 0x7A, told apart by their xop, fn or kind (R58, R59). -/
def decode7A (w : BitVec 32) : Except Nat (Instr × List Nat) :=
  match (w.extractLsb' 19 4).toNat with
  | 0 => .ok (.xfence (w.extractLsb' 23 2) (w.extractLsb' 9 5) (w.extractLsb' 0 9), z (w.extractLsb' 14 5))
  | 1 => .ok (.xwait (w.extractLsb' 23 2), z (w.extractLsb' 9 10) ++ noTarget w)
  | 2 => .ok (.xsem (w.extractLsb' 23 2) (w.extractLsb' 12 1) (w.extractLsb' 9 3), z (w.extractLsb' 13 6) ++ noTarget w)
  | _ => .error 1

/-- The words of opcode 0x7B, told apart by their xop, fn or kind (R58, R59). -/
def decode7B (w : BitVec 32) : Except Nat (Instr × List Nat) :=
  match (w.extractLsb' 19 4).toNat with
  | 0 => .ok (.collReduce (w.extractLsb' 23 2) (w.extractLsb' 13 4) (w.extractLsb' 12 1) (w.extractLsb' 9 3), z (w.extractLsb' 17 2) ++ noTarget w)
  | 1 => .ok (.collBcast (w.extractLsb' 23 2) (w.extractLsb' 13 4) (w.extractLsb' 12 1) (w.extractLsb' 9 3), z (w.extractLsb' 17 2) ++ noTarget w)
  | _ => .error 1

/-- The words of opcode 0x7C, told apart by their xop, fn or kind (R58, R59). -/
def decode7C (w : BitVec 32) : Except Nat (Instr × List Nat) :=
  match (w.extractLsb' 19 4).toNat with
  | 0 => .ok (.trap (w.extractLsb' 23 2) (w.extractLsb' 9 4), z (w.extractLsb' 13 6) ++ noTarget w)
  | 1 =>
    match (w.extractLsb' 9 2).toNat with
    | 0 => .ok (.eretDiscard (w.extractLsb' 23 2) (w.extractLsb' 11 1), z (w.extractLsb' 12 7) ++ noTarget w)
    | 1 => .ok (.eretRetry (w.extractLsb' 23 2), z (w.extractLsb' 11 8) ++ noTarget w)
    | 2 => .ok (.eretResume (w.extractLsb' 23 2), z (w.extractLsb' 11 8) ++ noTarget w)
    | _ => .error 2
  | 2 => .ok (.brk (w.extractLsb' 23 2) (w.extractLsb' 9 8), z (w.extractLsb' 17 2) ++ noTarget w)
  | 3 => .ok (.halt (w.extractLsb' 23 2), z (w.extractLsb' 9 10) ++ noTarget w)
  | _ => .error 1

/-- The words of opcode 0x7D, told apart by their xop, fn or kind (R58, R59). -/
def decode7D (w : BitVec 32) : Except Nat (Instr × List Nat) :=
  match (w.extractLsb' 19 4).toNat with
  | 0 => .ok (.csrr (w.extractLsb' 23 2) (w.extractLsb' 9 10) (w.extractLsb' 0 9), [])
  | 1 => .ok (.csrw (w.extractLsb' 23 2) (w.extractLsb' 9 10), noTarget w)
  | 2 => .ok (.time (w.extractLsb' 23 2) (w.extractLsb' 9 1) (w.extractLsb' 0 9), z (w.extractLsb' 10 9))
  | _ => .error 1

/-- The words of opcode 0x7E, told apart by their xop, fn or kind (R58, R59). -/
def decode7E (w : BitVec 32) : Except Nat (Instr × List Nat) :=
  match (w.extractLsb' 19 4).toNat with
  | 0 => .ok (.moncfg (w.extractLsb' 23 2), z (w.extractLsb' 9 10) ++ noTarget w)
  | 1 => .ok (.monrd (w.extractLsb' 23 2) (w.extractLsb' 9 5) (w.extractLsb' 0 9), z (w.extractLsb' 14 5))
  | _ => .error 1

/-- The instruction whose opcode and xop a word holds, with the details of R61 that its fixed fields break; or the
detail of R61 that says no instruction has them (R58). -/
def decodeLoose (w : BitVec 32) : Except Nat (Instr × List Nat) :=
  match (w.extractLsb' 25 7).toNat with
  | 0x00 => decode00 w
  | 0x01 => decode01 w
  | 0x10 => .ok (.addi (w.extractLsb' 23 2) (w.extractLsb' 9 14) (w.extractLsb' 0 9), [])
  | 0x11 => .ok (.muli (w.extractLsb' 23 2) (w.extractLsb' 9 14) (w.extractLsb' 0 9), [])
  | 0x12 => .ok (.andi (w.extractLsb' 23 2) (w.extractLsb' 9 14) (w.extractLsb' 0 9), [])
  | 0x13 => .ok (.ori (w.extractLsb' 23 2) (w.extractLsb' 9 14) (w.extractLsb' 0 9), [])
  | 0x14 => .ok (.xori (w.extractLsb' 23 2) (w.extractLsb' 9 14) (w.extractLsb' 0 9), [])
  | 0x15 => .ok (.shli (w.extractLsb' 23 2) (w.extractLsb' 9 6) (w.extractLsb' 0 9), z (w.extractLsb' 15 8))
  | 0x16 => .ok (.shri (w.extractLsb' 23 2) (w.extractLsb' 9 6) (w.extractLsb' 0 9), z (w.extractLsb' 15 8))
  | 0x17 => .ok (.sari (w.extractLsb' 23 2) (w.extractLsb' 9 6) (w.extractLsb' 0 9), z (w.extractLsb' 15 8))
  | 0x18 => .ok (.ceqi (w.extractLsb' 23 2) (w.extractLsb' 9 14) (w.extractLsb' 0 9), [])
  | 0x19 => .ok (.cnei (w.extractLsb' 23 2) (w.extractLsb' 9 14) (w.extractLsb' 0 9), [])
  | 0x1A => .ok (.clti (w.extractLsb' 23 2) (w.extractLsb' 9 14) (w.extractLsb' 0 9), [])
  | 0x1B => .ok (.clei (w.extractLsb' 23 2) (w.extractLsb' 9 14) (w.extractLsb' 0 9), [])
  | 0x1C => .ok (.cltzi (w.extractLsb' 23 2) (w.extractLsb' 9 14) (w.extractLsb' 0 9), [])
  | 0x1D => .ok (.clezi (w.extractLsb' 23 2) (w.extractLsb' 9 14) (w.extractLsb' 0 9), [])
  | 0x1E => .ok (.lea (w.extractLsb' 23 2) (w.extractLsb' 20 3) (w.extractLsb' 9 11) (w.extractLsb' 0 9), [])
  | 0x1F => .ok (.sext (w.extractLsb' 23 2) (w.extractLsb' 9 6) (w.extractLsb' 0 9), z (w.extractLsb' 15 8))
  | 0x20 => .ok (.zext (w.extractLsb' 23 2) (w.extractLsb' 9 6) (w.extractLsb' 0 9), z (w.extractLsb' 15 8))
  | 0x21 => .ok (.extr (w.extractLsb' 23 2) (w.extractLsb' 22 1) (w.extractLsb' 15 6) (w.extractLsb' 9 6) (w.extractLsb' 0 9), z (w.extractLsb' 21 1))
  | 0x22 => .ok (.ins (w.extractLsb' 23 2) (w.extractLsb' 15 6) (w.extractLsb' 9 6) (w.extractLsb' 0 9), z (w.extractLsb' 21 2))
  | 0x30 => .ok (.constI (w.extractLsb' 16 9) (w.extractLsb' 0 16), [])
  | 0x31 => .ok (.consth (w.extractLsb' 16 9) (w.extractLsb' 0 16), [])
  | 0x32 => .ok (.get (w.extractLsb' 18 7) (w.extractLsb' 9 9) (w.extractLsb' 0 9), [])
  | 0x33 => decode33 w
  | 0x38 => decode38 w
  | 0x40 => .ok (.ld (w.extractLsb' 23 2) (w.extractLsb' 19 4) (w.extractLsb' 9 10) (w.extractLsb' 0 9), [])
  | 0x41 => .ok (.st (w.extractLsb' 23 2) (w.extractLsb' 19 4) (w.extractLsb' 9 10), noTarget w)
  | 0x42 => decode42 w
  | 0x43 => decode43 w
  | 0x44 => .ok (.ldvs (w.extractLsb' 23 2) (w.extractLsb' 19 4) (w.extractLsb' 14 5), z (w.extractLsb' 9 5) ++ noTarget w)
  | 0x45 => .ok (.stvs (w.extractLsb' 23 2) (w.extractLsb' 19 4) (w.extractLsb' 14 5), z (w.extractLsb' 9 5) ++ noTarget w)
  | 0x46 => decode46 w
  | 0x47 => decode47 w
  | 0x48 => decode48 w
  | 0x49 => decode49 w
  | 0x4A => decode4A w
  | 0x4B => decode4B w
  | 0x50 => .ok (.amo (w.extractLsb' 23 2) (w.extractLsb' 19 4) (w.extractLsb' 9 1) (w.extractLsb' 0 9), z (w.extractLsb' 10 9))
  | 0x51 => decode51 w
  | 0x52 => .ok (.red (w.extractLsb' 23 2) (w.extractLsb' 19 4) (w.extractLsb' 9 1), z (w.extractLsb' 10 9) ++ noTarget w)
  | 0x53 => .ok (.redf (w.extractLsb' 23 2) (w.extractLsb' 19 4), z (w.extractLsb' 9 10) ++ noTarget w)
  | 0x54 => decode54 w
  | 0x55 => decode55 w
  | 0x58 => decode58 w
  | 0x59 => decode59 w
  | 0x5A => decode5A w
  | 0x5B => decode5B w
  | 0x5C => decode5C w
  | 0x5D => decode5D w
  | 0x5E => decode5E w
  | 0x5F => decode5F w
  | 0x60 => decode60 w
  | 0x61 => decode61 w
  | 0x62 => decode62 w
  | 0x63 => decode63 w
  | 0x64 => decode64 w
  | 0x65 => decode65 w
  | 0x66 => decode66 w
  | 0x67 => decode67 w
  | 0x68 => decode68 w
  | 0x69 => decode69 w
  | 0x6A => .ok (.vred (w.extractLsb' 23 2) (w.extractLsb' 18 4) (w.extractLsb' 13 5) (w.extractLsb' 11 2) (w.extractLsb' 9 2) (w.extractLsb' 0 9), z (w.extractLsb' 22 1))
  | 0x6B => decode6B w
  | 0x6C => decode6C w
  | 0x6D => decode6D w
  | 0x6E => decode6E w
  | 0x70 => decode70 w
  | 0x71 => decode71 w
  | 0x72 => decode72 w
  | 0x73 => decode73 w
  | 0x74 => decode74 w
  | 0x75 => decode75 w
  | 0x76 => decode76 w
  | 0x78 => decode78 w
  | 0x79 => decode79 w
  | 0x7A => decode7A w
  | 0x7B => decode7B w
  | 0x7C => decode7C w
  | 0x7D => decode7D w
  | 0x7E => decode7E w
  | _ => .error 0

/-- The row of the opcode table a word belongs to, with its fields. -/
def decodeRow (w : BitVec 32) : Option Instr :=
  match decodeLoose w with
  | .ok (i, []) => some i
  | _ => none

/-- The row of the opcode table a word belongs to by its opcode and its selecting fields, whatever stands in bits that must be zero: it
says which operands the word takes (R63). -/
def rowOf (w : BitVec 32) : Option Instr :=
  match decodeLoose w with
  | .ok (i, _) => some i
  | .error _ => none

/-! ### Which field values an instruction allows (R61) -/

/-- The detail when the condition holds. -/
def when (c : Prop) [Decidable c] (d : Nat) : List Nat := if c then [d] else []

/-- Detail 5: a code that R38 marks not a target. -/
def badTarget (t : BitVec 9) : List Nat := if target t = .illegal then [5] else []

/-- Detail 7: an element type outside lo to hi (R57, R112, R127, R184, R185). -/
def badType (lo hi : Nat) (y : BitVec 4) : List Nat := if lo ≤ y.toNat ∧ y.toNat ≤ hi then [] else [7]

/-- The details of R61 that the fields of an instruction break. A nonzero rounding field beside an integer type, which R58 wants to be
0b00, is a field (detail 2) and no rounding code (detail 7): R61 does not say which of the two (log 90). -/
def Instr.details : Instr → List Nat
  | .add p t u => when (p.toNat = 3) 3 ++ badTarget t ++ badTarget u
  | .sub p t u => when (p.toNat = 3) 3 ++ badTarget t ++ badTarget u
  | .mul p t u => when (p.toNat = 3) 3 ++ badTarget t ++ badTarget u
  | .mulh p t u => when (p.toNat = 3) 3 ++ badTarget t ++ badTarget u
  | .mulhz p t u => when (p.toNat = 3) 3 ++ badTarget t ++ badTarget u
  | .div p t u => when (p.toNat = 3) 3 ++ badTarget t ++ badTarget u
  | .divz p t u => when (p.toNat = 3) 3 ++ badTarget t ++ badTarget u
  | .rem p t u => when (p.toNat = 3) 3 ++ badTarget t ++ badTarget u
  | .remz p t u => when (p.toNat = 3) 3 ++ badTarget t ++ badTarget u
  | .and p t u => when (p.toNat = 3) 3 ++ badTarget t ++ badTarget u
  | .or p t u => when (p.toNat = 3) 3 ++ badTarget t ++ badTarget u
  | .xor p t u => when (p.toNat = 3) 3 ++ badTarget t ++ badTarget u
  | .andn p t u => when (p.toNat = 3) 3 ++ badTarget t ++ badTarget u
  | .orn p t u => when (p.toNat = 3) 3 ++ badTarget t ++ badTarget u
  | .shl p t u => when (p.toNat = 3) 3 ++ badTarget t ++ badTarget u
  | .shr p t u => when (p.toNat = 3) 3 ++ badTarget t ++ badTarget u
  | .sar p t u => when (p.toNat = 3) 3 ++ badTarget t ++ badTarget u
  | .ror p t u => when (p.toNat = 3) 3 ++ badTarget t ++ badTarget u
  | .min p t u => when (p.toNat = 3) 3 ++ badTarget t ++ badTarget u
  | .max p t u => when (p.toNat = 3) 3 ++ badTarget t ++ badTarget u
  | .minz p t u => when (p.toNat = 3) 3 ++ badTarget t ++ badTarget u
  | .maxz p t u => when (p.toNat = 3) 3 ++ badTarget t ++ badTarget u
  | .mov p t u => when (p.toNat = 3) 3 ++ badTarget t ++ badTarget u
  | .clz p t u => when (p.toNat = 3) 3 ++ badTarget t ++ badTarget u
  | .ctz p t u => when (p.toNat = 3) 3 ++ badTarget t ++ badTarget u
  | .popc p t u => when (p.toNat = 3) 3 ++ badTarget t ++ badTarget u
  | .brev p t u => when (p.toNat = 3) 3 ++ badTarget t ++ badTarget u
  | .ceq p t u => when (p.toNat = 3) 3 ++ badTarget t ++ badTarget u
  | .cne p t u => when (p.toNat = 3) 3 ++ badTarget t ++ badTarget u
  | .clt p t u => when (p.toNat = 3) 3 ++ badTarget t ++ badTarget u
  | .cle p t u => when (p.toNat = 3) 3 ++ badTarget t ++ badTarget u
  | .cltz p t u => when (p.toNat = 3) 3 ++ badTarget t ++ badTarget u
  | .clez p t u => when (p.toNat = 3) 3 ++ badTarget t ++ badTarget u
  | .addi p _ t => when (p.toNat = 3) 3 ++ badTarget t
  | .muli p _ t => when (p.toNat = 3) 3 ++ badTarget t
  | .andi p _ t => when (p.toNat = 3) 3 ++ badTarget t
  | .ori p _ t => when (p.toNat = 3) 3 ++ badTarget t
  | .xori p _ t => when (p.toNat = 3) 3 ++ badTarget t
  | .shli p _ t => when (p.toNat = 3) 3 ++ badTarget t
  | .shri p _ t => when (p.toNat = 3) 3 ++ badTarget t
  | .sari p _ t => when (p.toNat = 3) 3 ++ badTarget t
  | .ceqi p _ t => when (p.toNat = 3) 3 ++ badTarget t
  | .cnei p _ t => when (p.toNat = 3) 3 ++ badTarget t
  | .clti p _ t => when (p.toNat = 3) 3 ++ badTarget t
  | .clei p _ t => when (p.toNat = 3) 3 ++ badTarget t
  | .cltzi p _ t => when (p.toNat = 3) 3 ++ badTarget t
  | .clezi p _ t => when (p.toNat = 3) 3 ++ badTarget t
  | .lea p _ _ t => when (p.toNat = 3) 3 ++ badTarget t
  | .sext p _ t => when (p.toNat = 3) 3 ++ badTarget t
  | .zext p _ t => when (p.toNat = 3) 3 ++ badTarget t
  | .extr p _ _ _ t => when (p.toNat = 3) 3 ++ badTarget t
  | .ins p _ _ t => when (p.toNat = 3) 3 ++ badTarget t
  | .constI t _ => badTarget t
  | .consth t _ => badTarget t
  | .get r u t => when (r.toNat = 127) 4 ++ badTarget t ++ badTarget u
  | .null p t u => when (p.toNat = 3) 3 ++ badTarget t ++ badTarget u
  | .br p _ => when (p.toNat = 3) 3
  | .bri p => when (p.toNat = 3) 3
  | .call p _ => when (p.toNat = 3) 3
  | .calli p => when (p.toNat = 3) 3
  | .ret p => when (p.toNat = 3) 3
  | .tend p => when (p.toNat = 3) 3
  | .park p _ => when (p.toNat = 3) 3
  | .tabort p => when (p.toNat = 3) 3
  | .ld p y _ t => when (p.toNat = 3) 3 ++ badTarget t ++ badType 0 11 y
  | .st p y _ => when (p.toNat = 3) 3 ++ badType 0 11 y
  | .ldv p _ _ => when (p.toNat = 3) 3
  | .stv p _ _ => when (p.toNat = 3) 3
  | .ldvs p y _ => when (p.toNat = 3) 3 ++ badType 0 11 y
  | .stvs p y _ => when (p.toNat = 3) 3 ++ badType 0 11 y
  | .vgather p _ _ _ => when (p.toNat = 3) 3
  | .vscatter p _ _ _ => when (p.toNat = 3) 3
  | .cmt p => when (p.toNat = 3) 3
  | .seal p => when (p.toNat = 3) 3
  | .fenceAcq p s => when (5 ≤ s.toNat) 1 ++ when (p.toNat = 3) 3
  | .fenceRel p s => when (5 ≤ s.toNat) 1 ++ when (p.toNat = 3) 3
  | .fenceSc p s => when (5 ≤ s.toNat) 1 ++ when (p.toNat = 3) 3
  | .lprobe p t => when (p.toNat = 3) 3 ++ badTarget t
  | .amo p o _ t => when (9 ≤ o.toNat) 1 ++ when (p.toNat = 3) 3 ++ badTarget t
  | .cas p _ t => when (p.toNat = 3) 3 ++ badTarget t
  | .red p o _ => when (o.toNat = 4 ∨ 9 ≤ o.toNat) 1 ++ when (p.toNat = 3) 3
  | .redf p y => when (p.toNat = 3) 3 ++ badType 8 9 y
  | .cellinit p => when (p.toNat = 3) 3
  | .cellrd p t => when (p.toNat = 3) 3 ++ badTarget t
  | .spawn p t => when (p.toNat = 3) 3 ++ badTarget t
  | .dqpush p t => when (p.toNat = 3) 3 ++ badTarget t
  | .dqpop p t => when (p.toNat = 3) 3 ++ badTarget t
  | .qlen p k q t => when (if k.toNat = 0 then q.toNat = 63 else 16 ≤ q.toNat) 2 ++ when (p.toNat = 3) 3 ++ badTarget t
  | .qrsv p k q t => when (if k.toNat = 0 then q.toNat = 63 else 16 ≤ q.toNat) 2 ++ when (p.toNat = 3) 3 ++ badTarget t
  | .semadd p t => when (p.toNat = 3) 3 ++ badTarget t
  | .semset p => when (p.toNat = 3) 3
  | .semrd p t => when (p.toNat = 3) 3 ++ badTarget t
  | .vadd p _ _ _ r y => when (y.toNat ≤ 7 ∧ r.toNat ≠ 0) 2 ++ when (p.toNat = 3) 3 ++ badType 8 10 y
  | .vsub p _ _ _ r y => when (y.toNat ≤ 7 ∧ r.toNat ≠ 0) 2 ++ when (p.toNat = 3) 3 ++ badType 8 10 y
  | .vmul p _ _ _ r y => when (y.toNat ≤ 7 ∧ r.toNat ≠ 0) 2 ++ when (p.toNat = 3) 3 ++ badType 8 10 y
  | .vdiv p _ _ _ r y => when (y.toNat ≤ 7 ∧ r.toNat ≠ 0) 2 ++ when (p.toNat = 3) 3 ++ badType 8 10 y
  | .vfma p _ _ _ r y => when (y.toNat ≤ 7 ∧ r.toNat ≠ 0) 2 ++ when (p.toNat = 3) 3 ++ badType 8 10 y
  | .vfms p _ _ _ r y => when (y.toNat ≤ 7 ∧ r.toNat ≠ 0) 2 ++ when (p.toNat = 3) 3 ++ badType 8 10 y
  | .vmin p _ _ _ y => when (p.toNat = 3) 3 ++ badType 0 10 y
  | .vmax p _ _ _ y => when (p.toNat = 3) 3 ++ badType 0 10 y
  | .vabs p _ _ y => when (p.toNat = 3) 3 ++ badType 4 10 y
  | .vneg p _ _ y => when (p.toNat = 3) 3 ++ badType 4 10 y
  | .vsqrt p _ _ r y => when (y.toNat ≤ 7 ∧ r.toNat ≠ 0) 2 ++ when (p.toNat = 3) 3 ++ badType 8 10 y
  | .vrcp p _ _ r y => when (y.toNat ≤ 7 ∧ r.toNat ≠ 0) 2 ++ when (p.toNat = 3) 3 ++ badType 8 10 y
  | .vrsq p _ _ r y => when (y.toNat ≤ 7 ∧ r.toNat ≠ 0) 2 ++ when (p.toNat = 3) 3 ++ badType 8 10 y
  | .vexp2 p _ _ r y => when (y.toNat ≤ 7 ∧ r.toNat ≠ 0) 2 ++ when (p.toNat = 3) 3 ++ badType 8 10 y
  | .vlog2 p _ _ r y => when (y.toNat ≤ 7 ∧ r.toNat ≠ 0) 2 ++ when (p.toNat = 3) 3 ++ badType 8 10 y
  | .vcmp p _ _ _ _ y => when (p.toNat = 3) 3 ++ badType 0 10 y
  | .vsel p _ _ _ y => when (p.toNat = 3) 3 ++ badType 0 11 y
  | .vand p _ _ _ y => when (p.toNat = 3) 3 ++ badType 0 11 y
  | .vor p _ _ _ y => when (p.toNat = 3) 3 ++ badType 0 11 y
  | .vxor p _ _ _ y => when (p.toNat = 3) 3 ++ badType 0 11 y
  | .vnot p _ _ y => when (p.toNat = 3) 3 ++ badType 0 11 y
  | .vshl p _ _ _ y => when (p.toNat = 3) 3 ++ badType 0 7 y
  | .vshr p _ _ _ y => when (p.toNat = 3) 3 ++ badType 0 7 y
  | .vsar p _ _ _ y => when (p.toNat = 3) 3 ++ badType 0 7 y
  | .viadd p _ _ _ y => when (p.toNat = 3) 3 ++ badType 0 7 y
  | .visub p _ _ _ y => when (p.toNat = 3) 3 ++ badType 0 7 y
  | .vimul p _ _ _ y => when (p.toNat = 3) 3 ++ badType 0 7 y
  | .vcvt p _ _ s _ y => when (p.toNat = 3) 3 ++ badType 0 11 y ++ badType 0 11 s
  | .vqnt p _ a _ _ y => when (a.toNat % 2 = 1) 2 ++ when (p.toNat = 3) 3 ++ badType 12 13 y
  | .vdqnt p d _ _ _ y => when (d.toNat % 2 = 1) 2 ++ when (p.toNat = 3) 3 ++ badType 12 13 y
  | .vred p y _ r o t => when (o.toNat = 3) 1 ++ when (r.toNat ≠ 0 ∧ (y.toNat ≤ 7 ∨ o.toNat ≠ 0)) 2 ++ when (p.toNat = 3) 3 ++ badTarget t ++ badType 0 10 y
  | .vbcast p _ a m y => when (2 ≤ m.toNat) 1 ++ when (m.toNat = 0 ∧ a.toNat ≠ 0) 2 ++ when (p.toNat = 3) 3 ++ badType 0 11 y
  | .vshuf p _ _ _ y => when (p.toNat = 3) 3 ++ badType 0 11 y
  | .vext p y _ t => when (p.toNat = 3) 3 ++ badTarget t ++ badType 0 11 y
  | .vins p _ y => when (p.toNat = 3) 3 ++ badType 0 11 y
  | .vmov p _ _ => when (p.toNat = 3) 3
  | .vzero p _ => when (p.toNat = 3) 3
  | .mmac p _ _ => when (p.toNat = 3) 3
  | .minit p _ _ => when (p.toNat = 3) 3
  | .mdrain p _ _ => when (p.toNat = 3) 3
  | .mbudget p => when (p.toNat = 3) 3
  | .mstat p e t => when (e.toNat = 3) 1 ++ when (p.toNat = 3) 3 ++ badTarget t
  | .mgang p _ _ => when (p.toNat = 3) 3
  | .mgrant p _ _ => when (p.toNat = 3) 3
  | .spat p _ _ => when (p.toNat = 3) 3
  | .sstart p _ _ => when (p.toNat = 3) 3
  | .sacc p _ _ => when (p.toNat = 3) 3
  | .sstop p _ _ => when (p.toNat = 3) 3
  | .sprog p t => when (p.toNat = 3) 3 ++ badTarget t
  | .copy p _ _ => when (p.toNat = 3) 3
  | .copyD p _ _ => when (p.toNat = 3) 3
  | .copyQf p _ _ => when (p.toNat = 3) 3
  | .copym p _ _ => when (p.toNat = 3) 3
  | .tmove p _ _ => when (p.toNat = 3) 3
  | .tokrd p a k t => when (a.toNat = 1 ∧ k.toNat ≠ 0) 2 ++ when (p.toNat = 3) 3 ++ badTarget t
  | .rboard p _ _ _ => when (p.toNat = 3) 3
  | .rdrop p _ _ => when (p.toNat = 3) 3
  | .rwhere p _ t => when (p.toNat = 3) 3 ++ badTarget t
  | .rstat p t => when (p.toNat = 3) 3 ++ badTarget t
  | .rstatLane p _ t => when (p.toNat = 3) 3 ++ badTarget t
  | .rbind p _ => when (p.toNat = 3) 3
  | .rpace p _ => when (p.toNat = 3) 3
  | .xfence p _ t => when (p.toNat = 3) 3 ++ badTarget t
  | .xwait p => when (p.toNat = 3) 3
  | .xsem p _ _ => when (p.toNat = 3) 3
  | .collReduce p _ _ _ => when (p.toNat = 3) 3
  | .collBcast p _ _ _ => when (p.toNat = 3) 3
  | .trap p _ => when (p.toNat = 3) 3
  | .eretDiscard p _ => when (p.toNat = 3) 3
  | .eretRetry p => when (p.toNat = 3) 3
  | .eretResume p => when (p.toNat = 3) 3
  | .brk p _ => when (p.toNat = 3) 3
  | .halt p => when (p.toNat = 3) 3
  | .csrr p _ t => when (p.toNat = 3) 3 ++ badTarget t
  | .csrw p _ => when (p.toNat = 3) 3
  | .time p _ t => when (p.toNat = 3) 3 ++ badTarget t
  | .moncfg p => when (p.toNat = 3) 3
  | .monrd p _ t => when (p.toNat = 3) 3 ++ badTarget t
  | .blockFetch _ _ => []
  | .blockStart _ _ => []
  | .divideResult _ _ => []
  | .portPushPerform _ _ _ => []
  | .blockComplete _ _ => []
  | .leaseLookupResult _ _ _ => []
  | .loadDataReturn _ _ _ => []
  | .writeAck _ _ _ => []
  | .drainEntryPerform _ _ _ => []
  | .orderedCommit _ _ => []
  | .corePick _ _ => []
  | .taskLaunch _ _ => []
  | .migrationStart _ _ _ => []
  | .migrationCommit _ => []
  | .migrationTimeout _ => []
  | .copyComplete _ _ => []
  | .copyChunk _ _ => []
  | .gatherElement _ _ => []
  | .tmoveRow _ _ => []
  | .copymMmacPlace _ _ => []
  | .queueFenceComplete _ _ _ => []
  | .streamStart _ _ _ _ => []
  | .spatSlotWrite _ _ _ => []
  | .sstartComplete _ _ _ => []
  | .acceptComplete _ _ _ => []
  | .sstopHead _ _ _ => []
  | .mmacHead _ _ => []
  | .matrixLeaveGrant _ _ _ => []
  | .matrixAttemptStart _ _ => []
  | .decryptTagCheck _ _ => []
  | .matrixAttemptEnd _ _ => []
  | .minitExecute _ _ => []
  | .mdrainExecute _ _ => []
  | .mdrainComplete _ _ => []
  | .chainValueArrive _ _ => []
  | .mgangJoin _ _ => []
  | .mgrantGranted _ _ _ => []
  | .grantBalanceLapse _ _ _ => []
  | .powerArbiterTick _ => []
  | .balancerSample _ => []
  | .balancerIntervalEnd _ => []
  | .feederInject _ => []
  | .haloSlotPass _ _ _ => []
  | .boardArm _ _ _ => []
  | .captureWrite _ _ _ => []
  | .boardComplete _ _ _ => []
  | .rdropHead _ _ => []
  | .flitReceive _ _ => []
  | .flitCrcReplay _ => []
  | .linkRetrain _ => []
  | .xsemAddPerform _ _ => []
  | .collExecute _ _ => []
  | .notify _ _ => []
  | .registerWrite _ _ _ => []
  | .pktTask _ => []
  | .placeImage _ => []
  | .placeRelease _ => []
  | .placeFreeze _ => []
  | .placeResume _ => []
  | .placeSave _ => []
  | .placeRestore _ => []
  | .boundBlockLimit _ => []
  | .pktBarrier _ => []
  | .pktCopy _ => []
  | .hostCopyComplete _ _ _ => []
  | .pktSignal _ => []
  | .compact _ => []
  | .moveCutReached _ => []
  | .cutLimitExpiry _ => []
  | .dieOpChange _ _ => []
  | .pllRelockDone _ => []
  | .dieGate _ => []
  | .dieGateDrainDone _ _ => []
  | .dieUngate _ => []
  | .diePoweredUp _ => []
  | .thermalThrottleEnter _ => []
  | .thermalThrottleExit _ => []
  | .relreq _ _ => []
  | .keySet _ _ _ _ => []
  | .keyErase _ _ _ => []
  | .signkeySet _ _ => []
  | .hbConfig _ _ _ => []
  | .heartbeat _ => []
  | .accept _ _ => []
  | .heartbeatTimeout _ => []
  | .graceExpiry _ => []
  | .spdmNegotiateAlgorithms _ _ => []
  | .spdmKeyExchange _ _ => []
  | .sessionLoss _ => []
  | .lockInterfaceRequest _ => []
  | .startInterfaceRequest _ => []
  | .stopInterfaceRequest _ => []
  | .tdispError _ => []
  | .vfEnable _ => []
  | .vfDisable _ => []
  | .flrVf _ => []
  | .flrPf => []
  | .hotReset => []
  | .packageReset => []
  | .periscopeArmDebug _ _ => []
  | .periscopeHalt _ => []
  | .periscopeResume _ => []
  | .periscopeStep _ _ => []
  | .periscopeRead _ _ _ _ => []
  | .periscopeWrite _ _ _ _ _ => []
  | .switchOverWindow _ => []
  | .leaseExtentRequest _ _ _ _ _ _ _ => []
  | .linkRetrainDone _ => []
  | .periscopeUnlock _ => []
  | .measurementRequest _ _ => []

/-- A row with a word, not an event. -/
def Instr.isWord : Instr → Bool
  | .add _ _ _ => true
  | .sub _ _ _ => true
  | .mul _ _ _ => true
  | .mulh _ _ _ => true
  | .mulhz _ _ _ => true
  | .div _ _ _ => true
  | .divz _ _ _ => true
  | .rem _ _ _ => true
  | .remz _ _ _ => true
  | .and _ _ _ => true
  | .or _ _ _ => true
  | .xor _ _ _ => true
  | .andn _ _ _ => true
  | .orn _ _ _ => true
  | .shl _ _ _ => true
  | .shr _ _ _ => true
  | .sar _ _ _ => true
  | .ror _ _ _ => true
  | .min _ _ _ => true
  | .max _ _ _ => true
  | .minz _ _ _ => true
  | .maxz _ _ _ => true
  | .mov _ _ _ => true
  | .clz _ _ _ => true
  | .ctz _ _ _ => true
  | .popc _ _ _ => true
  | .brev _ _ _ => true
  | .ceq _ _ _ => true
  | .cne _ _ _ => true
  | .clt _ _ _ => true
  | .cle _ _ _ => true
  | .cltz _ _ _ => true
  | .clez _ _ _ => true
  | .addi _ _ _ => true
  | .muli _ _ _ => true
  | .andi _ _ _ => true
  | .ori _ _ _ => true
  | .xori _ _ _ => true
  | .shli _ _ _ => true
  | .shri _ _ _ => true
  | .sari _ _ _ => true
  | .ceqi _ _ _ => true
  | .cnei _ _ _ => true
  | .clti _ _ _ => true
  | .clei _ _ _ => true
  | .cltzi _ _ _ => true
  | .clezi _ _ _ => true
  | .lea _ _ _ _ => true
  | .sext _ _ _ => true
  | .zext _ _ _ => true
  | .extr _ _ _ _ _ => true
  | .ins _ _ _ _ => true
  | .constI _ _ => true
  | .consth _ _ => true
  | .get _ _ _ => true
  | .null _ _ _ => true
  | .br _ _ => true
  | .bri _ => true
  | .call _ _ => true
  | .calli _ => true
  | .ret _ => true
  | .tend _ => true
  | .park _ _ => true
  | .tabort _ => true
  | .ld _ _ _ _ => true
  | .st _ _ _ => true
  | .ldv _ _ _ => true
  | .stv _ _ _ => true
  | .ldvs _ _ _ => true
  | .stvs _ _ _ => true
  | .vgather _ _ _ _ => true
  | .vscatter _ _ _ _ => true
  | .cmt _ => true
  | .seal _ => true
  | .fenceAcq _ _ => true
  | .fenceRel _ _ => true
  | .fenceSc _ _ => true
  | .lprobe _ _ => true
  | .amo _ _ _ _ => true
  | .cas _ _ _ => true
  | .red _ _ _ => true
  | .redf _ _ => true
  | .cellinit _ => true
  | .cellrd _ _ => true
  | .spawn _ _ => true
  | .dqpush _ _ => true
  | .dqpop _ _ => true
  | .qlen _ _ _ _ => true
  | .qrsv _ _ _ _ => true
  | .semadd _ _ => true
  | .semset _ => true
  | .semrd _ _ => true
  | .vadd _ _ _ _ _ _ => true
  | .vsub _ _ _ _ _ _ => true
  | .vmul _ _ _ _ _ _ => true
  | .vdiv _ _ _ _ _ _ => true
  | .vfma _ _ _ _ _ _ => true
  | .vfms _ _ _ _ _ _ => true
  | .vmin _ _ _ _ _ => true
  | .vmax _ _ _ _ _ => true
  | .vabs _ _ _ _ => true
  | .vneg _ _ _ _ => true
  | .vsqrt _ _ _ _ _ => true
  | .vrcp _ _ _ _ _ => true
  | .vrsq _ _ _ _ _ => true
  | .vexp2 _ _ _ _ _ => true
  | .vlog2 _ _ _ _ _ => true
  | .vcmp _ _ _ _ _ _ => true
  | .vsel _ _ _ _ _ => true
  | .vand _ _ _ _ _ => true
  | .vor _ _ _ _ _ => true
  | .vxor _ _ _ _ _ => true
  | .vnot _ _ _ _ => true
  | .vshl _ _ _ _ _ => true
  | .vshr _ _ _ _ _ => true
  | .vsar _ _ _ _ _ => true
  | .viadd _ _ _ _ _ => true
  | .visub _ _ _ _ _ => true
  | .vimul _ _ _ _ _ => true
  | .vcvt _ _ _ _ _ _ => true
  | .vqnt _ _ _ _ _ _ => true
  | .vdqnt _ _ _ _ _ _ => true
  | .vred _ _ _ _ _ _ => true
  | .vbcast _ _ _ _ _ => true
  | .vshuf _ _ _ _ _ => true
  | .vext _ _ _ _ => true
  | .vins _ _ _ => true
  | .vmov _ _ _ => true
  | .vzero _ _ => true
  | .mmac _ _ _ => true
  | .minit _ _ _ => true
  | .mdrain _ _ _ => true
  | .mbudget _ => true
  | .mstat _ _ _ => true
  | .mgang _ _ _ => true
  | .mgrant _ _ _ => true
  | .spat _ _ _ => true
  | .sstart _ _ _ => true
  | .sacc _ _ _ => true
  | .sstop _ _ _ => true
  | .sprog _ _ => true
  | .copy _ _ _ => true
  | .copyD _ _ _ => true
  | .copyQf _ _ _ => true
  | .copym _ _ _ => true
  | .tmove _ _ _ => true
  | .tokrd _ _ _ _ => true
  | .rboard _ _ _ _ => true
  | .rdrop _ _ _ => true
  | .rwhere _ _ _ => true
  | .rstat _ _ => true
  | .rstatLane _ _ _ => true
  | .rbind _ _ => true
  | .rpace _ _ => true
  | .xfence _ _ _ => true
  | .xwait _ => true
  | .xsem _ _ _ => true
  | .collReduce _ _ _ _ => true
  | .collBcast _ _ _ _ => true
  | .trap _ _ => true
  | .eretDiscard _ _ => true
  | .eretRetry _ => true
  | .eretResume _ => true
  | .brk _ _ => true
  | .halt _ => true
  | .csrr _ _ _ => true
  | .csrw _ _ => true
  | .time _ _ _ => true
  | .moncfg _ => true
  | .monrd _ _ _ => true
  | .blockFetch _ _ => false
  | .blockStart _ _ => false
  | .divideResult _ _ => false
  | .portPushPerform _ _ _ => false
  | .blockComplete _ _ => false
  | .leaseLookupResult _ _ _ => false
  | .loadDataReturn _ _ _ => false
  | .writeAck _ _ _ => false
  | .drainEntryPerform _ _ _ => false
  | .orderedCommit _ _ => false
  | .corePick _ _ => false
  | .taskLaunch _ _ => false
  | .migrationStart _ _ _ => false
  | .migrationCommit _ => false
  | .migrationTimeout _ => false
  | .copyComplete _ _ => false
  | .copyChunk _ _ => false
  | .gatherElement _ _ => false
  | .tmoveRow _ _ => false
  | .copymMmacPlace _ _ => false
  | .queueFenceComplete _ _ _ => false
  | .streamStart _ _ _ _ => false
  | .spatSlotWrite _ _ _ => false
  | .sstartComplete _ _ _ => false
  | .acceptComplete _ _ _ => false
  | .sstopHead _ _ _ => false
  | .mmacHead _ _ => false
  | .matrixLeaveGrant _ _ _ => false
  | .matrixAttemptStart _ _ => false
  | .decryptTagCheck _ _ => false
  | .matrixAttemptEnd _ _ => false
  | .minitExecute _ _ => false
  | .mdrainExecute _ _ => false
  | .mdrainComplete _ _ => false
  | .chainValueArrive _ _ => false
  | .mgangJoin _ _ => false
  | .mgrantGranted _ _ _ => false
  | .grantBalanceLapse _ _ _ => false
  | .powerArbiterTick _ => false
  | .balancerSample _ => false
  | .balancerIntervalEnd _ => false
  | .feederInject _ => false
  | .haloSlotPass _ _ _ => false
  | .boardArm _ _ _ => false
  | .captureWrite _ _ _ => false
  | .boardComplete _ _ _ => false
  | .rdropHead _ _ => false
  | .flitReceive _ _ => false
  | .flitCrcReplay _ => false
  | .linkRetrain _ => false
  | .xsemAddPerform _ _ => false
  | .collExecute _ _ => false
  | .notify _ _ => false
  | .registerWrite _ _ _ => false
  | .pktTask _ => false
  | .placeImage _ => false
  | .placeRelease _ => false
  | .placeFreeze _ => false
  | .placeResume _ => false
  | .placeSave _ => false
  | .placeRestore _ => false
  | .boundBlockLimit _ => false
  | .pktBarrier _ => false
  | .pktCopy _ => false
  | .hostCopyComplete _ _ _ => false
  | .pktSignal _ => false
  | .compact _ => false
  | .moveCutReached _ => false
  | .cutLimitExpiry _ => false
  | .dieOpChange _ _ => false
  | .pllRelockDone _ => false
  | .dieGate _ => false
  | .dieGateDrainDone _ _ => false
  | .dieUngate _ => false
  | .diePoweredUp _ => false
  | .thermalThrottleEnter _ => false
  | .thermalThrottleExit _ => false
  | .relreq _ _ => false
  | .keySet _ _ _ _ => false
  | .keyErase _ _ _ => false
  | .signkeySet _ _ => false
  | .hbConfig _ _ _ => false
  | .heartbeat _ => false
  | .accept _ _ => false
  | .heartbeatTimeout _ => false
  | .graceExpiry _ => false
  | .spdmNegotiateAlgorithms _ _ => false
  | .spdmKeyExchange _ _ => false
  | .sessionLoss _ => false
  | .lockInterfaceRequest _ => false
  | .startInterfaceRequest _ => false
  | .stopInterfaceRequest _ => false
  | .tdispError _ => false
  | .vfEnable _ => false
  | .vfDisable _ => false
  | .flrVf _ => false
  | .flrPf => false
  | .hotReset => false
  | .packageReset => false
  | .periscopeArmDebug _ _ => false
  | .periscopeHalt _ => false
  | .periscopeResume _ => false
  | .periscopeStep _ _ => false
  | .periscopeRead _ _ _ _ => false
  | .periscopeWrite _ _ _ _ _ => false
  | .switchOverWindow _ => false
  | .leaseExtentRequest _ _ _ _ _ _ _ => false
  | .linkRetrainDone _ => false
  | .periscopeUnlock _ => false
  | .measurementRequest _ _ => false

/-- The lowest of the details broken (R60). -/
def lowest : List Nat → Option Nat
  | [] => none
  | d :: ds =>
    match lowest ds with
    | some e => some (if d ≤ e then d else e)
    | none => some d

/-- R60, R61: the instruction of a word, or the cause of class 1 that the word raises. -/
def decode (w : BitVec 32) : Except Nat Instr :=
  match decodeLoose w with
  | .error d => .error (0x020 + d)
  | .ok (i, vs) =>
    match lowest (vs ++ i.details) with
    | some d => .error (0x020 + d)
    | none => .ok i

/-- The little-endian word of four bytes (R4). -/
def wordOfBytes (b0 b1 b2 b3 : Byte) : BitVec 32 := b3 ++ b2 ++ b1 ++ b0

/-- The bytes of a word in memory order (R4). -/
def bytesOfWord (w : BitVec 32) : List Byte :=
  [w.extractLsb' 0 8, w.extractLsb' 8 8, w.extractLsb' 16 8, w.extractLsb' 24 8]

/-- The decoder on the first four bytes of any bytes: the row's instruction, none where they are no row's. -/
def decodeBytes : List Byte → Option Instr
  | b0 :: b1 :: b2 :: b3 :: _ => decodeRow (wordOfBytes b0 b1 b2 b3)
  | _ => none

/-- The instruction the decoder reads from a table word of nbits bits laid out as the store holds it. -/
def decodeTableWord (nbits w : Nat) : Option Instr :=
  decodeBytes (bytesOfWord (BitVec.ofNat 32 (w % 2 ^ nbits)))

/-! ### The encoder, from the formats of R55 -/

/-- The word of an instruction; 0 for an event, which has none. -/
def encode : Instr → BitVec 32
  | .add p t u => 0x0#7 ++ p ++ t ++ u ++ 0x0#5
  | .sub p t u => 0x0#7 ++ p ++ t ++ u ++ 0x1#5
  | .mul p t u => 0x0#7 ++ p ++ t ++ u ++ 0x2#5
  | .mulh p t u => 0x0#7 ++ p ++ t ++ u ++ 0x3#5
  | .mulhz p t u => 0x0#7 ++ p ++ t ++ u ++ 0x4#5
  | .div p t u => 0x0#7 ++ p ++ t ++ u ++ 0x5#5
  | .divz p t u => 0x0#7 ++ p ++ t ++ u ++ 0x6#5
  | .rem p t u => 0x0#7 ++ p ++ t ++ u ++ 0x7#5
  | .remz p t u => 0x0#7 ++ p ++ t ++ u ++ 0x8#5
  | .and p t u => 0x0#7 ++ p ++ t ++ u ++ 0x9#5
  | .or p t u => 0x0#7 ++ p ++ t ++ u ++ 0xA#5
  | .xor p t u => 0x0#7 ++ p ++ t ++ u ++ 0xB#5
  | .andn p t u => 0x0#7 ++ p ++ t ++ u ++ 0xC#5
  | .orn p t u => 0x0#7 ++ p ++ t ++ u ++ 0xD#5
  | .shl p t u => 0x0#7 ++ p ++ t ++ u ++ 0xE#5
  | .shr p t u => 0x0#7 ++ p ++ t ++ u ++ 0xF#5
  | .sar p t u => 0x0#7 ++ p ++ t ++ u ++ 0x10#5
  | .ror p t u => 0x0#7 ++ p ++ t ++ u ++ 0x11#5
  | .min p t u => 0x0#7 ++ p ++ t ++ u ++ 0x12#5
  | .max p t u => 0x0#7 ++ p ++ t ++ u ++ 0x13#5
  | .minz p t u => 0x0#7 ++ p ++ t ++ u ++ 0x14#5
  | .maxz p t u => 0x0#7 ++ p ++ t ++ u ++ 0x15#5
  | .mov p t u => 0x0#7 ++ p ++ t ++ u ++ 0x16#5
  | .clz p t u => 0x0#7 ++ p ++ t ++ u ++ 0x17#5
  | .ctz p t u => 0x0#7 ++ p ++ t ++ u ++ 0x18#5
  | .popc p t u => 0x0#7 ++ p ++ t ++ u ++ 0x19#5
  | .brev p t u => 0x0#7 ++ p ++ t ++ u ++ 0x1A#5
  | .ceq p t u => 0x1#7 ++ p ++ t ++ u ++ 0x0#5
  | .cne p t u => 0x1#7 ++ p ++ t ++ u ++ 0x1#5
  | .clt p t u => 0x1#7 ++ p ++ t ++ u ++ 0x2#5
  | .cle p t u => 0x1#7 ++ p ++ t ++ u ++ 0x3#5
  | .cltz p t u => 0x1#7 ++ p ++ t ++ u ++ 0x4#5
  | .clez p t u => 0x1#7 ++ p ++ t ++ u ++ 0x5#5
  | .addi p i t => 0x10#7 ++ p ++ i ++ t
  | .muli p i t => 0x11#7 ++ p ++ i ++ t
  | .andi p i t => 0x12#7 ++ p ++ i ++ t
  | .ori p i t => 0x13#7 ++ p ++ i ++ t
  | .xori p i t => 0x14#7 ++ p ++ i ++ t
  | .shli p k t => 0x15#7 ++ p ++ 0x0#8 ++ k ++ t
  | .shri p k t => 0x16#7 ++ p ++ 0x0#8 ++ k ++ t
  | .sari p k t => 0x17#7 ++ p ++ 0x0#8 ++ k ++ t
  | .ceqi p i t => 0x18#7 ++ p ++ i ++ t
  | .cnei p i t => 0x19#7 ++ p ++ i ++ t
  | .clti p i t => 0x1A#7 ++ p ++ i ++ t
  | .clei p i t => 0x1B#7 ++ p ++ i ++ t
  | .cltzi p i t => 0x1C#7 ++ p ++ i ++ t
  | .clezi p i t => 0x1D#7 ++ p ++ i ++ t
  | .lea p s o t => 0x1E#7 ++ p ++ s ++ o ++ t
  | .sext p n t => 0x1F#7 ++ p ++ 0x0#8 ++ n ++ t
  | .zext p n t => 0x20#7 ++ p ++ 0x0#8 ++ n ++ t
  | .extr p s o l t => 0x21#7 ++ p ++ s ++ 0x0#1 ++ o ++ l ++ t
  | .ins p o l t => 0x22#7 ++ p ++ 0x0#2 ++ o ++ l ++ t
  | .constI t i => 0x30#7 ++ t ++ i
  | .consth t i => 0x31#7 ++ t ++ i
  | .get r u t => 0x32#7 ++ r ++ u ++ t
  | .null p t u => 0x33#7 ++ p ++ t ++ u ++ 0x0#5
  | .br p o => 0x1C0#10 ++ p ++ o
  | .bri p => 0x1C1#10 ++ p ++ 0x0#20
  | .call p o => 0x1C2#10 ++ p ++ o
  | .calli p => 0x1C3#10 ++ p ++ 0x0#20
  | .ret p => 0x1C4#10 ++ p ++ 0x0#20
  | .tend p => 0x1C5#10 ++ p ++ 0x0#20
  | .park p o => 0x1C6#10 ++ p ++ o
  | .tabort p => 0x1C7#10 ++ p ++ 0x0#20
  | .ld p y d t => 0x40#7 ++ p ++ y ++ d ++ t
  | .st p y d => 0x41#7 ++ p ++ y ++ d ++ 0x1FF#9
  | .ldv p v d => 0x42#7 ++ p ++ 0x0#4 ++ v ++ d ++ 0x1FF#9
  | .stv p v d => 0x43#7 ++ p ++ 0x0#4 ++ v ++ d ++ 0x1FF#9
  | .ldvs p y v => 0x44#7 ++ p ++ y ++ v ++ 0x1FF#14
  | .stvs p y v => 0x45#7 ++ p ++ y ++ v ++ 0x1FF#14
  | .vgather p z s k => 0x46#7 ++ p ++ 0x0#8 ++ z ++ s ++ k ++ 0x1FF#9
  | .vscatter p z s k => 0x47#7 ++ p ++ 0x0#8 ++ z ++ s ++ k ++ 0x1FF#9
  | .cmt p => 0x48#7 ++ p ++ 0x1FF#23
  | .seal p => 0x49#7 ++ p ++ 0x1FF#23
  | .fenceAcq p s => 0x4A#7 ++ p ++ 0x0#11 ++ s ++ 0x1FF#9
  | .fenceRel p s => 0x4A#7 ++ p ++ 0x80#11 ++ s ++ 0x1FF#9
  | .fenceSc p s => 0x4A#7 ++ p ++ 0x100#11 ++ s ++ 0x1FF#9
  | .lprobe p t => 0x4B#7 ++ p ++ 0x0#14 ++ t
  | .amo p o w t => 0x50#7 ++ p ++ o ++ 0x0#9 ++ w ++ t
  | .cas p w t => 0x51#7 ++ p ++ 0x0#13 ++ w ++ t
  | .red p o w => 0x52#7 ++ p ++ o ++ 0x0#9 ++ w ++ 0x1FF#9
  | .redf p y => 0x53#7 ++ p ++ y ++ 0x1FF#19
  | .cellinit p => 0x54#7 ++ p ++ 0x1FF#23
  | .cellrd p t => 0x55#7 ++ p ++ 0x0#14 ++ t
  | .spawn p t => 0x58#7 ++ p ++ 0x0#14 ++ t
  | .dqpush p t => 0x59#7 ++ p ++ 0x0#14 ++ t
  | .dqpop p t => 0x5A#7 ++ p ++ 0x0#14 ++ t
  | .qlen p k q t => 0x5B#7 ++ p ++ 0x0#4 ++ k ++ 0x0#3 ++ q ++ t
  | .qrsv p k q t => 0x5C#7 ++ p ++ 0x0#4 ++ k ++ 0x0#3 ++ q ++ t
  | .semadd p t => 0x5D#7 ++ p ++ 0x0#14 ++ t
  | .semset p => 0x5E#7 ++ p ++ 0x1FF#23
  | .semrd p t => 0x5F#7 ++ p ++ 0x0#14 ++ t
  | .vadd p d a b r y => 0x60#7 ++ p ++ d ++ a ++ b ++ r ++ 0x0#2 ++ y
  | .vsub p d a b r y => 0x60#7 ++ p ++ d ++ a ++ b ++ r ++ 0x1#2 ++ y
  | .vmul p d a b r y => 0x60#7 ++ p ++ d ++ a ++ b ++ r ++ 0x2#2 ++ y
  | .vdiv p d a b r y => 0x60#7 ++ p ++ d ++ a ++ b ++ r ++ 0x3#2 ++ y
  | .vfma p d a b r y => 0x61#7 ++ p ++ d ++ a ++ b ++ r ++ 0x0#2 ++ y
  | .vfms p d a b r y => 0x61#7 ++ p ++ d ++ a ++ b ++ r ++ 0x1#2 ++ y
  | .vmin p d a b y => 0x61#7 ++ p ++ d ++ a ++ b ++ 0x2#4 ++ y
  | .vmax p d a b y => 0x61#7 ++ p ++ d ++ a ++ b ++ 0x3#4 ++ y
  | .vabs p d a y => 0x62#7 ++ p ++ d ++ a ++ 0x0#9 ++ y
  | .vneg p d a y => 0x62#7 ++ p ++ d ++ a ++ 0x1#9 ++ y
  | .vsqrt p d a r y => 0x62#7 ++ p ++ d ++ a ++ 0x0#5 ++ r ++ 0x2#2 ++ y
  | .vrcp p d a r y => 0x62#7 ++ p ++ d ++ a ++ 0x0#5 ++ r ++ 0x3#2 ++ y
  | .vrsq p d a r y => 0x63#7 ++ p ++ d ++ a ++ 0x0#5 ++ r ++ 0x0#2 ++ y
  | .vexp2 p d a r y => 0x63#7 ++ p ++ d ++ a ++ 0x0#5 ++ r ++ 0x1#2 ++ y
  | .vlog2 p d a r y => 0x63#7 ++ p ++ d ++ a ++ 0x0#5 ++ r ++ 0x2#2 ++ y
  | .vcmp p d a b c y => 0x64#7 ++ p ++ d ++ a ++ b ++ c ++ 0x0#2 ++ y
  | .vsel p d a b y => 0x65#7 ++ p ++ d ++ a ++ b ++ 0x0#4 ++ y
  | .vand p d a b y => 0x65#7 ++ p ++ d ++ a ++ b ++ 0x1#4 ++ y
  | .vor p d a b y => 0x65#7 ++ p ++ d ++ a ++ b ++ 0x2#4 ++ y
  | .vxor p d a b y => 0x65#7 ++ p ++ d ++ a ++ b ++ 0x3#4 ++ y
  | .vnot p d a y => 0x66#7 ++ p ++ d ++ a ++ 0x0#9 ++ y
  | .vshl p d a b y => 0x66#7 ++ p ++ d ++ a ++ b ++ 0x1#4 ++ y
  | .vshr p d a b y => 0x66#7 ++ p ++ d ++ a ++ b ++ 0x2#4 ++ y
  | .vsar p d a b y => 0x66#7 ++ p ++ d ++ a ++ b ++ 0x3#4 ++ y
  | .viadd p d a b y => 0x67#7 ++ p ++ d ++ a ++ b ++ 0x0#4 ++ y
  | .visub p d a b y => 0x67#7 ++ p ++ d ++ a ++ b ++ 0x1#4 ++ y
  | .vimul p d a b y => 0x67#7 ++ p ++ d ++ a ++ b ++ 0x2#4 ++ y
  | .vcvt p d a s r y => 0x68#7 ++ p ++ d ++ a ++ 0x0#1 ++ s ++ r ++ 0x0#2 ++ y
  | .vqnt p d a b n y => 0x69#7 ++ p ++ d ++ a ++ b ++ n ++ 0x0#2 ++ y
  | .vdqnt p d a b n y => 0x69#7 ++ p ++ d ++ a ++ b ++ n ++ 0x1#2 ++ y
  | .vred p y a r o t => 0x6A#7 ++ p ++ 0x0#1 ++ y ++ a ++ r ++ o ++ t
  | .vbcast p d a m y => 0x6B#7 ++ p ++ d ++ a ++ 0x0#5 ++ m ++ 0x0#2 ++ y
  | .vshuf p d a b y => 0x6C#7 ++ p ++ d ++ a ++ b ++ 0x0#4 ++ y
  | .vext p y a t => 0x6D#7 ++ p ++ 0x0#1 ++ y ++ a ++ 0x0#4 ++ t
  | .vins p d y => 0x6E#7 ++ p ++ d ++ 0x0#14 ++ y
  | .vmov p d a => 0x6E#7 ++ p ++ d ++ a ++ 0x10#13
  | .vzero p d => 0x6E#7 ++ p ++ d ++ 0x20#18
  | .mmac p s k => 0x70#7 ++ p ++ 0x0#10 ++ s ++ k ++ 0x1FF#9
  | .minit p s k => 0x71#7 ++ p ++ 0x0#10 ++ s ++ k ++ 0x1FF#9
  | .mdrain p s k => 0x71#7 ++ p ++ 0x40#10 ++ s ++ k ++ 0x1FF#9
  | .mbudget p => 0x72#7 ++ p ++ 0x1FF#23
  | .mstat p e t => 0x72#7 ++ p ++ 0x100#12 ++ e ++ t
  | .mgang p s k => 0x73#7 ++ p ++ 0x0#10 ++ s ++ k ++ 0x1FF#9
  | .mgrant p s k => 0x73#7 ++ p ++ 0x40#10 ++ s ++ k ++ 0x1FF#9
  | .spat p s k => 0x74#7 ++ p ++ 0x0#10 ++ s ++ k ++ 0x1FF#9
  | .sstart p s k => 0x74#7 ++ p ++ 0x40#10 ++ s ++ k ++ 0x1FF#9
  | .sacc p s k => 0x74#7 ++ p ++ 0x80#10 ++ s ++ k ++ 0x1FF#9
  | .sstop p s k => 0x74#7 ++ p ++ 0xC0#10 ++ s ++ k ++ 0x1FF#9
  | .sprog p t => 0x74#7 ++ p ++ 0x1000#14 ++ t
  | .copy p l k => 0x75#7 ++ p ++ 0x0#6 ++ l ++ 0x0#1 ++ k ++ 0x1FF#9
  | .copyD p s k => 0x75#7 ++ p ++ 0x10#10 ++ s ++ k ++ 0x1FF#9
  | .copyQf p s k => 0x75#7 ++ p ++ 0x20#10 ++ s ++ k ++ 0x1FF#9
  | .copym p s k => 0x75#7 ++ p ++ 0x40#10 ++ s ++ k ++ 0x1FF#9
  | .tmove p s k => 0x75#7 ++ p ++ 0x80#10 ++ s ++ k ++ 0x1FF#9
  | .tokrd p a k t => 0x76#7 ++ p ++ 0x0#10 ++ a ++ k ++ t
  | .rboard p l s k => 0x78#7 ++ p ++ 0x0#7 ++ l ++ s ++ k ++ 0x1FF#9
  | .rdrop p s k => 0x78#7 ++ p ++ 0x40#10 ++ s ++ k ++ 0x1FF#9
  | .rwhere p l t => 0x78#7 ++ p ++ 0x100#11 ++ l ++ t
  | .rstat p t => 0x78#7 ++ p ++ 0xC00#14 ++ t
  | .rstatLane p l t => 0x78#7 ++ p ++ 0xC0#10 ++ l ++ 0x1#1 ++ t
  | .rbind p l => 0x79#7 ++ p ++ 0x0#11 ++ l ++ 0x1FF#9
  | .rpace p l => 0x79#7 ++ p ++ 0x80#11 ++ l ++ 0x1FF#9
  | .xfence p m t => 0x7A#7 ++ p ++ 0x0#9 ++ m ++ t
  | .xwait p => 0x7A#7 ++ p ++ 0x801FF#23
  | .xsem p s k => 0x7A#7 ++ p ++ 0x80#10 ++ s ++ k ++ 0x1FF#9
  | .collReduce p m s k => 0x7B#7 ++ p ++ 0x0#6 ++ m ++ s ++ k ++ 0x1FF#9
  | .collBcast p m s k => 0x7B#7 ++ p ++ 0x4#6 ++ m ++ s ++ k ++ 0x1FF#9
  | .trap p n => 0x7C#7 ++ p ++ 0x0#10 ++ n ++ 0x1FF#9
  | .eretDiscard p r => 0x7C#7 ++ p ++ 0x80#11 ++ r ++ 0x1FF#11
  | .eretRetry p => 0x7C#7 ++ p ++ 0x803FF#23
  | .eretResume p => 0x7C#7 ++ p ++ 0x805FF#23
  | .brk p g => 0x7C#7 ++ p ++ 0x8#6 ++ g ++ 0x1FF#9
  | .halt p => 0x7C#7 ++ p ++ 0x1801FF#23
  | .csrr p c t => 0x7D#7 ++ p ++ 0x0#4 ++ c ++ t
  | .csrw p c => 0x7D#7 ++ p ++ 0x1#4 ++ c ++ 0x1FF#9
  | .time p s t => 0x7D#7 ++ p ++ 0x400#13 ++ s ++ t
  | .moncfg p => 0x7E#7 ++ p ++ 0x1FF#23
  | .monrd p i t => 0x7E#7 ++ p ++ 0x20#9 ++ i ++ t
  | .blockFetch _ _ => 0
  | .blockStart _ _ => 0
  | .divideResult _ _ => 0
  | .portPushPerform _ _ _ => 0
  | .blockComplete _ _ => 0
  | .leaseLookupResult _ _ _ => 0
  | .loadDataReturn _ _ _ => 0
  | .writeAck _ _ _ => 0
  | .drainEntryPerform _ _ _ => 0
  | .orderedCommit _ _ => 0
  | .corePick _ _ => 0
  | .taskLaunch _ _ => 0
  | .migrationStart _ _ _ => 0
  | .migrationCommit _ => 0
  | .migrationTimeout _ => 0
  | .copyComplete _ _ => 0
  | .copyChunk _ _ => 0
  | .gatherElement _ _ => 0
  | .tmoveRow _ _ => 0
  | .copymMmacPlace _ _ => 0
  | .queueFenceComplete _ _ _ => 0
  | .streamStart _ _ _ _ => 0
  | .spatSlotWrite _ _ _ => 0
  | .sstartComplete _ _ _ => 0
  | .acceptComplete _ _ _ => 0
  | .sstopHead _ _ _ => 0
  | .mmacHead _ _ => 0
  | .matrixLeaveGrant _ _ _ => 0
  | .matrixAttemptStart _ _ => 0
  | .decryptTagCheck _ _ => 0
  | .matrixAttemptEnd _ _ => 0
  | .minitExecute _ _ => 0
  | .mdrainExecute _ _ => 0
  | .mdrainComplete _ _ => 0
  | .chainValueArrive _ _ => 0
  | .mgangJoin _ _ => 0
  | .mgrantGranted _ _ _ => 0
  | .grantBalanceLapse _ _ _ => 0
  | .powerArbiterTick _ => 0
  | .balancerSample _ => 0
  | .balancerIntervalEnd _ => 0
  | .feederInject _ => 0
  | .haloSlotPass _ _ _ => 0
  | .boardArm _ _ _ => 0
  | .captureWrite _ _ _ => 0
  | .boardComplete _ _ _ => 0
  | .rdropHead _ _ => 0
  | .flitReceive _ _ => 0
  | .flitCrcReplay _ => 0
  | .linkRetrain _ => 0
  | .xsemAddPerform _ _ => 0
  | .collExecute _ _ => 0
  | .notify _ _ => 0
  | .registerWrite _ _ _ => 0
  | .pktTask _ => 0
  | .placeImage _ => 0
  | .placeRelease _ => 0
  | .placeFreeze _ => 0
  | .placeResume _ => 0
  | .placeSave _ => 0
  | .placeRestore _ => 0
  | .boundBlockLimit _ => 0
  | .pktBarrier _ => 0
  | .pktCopy _ => 0
  | .hostCopyComplete _ _ _ => 0
  | .pktSignal _ => 0
  | .compact _ => 0
  | .moveCutReached _ => 0
  | .cutLimitExpiry _ => 0
  | .dieOpChange _ _ => 0
  | .pllRelockDone _ => 0
  | .dieGate _ => 0
  | .dieGateDrainDone _ _ => 0
  | .dieUngate _ => 0
  | .diePoweredUp _ => 0
  | .thermalThrottleEnter _ => 0
  | .thermalThrottleExit _ => 0
  | .relreq _ _ => 0
  | .keySet _ _ _ _ => 0
  | .keyErase _ _ _ => 0
  | .signkeySet _ _ => 0
  | .hbConfig _ _ _ => 0
  | .heartbeat _ => 0
  | .accept _ _ => 0
  | .heartbeatTimeout _ => 0
  | .graceExpiry _ => 0
  | .spdmNegotiateAlgorithms _ _ => 0
  | .spdmKeyExchange _ _ => 0
  | .sessionLoss _ => 0
  | .lockInterfaceRequest _ => 0
  | .startInterfaceRequest _ => 0
  | .stopInterfaceRequest _ => 0
  | .tdispError _ => 0
  | .vfEnable _ => 0
  | .vfDisable _ => 0
  | .flrVf _ => 0
  | .flrPf => 0
  | .hotReset => 0
  | .packageReset => 0
  | .periscopeArmDebug _ _ => 0
  | .periscopeHalt _ => 0
  | .periscopeResume _ => 0
  | .periscopeStep _ _ => 0
  | .periscopeRead _ _ _ _ => 0
  | .periscopeWrite _ _ _ _ _ => 0
  | .switchOverWindow _ => 0
  | .leaseExtentRequest _ _ _ _ _ _ _ => 0
  | .linkRetrainDone _ => 0
  | .periscopeUnlock _ => 0
  | .measurementRequest _ _ => 0

end Sys2Proof
end

