-- ==== Sys2Proof/Machine/Operands.lean ====
section
/-!
DEFINITION. Sys2Proof/Machine/Operands.lean: the operand forms: which operands, predicate and targets each instruction
has (R38, R46, R55, R63), whether it is sequenced (R48), which vector registers it touches (R182), and when a slot is
ready, quashed or still waiting (R40, R47).
-/
namespace Sys2Proof.Machine

/-- Whether an instruction takes a left operand (R39, R63 and each chapter). -/
def takesLeft : Instr → Bool
  | .add _ _ _ => true
  | .sub _ _ _ => true
  | .mul _ _ _ => true
  | .mulh _ _ _ => true
  | .mulhz _ _ _ => true
  | .div _ _ _ => true
  | .divz _ _ _ => true
  | .rem _ _ _ => true
  | .remz _ _ _ => true
  | .and _ _ _ => true
  | .or _ _ _ => true
  | .xor _ _ _ => true
  | .andn _ _ _ => true
  | .orn _ _ _ => true
  | .shl _ _ _ => true
  | .shr _ _ _ => true
  | .sar _ _ _ => true
  | .ror _ _ _ => true
  | .min _ _ _ => true
  | .max _ _ _ => true
  | .minz _ _ _ => true
  | .maxz _ _ _ => true
  | .mov _ _ _ => true
  | .clz _ _ _ => true
  | .ctz _ _ _ => true
  | .popc _ _ _ => true
  | .brev _ _ _ => true
  | .ceq _ _ _ => true
  | .cne _ _ _ => true
  | .clt _ _ _ => true
  | .cle _ _ _ => true
  | .cltz _ _ _ => true
  | .clez _ _ _ => true
  | .addi _ _ _ => true
  | .muli _ _ _ => true
  | .andi _ _ _ => true
  | .ori _ _ _ => true
  | .xori _ _ _ => true
  | .shli _ _ _ => true
  | .shri _ _ _ => true
  | .sari _ _ _ => true
  | .ceqi _ _ _ => true
  | .cnei _ _ _ => true
  | .clti _ _ _ => true
  | .clei _ _ _ => true
  | .cltzi _ _ _ => true
  | .clezi _ _ _ => true
  | .lea _ _ _ _ => true
  | .sext _ _ _ => true
  | .zext _ _ _ => true
  | .extr _ _ _ _ _ => true
  | .ins _ _ _ _ => true
  | .consth _ _ => true
  | .bri _ => true
  | .calli _ => true
  | .park _ _ => true
  | .tabort _ => true
  | .ld _ _ _ _ => true
  | .st _ _ _ => true
  | .ldv _ _ _ => true
  | .stv _ _ _ => true
  | .ldvs _ _ _ => true
  | .stvs _ _ _ => true
  | .vgather _ _ _ _ => true
  | .vscatter _ _ _ _ => true
  | .seal _ => true
  | .lprobe _ _ => true
  | .amo _ _ _ _ => true
  | .cas _ _ _ => true
  | .red _ _ _ => true
  | .redf _ _ => true
  | .cellinit _ => true
  | .cellrd _ _ => true
  | .spawn _ _ => true
  | .dqpush _ _ => true
  | .dqpop _ _ => true
  | .qrsv _ _ _ _ => true
  | .semadd _ _ => true
  | .semset _ => true
  | .semrd _ _ => true
  | .vbcast _ _ _ _ _ => true
  | .vext _ _ _ _ => true
  | .vins _ _ _ => true
  | .mmac _ _ _ => true
  | .minit _ _ _ => true
  | .mdrain _ _ _ => true
  | .mbudget _ => true
  | .mgang _ _ _ => true
  | .mgrant _ _ _ => true
  | .spat _ _ _ => true
  | .sstart _ _ _ => true
  | .sacc _ _ _ => true
  | .sstop _ _ _ => true
  | .sprog _ _ => true
  | .copy _ _ _ => true
  | .copyD _ _ _ => true
  | .copyQf _ _ _ => true
  | .copym _ _ _ => true
  | .tmove _ _ _ => true
  | .rboard _ _ _ _ => true
  | .rdrop _ _ _ => true
  | .rstat _ _ => true
  | .rbind _ _ => true
  | .rpace _ _ => true
  | .xwait _ => true
  | .xsem _ _ _ => true
  | .collReduce _ _ _ _ => true
  | .collBcast _ _ _ _ => true
  | .eretDiscard _ r => r.toNat = 1
  | .eretResume _ => true
  | .csrw _ _ => true
  | .moncfg _ => true
  | .monrd _ _ _ => true
  | _ => false

/-- Whether an instruction takes a right operand. -/
def takesRight : Instr → Bool
  | .add _ _ _ => true
  | .sub _ _ _ => true
  | .mul _ _ _ => true
  | .mulh _ _ _ => true
  | .mulhz _ _ _ => true
  | .div _ _ _ => true
  | .divz _ _ _ => true
  | .rem _ _ _ => true
  | .remz _ _ _ => true
  | .and _ _ _ => true
  | .or _ _ _ => true
  | .xor _ _ _ => true
  | .andn _ _ _ => true
  | .orn _ _ _ => true
  | .shl _ _ _ => true
  | .shr _ _ _ => true
  | .sar _ _ _ => true
  | .ror _ _ _ => true
  | .min _ _ _ => true
  | .max _ _ _ => true
  | .minz _ _ _ => true
  | .maxz _ _ _ => true
  | .ceq _ _ _ => true
  | .cne _ _ _ => true
  | .clt _ _ _ => true
  | .cle _ _ _ => true
  | .cltz _ _ _ => true
  | .clez _ _ _ => true
  | .lea _ _ _ _ => true
  | .ins _ _ _ _ => true
  | .park _ _ => true
  | .st _ _ _ => true
  | .ldvs _ _ _ => true
  | .stvs _ _ _ => true
  | .seal _ => true
  | .amo _ _ _ _ => true
  | .cas _ _ _ => true
  | .red _ _ _ => true
  | .redf _ _ => true
  | .cellinit _ => true
  | .semadd _ _ => true
  | .semset _ => true
  | .vins _ _ _ => true
  | .mdrain _ _ _ => true
  | .mbudget _ => true
  | .spat _ _ _ => true
  | .sstart _ _ _ => true
  | .copy _ _ _ => true
  | .copym _ _ _ => true
  | .rboard _ _ _ _ => true
  | .xsem _ _ _ => true
  | .collReduce _ _ _ _ => true
  | .collBcast _ _ _ _ => true
  | .moncfg _ => true
  | _ => false

/-- The PR field; 0 for formats G and C, which have none (R46, R55). -/
def prOf : Instr → BitVec 2
  | .add p _ _ => p
  | .sub p _ _ => p
  | .mul p _ _ => p
  | .mulh p _ _ => p
  | .mulhz p _ _ => p
  | .div p _ _ => p
  | .divz p _ _ => p
  | .rem p _ _ => p
  | .remz p _ _ => p
  | .and p _ _ => p
  | .or p _ _ => p
  | .xor p _ _ => p
  | .andn p _ _ => p
  | .orn p _ _ => p
  | .shl p _ _ => p
  | .shr p _ _ => p
  | .sar p _ _ => p
  | .ror p _ _ => p
  | .min p _ _ => p
  | .max p _ _ => p
  | .minz p _ _ => p
  | .maxz p _ _ => p
  | .mov p _ _ => p
  | .clz p _ _ => p
  | .ctz p _ _ => p
  | .popc p _ _ => p
  | .brev p _ _ => p
  | .ceq p _ _ => p
  | .cne p _ _ => p
  | .clt p _ _ => p
  | .cle p _ _ => p
  | .cltz p _ _ => p
  | .clez p _ _ => p
  | .addi p _ _ => p
  | .muli p _ _ => p
  | .andi p _ _ => p
  | .ori p _ _ => p
  | .xori p _ _ => p
  | .shli p _ _ => p
  | .shri p _ _ => p
  | .sari p _ _ => p
  | .ceqi p _ _ => p
  | .cnei p _ _ => p
  | .clti p _ _ => p
  | .clei p _ _ => p
  | .cltzi p _ _ => p
  | .clezi p _ _ => p
  | .lea p _ _ _ => p
  | .sext p _ _ => p
  | .zext p _ _ => p
  | .extr p _ _ _ _ => p
  | .ins p _ _ _ => p
  | .null p _ _ => p
  | .br p _ => p
  | .bri p => p
  | .call p _ => p
  | .calli p => p
  | .ret p => p
  | .tend p => p
  | .park p _ => p
  | .tabort p => p
  | .ld p _ _ _ => p
  | .st p _ _ => p
  | .ldv p _ _ => p
  | .stv p _ _ => p
  | .ldvs p _ _ => p
  | .stvs p _ _ => p
  | .vgather p _ _ _ => p
  | .vscatter p _ _ _ => p
  | .cmt p => p
  | .seal p => p
  | .fenceAcq p _ => p
  | .fenceRel p _ => p
  | .fenceSc p _ => p
  | .lprobe p _ => p
  | .amo p _ _ _ => p
  | .cas p _ _ => p
  | .red p _ _ => p
  | .redf p _ => p
  | .cellinit p => p
  | .cellrd p _ => p
  | .spawn p _ => p
  | .dqpush p _ => p
  | .dqpop p _ => p
  | .qlen p _ _ _ => p
  | .qrsv p _ _ _ => p
  | .semadd p _ => p
  | .semset p => p
  | .semrd p _ => p
  | .vadd p _ _ _ _ _ => p
  | .vsub p _ _ _ _ _ => p
  | .vmul p _ _ _ _ _ => p
  | .vdiv p _ _ _ _ _ => p
  | .vfma p _ _ _ _ _ => p
  | .vfms p _ _ _ _ _ => p
  | .vmin p _ _ _ _ => p
  | .vmax p _ _ _ _ => p
  | .vabs p _ _ _ => p
  | .vneg p _ _ _ => p
  | .vsqrt p _ _ _ _ => p
  | .vrcp p _ _ _ _ => p
  | .vrsq p _ _ _ _ => p
  | .vexp2 p _ _ _ _ => p
  | .vlog2 p _ _ _ _ => p
  | .vcmp p _ _ _ _ _ => p
  | .vsel p _ _ _ _ => p
  | .vand p _ _ _ _ => p
  | .vor p _ _ _ _ => p
  | .vxor p _ _ _ _ => p
  | .vnot p _ _ _ => p
  | .vshl p _ _ _ _ => p
  | .vshr p _ _ _ _ => p
  | .vsar p _ _ _ _ => p
  | .viadd p _ _ _ _ => p
  | .visub p _ _ _ _ => p
  | .vimul p _ _ _ _ => p
  | .vcvt p _ _ _ _ _ => p
  | .vqnt p _ _ _ _ _ => p
  | .vdqnt p _ _ _ _ _ => p
  | .vred p _ _ _ _ _ => p
  | .vbcast p _ _ _ _ => p
  | .vshuf p _ _ _ _ => p
  | .vext p _ _ _ => p
  | .vins p _ _ => p
  | .vmov p _ _ => p
  | .vzero p _ => p
  | .mmac p _ _ => p
  | .minit p _ _ => p
  | .mdrain p _ _ => p
  | .mbudget p => p
  | .mstat p _ _ => p
  | .mgang p _ _ => p
  | .mgrant p _ _ => p
  | .spat p _ _ => p
  | .sstart p _ _ => p
  | .sacc p _ _ => p
  | .sstop p _ _ => p
  | .sprog p _ => p
  | .copy p _ _ => p
  | .copyD p _ _ => p
  | .copyQf p _ _ => p
  | .copym p _ _ => p
  | .tmove p _ _ => p
  | .tokrd p _ _ _ => p
  | .rboard p _ _ _ => p
  | .rdrop p _ _ => p
  | .rwhere p _ _ => p
  | .rstat p _ => p
  | .rstatLane p _ _ => p
  | .rbind p _ => p
  | .rpace p _ => p
  | .xfence p _ _ => p
  | .xwait p => p
  | .xsem p _ _ => p
  | .collReduce p _ _ _ => p
  | .collBcast p _ _ _ => p
  | .trap p _ => p
  | .eretDiscard p _ => p
  | .eretRetry p => p
  | .eretResume p => p
  | .brk p _ => p
  | .halt p => p
  | .csrr p _ _ => p
  | .csrw p _ => p
  | .time p _ _ => p
  | .moncfg p => p
  | .monrd p _ _ => p
  | _ => 0

/-- The target fields, T0 first (R38, R55); none where the instruction delivers nothing. -/
def targetsOf : Instr → List (BitVec 9)
  | .add _ t u => [t, u]
  | .sub _ t u => [t, u]
  | .mul _ t u => [t, u]
  | .mulh _ t u => [t, u]
  | .mulhz _ t u => [t, u]
  | .div _ t u => [t, u]
  | .divz _ t u => [t, u]
  | .rem _ t u => [t, u]
  | .remz _ t u => [t, u]
  | .and _ t u => [t, u]
  | .or _ t u => [t, u]
  | .xor _ t u => [t, u]
  | .andn _ t u => [t, u]
  | .orn _ t u => [t, u]
  | .shl _ t u => [t, u]
  | .shr _ t u => [t, u]
  | .sar _ t u => [t, u]
  | .ror _ t u => [t, u]
  | .min _ t u => [t, u]
  | .max _ t u => [t, u]
  | .minz _ t u => [t, u]
  | .maxz _ t u => [t, u]
  | .mov _ t u => [t, u]
  | .clz _ t u => [t, u]
  | .ctz _ t u => [t, u]
  | .popc _ t u => [t, u]
  | .brev _ t u => [t, u]
  | .ceq _ t u => [t, u]
  | .cne _ t u => [t, u]
  | .clt _ t u => [t, u]
  | .cle _ t u => [t, u]
  | .cltz _ t u => [t, u]
  | .clez _ t u => [t, u]
  | .addi _ _ t => [t]
  | .muli _ _ t => [t]
  | .andi _ _ t => [t]
  | .ori _ _ t => [t]
  | .xori _ _ t => [t]
  | .shli _ _ t => [t]
  | .shri _ _ t => [t]
  | .sari _ _ t => [t]
  | .ceqi _ _ t => [t]
  | .cnei _ _ t => [t]
  | .clti _ _ t => [t]
  | .clei _ _ t => [t]
  | .cltzi _ _ t => [t]
  | .clezi _ _ t => [t]
  | .lea _ _ _ t => [t]
  | .sext _ _ t => [t]
  | .zext _ _ t => [t]
  | .extr _ _ _ _ t => [t]
  | .ins _ _ _ t => [t]
  | .constI t _ => [t]
  | .consth t _ => [t]
  | .get _ u t => [t, u]
  | .null _ t u => [t, u]
  | .ld _ _ _ t => [t]
  | .lprobe _ t => [t]
  | .amo _ _ _ t => [t]
  | .cas _ _ t => [t]
  | .cellrd _ t => [t]
  | .spawn _ t => [t]
  | .dqpush _ t => [t]
  | .dqpop _ t => [t]
  | .qlen _ _ _ t => [t]
  | .qrsv _ _ _ t => [t]
  | .semadd _ t => [t]
  | .semrd _ t => [t]
  | .vred _ _ _ _ _ t => [t]
  | .vext _ _ _ t => [t]
  | .mstat _ _ t => [t]
  | .sprog _ t => [t]
  | .tokrd _ _ _ t => [t]
  | .rwhere _ _ t => [t]
  | .rstat _ t => [t]
  | .rstatLane _ _ t => [t]
  | .xfence _ _ t => [t]
  | .csrr _ _ t => [t]
  | .time _ _ t => [t]
  | .monrd _ _ t => [t]
  | _ => []

/-- R48: sequenced when the primary opcode is 0x40 or above. -/
def isSequencedWord (w : BitVec 32) : Bool := w.getLsbD 31

/-- R48 for an instruction. -/
def isSequenced (i : Instr) : Bool := isSequencedWord (encode i)

/-- The exits: a block completes with the one of them that fired (R50, R82, R297, R303). -/
def isExit : Instr → Bool
  | .br _ _ => true
  | .bri _ => true
  | .call _ _ => true
  | .calli _ => true
  | .ret _ => true
  | .tend _ => true
  | .park _ _ => true
  | .tabort _ => true
  | .eretDiscard _ _ => true
  | .eretRetry _ => true
  | .eretResume _ => true
  | .halt _ => true
  | _ => false

/-- The vector registers a sequenced instruction reads or writes (R113, R182). -/
def vectorRegs : Instr → List Nat
  | .ldv _ v _ => [v.toNat]
  | .stv _ v _ => [v.toNat]
  | .ldvs _ _ v => [v.toNat]
  | .stvs _ _ v => [v.toNat]
  | .vadd _ d a b _ _ => [d.toNat, a.toNat, b.toNat]
  | .vsub _ d a b _ _ => [d.toNat, a.toNat, b.toNat]
  | .vmul _ d a b _ _ => [d.toNat, a.toNat, b.toNat]
  | .vdiv _ d a b _ _ => [d.toNat, a.toNat, b.toNat]
  | .vfma _ d a b _ _ => [d.toNat, a.toNat, b.toNat]
  | .vfms _ d a b _ _ => [d.toNat, a.toNat, b.toNat]
  | .vmin _ d a b _ => [d.toNat, a.toNat, b.toNat]
  | .vmax _ d a b _ => [d.toNat, a.toNat, b.toNat]
  | .vabs _ d a _ => [d.toNat, a.toNat]
  | .vneg _ d a _ => [d.toNat, a.toNat]
  | .vsqrt _ d a _ _ => [d.toNat, a.toNat]
  | .vrcp _ d a _ _ => [d.toNat, a.toNat]
  | .vrsq _ d a _ _ => [d.toNat, a.toNat]
  | .vexp2 _ d a _ _ => [d.toNat, a.toNat]
  | .vlog2 _ d a _ _ => [d.toNat, a.toNat]
  | .vcmp _ d a b _ _ => [d.toNat, a.toNat, b.toNat]
  | .vsel _ d a b _ => [d.toNat, a.toNat, b.toNat]
  | .vand _ d a b _ => [d.toNat, a.toNat, b.toNat]
  | .vor _ d a b _ => [d.toNat, a.toNat, b.toNat]
  | .vxor _ d a b _ => [d.toNat, a.toNat, b.toNat]
  | .vnot _ d a _ => [d.toNat, a.toNat]
  | .vshl _ d a b _ => [d.toNat, a.toNat, b.toNat]
  | .vshr _ d a b _ => [d.toNat, a.toNat, b.toNat]
  | .vsar _ d a b _ => [d.toNat, a.toNat, b.toNat]
  | .viadd _ d a b _ => [d.toNat, a.toNat, b.toNat]
  | .visub _ d a b _ => [d.toNat, a.toNat, b.toNat]
  | .vimul _ d a b _ => [d.toNat, a.toNat, b.toNat]
  | .vcvt _ d a _ _ _ => [d.toNat, a.toNat]
  | .vqnt _ d a b _ _ => [d.toNat, a.toNat, a.toNat + 1, b.toNat]
  | .vdqnt _ d a b _ _ => [d.toNat, d.toNat + 1, a.toNat, b.toNat]
  | .vred _ _ a _ _ _ => [a.toNat]
  | .vbcast _ d a m _ => [d.toNat] ++ (if m.toNat = 1 then [a.toNat] else [])
  | .vshuf _ d a b _ => [d.toNat, a.toNat, b.toNat]
  | .vext _ _ a _ => [a.toNat]
  | .vins _ d _ => [d.toNat]
  | .vmov _ d a => [d.toNat, a.toNat]
  | .vzero _ d => [d.toNat]
  | _ => []

/-- The operand of a side of a slot: 0 left, 1 right, 2 predicate. -/
def opKey (slot side : Nat) : Nat := 4 * slot + side

/-- An operand of the running block; one that nothing lists is complete and null. -/
def operand (b : BlockRun) (slot side : Nat) : OpSt := tget {} b.ops (opKey slot side)

/-- What R47 decides of a slot that has neither fired nor been quashed. -/
inductive Readiness where
  | waiting
  | quashed
  | ready (left right : W64)
  deriving DecidableEq, Repr

/-- R40, R46, R47. -/
def readiness (i : Instr) (b : BlockRun) (slot : Nat) : Readiness :=
  let p := operand b slot 2
  let l := operand b slot 0
  let r := operand b slot 1
  let hasP := prOf i != 0
  let predOk : Bool := match p.val with
    | some v => if prOf i = 1 then v != 0 else v == 0
    | none => false
  if hasP && p.left == 0 && !predOk then .quashed
  else if takesLeft i && l.left == 0 && l.val.isNone then .quashed
  else if takesRight i && r.left == 0 && r.val.isNone then .quashed
  else if hasP && p.left != 0 then .waiting
  else if takesLeft i && l.left != 0 then .waiting
  else if takesRight i && r.left != 0 then .waiting
  else .ready (if takesLeft i then l.val.getD 0 else 0) (if takesRight i then r.val.getD 0 else 0)

/-- Whether a slot has fired or its quash is decided (R47, R48). -/
def resolved (b : BlockRun) (slot : Nat) : Bool :=
  match b.slots[slot]? with
  | some .waiting => false
  | _ => true

/-- Whether the quash of a slot is decided and its nulls are still to be delivered (R47). -/
def quashing (b : BlockRun) (slot : Nat) : Bool :=
  match b.slots[slot]? with
  | some .quashing => true
  | _ => false

/-- The word of a slot, as the fetch took it (R34). -/
def wordOf (b : BlockRun) (slot : Nat) : BitVec 32 := b.words[slot]?.getD 0

/-- R47: decide the quash of a slot in the cycle in which an operand that it takes settles it. -/
def decideQuash (b : BlockRun) (slot : Nat) : BlockRun :=
  match decodeRow (wordOf b slot) with
  | some i => if readiness i b slot = .quashed then { b with slots := modAt b.slots slot fun _ => .quashing } else b
  | none => b

/-- Whether an instruction takes the divider of its core (R67). -/
def isDivide : Instr → Bool
  | .div _ _ _ => true
  | .divz _ _ _ => true
  | .rem _ _ _ => true
  | .remz _ _ _ => true
  | _ => false

/-- A GET fires in its block's start cycle and takes no issue slot (R44). -/
def isGetWord (w : BitVec 32) : Bool := w.extractLsb' 25 7 == 0x32#7

/-- A dataflow slot that is ready and, for a divide, finds the divider free (R47, R48, R67). -/
def flowReady (b : BlockRun) (slot : Nat) : Bool :=
  !resolved b slot && !isSequencedWord (wordOf b slot) && !isGetWord (wordOf b slot) &&
  (match decodeRow (wordOf b slot) with
    | some i =>
      (match readiness i b slot with
        | .ready _ _ => true
        | _ => false) && !(isDivide i && b.divide.isSome)
    | none => false)

/-- R48: in a cycle the two lowest ready dataflow slots issue, the lower first. A slot has its turn when it is the second of
the present cycle, or when that cycle is over and no lower dataflow slot is ready. -/
def flowTurn (b : BlockRun) (slot : Nat) : Bool :=
  match b.pair with
  | some k => k == slot
  | none => !(List.range slot).any (flowReady b)

/-- The dataflow slot that issues in the same cycle as one that issues first in it. -/
def flowPartner (b : BlockRun) (slot : Nat) : Option Nat :=
  match b.pair with
  | some _ => none
  | none => (List.range b.n).find? fun k => decide (slot < k) && flowReady b k

end Sys2Proof.Machine
end

