-- ==== Sys2Proof/Machine/Ops.lean ====
section
/-!
DEFINITION. Sys2Proof/Machine/Ops.lean: the named operations the meanings share: the parts of the state, the geometry of
a rectangle, error records, ordered domains, the end of a task, taking an exception and returning from one, and the
delivery of values inside a block.
-/
namespace Sys2Proof.Machine

/-! ### Parts of the state -/

def rectAt (s : State) (rid : Nat) : Rect := tget {} s.rects rid
def setRect (s : State) (rid : Nat) (r : Rect) : State := { s with rects := tset s.rects rid r }
def modRect (s : State) (rid : Nat) (f : Rect → Rect) : State := setRect s rid (f (rectAt s rid))

def coreOf (r : Rect) (c : Nat) : Core := tget {} r.cores c
def coreAt (s : State) (rid c : Nat) : Core := coreOf (rectAt s rid) c
def setCore (s : State) (rid c : Nat) (k : Core) : State := modRect s rid fun r => { r with cores := tset r.cores c k }
def modCore (s : State) (rid c : Nat) (f : Core → Core) : State := setCore s rid c (f (coreAt s rid c))
def modCsr (s : State) (rid c : Nat) (f : Csrs → Csrs) : State := modCore s rid c fun k => { k with csr := f k.csr }
def modArr (s : State) (rid c : Nat) (f : MArray → MArray) : State := modCore s rid c fun k => { k with arr := f k.arr }

def tileAt (s : State) (rid t : Nat) : MTile := tget {} (rectAt s rid).tiles t
def modTile (s : State) (rid t : Nat) (f : MTile → MTile) : State :=
  modRect s rid fun r => { r with tiles := tset r.tiles t (f (tget {} r.tiles t)) }

def ldieAt (s : State) (rid d : Nat) : LDie := tget {} (rectAt s rid).dies d
def modLdie (s : State) (rid d : Nat) (f : LDie → LDie) : State :=
  modRect s rid fun r => { r with dies := tset r.dies d (f (tget {} r.dies d)) }

def queueAt (s : State) (rid q : Nat) : Queue := tget {} (rectAt s rid).queues q
def modQueue (s : State) (rid q : Nat) (f : Queue → Queue) : State :=
  modRect s rid fun r => { r with queues := tset r.queues q (f (tget {} r.queues q)) }

def stageAt (s : State) (rid n : Nat) : Stage := tget {} (rectAt s rid).stages n
def modStage (s : State) (rid n : Nat) (f : Stage → Stage) : State :=
  modRect s rid fun r => { r with stages := tset r.stages n (f (tget {} r.stages n)) }

def worldAt (s : State) (w : Nat) : World := tget {} s.worlds w
def modWorld (s : State) (w : Nat) (f : World → World) : State :=
  { s with worlds := tset s.worlds w (f (tget {} s.worlds w)) }

def dieAt (s : State) (d : Nat) : Die := tget {} s.dies d
def modDie (s : State) (d : Nat) (f : Die → Die) : State := { s with dies := tset s.dies d (f (tget {} s.dies d)) }

def laneAt (s : State) (n : Nat) : Lane := tget {} s.lanes n
def modLane (s : State) (n : Nat) (f : Lane → Lane) : State := { s with lanes := tset s.lanes n (f (tget {} s.lanes n)) }

/-- The world that owns a rectangle: rectangle numbers are 8 × world + slot (R14). -/
def worldOf (rid : Nat) : Nat := rid / 8

/-- A number no task, block, command or write has had. -/
def fresh (s : State) : Nat × State := (s.nextId, { s with nextId := s.nextId + 1 })

/-- The block a core runs, if it runs one. -/
def runOf (s : State) (rid c : Nat) : Option BlockRun :=
  match (coreAt s rid c).phase with
  | .run b => some b
  | _ => none

/-- Change the block a core runs. -/
def modRun (s : State) (rid c : Nat) (f : BlockRun → BlockRun) : State :=
  match runOf s rid c with
  | some b => modCore s rid c fun k => { k with phase := .run (f b) }
  | none => s

/-! ### Geometry (R8 to R11, R144, R323) -/

/-- The tile of core number c in rectangle coordinates: cores are numbered by Y and then X (R144). -/
def coreX (r : Rect) (c : Nat) : Nat := 2 * (c % (2 * r.w)) + c / (2 * r.w) % 2
def coreY (r : Rect) (c : Nat) : Nat := c / (2 * r.w)

/-- Cores of a rectangle: eight a page (R7). -/
def coreCount (r : Rect) : Nat := 8 * r.w * r.h

/-- The core at a tile, when the tile is a compute tile of the rectangle (R9). -/
def coreXY (r : Rect) (x y : Int) : Option Nat :=
  if 0 ≤ x ∧ x < 4 * r.w ∧ 0 ≤ y ∧ y < 4 * r.h ∧ (x + y) % 2 = 0 then
    some (y.toNat * (2 * r.w) + x.toNat / 2)
  else none

/-- The number of a tile, when it is a memory tile of the rectangle (R9, R23). -/
def tileXY (r : Rect) (x y : Int) : Option Nat :=
  if 0 ≤ x ∧ x < 4 * r.w ∧ 0 ≤ y ∧ y < 4 * r.h ∧ (x + y) % 2 = 1 then
    some (y.toNat * (4 * r.w) + x.toNat)
  else none

def tileX (r : Rect) (t : Nat) : Nat := t % (4 * r.w)
def tileY (r : Rect) (t : Nat) : Nat := t / (4 * r.w)

/-- The memory tile at an offset from a core (R95). -/
def tileFrom (r : Rect) (c : Nat) (dx dy : Int) : Option Nat := tileXY r (coreX r c + dx) (coreY r c + dy)

/-- The die of a rectangle tile (R10). -/
def dieXY (r : Rect) (x y : Nat) : Nat := 2 * ((4 * r.ax + x) / 24) + (4 * r.ay + y) / 16
def coreDie (r : Rect) (c : Nat) : Nat := dieXY r (coreX r c) (coreY r c)
def tileDie (r : Rect) (t : Nat) : Nat := dieXY r (tileX r t) (tileY r t)

/-- The die of a page of the package grid (R8). -/
def pageDie (col row : Nat) : Nat := 2 * (col / 6) + row / 4

/-- The physical die a logical die lies on (R323). -/
def physDie (r : Rect) (d : Nat) : Nat := tget d r.dieMap d

/-- The logical die of a physical die; of two, the lower (log 10). -/
def logicalDie (r : Rect) (p : Nat) : Nat :=
  match r.dieMap.find? (fun e => e.2 == p) with
  | some e => e.1
  | none => p

/-! ### Clocks (R350): while a die relocks nothing of it changes -/

/-- The clock of a die runs: no PLL of it relocks (R350). -/
def clockRuns (s : State) (d : Nat) : Bool := !(dieAt s d).relock

/-- The clock of every die runs: the placer waits for it (R350, log 63). -/
def clocksRun (s : State) : Bool := (List.range 4).all (clockRuns s)

/-- The clock of the die of a queue's memory tile runs (R145, R350). -/
def queueRuns (s : State) (rid n : Nat) : Bool := clockRuns s (tileDie (rectAt s rid) (queueAt s rid n).tile)

/-- The clock of the die of a semaphore runs, and those of the cores whose scratchpads hold continuations that a change of it may
satisfy (R165, R350). -/
def semRuns (s : State) (rid d : Nat) : Bool :=
  clockRuns s (physDie (rectAt s rid) d) && (ldieAt s rid d).conts.all fun k => clockRuns s (coreDie (rectAt s rid) k.core)

/-- The clock of the die of a rectangle's anchor page runs, on which its commit arbiter stands (R158, R350). -/
def arbiterRuns (s : State) (rid : Nat) : Bool := clockRuns s (pageDie (rectAt s rid).ax (rectAt s rid).ay)

/-! ### Spawn records (R147) -/

/-- Bytes i to i + n - 1 of a record. -/
def recBytes (rcd : BitVec 512) (i n : Nat) : Nat := rcd.toNat / 256 ^ i % 256 ^ n
def recEntry (rcd : BitVec 512) : Nat := recBytes rcd 0 2 % 16384
def recStage (rcd : BitVec 512) : Nat := recBytes rcd 2 1 % 16
def recOrdered (rcd : BitVec 512) : Bool := recBytes rcd 3 1 % 2 = 1
def recSpec (rcd : BitVec 512) : Bool := recBytes rcd 3 1 / 2 % 2 = 1
def recTs (rcd : BitVec 512) : Nat := recBytes rcd 16 8
def recIdx (rcd : BitVec 512) : Nat := recBytes rcd 24 8
/-- Argument A1 to A4. -/
def recArg (rcd : BitVec 512) (k : Nat) : Nat := recBytes rcd (24 + 8 * k) 8

/-- Declared region 0 or 1 of a record (R147). -/
def recRegion (rcd : BitVec 512) (j : Nat) : List Region :=
  let len := recBytes rcd (4 + 4 * j) 4
  let ctl := recBytes rcd (12 + j) 1
  if len = 0 then [] else
    [{ base := recArg rcd (ctl % 8), len := len, rd := ctl / 8 % 2 = 1, wr := ctl / 16 % 2 = 1 }]

/-- The regions of a task: those its record declares and those of its stage (R99). -/
def taskRegions (s : State) (rid : Nat) (rcd : BitVec 512) : List Region :=
  recRegion rcd 0 ++ recRegion rcd 1 ++ (stageAt s rid (recStage rcd)).regions

/-! ### Interrupts, time and error records (R299, R305, R343) -/

def emit (s : State) (o : Out) : State := { s with outs := s.outs ++ [o] }

/-- Time passes before it is read, by an amount the spec does not give (log 9). -/
def tick (s : State) : State :=
  { s with ns := s.ns + BitVec.ofNat 64 (Config.elapsed s.free), free := s.free + 1 }

/-- An error record before it is laid out (R299). -/
structure ErrRec where
  cause : Nat
  cause2 : Nat := 0
  kind : Nat
  stage : Nat := 0
  core : Nat := 0
  faddr : Nat := 0
  fblk : Nat := 0
  fslot : Nat := 0
  code : Nat := 0
  fiter : Nat := 0
  ts : Nat := 0
  status : Nat := 0

/-- The 64 bytes of an error record (R299). -/
def ErrRec.bytes (e : ErrRec) (lost : Nat) (ns : W64) : List Byte :=
  bytesOf 2 (e.cause % 512) ++ bytesOf 2 (e.cause2 % 512) ++ bytesOf 1 e.kind ++ bytesOf 1 (e.stage % 16) ++
  bytesOf 2 e.core ++ bytesOf 8 e.faddr ++ bytesOf 2 (e.fblk % 16384) ++ bytesOf 1 e.fslot ++
  bytesOf 1 (if lost = 0 then 0 else 1) ++ bytesOf 2 e.code ++ bytesOf 2 (min lost 65535) ++ bytesOf 8 e.fiter ++
  bytesOf 8 e.ts ++ bytesOf 8 ns.toNat ++ bytesOf 4 e.status ++ bytesOf 12 0

/-- Post a record to a world's error queue; a record that finds it full or disabled is dropped and counted (R299). -/
def post (s : State) (w : Nat) (e : ErrRec) : State :=
  let s := tick s
  let q := worldAt s w
  let size := 2 ^ (q.eqsize % 32)
  if q.eqsize < 6 ∨ 16 < q.eqsize ∨ (q.eqtail - q.eqhead).toNat = size then
    modWorld s w fun q => { q with lost := q.lost + 1 }
  else
    let a := q.eqbase.toNat + 64 * (q.eqtail.toNat % size)
    let s := writeKeys s (Place.key (.glob 2 a)) (e.bytes q.lost s.ns)
    let s := modWorld s w fun q => { q with eqtail := q.eqtail + 1, lost := 0 }
    if q.eqvec.getLsbD 7 then emit s (.irq w (q.eqvec.toNat % 32)) else s

/-- Post a cause of class 11 or of the feeders, which names no task (R289, R250). -/
def postWorld (s : State) (w cause kind : Nat) : State := post s w { cause := cause, kind := kind }

/-- Post a cause that no instruction stands to take, with the task's record (R108, R117, R148). -/
def postFor (s : State) (rid core cause kind : Nat) (faddr : Nat) (rcd : BitVec 512) (fslot : Nat := 0) : State :=
  post s (worldOf rid) { cause := cause, kind := kind, stage := recStage rcd, core := core, faddr := faddr,
                         fslot := fslot, fiter := recIdx rcd, ts := recTs rcd }

/-! ### Ordered domains (R158 to R160) -/

/-- R158: no earlier record of the domain is outstanding. A task that is not in the domain is safe. -/
def isSafe (d : Domain) (uid : Nat) : Bool :=
  match d.out.find? (fun o => o.uid == uid) with
  | none => true
  | some o => d.out.all fun p => decide (o.ts ≤ p.ts)

/-- The safe mark after a change: the highest TS of any record that is safe (R158). Every outstanding record counts as a task
here, also one that waits in the hold or re-run list, which the spec does not say (log 24). -/
def safeMarkOf (d : Domain) : Nat :=
  d.out.foldl (fun m o => if isSafe d o.uid && decide (m < o.ts) then o.ts else m) d.safeMark

/-- Move each held record whose overlapped tasks have all left the domain to its stage's re-run list, several in the order in which they
were held, which the spec does not give (R159, log 107). -/
def releaseHeld (r : Rect) : Rect :=
  let gone := fun (h : ReRec × List Nat) => h.2.all fun u => !(r.dom.out.any fun o => o.uid == u)
  let go := r.dom.hold.filter gone
  let stay := r.dom.hold.filter fun h => !gone h
  go.foldl (fun r h => { r with stages := tmod {} r.stages (recStage h.1.rcd) fun st => { st with rerun := st.rerun ++ [h.1] } })
    { r with dom := { r.dom with hold := stay } }

/-- The tasks of the domain that a write may abort have cores on dies whose clocks run (R160, R350). -/
def domainRuns (s : State) (rid : Nat) : Bool :=
  let r := rectAt s rid
  r.dom.out.all fun o => !o.started || isSafe r.dom o.uid || clockRuns s (coreDie r o.core)

/-- Settle the domain after its outstanding records changed. -/
def settleDomain (r : Rect) : Rect :=
  releaseHeld { r with dom := { r.dom with safeMark := safeMarkOf r.dom } }

/-- A record leaves the domain: committed, ended, discarded or halted (R158). -/
def domainLeave (s : State) (rid uid : Nat) : State :=
  modRect s rid fun r => settleDomain { r with dom := { r.dom with out := r.dom.out.filter fun o => o.uid != uid } }

/-- Drained entries of a core that have not performed. -/
def onWay (k : Core) : List Draining := k.drain ++ k.replay

/-- Drained entries of a task that have not performed, with the core that drains them: a task that parked may have some on the
core that it left (R89, R108). -/
def taskDrains (r : Rect) (uid : Nat) : List (Nat × Draining) :=
  r.cores.flatMap fun k => ((onWay k.2).filter fun d => d.entry.task == uid).map fun d => (k.1, d)

/-- A task that ends without its own commit leaves its domain: at once, or, while entries that it committed still drain, as a task
that commits, so that no later one is safe before they have performed (R108, R135, R158, log 94). -/
def domainEnd (s : State) (rid c uid : Nat) : State :=
  if (taskDrains (rectAt s rid) uid).isEmpty then domainLeave s rid uid
  else
    let f := fresh s
    modRect f.2 rid fun r => { r with dom := { r.dom with out := r.dom.out.map fun o =>
      if o.uid = uid then { o with finished := true, committing := true, order := f.1, core := c } else o } }

/-- The core that an outstanding task runs on (R158). -/
def runsOn (s : State) (rid uid c : Nat) : State :=
  modRect s rid fun r => { r with dom := { r.dom with out := r.dom.out.map fun o => if o.uid = uid then { o with core := c } else o } }

/-- Whether the task a core runs is safe (R158). -/
def taskSafe (s : State) (rid c : Nat) : Bool :=
  match (coreAt s rid c).task with
  | some t => isSafe (rectAt s rid).dom t.uid
  | none => true

def taskOrdered (s : State) (rid c : Nat) : Bool :=
  match (coreAt s rid c).task with
  | some t => recOrdered t.rcd
  | none => false

/-! ### The end of a task on its core (R87, R88, R110, R117, R163, R278) -/

/-- Deferred spawns of a task into a queue that have still to drain, on whichever core holds them (R106, R108). -/
def spawnsDue (s : State) (rid uid n : Nat) : Nat :=
  ((rectAt s rid).cores.flatMap fun k => k.2.entries ++ (onWay k.2).map (·.entry)).countP fun e =>
    e.task == uid && (match e.kind with
      | .spawn rcd => (stageAt s rid (recStage rcd)).queue == n
      | _ => false)

/-- The reservations of a queue, of which a task keeps at most n entries. -/
def capResv (uid : Nat) : Nat → List (Nat × Nat) → List (Nat × Nat)
  | _, [] => []
  | n, (u, m) :: l =>
    if u ≠ uid then (u, m) :: capResv uid n l
    else if min n m = 0 then capResv uid n l
    else (u, min n m) :: capResv uid (n - min n m) l

/-- The reservations of a task are released, but for one entry for each of its deferred spawns into the queue that has still to drain:
a SPAWN consumes a reservation of its task first, so that it neither waits nor spills (R163, log 34). -/
def releaseResv (s : State) (rid uid : Nat) : State :=
  modRect s rid fun r =>
    { r with queues := r.queues.map fun q => (q.1, { q.2 with resv := capResv uid (spawnsDue s rid uid q.1) q.2.resv }) }

/-- Free the fence records and reservations of a task, and post the causes its engines reported too late (R117, R163, R278). The spec
does not say when the reservations of an inline child end, which has its parent's number: here with its parent (log 34). -/
def releaseTask (s : State) (rid c : Nat) : State :=
  match (coreAt s rid c).task with
  | none => s
  | some t =>
    let k := coreAt s rid c
    let late := k.causes
    let s := modCore s rid c fun k => { k with fences := k.fences.filter (fun f => f.2.task != t.uid), causes := [] }
    late.foldl (fun s p => postFor s rid c p.cause 2 p.faddr.toNat p.rcd 64) (releaseResv s rid t.uid)

/-- The core is free: no task, no block, no inline links, and it is in task mode, in which a task starts (R157, R295). -/
def freeCore (s : State) (rid c : Nat) : State :=
  modCore s rid c fun k => { k with task := none, phase := .idle, links := [], vloads := [],
                                    csr := { k.csr with depth := 0, cdepth := 0, hmode := false, cread := false } }

/-- Drop the commit-buffer entries of a task, deferred spawns included (R110). -/
def dropEntries (s : State) (rid c uid : Nat) : State :=
  modCore s rid c fun k => { k with entries := k.entries.filter fun e => e.task != uid }

/-- Discard the task a core runs (R110, R298): its entries are dropped, an ordered task counts as committed. -/
def discardTask (s : State) (rid c : Nat) : State :=
  match (coreAt s rid c).task with
  | none => freeCore s rid c
  | some t =>
    let s := dropEntries s rid c t.uid
    let s := releaseTask s rid c
    freeCore (domainEnd s rid c t.uid) rid c

/-- The record of a discard or escalation, from the trap CSRs (R299). -/
def trapRecord (s : State) (rid c kind cause : Nat) : ErrRec :=
  let k := coreAt s rid c
  let t := k.task.getD {}
  { cause := cause, cause2 := k.csr.cause2, kind := kind, stage := k.stage.getD 0, core := c, faddr := k.csr.faddr.toNat,
    fblk := k.csr.fblk, fslot := k.csr.fslot, fiter := k.csr.fiter.toNat, ts := recTs t.rcd }

/-- ERET discard, and the discard action where no handler is entered (R293, R298). -/
def discardWith (s : State) (rid c cause : Nat) : State :=
  let e := trapRecord s rid c 0 cause
  let e := if 384 ≤ cause then { e with cause := 0x148, faddr := cause } else e
  discardTask (post (modCsr s rid c fun q => { q with hmode := false, cread := false }) (worldOf rid) e) rid c

/-! ### Taking an exception and returning from one (R52, R293 to R298) -/

/-- R52: the block ends; its register writes, its own commit-buffer lines and waiting pushes are dropped. -/
def dropBlock (s : State) (rid c : Nat) (id : Nat) : State :=
  modCore s rid c fun k => { k with entries := k.entries.filter fun e => e.blk != id }

def isVectorLoad (l : Load) : Bool :=
  match l.dst with
  | .vector _ => true
  | .scalar _ _ _ => false

/-- R52: a vector load of the block that has issued, and does not fault itself, performs in full after the block has ended. Its
lookup, where it has not been answered, stays open (R101). -/
def keepLoads (s : State) (rid c : Nat) (b : BlockRun) (slot : Option Nat) : State :=
  modCore s rid c fun k => { k with vloads := k.vloads ++
    (b.loads.filter fun l => isVectorLoad l && slot != some l.slot).map fun l =>
      { l with unchecked := b.lookups.any fun q => q.slot == l.slot } }

/-- The handler save area: g0 to g63, FPFLAGS, CDEPTH and DEPTH (R294). -/
def saveArea (s : State) (rid c : Nat) : State :=
  let k := coreAt s rid c
  let gs := (List.range 64).foldr (fun i l => bytesOf 8 (tget 0 k.g i).toNat ++ l) []
  writeKeys s (Place.key (.scr rid c 0x3F000))
    (gs ++ bytesOf 8 k.csr.fpflags.toNat ++ bytesOf 8 (k.csr.cdepth % 128 + 256 * k.csr.depth))

/-- R296: a fault or a HALT before CAUSE was read halts the core; the fault posts records of kind 5. The task has not ended: what it
reserved in queues stays reserved until the Periscope resumes the core (R163 names no halt, log 34). -/
def haltCore (s : State) (rid c : Nat) (record : Bool) : State :=
  let w := worldOf rid
  let e := trapRecord s rid c 5 (coreAt s rid c).csr.cause
  let s := if record then post s w e else s
  let s := if record && w != 0 then post s 0 { e with faddr := 0 } else s
  let s := modCsr s rid c fun q => { q with halted := true }
  match (coreAt s rid c).task with
  | none => s
  | some t => modCore (domainEnd (dropEntries s rid c t.uid) rid c t.uid) rid c fun k => { k with phase := .idle }

/-- R296: a fault in handler mode never enters the handler again. -/
def handlerFault (s : State) (rid c cause : Nat) : State :=
  let s := modCsr s rid c fun q => { q with cause2 := cause }
  if (coreAt s rid c).csr.cread then discardWith s rid c (coreAt s rid c).csr.cause else haltCore s rid c true

/-- R293 step 3 and 4: enter handler mode and go to the handler's entry block. -/
def enterHandler (s : State) (rid c : Nat) : State :=
  let s := modCsr s rid c fun q => { q with hmode := true, cread := false, tpend := false }
  let s := saveArea s rid c
  let hv := (coreAt s rid c).csr.hvec.toNat % 16384
  if hv < 15360 then handlerFault s rid c 0x145
  else modCore s rid c fun k => { k with phase := .fetch hv }

/-- R308 step 2: a block that is not bound is abandoned and stands at its header again; a core in handler mode runs on
(R309). -/
def abandonUnbound (s : State) (rid c : Nat) : State :=
  let k := coreAt s rid c
  if k.csr.hmode then s
  else
    match k.phase with
    | .run b => if b.bound then s else modCore (dropBlock s rid c b.id) rid c fun k => { k with phase := .fetch b.h }
    | .ready b => modCore s rid c fun k => { k with phase := .fetch b.h }
    | _ => s

/-- Step 2 of R308 for every core of a rectangle. -/
def abandonAll (s : State) (rid : Nat) : State :=
  (List.range (coreCount (rectAt s rid))).foldl (fun s c => abandonUnbound s rid c) s

/-- The placer is moving the rectangle (R325). -/
def isMoving (s : State) (rid : Nat) : Bool :=
  match s.pass.moving with
  | some m => m.1 == rid
  | none => false

/-- R302: a debug event of an unlocked, armed world stops the rectangle instead of entering the handler. -/
def debugHalts (s : State) (rid cause : Nat) : Bool :=
  let w := worldAt s (worldOf rid)
  (cause == 0x143 || cause == 0x144 || cause == 0x149) && w.unlocked && w.armed

/-- Take an exception in task mode, or fault in handler mode (R52, R293, R296). While the rectangle stops, for a move of the placer too,
the core keeps it for the resume (R309, log 49). `slot` is none where FSLOT.NONE is 1. -/
def takeTrap (s : State) (rid c cause : Nat) (faddr : W64) (fblk : Nat) (slot : Option Nat) : State :=
  let k := coreAt s rid c
  let s := match k.phase with
    | .run b => keepLoads (dropBlock s rid c b.id) rid c b slot
    | _ => s
  let s := modCore s rid c fun k => { k with phase := .fetch fblk }
  if k.csr.hmode then handlerFault s rid c cause
  else
    let idx := match k.task with
      | some t => recIdx t.rcd
      | none => 0
    let s := modCsr s rid c fun q =>
      { q with cause := cause, cause2 := 0, faddr := faddr, fblk := fblk,
               fslot := (match slot with | some n => n % 64 | none => 64), fiter := BitVec.ofNat 64 idx }
    if debugHalts s rid cause then
      abandonAll (modCore s rid c fun k =>
        { k with stepping := false, stepped := false, csr := { k.csr with dbg := true, matched := cause == 0x144 || cause == 0x149 } }) rid
    else if (rectAt s rid).freeze = .stopping ∨ (rectAt s rid).freeze = .stuck then
      modCsr s rid c fun q => { q with tpend := true }
    else if k.csr.hvec.getLsbD 63 then enterHandler s rid c
    else discardWith s rid c cause

/-- A sequenced instruction of another slot has issued and not yet performed in full: a fault of the block waits for it (R52). -/
def halfDone (b : BlockRun) (slot : Option Nat) : Bool := b.part.any fun k => !resolved b k && slot != some k

/-- Nothing of a slot is awaited any more: it has faulted. -/
def dropSlot (b : BlockRun) (n : Nat) : BlockRun :=
  { b with slots := modAt b.slots n fun _ => .fired, loads := b.loads.filter (·.slot != n), lookups := b.lookups.filter (·.slot != n) }

/-- The fault that a block keeps which waits to end by one: an instruction that had issued and does not perform in full is the
faulting one where its slot is the lower; another fault comes too late (R52, log 86). -/
def keptFault (b : BlockRun) (f g : Nat × W64 × Option Nat) : Nat × W64 × Option Nat :=
  match g.2.2 with
  | some n => if b.part.contains n && decide (n < f.2.2.getD 64) then g else f
  | none => f

/-- A block that waits to end by a fault meets a further one. -/
def laterFault (f g : Nat × W64 × Option Nat) (b : BlockRun) : BlockRun :=
  match g.2.2 with
  | some n => { dropSlot b n with fault := some (keptFault b f g) }
  | none => b

/-- The exception of a slot of the running block: taken at once, or, while an instruction that has issued has still to perform in
full, kept until it has (R52). -/
def trapSlot (s : State) (rid c cause : Nat) (faddr : W64) (slot : Option Nat) : State :=
  match runOf s rid c with
  | some b =>
    match b.fault with
    | some f => modRun s rid c (laterFault f (cause, faddr, slot))
    | none =>
    if halfDone b slot then modRun s rid c fun b => { b with fault := some (cause, faddr, slot) }
    else takeTrap s rid c cause faddr b.h slot
  | none => s

/-- FPFLAGS as its fields hold it: the flags [5:0] and SATCNT [31:16]; the rest is reserved and reads 0 (R5, R173). -/
def flagsWord (v : Nat) : W64 := BitVec.ofNat 64 (v % 64 + 65536 * bitsOf v 31 16)

/-- Return from an exception: restore from the save area and go to a block in task mode (R294, R298). -/
def returnTrap (s : State) (rid c target : Nat) : State :=
  let base := Place.key (.scr rid c 0x3F000)
  let g : Tab W64 := (List.range 64).map fun i => (i, BitVec.ofNat 64 (readNat s (base + 8 * i) 8))
  let fp := readNat s (base + 0x200) 8
  let d := readNat s (base + 0x208) 8
  modCore s rid c fun k =>
    { k with g := g, phase := .fetch target,
             csr := { k.csr with hmode := false, cread := false, fpflags := flagsWord fp, cdepth := d % 128, depth := d / 256 % 16 } }

/-! ### Ports and queues (R42, R145, R146, R163) -/

/-- The binding of a port in the stage of a core (R146). An inline child uses the ports of its core's stage too, whatever stage its record
names: the spec has the ports of the task's stage and the bindings of the core's, and does not say which of the two here (log 105). -/
def portBind (s : State) (rid c p : Nat) : Option PortBind :=
  match (coreAt s rid c).stage with
  | some st => (stageAt s rid st).ports.find? fun b => b.port == p
  | none => none

/-- Entries reserved by anyone (R163). -/
def reserved (q : Queue) : Nat := (q.resv.map (·.2)).sum
/-- Entries reserved by one task. -/
def reservedBy (q : Queue) (uid : Nat) : Nat := ((q.resv.filter fun v => v.1 == uid).map (·.2)).sum

/-- Entries in the queue. -/
def held (q : Queue) : Nat := if q.isTask then q.recs.length else q.vals.length

/-- Use up one reservation of a task. -/
def useResv : List (Nat × Nat) → Nat → List (Nat × Nat)
  | [], _ => []
  | (u, n) :: l, uid => if u = uid ∧ 0 < n then (if n = 1 then l else (u, n - 1) :: l) else (u, n) :: useResv l uid

/-- Whether a push by a task finds an entry: its own reservation, or a free entry nobody reserved (R152, R163). -/
def roomFor (q : Queue) (uid : Nat) : Bool := decide (0 < reservedBy q uid) || decide (held q + reserved q < q.cap)

/-- Push a value (R42, R163). -/
def pushValue (q : Queue) (uid : Nat) (v : W64) : Queue :=
  { q with vals := q.vals ++ [v], resv := if 0 < reservedBy q uid then useResv q.resv uid else q.resv }

def coreUid (s : State) (rid c : Nat) : Nat := ((coreAt s rid c).task.map (·.uid)).getD 0

/-- R101: an access of a lower slot whose lookup has not been answered holds an immediate operation. -/
def lookupsBelow (b : BlockRun) (slot : Nat) : Bool := b.lookups.any fun l => decide (l.slot < slot)

/-- Whether an entry of pushes waits for a lower slot of its port (R42). -/
def pushBlocked (b : BlockRun) (p : PortProd) : Bool :=
  b.pushes.any fun q => q.port == p.port && decide (q.slot < p.slot) && q.st != .past

/-- R121: a push waits while a fence of a lower slot has not finished. -/
def fencePending (b : BlockRun) (slot : Nat) : Bool :=
  (List.range slot).any fun k => !resolved b k && (wordOf b k).extractLsb' 25 7 == 0x4A#7

/-- What a delivered push of a block waits for: lower slots, fences and safety; in a block that has faulted none performs (R42,
R52, R53). -/
def pushHeld (s : State) (rid c : Nat) (b : BlockRun) (p : PortProd) : Bool :=
  b.fault.isSome || pushBlocked b p || lookupsBelow b p.slot || fencePending b p.slot || !taskSafe s rid c

/-- The cause of a push to a port that is not bound as a push side (R146). -/
def pushCause (s : State) (rid c port : Nat) : Option Nat :=
  match portBind s rid c port with
  | none => some 0x0A0
  | some pb => if pb.pop then some 0x0A1 else none

/-- Try to perform one delivered push of a block: it waits for lower slots, for safety and for room; an unbound port
faults (R42, R53, R146). -/
def tryPush (s : State) (rid c : Nat) (ix : Nat) : State :=
  match runOf s rid c with
  | none => s
  | some b =>
    match b.pushes[ix]? with
    | none => s
    | some p =>
      match p.st with
      | .ready v =>
        if pushHeld s rid c b p then s
        else
          match portBind s rid c p.port with
          | none => trapSlot s rid c 0x0A0 0 (some p.slot)
          | some pb =>
            if pb.pop then trapSlot s rid c 0x0A1 0 (some p.slot)
            else if queueRuns s rid pb.queue && roomFor (queueAt s rid pb.queue) (coreUid s rid c) then
              let s := modQueue s rid pb.queue fun q => pushValue q (coreUid s rid c) v
              modRun s rid c fun b => { b with bound := true, pushes := modAt b.pushes ix fun p => { p with st := .past } }
            else s
      | _ => s

/-! ### Delivery inside a block (R38 to R42) -/

/-- A slot is listed as a producer of a port when its block starts; one that is not is listed when it delivers. -/
def notePush (ps : List PortProd) (slot port : Nat) (st : PushSt) : List PortProd × Nat :=
  match findIx (fun p : PortProd => p.slot == slot && p.port == port) ps with
  | some (ix, _) => (modAt ps ix fun p => { p with st := st }, ix)
  | none => (ps ++ [{ slot := slot, port := port, st := st }], ps.length)

/-- Deliver a value, or a null, to one target of a slot (R40 to R42, R47). -/
def deliver (s : State) (rid c slot : Nat) (v : Option W64) (t : BitVec 9) : State :=
  match runOf s rid c with
  | none => s
  | some b =>
    let toOp := fun n side =>
      if resolved b n then s
      else
        let o := operand b n side
        if v.isSome && o.val.isSome then trapSlot s rid c 0x009 0 (some n)
        else modRun s rid c fun b =>
          decideQuash { b with ops := tset b.ops (opKey n side) { left := o.left - 1, val := if v.isSome then v else o.val } } n
    match target t with
    | .left n => toOp n 0
    | .right n => toOp n 1
    | .predicate n => toOp n 2
    | .reg n =>
      match v with
      | none => s
      | some x =>
        if (tfind b.regs n).isSome then trapSlot s rid c 0x00A 0 (some slot)
        else modRun s rid c fun b => { b with regs := tset b.regs n x }
    | .port n =>
      let r := notePush b.pushes slot n (match v with | some x => .ready x | none => .past)
      tryPush (modRun s rid c fun b => { b with pushes := r.1 }) rid c r.2
    | .none => s
    | .illegal => s

/-- The fault that a delivery raises, with the slot that it names (R40, R41, R146). -/
def deliveryFault (s : State) (rid c slot : Nat) (v : Option W64) (t : BitVec 9) : Option (Nat × Nat) :=
  match runOf s rid c with
  | none => none
  | some b =>
    let toOp := fun n side => if !resolved b n && v.isSome && (operand b n side).val.isSome then some (0x009, n) else none
    match target t with
    | .left n => toOp n 0
    | .right n => toOp n 1
    | .predicate n => toOp n 2
    | .reg n => if v.isSome && (tfind b.regs n).isSome then some (0x00A, slot) else none
    | .port n =>
      if v.isSome && !pushHeld s rid c b { slot := slot, port := n } then (pushCause s rid c n).map fun e => (e, slot) else none
    | .none => none
    | .illegal => none

/-- Of two faults of one cycle the lower slot's (R52). -/
def lowerOf (f : Option (Nat × Nat)) (g : Nat × Nat) : Option (Nat × Nat) :=
  match f with
  | none => some g
  | some f => some (if g.2 < f.2 then g else f)

/-- Deliveries of one cycle, with their slots: all are made, and where several fault the lower slot's cause is raised (R52). The spec
does not say what becomes of a value that arrives in the very cycle in which its consumer's quash is decided, for R47 discards only
what comes after: here the deliveries of a cycle act in their order, and such a value is discarded where it comes after the one that
decides the quash, and counts, 0x009 included, where it comes before (log 86). -/
def deliverCycle (s : State) (rid c : Nat) (ds : List (Nat × Option W64 × BitVec 9)) : State :=
  let x := ds.foldl (fun (x : State × Option (Nat × Nat)) d =>
    match deliveryFault x.1 rid c d.1 d.2.1 d.2.2 with
    | some g => (x.1, lowerOf x.2 g)
    | none => (deliver x.1 rid c d.1 d.2.1 d.2.2, x.2)) (s, none)
  match x.2 with
  | some g => trapSlot x.1 rid c g.1 0 (some g.2)
  | none => x.1

/-- Deliver to every target (R33 send and send_null). -/
def deliverAll (s : State) (rid c slot : Nat) (v : Option W64) (ts : List (BitVec 9)) : State :=
  deliverCycle s rid c (ts.map fun t => (slot, v, t))

/-- Set what became of a slot. A dataflow slot that fires as the first of its cycle leaves the second its turn (R48). -/
def setSlot (s : State) (rid c slot : Nat) (st : SlotSt) : State :=
  modRun s rid c fun b =>
    let b' := { b with slots := modAt b.slots slot fun _ => st }
    if st = .fired ∧ isSequencedWord (wordOf b slot) = false ∧ isGetWord (wordOf b slot) = false then { b' with pair := flowPartner b' slot } else b'

/-- Bind the running block (R54). -/
def bind (s : State) (rid c : Nat) : State := modRun s rid c fun b => { b with bound := true }

/-! ### Issuing an instruction (R47, R48) -/

/-- What the effect of an instruction that is ready answers: it must wait, it has performed and delivers nothing, it
delivers a value or nulls, or it raises a cause with an address. -/
inductive Act where
  | hold
  | done (s : State)
  | send (s : State) (v : W64)
  | sendNull (s : State)
  | later (s : State)
  | trap (cause : Nat) (faddr : W64)

/-- The answer of an instruction whose record or descriptor could not be read: it waits or takes the cause. -/
def noDescriptor : Option (Nat × W64) → Act
  | none => .hold
  | some (e, a) => .trap e a

/-- R48: a sequenced instruction waits for every sequenced instruction below it. -/
def heldBack (b : BlockRun) (slot : Nat) : Bool :=
  (List.range slot).any fun k => !resolved b k && isSequencedWord (wordOf b k)

/-- R113, R182: a vector register that an earlier load has still to write holds the instruction. -/
def vectorBusy (k : Core) (b : BlockRun) (i : Instr) : Bool :=
  (b.loads ++ k.vloads).any fun l => match l.dst with
    | .vector v => (vectorRegs i).contains v
    | _ => false

/-- What R48, R113 and R182 ask before an instruction of a slot that is ready issues; after a fault only one that has issued goes
on (R52). -/
def mayIssue (k : Core) (b : BlockRun) (i : Instr) (slot : Nat) : Bool :=
  (b.fault.isNone || b.part.contains slot) &&
  if isSequenced i then !(heldBack b slot || vectorBusy k b i) else isGetWord (encode i) || flowTurn b slot

/-- A rectangle lives and is not frozen: its engines act (R308, R346). -/
def enginesAct (s : State) (rid : Nat) : Bool :=
  let r := rectAt s rid
  r.live && r.freeze != .frozen

/-- The die of a core lives: its rectangle is not frozen and its clock runs (R308, R350). -/
def coreLives (s : State) (rid c : Nat) : Bool := enginesAct s rid && clockRuns s (coreDie (rectAt s rid) c)

/-- The engines at a core act: drain, copies, ring and cross-die queues, and the array alone; they wait for the clocks of the tasks
that a write of theirs may abort (R160, R350). -/
def coreUnit (s : State) (rid c : Nat) : Bool := coreLives s rid c && domainRuns s rid

/-- The engine at a memory tile acts: its stream queues and its boards' writes, which wait as `coreUnit` says (R350). -/
def tileUnit (s : State) (rid t : Nat) : Bool :=
  enginesAct s rid && clockRuns s (tileDie (rectAt s rid) t) && domainRuns s rid

/-- Whether a core can act: its rectangle lives and is not frozen, its world is not LOCKED (R329), it is not halted, and
its die's clock runs (R350). -/
def coreActs (s : State) (rid c : Nat) : Bool :=
  coreLives s rid c && !(coreAt s rid c).csr.halted && (worldAt s (worldOf rid)).st != .locked

/-- The header of the block a core stands at, in task mode, when it stands at one. -/
def standsAt (k : Core) : Option Nat :=
  match k.phase with
  | .fetch h => if k.csr.hmode then none else some h
  | .ready b => if k.csr.hmode then none else some b.h
  | _ => none

/-- A core between blocks is in debug halt; in handler mode one is there after a step of the Periscope (R302, R314). -/
def debugHalted (k : Core) : Bool :=
  k.csr.dbg && !k.stepping && (!k.csr.hmode || k.stepped) && (match k.phase with
    | .run _ => false
    | _ => true)

/-- R325: idle, halted, in debug halt, or at the start of a block whose CUT bit is set. -/
def meetsCut (s : State) (rid c : Nat) : Bool :=
  let k := coreAt s rid c
  k.csr.halted || (k.phase == .idle && !k.csr.hmode) || debugHalted k ||
  (match standsAt k with
    | some h => (match k.phase with
        | .ready b => b.hdr.getLsbD 27
        | _ => (storeWord s rid c h).getLsbD 27)
    | none => false)

/-- The rectangle is in debug halt (R302). -/
def inDebug (s : State) (rid : Nat) : Bool := (rectAt s rid).cores.any fun k => k.2.csr.dbg

/-- R308 steps 1 to 3, R302, R309, R325: a core between blocks, in task mode, goes no further; for a move, where it meets the cut or
keeps an exception for the resume. A core that the Periscope steps
does, and one that it has stepped stands in handler mode too (R314). -/
def stopsHere (s : State) (rid c : Nat) : Bool :=
  let f := (rectAt s rid).freeze
  let k := coreAt s rid c
  debugHalted k ||
  (!k.csr.hmode && !k.stepping &&
    (inDebug s rid || ((f == .stopping || f == .stuck) && (!isMoving s rid || k.csr.tpend || meetsCut s rid c))))

/-- Issue an instruction in the slot the cursor names. A slot that is resolved, or not ready, is left as it is; a
slot that is quashed delivers nulls; a word that R61 does not allow raises its cause; an instruction keeps its place (R40,
R47, R48, R60). -/
def issueState (i : Instr) (f : W64 → W64 → State → Act) (s : State) : State :=
  let rid := s.cur.rid
  let c := s.cur.core
  let slot := s.cur.slot
  match runOf s rid c with
  | none => s
  | some b =>
    if !coreActs s rid c then s
    else if quashing b slot then deliverAll (setSlot s rid c slot .quashed) rid c slot none (targetsOf i)
    else if resolved b slot then s
    else
      match lowest i.details with
      | some d => trapSlot s rid c (0x020 + d) 0 (some slot)
      | none =>
        match readiness i b slot with
        | .waiting => s
        | .quashed => deliverAll (setSlot s rid c slot .quashed) rid c slot none (targetsOf i)
        | .ready l r =>
          if !mayIssue (coreAt s rid c) b i slot then s
          else
            match f l r s with
            | .hold => s
            | .done s' => setSlot s' rid c slot .fired
            | .send s' v => deliverAll (setSlot s' rid c slot .fired) rid c slot (some v) (targetsOf i)
            | .sendNull s' => deliverAll (setSlot s' rid c slot .fired) rid c slot none (targetsOf i)
            | .later s' => s'
            | .trap cause a => trapSlot s rid c cause a (some slot)

/-- A machine that goes on always answers a next state (R6). -/
abbrev Result := Host.Outcome State Fault Refusal

/-- The meaning of an instruction word: issue it. -/
def issue (i : Instr) (f : W64 → W64 → State → Act) (s : State) : Result := .next (issueState i f s)

end Sys2Proof.Machine
end

