-- ==== Sys2Proof/Machine/Monitor.lean ====
section
/-!
DEFINITION. Sys2Proof/Machine/Monitor.lean: the performance monitors: which of them serve a rectangle (R306, R351), what they sample
and count (R306), and their items (R307).
-/
namespace Sys2Proof.Machine

/-! ### The monitors of a rectangle -/

/-- MONALLOC of a monitor names a rectangle (R351). -/
def monFor (s : State) (rid n : Nat) : Bool :=
  let a := tget 0 s.monAlloc n
  a.getLsbD 7 && decide (a.toNat % 64 = worldOf rid) && decide (a.toNat / 256 % 8 = rid % 8)

/-- The logical die a monitor of a rectangle serves (R323, R326). -/
def monDie (s : State) (rid n : Nat) : Nat := (tget {} s.monitors n).ldie.getD (logicalDie (rectAt s rid) (n / 32))

/-- The monitors of a rectangle on a logical die, in order. -/
def monitorsOf (s : State) (rid d : Nat) : List Nat :=
  ((List.range 32).map fun k => 32 * physDie (rectAt s rid) d + k).filter fun n => monFor s rid n && monDie s rid n == d

/-- The monitor a monitor word names; none where it fails R306. -/
def monitorAt (s : State) (rid : Nat) (w : W64) : Option Nat :=
  if w.toNat / 1024 ≠ 0 then none else (monitorsOf s rid (bitsOf w.toNat 9 8))[w.toNat % 256]?

/-! ### Samples (R306, R307) -/

/-- One sample (R306, R307): every count saturates. -/
def takeSample (m : Monitor) (v : Nat) : Monitor :=
  let x := BitVec.ofNat 32 (min v 0xFFFFFFFF)
  let b := (m.edges.filter fun e => decide (e.toNat ≤ v)).length
  let up := fun (n : BitVec 32) => if n = 0xFFFFFFFF then n else n + 1
  let bins := (List.range 16).map fun i => m.bins[i]?.getD 0
  { m with min := if x.toNat < m.min.toNat then x else m.min, max := if m.max.toNat < x.toNat then x else m.max,
           count := up m.count, bins := modAt bins b up,
           sum := BitVec.ofNat 64 (Nat.min (m.sum.toNat + v) 0xFFFFFFFFFFFFFFFF) }

/-- A number of samples of one value. -/
def takeSamples (m : Monitor) (k v : Nat) : Monitor := (List.replicate k v).foldl takeSample m

/-- The input queue of a stage (R145). -/
def inputQueue (s : State) (rid stage : Nat) : Nat := (stageAt s rid stage).queue

/-- The entries that a task queue holds: what SRC 1 samples (R306). -/
def queueEntries (s : State) (rid q : Nat) : Nat := (queueAt s rid q).recs.length

/-- Before a queue changes, the monitors of its stage take the samples of the periods that have passed, how many the running part
alone tells (R306, log 9); a monitor whose die relocks takes none (R350). -/
def noteOccupancy (s : State) (rid q : Nat) : State :=
  { s with free := s.free + 1, monitors := s.monitors.map fun m =>
      if m.2.src = 1 ∧ monFor s rid m.1 = true ∧ clockRuns s (m.1 / 32) = true ∧ inputQueue s rid m.2.sel = q then
        (m.1, takeSamples m.2 (Config.monTimes s.free m.1) (queueEntries s rid q)) else m }

/-- An event of a rectangle on a die is one sample of the monitors that count it: 2 a matrix operation, 3 a grant wait, 4 a boarding
wait, 5 an access of the HBM4E stack `sel`. The cycles it took are a free value (R306, log 9). -/
def noteEvent (s : State) (rid die src : Nat) (sel : Nat := 0) : State :=
  { s with free := s.free + 1, monitors := s.monitors.map fun m =>
      if m.2.src = src ∧ m.2.sel = sel ∧ monFor s rid m.1 = true ∧ m.1 / 32 = die ∧ clockRuns s die = true then
        (m.1, takeSample m.2 (Config.latency s.free m.1)) else m }

/-- A monitor takes the samples that came since it was last looked at: of its queue as it stands, or of what the running part alone
tells; events were counted as they came (R306), and while its die relocks it takes none (R350). -/
def sampleMonitor (s : State) (rid n : Nat) : State :=
  let m := tget {} s.monitors n
  let put := fun (x : Monitor) => if clockRuns s (n / 32) then { s with free := s.free + 1, monitors := tset s.monitors n x } else s
  match m.src with
  | 1 => put (takeSamples m (Config.monTimes s.free n) (queueEntries s rid (inputQueue s rid m.sel)))
  | 6 => put ((Config.monSamples s.free).foldl takeSample m)
  | 7 => put ((Config.monSamples s.free).foldl takeSample m)
  | _ => s

/-! ### Items (R307) -/

/-- An item of a monitor (R307); none where the revision has no such item. -/
def monItem (b0 : Bool) (m : Monitor) (item : Nat) : Option W64 :=
  let pair := fun (hi lo : BitVec 32) => hi ++ lo
  if item = 0 then some (pair m.max m.min)
  else if item = 1 then some (pair 0 m.count)
  else if item ≤ 9 then some (pair (m.bins[2 * (item - 2) + 1]?.getD 0) (m.bins[2 * (item - 2)]?.getD 0))
  else if item = 10 ∧ b0 then some m.sum
  else none

end Sys2Proof.Machine
end

