-- ==== Sys2Proof/Machine/Access.lean ====
section
/-!
DEFINITION. Sys2Proof/Machine/Access.lean: addresses and their checks (R94 to R101), the commit buffer (R105 to R110), the
drain (R103, R108), immediate writes and their acknowledgement (R98, R133), and what a task reads (R107).
-/
namespace Sys2Proof.Machine

/-! ### Address fields (R94, R95) -/

def selector (a : W64) : Nat := a.toNat / 2 ^ 56
def isSpace (sel : Nat) : Bool := sel == 0 || (decide (0xF0 ≤ sel) && decide (sel ≤ 0xF5))

/-- The bits R95 marks zero. -/
def zeroBitsOk (a : W64) : Bool :=
  let x := a.toNat % 2 ^ 56
  match selector a with
  | 0 => true
  | 0xF0 => x / 2 ^ 18 == 0
  | 0xF1 => x / 2 ^ 48 == 0 && bitsOf x 31 21 == 0
  | 0xF2 => x / 2 ^ 42 == 0 && bitsOf x 39 26 == 0
  | 0xF3 => x / 2 ^ 42 == 0 && bitsOf x 39 14 == 0 && x % 4 == 0
  | 0xF4 => x / 2 ^ 42 == 0 && bitsOf x 39 26 == 0
  | 0xF5 => x / 2 ^ 16 == 0
  | _ => false

def addrDx (a : W64) : Int := sext 8 (bitsOf a.toNat 47 40)
def addrDy (a : W64) : Int := sext 8 (bitsOf a.toNat 39 32)
def addrDie (a : W64) : Nat := bitsOf a.toNat 41 40
def addrSem (a : W64) : Nat := bitsOf a.toNat 13 2

/-- Offset within the unit of a space other than 0x00. -/
def addrOff (a : W64) : Nat :=
  match selector a with
  | 0xF0 => bitsOf a.toNat 17 0
  | 0xF1 => bitsOf a.toNat 20 0
  | 0xF5 => bitsOf a.toNat 15 0
  | _ => bitsOf a.toNat 25 0

/-- An address plus a signed displacement, the selector kept (R112). -/
def addrPlus (a : W64) (d : Int) : W64 :=
  BitVec.ofNat 64 (selector a * 2 ^ 56 + wrap 56 ((a.toNat % 2 ^ 56 : Nat) + d))

/-! ### Who accesses -/

/-- The party an access is checked for: its rectangle and core, handler mode, and the regions an ordered task is
confined to (R96, R97, R99); the task it acts for with its record (R108, R160), and for an engine the command. -/
structure Who where
  rid : Nat
  core : Nat
  handler : Bool
  conf : Option (List Region)
  uid : Nat := 0
  rcd : BitVec 512 := 0
  cmd : Option Nat := none

/-- The task of a core as the party of an access. -/
def whoTask (s : State) (rid c : Nat) : Who :=
  let k := coreAt s rid c
  { rid := rid, core := c, handler := k.csr.hmode, uid := (k.task.map (·.uid)).getD 0, rcd := (k.task.map (·.rcd)).getD 0,
    conf := match k.task with
      | some t => if recOrdered t.rcd then some (taskRegions s rid t.rcd) else none
      | none => none }

/-- An engine command as the party of an access: task mode, its task's confinement (R96, R116). -/
def whoCmd (rid : Nat) (h : Hdr) : Who :=
  { rid := rid, core := h.core, handler := false, conf := h.conf, uid := h.task, rcd := h.rcd, cmd := some h.uid }

/-! ### translate (R97) -/

/-- Ranges of the scratchpad that task mode may not touch (R96). -/
def scratchRefused (off n : Nat) : Bool :=
  let meets := fun lo hi => decide (off < hi) && decide (lo < off + n)
  meets 0x3CA00 0x3EE00 || meets 0x3F000 0x40000

/-- The checks made at the core, in the order of R97; `allow` lists the spaces the instruction accepts. -/
def checkLocal (s : State) (who : Who) (a : W64) (n align : Nat) (allow : List Nat) : Except Nat Unit :=
  let r := rectAt s who.rid
  let sel := selector a
  let off := addrOff a
  if !isSpace sel then .error 0x060
  else if !zeroBitsOk a then .error 0x061
  else if !allow.contains sel then .error 0x063
  else if align ≠ 0 ∧ a.toNat % align ≠ 0 then .error 0x062
  else
    match sel with
    | 0xF0 =>
      if !who.handler && scratchRefused off n then .error 0x06A
      else if 0x40000 < off + n then .error 0x068 else .ok ()
    | 0xF5 =>
      if !who.handler && decide (61440 < off + n) && decide (off < 65536) then .error 0x06A
      else if 0x10000 < off + n then .error 0x068 else .ok ()
    | 0xF1 =>
      match tileFrom r who.core (addrDx a) (addrDy a) with
      | none => .error 0x067
      | some t =>
        if (tget {} r.tiles t).qbase < min (off + n) 0x200000 ∧ off < 0x200000 then .error 0x06B
        else if 0x200000 < off + n then .error 0x068 else .ok ()
    | 0xF2 => if (tget {} r.dies (addrDie a)).dbwin < off + n then .error 0x068 else .ok ()
    | 0xF3 => if (tget {} r.dies (addrDie a)).nsem ≤ addrSem a then .error 0x069 else .ok ()
    | 0xF4 => if (tget {} r.dies (addrDie a)).cellwin < off + n then .error 0x068 else .ok ()
    | _ => .ok ()

/-- Whether an extent covers a byte of a world (R99). -/
def Extent.covers (e : Extent) (w a : Nat) : Bool :=
  e.world == w && decide (e.vbase * 0x200000 ≤ a) && decide (a < (e.vbase + e.len) * 0x200000)

/-- The extent of a world that covers a byte. -/
def extentAt (s : State) (w a : Nat) : Option (Nat × Extent) :=
  s.extents.find? fun e => e.2.covers w a

/-- Whether a region that has the right of an access holds every byte of it (R97, 0x066). The spec does not say whether two
regions side by side may hold it together: here one must (log 22). -/
def regionsCover (rs : List Region) (a n : Nat) (wr : Bool) : Bool :=
  rs.any fun g => decide (g.base ≤ a) && decide (a + n ≤ g.base + g.len) && (if wr then g.wr else g.rd)

def needsRd (acc : Acc) : Bool := acc != .write
def needsWr (acc : Acc) : Bool := acc != .read

/-- The lease lookup of a global access (R97 0x064 to 0x066, R101). -/
def lookupGlobal (s : State) (who : Who) (a n : Nat) (acc : Acc) : Except Nat Unit :=
  match extentAt s (worldOf who.rid) a with
  | none => .error 0x064
  | some (_, e) =>
    if !(e.covers (worldOf who.rid) (a + n - 1)) then .error 0x064
    else if (needsRd acc && !e.rd) || (needsWr acc && !e.wr) then .error 0x065
    else
      match who.conf with
      | none => .ok ()
      | some rs =>
        if (needsRd acc && !regionsCover rs a n false) || (needsWr acc && !regionsCover rs a n true) then .error 0x066
        else .ok ()

/-- Every check of R97 together. -/
def translate (s : State) (who : Who) (a : W64) (n align : Nat) (acc : Acc) (allow : List Nat) : Except Nat Unit :=
  match checkLocal s who a n align allow with
  | .error e => .error e
  | .ok () => if selector a = 0 then lookupGlobal s who (a.toNat % 2 ^ 56) n acc else .ok ()

/-- The physical byte address of a global address in an extent. -/
def physical (e : Extent) (a : Nat) : Place := .glob e.tier (a - e.vbase * 0x200000 + e.pbase * 0x200000)

/-- The home of the first byte of an access that passed its checks (R131). -/
def homeOf (s : State) (who : Who) (a : W64) : Place :=
  let r := rectAt s who.rid
  match selector a with
  | 0 =>
    match extentAt s (worldOf who.rid) (a.toNat % 2 ^ 56) with
    | some (_, e) => physical e (a.toNat % 2 ^ 56)
    | none => .glob 3 (a.toNat % 2 ^ 56)
  | 0xF0 => .scr who.rid who.core (addrOff a)
  | 0xF1 => .mt who.rid ((tileFrom r who.core (addrDx a) (addrDy a)).getD 0) (addrOff a)
  | 0xF5 => .ist who.rid who.core (addrOff a)
  | _ => .db who.rid (addrDie a) (addrOff a)

/-- MASK bit of a home: its die, or 4 for tier 2 and host memory (R278, R377). -/
def targetOf (s : State) (who : Who) (a : W64) : Nat :=
  let r := rectAt s who.rid
  match selector a with
  | 0 =>
    match homeOf s who a with
    | .glob 0 x => x / 0x200000 / 32768 / 3
    | _ => 4
  | 0xF0 => coreDie r who.core
  | 0xF5 => coreDie r who.core
  | 0xF1 => tileDie r ((tileFrom r who.core (addrDx a) (addrDy a)).getD 0)
  | _ => physDie r (addrDie a)

/-- The clock of the die that holds the target of an access runs (R350). -/
def targetRuns (s : State) (who : Who) (a : W64) : Bool := clockRuns s (targetOf s who a)

/-! ### The channel check and errors in data (R98, R333) -/

/-- The key of the range table that checks a granule: its channel, or the tier-2 controller (R333, R377). -/
def channelOf (g : Nat) : Nat := if g < 2 ^ 19 then g / 32768 * 32 + g % 32 else 1000

/-- R333: an entry of the request's world covers the granule. Host memory has no table. -/
def channelServes (s : State) (w : Nat) : Place → Bool
  | .glob 2 _ => true
  | .glob _ a =>
    let g := a / 0x200000
    (tget [] s.ranges (channelOf g)).any fun e => e.world == w && decide (e.first ≤ g) && decide (g ≤ e.last)
  | _ => true

/-- Every granule an access touches is served. -/
def served (s : State) (w : Nat) (p : Place) (n : Nat) : Bool :=
  channelServes s w p && (match p with
    | .glob t a => channelServes s w (.glob t (a + n - 1))
    | _ => true)

/-- The class-4 cause that reading n bytes meets (R98). -/
def readError (s : State) (w : Nat) (p : Place) (n : Nat) : Option Nat :=
  if !served s w p n then some 0x080 else dataError s p.key n

/-! ### Windows, retention and what a write changes (R102, R103, R160, R205) -/

/-- The extent of a global access is in its switch-over window (R103). -/
def inWindow (s : State) (who : Who) (a : W64) : Bool :=
  selector a == 0 && (match extentAt s (worldOf who.rid) (a.toNat % 2 ^ 56) with
    | some (_, e) => (match e.mig with | some m => m.window | none => false)
    | none => false)

/-- A write meets a range an MMAC retains (R205). -/
def retainedAt (s : State) (p : Place) (n : Nat) : Bool :=
  match p with
  | .mt rid t off => (tileAt s rid t).retained.any fun g => decide (g.2.1 < off + n) && decide (off < g.2.2)
  | _ => false

/-- A write at memory must wait: for a window, for a range an MMAC retains, or for a clock, that of a task that it may abort included
(R103, R205, R350). -/
def writeHeld (s : State) (who : Who) (a : W64) (n : Nat) : Bool :=
  inWindow s who a || retainedAt s (homeOf s who a) n || !targetRuns s who a || !domainRuns s who.rid

/-- The number of a granule's version counter: host granules are counted apart, since their numbers are bus addresses
(R102, R377). A counter is that of a place, which a committed move does not carry along: the spec does not say whether the granule of
R102 is the place or what the extent keeps there (log 108). -/
def versionKey (tier g : Nat) : Nat := if tier = 2 then 2 ^ 40 + g else g

/-- Every write of a granule adds one to its version counter (R102). -/
def bumpVersion (s : State) (p : Place) : State :=
  match p with
  | .glob t a => { s with versions := tmod 0 s.versions (versionKey t (a / 0x200000)) (· + 1) }
  | _ => s

/-- The counters of the granules that n bytes lie in: at most two (R102). -/
def bumpRange (s : State) (p : Place) (n : Nat) : State :=
  match p with
  | .glob t a =>
    let s := bumpVersion s p
    if n ≠ 0 ∧ (a + n - 1) / 0x200000 ≠ a / 0x200000 then bumpVersion s (.glob t (a + n - 1)) else s
  | _ => s

/-- The line of a byte in spaces 0xF1, 0xF2 and 0xF4, and a mark of the space and die it lies in (R136): for 0xF1 the mark
names the tile, since the die of a tile changes with a move. Lines are numbered within their rectangle, so that a record of them means
the same after a restore into another slot of the world (R312). -/
def lineOf (s : State) (who : Who) (a : W64) : Option (Nat × Nat) :=
  let tile := (tileFrom (rectAt s who.rid) who.core (addrDx a) (addrDy a)).getD 0
  match selector a with
  | 0xF1 => some (tile * 2 ^ 20 + addrOff a / 64, 4096 + tile)
  | 0xF2 => some (2 ^ 40 + addrDie a * 2 ^ 20 + addrOff a / 64, 16 + addrDie a)
  | 0xF4 => some (2 ^ 44 + addrDie a * 2 ^ 20 + addrOff a / 64, 24 + addrDie a)
  | _ => none

/-- The marks of the whole of a space on the die of a byte (R136): in 0xF1 those of every tile of the die. -/
def spaceMarks (s : State) (who : Who) (a : W64) : List Nat :=
  let r := rectAt s who.rid
  if selector a = 0xF1 then
    ((List.range (16 * r.w * r.h)).filter fun t => tileDie r t == targetOf s who a).map (4096 + ·)
  else ((lineOf s who a).map (·.2)).toList

/-- Record the line an unsafe ordered task reads; the thirty-third widens the record to the marks (R136). -/
def recordLine (d : Domain) (uid : Nat) (l : Nat × Nat) (marks : List Nat) : Domain :=
  if isSafe d uid then d
  else { d with out := d.out.map fun o =>
    if o.uid ≠ uid ∨ o.lines.any (fun m => m.1 == l.1) ∨ o.wide.contains l.2 then o
    else if o.lines.length < 32 then { o with lines := o.lines ++ [l] } else { o with wide := o.wide ++ marks } }

def noteRead (s : State) (who : Who) (uid : Nat) (a : W64) : State :=
  match lineOf s who a with
  | some l => modRect s who.rid fun r => { r with dom := recordLine r.dom uid l (spaceMarks s who a) }
  | none => s

/-- Two byte ranges share a byte. -/
def meets (a n b m : Nat) : Bool := decide (a < b + m) && decide (b < a + n)

/-- R160: a write of an earlier task falls on what a later task read: inside the overlap of its readable and the
writer's writable regions, or on a recorded line or widened space. -/
def conflicts (s : State) (who : Who) (a : W64) (n : Nat) (writes : List Region) (o : Outst) : Bool :=
  let x := a.toNat % 2 ^ 56
  match selector a with
  | 0 =>
    (o.reads.any fun g => meets x n g.base g.len) && (writes.any fun g => meets x n g.base g.len)
  | _ =>
    match lineOf s who a, lineOf s who (addrPlus a (n - 1 : Nat)) with
    | some l, some m => o.lines.any (fun q => decide (l.1 ≤ q.1) && decide (q.1 ≤ m.1)) || o.wide.contains l.2
    | _, _ => false

/-- Abort a started task of the domain: its entries go, its record goes to its stage's re-run list, its core is
free if it ran it (R110, R160). -/
def abortTask (s : State) (rid : Nat) (o : Outst) : State :=
  let s := releaseResv (dropEntries s rid o.core o.uid) rid o.uid
  let k := coreAt s rid o.core
  let runs := match k.task with | some t => t.uid == o.uid | none => false
  let s := if runs then freeCore (releaseTask s rid o.core) rid o.core
    else modCore s rid o.core fun k => { k with fin := k.fin.filter fun t => t.uid != o.uid }
  let rr := if o.rerun < 255 then o.rerun + 1 else 255
  let s := modStage s rid o.stage fun st => { st with rerun := st.rerun ++ [{ rcd := o.rcd, uid := o.uid, rerun := rr }] }
  modRect s rid fun r => { r with dom := { r.dom with out := r.dom.out.map fun p =>
    if p.uid = o.uid then { p with started := false, finished := false, rerun := rr, lines := [], wide := [] } else p } }

/-- Timestamp and writable regions of the ordered task that writes: from the domain, or from its record where the task has left
the domain and an engine command of it still writes (R160); none for an unordered one. -/
def writerOf (s : State) (who : Who) (uid : Nat) : Option (Nat × List Region) :=
  match (rectAt s who.rid).dom.out.find? (fun o => o.uid == uid) with
  | some w => some (w.ts, w.writes)
  | none =>
    if recOrdered who.rcd then some (recTs who.rcd, (taskRegions s who.rid who.rcd).filter (·.wr)) else none

/-- A write of a task performs: the domain's later unsafe tasks that read there are aborted (R136, R160), several in the order in which
they were picked, which the spec does not give (log 107). -/
def orderedWrite (s : State) (who : Who) (uid : Nat) (a : W64) (n : Nat) : State :=
  let d := (rectAt s who.rid).dom
  match writerOf s who uid with
  | none => s
  | some w =>
    (d.out.filter fun o => o.uid != uid && o.started && decide (w.1 < o.ts) && !isSafe d o.uid &&
        conflicts s who a n w.2 o).foldl
      (fun s o => abortTask s who.rid o) s

/-- An access of a rectangle that performs at an HBM4E stack is one sample of the monitors of the stack's die that count it (R306,
R377, log 84). -/
def noteHbm (s : State) (rid : Nat) (p : Place) : State :=
  match p with
  | .glob 0 a =>
    let stack := a / 0x200000 / 32768
    noteEvent s rid (stack / 3) 5 (stack % 3)
  | _ => s

/-- Write bytes at memory for a task or command: the bytes, the version counter, the monitors, the domain (R102, R160, R306). -/
def performWrite (s : State) (who : Who) (uid : Nat) (a : W64) (bs : List Byte) : State :=
  let p := homeOf s who a
  orderedWrite (noteHbm (bumpRange (writeKeys s p.key bs) p bs.length) who.rid p) who uid a bs.length

/-- The party a drained entry performs for: its task may have ended. -/
def whoEntry (rid c : Nat) (d : Draining) : Who :=
  { rid := rid, core := c, handler := false, conf := none, uid := d.entry.task, rcd := d.rcd }

/-- An entry that is a deferred spawn writes nothing at an address. -/
def isSpawnEntry (d : Draining) : Bool :=
  match d.entry.kind with
  | .spawn _ => true
  | _ => false

/-- R103: no entry of the core is parked, nor on its way to a window that is open, where it is about to be parked (R143). -/
def replayEmpty (s : State) (rid c : Nat) : Bool :=
  let k := coreAt s rid c
  k.replay.isEmpty && !(k.drain.any fun d => !isSpawnEntry d && inWindow s (whoEntry rid c d) d.entry.addr)

/-! ### Entries, drain and acknowledgement (R103, R105, R108, R133) -/

/-- Entries in use in the core's commit buffer (R105). The spec does not say whether an entry that is parked in the replay queue
still takes one of the 256: here it has left the buffer (log 29). -/
def entriesUsed (k : Core) : Nat := k.entries.length + k.drain.length

/-- Writes of a task on any core that have performed and are not yet acknowledged. Below system scope a write to host memory
counts as acknowledged once it is placed on the link (R120, R133). -/
def taskAcks (r : Rect) (uid : Nat) (system : Bool) : List AckW :=
  r.cores.flatMap fun k => k.2.acks.filter fun w => w.task == uid && (system || !w.placed)

/-- The first 64-byte line and the last that n bytes at an address lie in. -/
def linesOf (s : State) (who : Who) (a : W64) (n : Nat) : Nat × Nat :=
  match selector a with
  | 0xF4 => let b := 2 ^ 76 + ((who.rid * 4 + addrDie a) * 2 ^ 26 + addrOff a) / 64; (b, b + (addrOff a % 64 + n - 1) / 64)
  | _ => ((homeOf s who a).key / 64, ((homeOf s who a).key + n - 1) / 64)

/-- The line of a drained entry, as the core that drains it addresses it; a deferred spawn has none. -/
def entryLine (s : State) (rid c : Nat) (e : Entry) : Option Nat :=
  match e.kind with
  | .spawn _ => none
  | _ => some (linesOf s { rid := rid, core := c, handler := false, conf := none } e.addr 1).1

/-- An entry on its way to a line of an access: an immediate operation of its task waits behind it, and so does a command of its
task that was issued after the commit (R108, R140). -/
def drainingLine (s : State) (who : Who) (a : W64) (n : Nat) : Bool :=
  let ls := linesOf s who a n
  (taskDrains (rectAt s who.rid) who.uid).any fun d =>
    (match who.cmd with
      | some q => decide (d.2.commit < q)
      | none => true) &&
    (match entryLine s who.rid d.1 d.2.entry with
      | some l => decide (ls.1 ≤ l) && decide (l ≤ ls.2)
      | none => false)

/-- Hand every entry of a task to the drain, in program order (R108). -/
def commitEntries (s : State) (rid c uid : Nat) (rcd : BitVec 512) : State :=
  let f := fresh s
  modCore f.2 rid c fun k =>
    { k with drain := k.drain ++ ((k.entries.filter fun e => e.task == uid).map fun e => { entry := e, rcd := rcd, commit := f.1 }),
             entries := k.entries.filter fun e => e.task != uid }

/-- CMT of the running task (R118). -/
def commitRunning (s : State) (rid c : Nat) : State :=
  match (coreAt s rid c).task with
  | some t => bind (commitEntries s rid c t.uid t.rcd) rid c
  | none => s

/-- A write to host memory or a peer package (R133, R285). -/
def isHostWrite (s : State) (who : Who) (a : W64) : Bool :=
  match homeOf s who a with
  | .glob t _ => t == 2
  | _ => false

/-- A write performed under a number and waits for its acknowledgement (R133). -/
def awaitAck (s : State) (who : Who) (id uid : Nat) (a : W64) : State :=
  modCore s who.rid who.core fun k =>
    { k with acks := k.acks ++ [{ id := id, task := uid, target := targetOf s who a, host := isHostWrite s who a }] }

/-- A write of its own performed and waits for its acknowledgement (R133). -/
def addAck (s : State) (who : Who) (uid : Nat) (a : W64) : State :=
  let f := fresh s
  awaitAck f.2 who f.1 uid a

/-- An engine write to host memory or a peer is acknowledged at package scope as it performs; the completion of the other side comes
later, and a fence of system scope waits for it (R121, R133). -/
def engineAck (s : State) (who : Who) (a : W64) : State :=
  if isHostWrite s who a then
    let f := fresh s
    modCore f.2 who.rid who.core fun k =>
      { k with acks := k.acks ++ [{ id := f.1, task := who.uid, target := targetOf f.2 who a, host := true, placed := true }] }
  else s

/-- The core that runs a task of a rectangle, with the task: one that parked may have resumed on another (R90, R91). -/
def runnerOf (r : Rect) (uid : Nat) : Option (Nat × Core) := r.cores.find? fun k => k.2.task.any fun t => t.uid == uid

/-- Report a cause under R117: on the core that runs the task, a trap at its next block start, else a record of kind 2 that names the
core that issued what fails. -/
def reportCause (s : State) (rid c uid : Nat) (rcd : BitVec 512) (cause : Nat) (faddr : W64) : State :=
  match runnerOf (rectAt s rid) uid with
  | some (d, k) =>
    if k.csr.halted then postFor s rid c cause 2 faddr.toNat rcd 64
    else modCore s rid d fun k => { k with causes := k.causes ++ [{ cause := cause, faddr := faddr, task := uid, rcd := rcd }] }
  | none => postFor s rid c cause 2 faddr.toNat rcd 64

/-- Two byte ranges touch a common naturally aligned unit of 8 bytes (R111, R132). -/
def sharesUnit (a n b m : Nat) : Bool := meets (a / 8) ((a + n + 7) / 8 - a / 8) (b / 8) ((b + m + 7) / 8 - b / 8)

/-- The loads of a core that have issued and not returned. -/
def openLoads (k : Core) : List Load :=
  k.vloads ++ (match k.phase with
    | .run b => b.loads
    | _ => [])

/-- Two accesses touch a common 8-byte unit of one home (R131, R132); a load never reads the cells, which have homes of their own. -/
def sameUnit (s : State) (who : Who) (a : W64) (n : Nat) (other : Who) (b : W64) (m : Nat) : Bool :=
  selector a != 0xF4 && sharesUnit (homeOf s who a).key n (homeOf s other b).key m

/-- A load of the task that has not returned, on whichever core runs the task, asks for an 8-byte unit that these bytes touch: a later
write of the task at memory lets it return first (R111, R132, R143). -/
def loadMeets (s : State) (who : Who) (a : W64) (n : Nat) : Bool :=
  (rectAt s who.rid).cores.any fun k => (k.2.task.any fun t => t.uid == who.uid) &&
    ((openLoads k.2).any fun l => l.parts.any fun p => sameUnit s who a n { who with core := k.1 } p.1 p.2)

/-- An immediate write of a task at memory (R98, R103, R205, R350): none while it must wait. A refused write is reported. -/
def immediateWrite (s : State) (who : Who) (t : Task) (a : W64) (bs : List Byte) : Option State :=
  let p := homeOf s who a
  if writeHeld s who a bs.length || drainingLine s who a bs.length ||
      loadMeets s who a bs.length then none
  else if !served s (worldOf who.rid) p bs.length then some (reportCause s who.rid who.core t.uid t.rcd 0x080 a)
  else some (addAck (performWrite s who t.uid a bs) who t.uid a)

/-- R53, R101: what holds an immediate operation of the running block: safety, and checks of lower slots. -/
def immediateHeld (s : State) (rid c : Nat) : Bool :=
  match runOf s rid c with
  | some b => !taskSafe s rid c || lookupsBelow b s.cur.slot
  | none => true

/-! ### Stores into the commit buffer (R105, R106, R109) -/

/-- The byte mask and data of bytes at an offset of a 64-byte line. -/
def lineMask (off n : Nat) : BitVec 64 := BitVec.ofNat 64 ((2 ^ n - 1) * 2 ^ off)
def lineData (off : Nat) (bs : List Byte) : BitVec 512 := BitVec.ofNat 512 (natOf bs * 256 ^ off)
/-- The mask of bytes as a mask of bits. -/
def bitMask (m : BitVec 64) : BitVec 512 :=
  BitVec.ofNat 512 ((List.range 64).foldl (fun v i => if m.getLsbD i then v + 255 * 256 ^ i else v) 0)

/-- The 64-byte line of an address. -/
def lineAddr (a : W64) : W64 := BitVec.ofNat 64 (a.toNat / 64 * 64)

/-- Put bytes of one line into the task's newest line entry of that line if the same block made it and no reduction
to the line stands after it (R105): the entries so changed, or none when a new entry is needed. -/
def mergeLine (es : List Entry) (uid blk : Nat) (a : W64) (m : BitVec 64) (d : BitVec 512) : Option (List Entry) :=
  match findIx (fun e : Entry => e.task == uid && lineAddr e.addr == lineAddr a &&
      (match e.kind with | .spawn _ => false | _ => true)) es.reverse with
  | some (ix, e) =>
    match e.kind with
    | .line m0 d0 =>
      if e.blk = blk then
        some (modAt es.reverse ix fun e => { e with kind := .line (m0 ||| m) ((d0 &&& ~~~ (bitMask m)) ||| d) }).reverse
      else none
    | _ => none
  | none => none

/-- Split bytes at an address into pieces that stay inside their 64-byte lines. -/
def splitLines : Nat → W64 → List Byte → List (W64 × List Byte)
  | 0, _, _ => []
  | _, _, [] => []
  | fuel + 1, a, bs =>
    let room := 64 - a.toNat % 64
    (a, bs.take room) :: splitLines fuel (a + BitVec.ofNat 64 room) (bs.drop room)

/-- Add one entry for the running task. -/
def addEntry (s : State) (rid c : Nat) (a : W64) (k : EntKind) : State :=
  match (coreAt s rid c).task, runOf s rid c with
  | some t, some b =>
    let f := fresh s
    modCore f.2 rid c fun q => { q with entries := q.entries ++ [{ id := f.1, task := t.uid, blk := b.id, addr := a, kind := k }] }
  | _, _ => s

/-- The answer of a store: performed, must wait, the commit of an overflow done (R109), or a cause with its address. -/
inductive StoreRes where
  | done (s : State)
  | wait
  | later (s : State)
  | trap (cause : Nat) (a : W64)

/-- A data watchpoint of the core meets an access; none does in handler mode (R295, R302, B0 only). -/
def watched (s : State) (rid c : Nat) (a : W64) (n : Nat) (acc : Acc) : Bool :=
  s.rev == .b0 && !(coreAt s rid c).csr.hmode && selector a == 0 && (coreAt s rid c).csr.wpa.any fun e =>
    e.2.getLsbD 63 && ((needsWr acc && e.2.getLsbD 62) || (needsRd acc && e.2.getLsbD 61)) &&
    meets a.toNat n (bitsOf e.2.toNat 55 3 * 8) 8

/-- What an answered lookup of one part finds: a cause of R97, or a watchpoint (R101, R302). -/
def lookupCause (s : State) (who : Who) (a : W64) (n : Nat) (acc : Acc) : Option Nat :=
  match lookupGlobal s who (a.toNat % 2 ^ 56) n acc with
  | .error e => some e
  | .ok () => if watched s who.rid who.core a n acc then some 0x149 else none

/-- The first part whose lookup fails, with its cause. -/
def firstCause (s : State) (who : Who) (acc : Acc) (ps : List (W64 × Nat)) : Option (Nat × W64) :=
  ps.findSome? fun p => if selector p.1 = 0 then (lookupCause s who p.1 p.2 acc).map (·, p.1) else none

/-- Perform bytes at once at memory for the running task, piece by piece (R106, R109). All pieces are first checked to
be free to perform, so that a store is never half done. -/
def storeNow (s : State) (who : Who) (t : Task) (ps : List (W64 × List Byte)) : StoreRes :=
  match firstCause s who .write (ps.map fun p => (p.1, p.2.length)) with
  | some (e, a) => .trap e a
  | none =>
    if ps.any fun p => (immediateWrite s who t p.1 p.2).isNone then .wait
    else .done (bind (ps.foldl (fun s p => (immediateWrite s who t p.1 p.2).getD s) s) who.rid who.core)

/-- Put a lookup that has still to be answered on the running block (R101). -/
def addLookup (s : State) (rid c : Nat) (acc : Acc) (ps : List (W64 × Nat)) : State :=
  let ps := ps.filter fun p => selector p.1 == 0
  if ps.isEmpty then s
  else modRun s rid c fun b => { b with lookups := b.lookups ++ [{ slot := s.cur.slot, parts := ps, acc := acc }] }

/-- Buffer the pieces of a store: merge or take entries; none when entries run out (R105, R109). -/
def bufferPieces (s : State) (rid c : Nat) (uid blk : Nat) : List (W64 × List Byte) → Option State
  | [] => some s
  | (a, bs) :: ps =>
    let off := a.toNat % 64
    let m := lineMask off bs.length
    let d := lineData off bs
    match mergeLine (coreAt s rid c).entries uid blk a m d with
    | some es => bufferPieces (modCore s rid c fun k => { k with entries := es }) rid c uid blk ps
    | none =>
      if entriesUsed (coreAt s rid c) < 256 then bufferPieces (addEntry s rid c (lineAddr a) (.line m d)) rid c uid blk ps
      else none

/-- R109: commit and write through from here on; waits for safety and for the checks of lower slots. The instruction has then
issued and is to perform in full (R52). -/
def overflow (s : State) (rid c : Nat) : Option State :=
  if immediateHeld s rid c then none
  else some (modCore (modRun (commitRunning s rid c) rid c fun b => { b with part := b.part ++ [s.cur.slot] }) rid c fun k =>
    { k with task := k.task.map fun t => { t with wt := true } })

/-- A store of bytes at addresses that passed the checks made at the core, in pieces (R101, R106, R109). -/
def storePieces (s : State) (rid c : Nat) (ps : List (W64 × List Byte)) : StoreRes :=
  let who := whoTask s rid c
  match (coreAt s rid c).task, runOf s rid c with
  | some t, some b =>
    if ps.all fun p => selector p.1 == 0xF0 then
      (if lookupsBelow b s.cur.slot then .wait
       else .done (bind (ps.foldl (fun s p => performWrite s who t.uid p.1 p.2) s) rid c))
    else if t.wt then
      (if lookupsBelow b s.cur.slot then .wait else storeNow s who t ps)
    else
      match bufferPieces s rid c t.uid b.id (ps.flatMap fun p => splitLines 4 p.1 p.2) with
      | some s' => .done (addLookup s' rid c .write (ps.map fun p => (p.1, p.2.length)))
      | none =>
        match overflow s rid c with
        | some s' => .later s'
        | none => .wait
  | _, _ => .wait

/-! ### What the running task reads (R107) -/

/-- The byte a store line holds of an address: the same line of the same space, in 0xF1 of the same tile (R95, R107). -/
def lineByte (s : State) (rid c : Nat) (a : W64) (x : Nat × Entry) : Option Byte :=
  match x.2.kind with
  | .line m d =>
    let same := if selector a = 0xF1 ∧ x.1 ≠ c then
        selector x.2.addr == 0xF1 && entryLine s rid x.1 x.2 == some (linesOf s (whoTask s rid c) a 1).1
      else lineAddr x.2.addr == lineAddr a
    if same && m.getLsbD (a.toNat % 64) then some (d.extractLsb' (8 * (a.toNat % 64)) 8) else none
  | _ => none

/-- Keep store lines in rising number: the order in which the task made them. -/
def insertLine (x : Nat × Entry) : List (Nat × Entry) → List (Nat × Entry)
  | [] => [x]
  | y :: l => if x.2.id < y.2.id then x :: y :: l else y :: insertLine x l

/-- The store lines of a task in program order, with their cores: those that drain on any core, which it committed, by their
numbers, and after them those that its core holds. -/
def taskLines (r : Rect) (c uid : Nat) : List (Nat × Entry) :=
  (taskDrains r uid).foldl (fun l d => insertLine (d.1, d.2.entry) l) [] ++
    ((coreOf r c).entries.filter fun e => e.task == uid).map fun e => (c, e)

/-- The newest byte the task's own lines hold at an address, held or draining (R107). -/
def ownByte (s : State) (rid c : Nat) (ls : List (Nat × Entry)) (a : W64) : Option Byte :=
  ls.foldl (fun acc x => (lineByte s rid c a x).or acc) none

def ownBytes (s : State) (rid c : Nat) (a : W64) (n : Nat) : List (Option Byte) :=
  let ls := taskLines (rectAt s rid) c (coreUid s rid c)
  (List.range n).map fun i => ownByte s rid c ls (addrPlus a (Int.ofNat i))

/-- Bytes at memory, of an address that passed its checks. -/
def memBytes (s : State) (who : Who) (a : W64) (n : Nat) : List Byte := readKeys s (homeOf s who a).key n

/-- The bytes the running task sees (R107), or the class-4 cause that reading them meets (R98). -/
def taskBytes (s : State) (rid c : Nat) (a : W64) (n : Nat) : Except Nat (List Byte) :=
  let who := whoTask s rid c
  match readError s (worldOf rid) (homeOf s who a) n with
  | some e => .error e
  | none => .ok (List.zipWith (fun (o : Option Byte) b => o.getD b) (ownBytes s rid c a n) (memBytes s who a n))

/-- Whether the task's own commit buffer holds a byte of an access (R97, 0x06C). -/
def ownHolds (s : State) (rid c : Nat) (a : W64) (n : Nat) : Bool :=
  let uid := coreUid s rid c
  (coreAt s rid c).entries.any fun e => e.task == uid && (match e.kind with
    | .line m _ => (List.range n).any fun i => lineAddr e.addr == lineAddr (addrPlus a (Int.ofNat i)) && m.getLsbD ((addrPlus a (Int.ofNat i)).toNat % 64)
    | .red _ wide _ => (List.range n).any fun i => (List.range (if wide then 8 else 4)).any fun j => addrPlus a (Int.ofNat i) == addrPlus e.addr (Int.ofNat j)
    | _ => false)

end Sys2Proof.Machine
end

