-- ==== Sys2Proof/Machine/Scalar.lean ====
section
/-!
DEFINITION. Sys2Proof/Machine/Scalar.lean: the scalar integer, compare, address, bit-field and constant instructions
(R63 to R77), and the completion of a divide.
-/
namespace Sys2Proof.Machine

/-! ### The functions the instructions compute -/

/-- A truth value as a result (R70). -/
def truth (c : Bool) : W64 := if c then 1 else 0
/-- A shift count: b[5:0] (R65). -/
def count (b : W64) : Nat := b.toNat % 64
/-- (sa × sb) >> 64 (R65). -/
def mulHigh (a b : W64) : W64 := BitVec.ofInt 64 (a.toInt * b.toInt / 2 ^ 64)
/-- (ua × ub) >> 64 (R65). -/
def mulHighZ (a b : W64) : W64 := BitVec.ofNat 64 (a.toNat * b.toNat / 2 ^ 64)
/-- ROR (R65). -/
def rotR (a b : W64) : W64 := (a >>> count b) ||| (a <<< (64 - count b))

/-- DIV and REM (R66): quotient toward zero, remainder with the sign of the dividend; by zero -1 and the dividend;
-2^63 by -1 gives -2^63 and 0. -/
def divS (a b : W64) : W64 × W64 :=
  if b = 0 then (-1, a)
  else if a = BitVec.ofInt 64 (-(2 ^ 63)) ∧ b = -1 then (a, 0)
  else (BitVec.ofInt 64 (a.toInt.tdiv b.toInt), BitVec.ofInt 64 (a.toInt.tmod b.toInt))

/-- DIVZ and REMZ (R66): by zero 2^64 - 1 and the dividend. -/
def divZ (a b : W64) : W64 × W64 :=
  if b = 0 then (-1, a) else (BitVec.ofNat 64 (a.toNat / b.toNat), BitVec.ofNat 64 (a.toNat % b.toNat))

/-- Leading zeros of the low n bits (R33). -/
def clzN : Nat → Nat → Nat
  | 0, _ => 0
  | n + 1, v => if v / 2 ^ n % 2 = 1 then 0 else 1 + clzN n v
/-- Trailing zeros of the low n bits (R33). -/
def ctzN : Nat → Nat → Nat
  | 0, _ => 0
  | n + 1, v => if v % 2 = 1 then 0 else 1 + ctzN n (v / 2)
/-- Ones among the low n bits (R33). -/
def popcN : Nat → Nat → Nat
  | 0, _ => 0
  | n + 1, v => v % 2 + popcN n (v / 2)
/-- The low n bits in reverse (R68). -/
def revN : Nat → Nat → Nat
  | 0, _ => 0
  | n + 1, v => v % 2 * 2 ^ n + revN n (v / 2)

/-- LEA (R71): the selector is kept, the rest wraps within 56 bits. -/
def leaOf (a b : W64) (s : BitVec 3) (o : BitVec 11) : W64 := addrPlus a (b.toInt * 2 ^ s.toNat + o.toInt)
/-- SEXT and ZEXT of the low n + 1 bits (R72). -/
def sextOf (a : W64) (n : BitVec 6) : W64 := BitVec.ofInt 64 (sext (n.toNat + 1) a.toNat)
def zextOf (a : W64) (n : BitVec 6) : W64 := BitVec.ofNat 64 (a.toNat % 2 ^ (n.toNat + 1))
/-- EXTR (R73): bits above bit 63 read as zero. -/
def extrOf (a : W64) (s : BitVec 1) (o l : BitVec 6) : W64 :=
  let f := (a >>> o.toNat).toNat % 2 ^ (l.toNat + 1)
  if s = 1 then BitVec.ofInt 64 (sext (l.toNat + 1) f) else BitVec.ofNat 64 f
/-- INS (R74). -/
def insOf (a b : W64) (o l : BitVec 6) : W64 :=
  let mask := BitVec.ofNat 64 (2 ^ (l.toNat + 1) - 1) <<< o.toNat
  (a &&& ~~~ mask) ||| (BitVec.ofNat 64 (b.toNat % 2 ^ (l.toNat + 1)) <<< o.toNat)

/-- The targets of the instruction in a slot of the running block. -/
def slotTargets (b : BlockRun) (slot : Nat) : List (BitVec 9) :=
  match decodeRow (wordOf b slot) with
  | some i => targetsOf i
  | none => []

/-! ### Multiplies (R49) -/

/-- A multiply has issued: its product is on its way (R49). -/
def startProduct (s : State) (v : W64) : Act :=
  let slot := s.cur.slot
  match runOf s s.cur.rid s.cur.core with
  | some b =>
    let mate := flowPartner { b with slots := modAt b.slots slot fun _ => .fired } slot
    .done (modRun s s.cur.rid s.cur.core fun b => { b with products := b.products ++ [{ slot := slot, val := v, mate := mate }] })
  | none => .hold

/-- The products that land next: the oldest, with that of a multiply which issued in its cycle (R48, R49). -/
def landing : List Product → List Product
  | p :: q :: _ => if p.mate = some q.slot then [p, q] else [p]
  | ps => ps

/-- The products that land next in a block are delivered in one cycle (R49, R52). -/
def landProducts (s : State) (rid c : Nat) : State :=
  match runOf s rid c with
  | some b =>
    let ps := landing b.products
    deliverCycle (modRun s rid c fun b => { b with products := b.products.drop ps.length }) rid c
      (ps.flatMap fun p => (slotTargets b p.slot).map fun t => (p.slot, some p.val, t))
  | none => s

/-- The slot of the cursor has a product that lands next, in a block with no fault that waits (R52). -/
def mayLand (s : State) : Bool :=
  coreActs s s.cur.rid s.cur.core && (match runOf s s.cur.rid s.cur.core with
    | some b => b.fault.isNone && resolved b s.cur.slot && (landing b.products).any fun p => p.slot == s.cur.slot
    | none => false)

/-- The meaning of a multiply: a slot that is ready issues, and one whose product is due delivers it, in a later step than its issue, so
that what takes one cycle may land before it (R49, log 40). -/
def multiply (i : Instr) (f : W64 → W64 → W64) (s : State) : Result :=
  if mayLand s then .next (landProducts s s.cur.rid s.cur.core) else issue i (fun a b s => startProduct s (f a b)) s

/-! ### Divides (R66, R67) -/

/-- One divider a core: a divide starts only while it is free; its result is delivered by a later step (R67). -/
def startDivide (s : State) (v : W64) : Act :=
  let rid := s.cur.rid
  let c := s.cur.core
  match runOf s rid c with
  | some b =>
    if b.divide.isSome then .hold
    else .done (modRun s rid c fun b => { b with divide := some (s.cur.slot, v) })
  | none => .hold

/-! ### Two-operand operations (R65) -/

/-- ADD (R65): sa + sb, wrapped. -/
def execAdd (p : BitVec 2) (t : BitVec 9) (u : BitVec 9) (s : State) : Result :=
  issue (.add p t u) (fun a b s => .send s (a + b)) s

/-- SUB (R65): sa - sb, wrapped. -/
def execSub (p : BitVec 2) (t : BitVec 9) (u : BitVec 9) (s : State) : Result :=
  issue (.sub p t u) (fun a b s => .send s (a - b)) s

/-- MUL (R65): sa × sb, wrapped. -/
def execMul (p : BitVec 2) (t : BitVec 9) (u : BitVec 9) (s : State) : Result :=
  multiply (.mul p t u) (fun a b => a * b) s

/-- MULH (R65): high half of the signed product. -/
def execMulh (p : BitVec 2) (t : BitVec 9) (u : BitVec 9) (s : State) : Result :=
  multiply (.mulh p t u) mulHigh s

/-- MULHZ (R65): high half of the unsigned product. -/
def execMulhz (p : BitVec 2) (t : BitVec 9) (u : BitVec 9) (s : State) : Result :=
  multiply (.mulhz p t u) mulHighZ s

/-- AND (R65): a & b. -/
def execAnd (p : BitVec 2) (t : BitVec 9) (u : BitVec 9) (s : State) : Result :=
  issue (.and p t u) (fun a b s => .send s (a &&& b)) s

/-- OR (R65): a or b. -/
def execOr (p : BitVec 2) (t : BitVec 9) (u : BitVec 9) (s : State) : Result :=
  issue (.or p t u) (fun a b s => .send s (a ||| b)) s

/-- XOR (R65): a xor b. -/
def execXor (p : BitVec 2) (t : BitVec 9) (u : BitVec 9) (s : State) : Result :=
  issue (.xor p t u) (fun a b s => .send s (a ^^^ b)) s

/-- ANDN (R65): a & ~b. -/
def execAndn (p : BitVec 2) (t : BitVec 9) (u : BitVec 9) (s : State) : Result :=
  issue (.andn p t u) (fun a b s => .send s (a &&& ~~~ b)) s

/-- ORN (R65): a or ~b. -/
def execOrn (p : BitVec 2) (t : BitVec 9) (u : BitVec 9) (s : State) : Result :=
  issue (.orn p t u) (fun a b s => .send s (a ||| ~~~ b)) s

/-- SHL (R65): ua << n. -/
def execShl (p : BitVec 2) (t : BitVec 9) (u : BitVec 9) (s : State) : Result :=
  issue (.shl p t u) (fun a b s => .send s (a <<< count b)) s

/-- SHR (R65): ua >> n. -/
def execShr (p : BitVec 2) (t : BitVec 9) (u : BitVec 9) (s : State) : Result :=
  issue (.shr p t u) (fun a b s => .send s (a >>> count b)) s

/-- SAR (R65): sa >> n. -/
def execSar (p : BitVec 2) (t : BitVec 9) (u : BitVec 9) (s : State) : Result :=
  issue (.sar p t u) (fun a b s => .send s (BitVec.sshiftRight a (count b))) s

/-- ROR (R65): rotate right. -/
def execRor (p : BitVec 2) (t : BitVec 9) (u : BitVec 9) (s : State) : Result :=
  issue (.ror p t u) (fun a b s => .send s (rotR a b)) s

/-- MIN (R65): signed minimum. -/
def execMin (p : BitVec 2) (t : BitVec 9) (u : BitVec 9) (s : State) : Result :=
  issue (.min p t u) (fun a b s => .send s (if a.toInt ≤ b.toInt then a else b)) s

/-- MAX (R65): signed maximum. -/
def execMax (p : BitVec 2) (t : BitVec 9) (u : BitVec 9) (s : State) : Result :=
  issue (.max p t u) (fun a b s => .send s (if b.toInt ≤ a.toInt then a else b)) s

/-- MINZ (R65): unsigned minimum. -/
def execMinz (p : BitVec 2) (t : BitVec 9) (u : BitVec 9) (s : State) : Result :=
  issue (.minz p t u) (fun a b s => .send s (if a.toNat ≤ b.toNat then a else b)) s

/-- MAXZ (R65): unsigned maximum. -/
def execMaxz (p : BitVec 2) (t : BitVec 9) (u : BitVec 9) (s : State) : Result :=
  issue (.maxz p t u) (fun a b s => .send s (if b.toNat ≤ a.toNat then a else b)) s

/-- DIV (R66, R67). -/
def execDiv (p : BitVec 2) (t : BitVec 9) (u : BitVec 9) (s : State) : Result :=
  issue (.div p t u) (fun a b s => startDivide s (divS a b).1) s

/-- DIVZ (R66, R67). -/
def execDivz (p : BitVec 2) (t : BitVec 9) (u : BitVec 9) (s : State) : Result :=
  issue (.divz p t u) (fun a b s => startDivide s (divZ a b).1) s

/-- REM (R66, R67). -/
def execRem (p : BitVec 2) (t : BitVec 9) (u : BitVec 9) (s : State) : Result :=
  issue (.rem p t u) (fun a b s => startDivide s (divS a b).2) s

/-- REMZ (R66, R67). -/
def execRemz (p : BitVec 2) (t : BitVec 9) (u : BitVec 9) (s : State) : Result :=
  issue (.remz p t u) (fun a b s => startDivide s (divZ a b).2) s

/-! ### One-operand operations (R68) -/

/-- MOV (R68). -/
def execMov (p : BitVec 2) (t : BitVec 9) (u : BitVec 9) (s : State) : Result :=
  issue (.mov p t u) (fun a _ s => .send s (a)) s

/-- CLZ (R68). -/
def execClz (p : BitVec 2) (t : BitVec 9) (u : BitVec 9) (s : State) : Result :=
  issue (.clz p t u) (fun a _ s => .send s (BitVec.ofNat 64 (clzN 64 a.toNat))) s

/-- CTZ (R68). -/
def execCtz (p : BitVec 2) (t : BitVec 9) (u : BitVec 9) (s : State) : Result :=
  issue (.ctz p t u) (fun a _ s => .send s (BitVec.ofNat 64 (ctzN 64 a.toNat))) s

/-- POPC (R68). -/
def execPopc (p : BitVec 2) (t : BitVec 9) (u : BitVec 9) (s : State) : Result :=
  issue (.popc p t u) (fun a _ s => .send s (BitVec.ofNat 64 (popcN 64 a.toNat))) s

/-- BREV (R68). -/
def execBrev (p : BitVec 2) (t : BitVec 9) (u : BitVec 9) (s : State) : Result :=
  issue (.brev p t u) (fun a _ s => .send s (BitVec.ofNat 64 (revN 64 a.toNat))) s

/-! ### Compares and immediates (R69, R70) -/

/-- CEQ (R70). -/
def execCeq (p : BitVec 2) (t : BitVec 9) (u : BitVec 9) (s : State) : Result :=
  issue (.ceq p t u) (fun a b s => .send s (truth (a == b))) s

/-- CNE (R70). -/
def execCne (p : BitVec 2) (t : BitVec 9) (u : BitVec 9) (s : State) : Result :=
  issue (.cne p t u) (fun a b s => .send s (truth (a != b))) s

/-- CLT (R70). -/
def execClt (p : BitVec 2) (t : BitVec 9) (u : BitVec 9) (s : State) : Result :=
  issue (.clt p t u) (fun a b s => .send s (truth (decide (a.toInt < (b).toInt)))) s

/-- CLE (R70). -/
def execCle (p : BitVec 2) (t : BitVec 9) (u : BitVec 9) (s : State) : Result :=
  issue (.cle p t u) (fun a b s => .send s (truth (decide (a.toInt ≤ (b).toInt)))) s

/-- CLTZ (R70). -/
def execCltz (p : BitVec 2) (t : BitVec 9) (u : BitVec 9) (s : State) : Result :=
  issue (.cltz p t u) (fun a b s => .send s (truth (decide (a.toNat < (b).toNat)))) s

/-- CLEZ (R70). -/
def execClez (p : BitVec 2) (t : BitVec 9) (u : BitVec 9) (s : State) : Result :=
  issue (.clez p t u) (fun a b s => .send s (truth (decide (a.toNat ≤ (b).toNat)))) s

/-- CEQI (R70). -/
def execCeqi (p : BitVec 2) (i : BitVec 14) (t : BitVec 9) (s : State) : Result :=
  issue (.ceqi p i t) (fun a _ s => .send s (truth (a == (i.signExtend 64)))) s

/-- CNEI (R70). -/
def execCnei (p : BitVec 2) (i : BitVec 14) (t : BitVec 9) (s : State) : Result :=
  issue (.cnei p i t) (fun a _ s => .send s (truth (a != (i.signExtend 64)))) s

/-- CLTI (R70). -/
def execClti (p : BitVec 2) (i : BitVec 14) (t : BitVec 9) (s : State) : Result :=
  issue (.clti p i t) (fun a _ s => .send s (truth (decide (a.toInt < ((i.signExtend 64)).toInt)))) s

/-- CLEI (R70). -/
def execClei (p : BitVec 2) (i : BitVec 14) (t : BitVec 9) (s : State) : Result :=
  issue (.clei p i t) (fun a _ s => .send s (truth (decide (a.toInt ≤ ((i.signExtend 64)).toInt)))) s

/-- CLTZI (R70). -/
def execCltzi (p : BitVec 2) (i : BitVec 14) (t : BitVec 9) (s : State) : Result :=
  issue (.cltzi p i t) (fun a _ s => .send s (truth (decide (a.toNat < ((i.setWidth 64)).toNat)))) s

/-- CLEZI (R70). -/
def execClezi (p : BitVec 2) (i : BitVec 14) (t : BitVec 9) (s : State) : Result :=
  issue (.clezi p i t) (fun a _ s => .send s (truth (decide (a.toNat ≤ ((i.setWidth 64)).toNat)))) s

/-- ADDI (R69). -/
def execAddi (p : BitVec 2) (i : BitVec 14) (t : BitVec 9) (s : State) : Result :=
  issue (.addi p i t) (fun a _ s => .send s (a + i.signExtend 64)) s

/-- MULI (R69). -/
def execMuli (p : BitVec 2) (i : BitVec 14) (t : BitVec 9) (s : State) : Result :=
  multiply (.muli p i t) (fun a _ => a * i.signExtend 64) s

/-- ANDI (R69). -/
def execAndi (p : BitVec 2) (i : BitVec 14) (t : BitVec 9) (s : State) : Result :=
  issue (.andi p i t) (fun a _ s => .send s (a &&& i.signExtend 64)) s

/-- ORI (R69). -/
def execOri (p : BitVec 2) (i : BitVec 14) (t : BitVec 9) (s : State) : Result :=
  issue (.ori p i t) (fun a _ s => .send s (a ||| i.signExtend 64)) s

/-- XORI (R69). -/
def execXori (p : BitVec 2) (i : BitVec 14) (t : BitVec 9) (s : State) : Result :=
  issue (.xori p i t) (fun a _ s => .send s (a ^^^ i.signExtend 64)) s

/-- SHLI (R69). -/
def execShli (p : BitVec 2) (k : BitVec 6) (t : BitVec 9) (s : State) : Result :=
  issue (.shli p k t) (fun a _ s => .send s (a <<< k.toNat)) s

/-- SHRI (R69). -/
def execShri (p : BitVec 2) (k : BitVec 6) (t : BitVec 9) (s : State) : Result :=
  issue (.shri p k t) (fun a _ s => .send s (a >>> k.toNat)) s

/-- SARI (R69). -/
def execSari (p : BitVec 2) (k : BitVec 6) (t : BitVec 9) (s : State) : Result :=
  issue (.sari p k t) (fun a _ s => .send s (BitVec.sshiftRight a k.toNat)) s

/-! ### Addresses, fields, constants (R71 to R75, R77) -/

/-- LEA (R71). -/
def execLea (p : BitVec 2) (s1 : BitVec 3) (o : BitVec 11) (t : BitVec 9) (s : State) : Result :=
  issue (.lea p s1 o t) (fun a b s => .send s (leaOf a b s1 o)) s

/-- SEXT (R72). -/
def execSext (p : BitVec 2) (n : BitVec 6) (t : BitVec 9) (s : State) : Result :=
  issue (.sext p n t) (fun a _ s => .send s (sextOf a n)) s

/-- ZEXT (R72). -/
def execZext (p : BitVec 2) (n : BitVec 6) (t : BitVec 9) (s : State) : Result :=
  issue (.zext p n t) (fun a _ s => .send s (zextOf a n)) s

/-- EXTR (R73). -/
def execExtr (p : BitVec 2) (s1 : BitVec 1) (o : BitVec 6) (l : BitVec 6) (t : BitVec 9) (s : State) : Result :=
  issue (.extr p s1 o l t) (fun a _ s => .send s (extrOf a s1 o l)) s

/-- INS (R74). -/
def execIns (p : BitVec 2) (o : BitVec 6) (l : BitVec 6) (t : BitVec 9) (s : State) : Result :=
  issue (.ins p o l t) (fun a b s => .send s (insOf a b o l)) s

/-- CONST (R75). -/
def execConstI (t : BitVec 9) (i : BitVec 16) (s : State) : Result :=
  issue (.constI t i) (fun _ _ s => .send s (i.signExtend 64)) s

/-- CONSTH (R75). -/
def execConsth (t : BitVec 9) (i : BitVec 16) (s : State) : Result :=
  issue (.consth t i) (fun a _ s => .send s ((a <<< 16) + i.setWidth 64)) s

/-- NULL (R77): a null to both targets, whether it fires or is quashed. -/
def execNull (p : BitVec 2) (t : BitVec 9) (u : BitVec 9) (s : State) : Result :=
  issue (.null p t u) (fun _ _ s => .sendNull s) s

/-! ### GET (R44, R76) -/

/-- Pop the oldest value of a value queue. -/
def popValue (s : State) (rid q : Nat) : Option (W64 × State) :=
  match (queueAt s rid q).vals with
  | [] => none
  | v :: vs => some (v, modQueue s rid q fun e => { e with vals := vs })

/-- The value of a GET: a register as it stood before the block, or the oldest value of a port, which leaves its queue; none
where the port holds no value (R44, R76). -/
def getValue (s : State) (rid c : Nat) (r : BitVec 7) : Option (W64 × State) :=
  if r.toNat < 64 then some (tget 0 (coreAt s rid c).g r.toNat, s)
  else
    match portBind s rid c (r.toNat - 64) with
    | none => none
    | some pb => popValue s rid pb.queue

/-- The cause of a GET whose port is not bound as a pop side in the stage (R146). -/
def getCause (s : State) (rid c : Nat) (r : BitVec 7) : Option Nat :=
  if r.toNat < 64 then none
  else
    match portBind s rid c (r.toNat - 64) with
    | none => some 0x0A0
    | some pb => if pb.pop then none else some 0x0A1

/-- GET (R76): a register as it stood before the block, or one value of a port. A block starts only when its ports
hold enough (R43), so a GET that finds none waits. -/
def execGet (r : BitVec 7) (u t : BitVec 9) (s : State) : Result :=
  issue (.get r u t) (fun _ _ s =>
    let rid := s.cur.rid
    let c := s.cur.core
    match getCause s rid c r with
    | some e => .trap e 0
    | none =>
      if r.toNat < 64 then .send s (tget 0 (coreAt s rid c).g r.toNat)
      else if !taskSafe s rid c then .hold
      else
        match getValue s rid c r with
        | none => .hold
        | some x => .send (bind x.2 rid c) x.1) s

/-! ### DIVIDE_RESULT (R67) -/

/-- DIVIDE_RESULT: the divide in flight delivers and the divider is free (R67). -/
def execDivideResult (rid core : Nat) (s : State) : Result :=
  .next (match runOf s rid core with
    | some b =>
      match b.divide with
      | some (slot, v) =>
        if coreActs s rid core then
          deliverAll (modRun s rid core fun b => { b with divide := none }) rid core slot (some v) (slotTargets b slot)
        else s
      | none => s
    | none => s)

end Sys2Proof.Machine
end

