-- ==== Sys2Proof/Machine/Sync.lean ====
section
/-!
DEFINITION. Sys2Proof/Machine/Sync.lean: semaphores, what a change of one sets off (R90, R164, R345), continuation records
(R165), and how an engine command signals (R117, R139, R232).
-/
namespace Sys2Proof.Machine

/-! ### Continuations (R90, R165) -/

/-- Signed comparison of a semaphore with a threshold (R90). -/
def reaches (v thresh : BitVec 32) : Bool := decide (thresh.toInt ≤ v.toInt)

/-- The key of the record of a continuation slot (R96, R165). -/
def contKey (rid core slot : Nat) : Nat := Place.key (.scr rid core (0x3CA00 + 160 * slot))

/-- Mark one continuation satisfied: its order number, and SATISFIED and SEQ in its record (R90, R165). -/
def satisfyOne (s : State) (rid d : Nat) (k : Cont) : State :=
  let p := physDie (rectAt s rid) d
  let seq := (dieAt s p).seq
  let s := modDie s p fun x => { x with seq := (x.seq + 1) % 65536 }
  let s := modLdie s rid d fun l =>
    { l with conts := l.conts.map fun q => if q.core = k.core ∧ q.slot = k.slot then { q with satisfied := true, seq := seq, when := s.nextId } else q }
  let s := { s with nextId := s.nextId + 1 }
  let base := contKey rid k.core k.slot
  writeNat (writeKey s (base + 3) (readKey s (base + 3) ||| 4)) (base + 30) 2 seq

/-- Check the continuations registered with a semaphore after it changed (R90). Several that one change satisfies are numbered in the
order in which they were registered, which R90 and R165 do not give (log 32). -/
def satisfyAll (s : State) (rid d idx : Nat) : State :=
  let v := tget 0 (ldieAt s rid d).sems idx
  ((ldieAt s rid d).conts.filter fun k => k.idx == idx && !k.satisfied && reaches v k.thresh).foldl
    (fun s k => satisfyOne s rid d k) s

/-! ### BARRIER packets (R345) -/

/-- Every valid condition of a BARRIER holds. -/
def barrierHolds (s : State) (rid : Nat) (cs : List (Nat × Nat × BitVec 32)) : Bool :=
  cs.all fun c => reaches (tget 0 (ldieAt s rid c.1).sems c.2.1) c.2.2

/-- Complete the packets of a world that a test selects, each raising its vector (R344, R345). -/
def completePkts (s : State) (w : Nat) (p : Pkt → Bool) : State :=
  let done := (worldAt s w).pkts.filter p
  let s := modWorld s w fun q => { q with pkts := q.pkts.filter fun k => !p k }
  done.foldl (fun s k => match k.irq with
    | some v => emit s (.irq w v)
    | none => s) s

/-- BARRIERs of the rectangle's world that now hold complete (R345). -/
def checkBarriers (s : State) (rid : Nat) : State :=
  completePkts s (worldOf rid) fun k => match k.work with
    | .barrier rect cs _ => decide (8 * worldOf rid + rect = rid) && (rectAt s rid).live && barrierHolds s rid cs
    | _ => false

/-! ### Semaphores (R164) -/

/-- Change a semaphore: continuations and BARRIERs see the new value. -/
def setSem (s : State) (rid d idx : Nat) (v : BitVec 32) : State :=
  checkBarriers (satisfyAll (modLdie s rid d fun l => { l with sems := tset l.sems idx v }) rid d idx) rid

def semAt (s : State) (rid d idx : Nat) : BitVec 32 := tget 0 (ldieAt s rid d).sems idx

/-- sem_add (R33): add, and what a change sets off. -/
def semAdd (s : State) (rid d idx : Nat) (delta : BitVec 32) : State := setSem s rid d idx (semAt s rid d idx + delta)

/-- The checks of a semaphore address: a 4-byte access to space 0xF3 (R164). -/
def checkSem (s : State) (rid c : Nat) (a : W64) : Except Nat Unit :=
  checkLocal s (whoTask s rid c) a 4 4 [0xF3]

/-! ### Tokens and completion of engine commands (R117, R139, R232) -/

def tokenAt (s : State) (rid c t : Nat) : Nat := tget 0 (coreAt s rid c).tok t
def tokenAdd (s : State) (rid c t : Nat) : State := modCore s rid c fun k => { k with tok := tset k.tok t (tget 0 k.tok t + 1) }
def tokenSub (s : State) (rid c t : Nat) : State := modCore s rid c fun k => { k with tok := tset k.tok t (tget 0 k.tok t - 1) }

/-- A command completes: its token falls and its semaphore rises (R139). -/
def signal (s : State) (rid : Nat) (h : Hdr) : State :=
  let s := tokenSub s rid h.core h.tok
  match h.sem with
  | some (d, i) => semAdd s rid d i 1
  | none => s

/-- A command may signal now: the issuing core's replay queue is empty (R139), and the clocks of that core and of the semaphore run
(R350). -/
def maySignal (s : State) (rid : Nat) (h : Hdr) : Bool :=
  replayEmpty s rid h.core && clockRuns s (coreDie (rectAt s rid) h.core) && h.sem.all fun x => semRuns s rid x.1

/-- A command fails: its token falls, its cause is reported (R117). -/
def failCommand (s : State) (rid : Nat) (h : Hdr) (cause : Nat) (faddr : W64) : State :=
  reportCause (tokenSub s rid h.core h.tok) rid h.core h.task h.rcd cause faddr

/-- The header of a command that performs now for the running task: its token rises (R232). -/
def commandHdr (s : State) (rid c tok : Nat) (sem : Option (Nat × Nat)) : Hdr × State :=
  let f := fresh s
  let t := (coreAt s rid c).task.getD {}
  ({ uid := f.1, core := c, task := t.uid, rcd := t.rcd, tok := tok, sem := sem, conf := (whoTask s rid c).conf },
   bind (tokenAdd f.2 rid c tok) rid c)

/-- A command whose token stands at 1,023 waits to perform (R232). -/
def tokenFull (s : State) (rid c tok : Nat) : Bool := decide (1023 ≤ tokenAt s rid c tok)

/-- DIE and SEM of a packed word (R208): an index of the allocation when SEM is 1, else zero bits. -/
def packedSem (s : State) (rid : Nat) (w : W64) (sem : BitVec 1) (zeroCause : Nat) : Except Nat (Option (Nat × Nat)) :=
  let d := bitsOf w.toNat 45 44
  let i := bitsOf w.toNat 43 32
  if sem = 1 then
    if (ldieAt s rid d).nsem ≤ i then .error 0x069 else .ok (some (d, i))
  else if d ≠ 0 ∨ i ≠ 0 then .error zeroCause else .ok none

/-- A write is acknowledged at package scope: no fence record and no XSEM waits for it any longer, on any core, since its task may
have moved to another (R133, R280, R283). -/
def settleWrite (s : State) (rid id : Nat) : State :=
  modRect s rid fun r => { r with cores := r.cores.map fun k => (k.1,
    { k.2 with fences := k.2.fences.map (fun f => (f.1, { f.2 with waits := f.2.waits.filter fun x => x.2 != id })),
               xdieq := k.2.xdieq.map (fun x => { x with waits := x.waits.filter fun y => y != id }) }) }

/-- An acknowledgement: the write leaves its core's list, and nothing waits for it any longer (R133, R280). -/
def acknowledge (s : State) (rid c id : Nat) : State :=
  settleWrite (modCore s rid c fun k => { k with acks := k.acks.filter fun w => w.id != id }) rid id

end Sys2Proof.Machine
end

