-- ==== Sys2Proof/Machine/Blocks.lean ====
section
/-!
DEFINITION. Sys2Proof/Machine/Blocks.lean: the fetch and check of a block (R34 to R39, R60), its start (R43, R44), the exits
(R80 to R92, R297, R303) and the block's completion (R50, R51, R83, R153).
-/
namespace Sys2Proof.Machine

/-! ### Fetch (R34 to R39, R60) -/

/-- Whether a consumer takes the operand of a side. -/
def takesSide (i : Instr) (side : Nat) : Bool :=
  match side with
  | 0 => takesLeft i
  | 1 => takesRight i
  | _ => prOf i != 0

/-- The slot and side a target names. -/
def slotSide (t : BitVec 9) : Option (Nat × Nat) :=
  match target t with
  | .left n => some (n, 0)
  | .right n => some (n, 1)
  | .predicate n => some (n, 2)
  | _ => none

/-- Producers of an operand among the instructions of a block (R39). -/
def producers (is : List Instr) (slot side : Nat) : Nat :=
  ((is.flatMap targetsOf).filter fun t => slotSide t == some (slot, side)).length

/-- The structural causes one slot breaks (R39, R62). -/
def structureCauses (n : Nat) (is : List Instr) (k : Nat) (i : Instr) : List Nat :=
  let ts := targetsOf i
  let per := ts.flatMap fun t => match slotSide t with
    | some (m, side) =>
      (if m ≤ k then [3] else []) ++ (if n ≤ m then [4] else []) ++
      (match is[m]? with
        | some j => if takesSide j side then [] else [5]
        | none => [])
    | none => []
  let missing := [0, 1, 2].flatMap fun side => if takesSide i side && producers is k side == 0 then [6] else []
  let same := match ts with
    | [t, u] => if t = u ∧ t ≠ 0x1FF#9 then [0xD] else []
    | _ => []
  per ++ missing ++ same

/-- What stands for a word of no row of the opcode table while the slots below it are checked: no target to it fails for want
of an operand, because only an instruction takes or does not take one (log 20). Its own turn comes before the slots above. -/
def placeholder : Instr := .add 1 0x1FF 0x1FF

/-- Check slots from s0 upward: the first cause and its slot (R60). -/
def checkSlots (n : Nat) (ws : List (BitVec 32)) : Except (Nat × Nat) (List Instr) :=
  let is := ws.map fun w => (rowOf w).getD placeholder
  foldE (fun acc (k : Nat) =>
    match ws[k]? with
    | none => .ok acc
    | some w =>
      match decode w with
      | .error e => .error (e, k)
      | .ok i =>
        match lowest (structureCauses n is k i) with
        | some e => .error (e, k)
        | none => .ok (acc ++ [i])) [] (List.range n)

/-- The operands of a block with their producers counted (R40). -/
def initialOps (is : List Instr) : Tab OpSt :=
  (List.range is.length).flatMap fun k =>
    [0, 1, 2].map fun side => (opKey k side, { left := producers is k side, val := none })

/-- The pushes of a block by slot (R42). -/
def initialPushes (is : List Instr) : List PortProd :=
  (List.range is.length).flatMap fun k =>
    ((is[k]?.map targetsOf).getD []).flatMap fun t => match target t with
      | .port p => [{ slot := k, port := p }]
      | _ => []

/-- Fetch and check the block at a word address: the block ready to start, or its cause and slot (R37, R60, R287). -/
def fetchBlock (s : State) (rid c h : Nat) : Except (Nat × Option Nat) BlockRun :=
  let hdr := storeWord s rid c h
  let n := (hdr.extractLsb' 0 6).toNat + 1
  let limit := if (coreAt s rid c).csr.hmode then 16384 else 15360
  if badIn s (Place.key (.ist rid c (4 * h))) (min (4 * n + 4) (65536 - 4 * h)) then .error (0x083, none)
  else if hdr.extractLsb' 28 4 ≠ 0xE#4 then .error (0x000, none)
  else if hdr.extractLsb' 24 2 ≠ 0#2 ∨ hdr.extractLsb' 6 10 ≠ 0#10 then .error (0x001, none)
  else if limit < h + n + 1 then .error (0x002, none)
  else
    let ws := (List.range n).map fun k => storeWord s rid c (h + 1 + k)
    match checkSlots n ws with
    | .error e => .error (e.1, some e.2)
    | .ok is => .ok { h := h, n := n, hdr := hdr, words := ws, slots := List.replicate n .waiting, ops := initialOps is, pushes := initialPushes is }

/-- A core fetches the block it is to run (R45, R60). -/
def fetchCore (rid core : Nat) (s : State) : State :=
  match (coreAt s rid core).phase with
    | .fetch h =>
      if !coreActs s rid core then s
      else
        match fetchBlock s rid core h with
        | .error (e, slot) => takeTrap s rid core e 0 h slot
        | .ok b =>
          let f := fresh s
          modCore f.2 rid core fun k => { k with phase := .ready { b with id := f.1 } }
    | _ => s

/-! ### Start (R43, R44) -/

/-- The instructions of a block that passed its checks. -/
def blockInstrs (b : BlockRun) : List Instr := b.words.map fun w => (decodeRow w).getD placeholder

/-- The ports a block's GETs name, one for each GET (R43). -/
def portGets (is : List Instr) : List Nat :=
  is.flatMap fun i => match i with
    | .get r _ _ => if 64 ≤ r.toNat then [r.toNat - 64] else []
    | _ => []

/-- The cause a GET of a port that is not bound as a pop side raises when the block would start, with its slot (R146). -/
def getFault (s : State) (rid c : Nat) (is : List Instr) : Option (Nat × Nat) :=
  (List.range is.length).findSome? fun k => match is[k]? with
    | some (Instr.get r _ _) => (getCause s rid c r).map fun e => (e, k)
    | _ => none

/-- Condition 3 of R43: every port that is bound as a pop side holds a value for each of its GETs, and the clock of its queue runs
(R350). A port that is not has no queue to wait for. -/
def portsFilled (s : State) (rid c : Nat) (ps : List Nat) : Bool :=
  ps.all fun p => match portBind s rid c p with
    | some pb => !pb.pop || queueRuns s rid pb.queue && decide ((ps.filter (· == p)).length ≤ (queueAt s rid pb.queue).vals.length)
    | none => true

/-- Conditions 1, 2 and 4 of R43. -/
def mayStart (s : State) (rid c : Nat) (hdr : BitVec 32) (gets : Bool) : Bool :=
  ((List.range 8).all fun t => !hdr.getLsbD (16 + t) || tokenAt s rid c t == 0) &&
  (!hdr.getLsbD 26 || taskSafe s rid c) &&
  (!gets || !taskOrdered s rid c || taskSafe s rid c)

/-- A block-address breakpoint matches (R302). -/
def breakpointAt (k : Core) (h : Nat) : Bool :=
  !k.csr.hmode && !k.csr.bpskip && k.csr.bpa.any fun e => e.2.getLsbD 63 && e.2.toNat % 16384 == h

/-- The values of a block's GETs, with their slots and targets: every GET fires in the start cycle, and GETs of one port pop in
slot order (R44). -/
def takeGets (s : State) (rid c : Nat) (is : List Instr) : State × List (Nat × W64 × List (BitVec 9)) :=
  (List.range is.length).foldl (fun a k => match is[k]? with
    | some (Instr.get r u t) =>
      match getValue a.1 rid c r with
      | some x => (setSlot x.2 rid c k .fired, a.2 ++ [(k, x.1, [t, u])])
      | none => a
    | _ => a) (s, [])

/-- Fire the GETs of a block; their values reach their consumers in the next cycle (R44, R52). -/
def fireGets (s : State) (rid c : Nat) (is : List Instr) : State :=
  let a := takeGets s rid c is
  deliverCycle a.1 rid c (a.2.flatMap fun x => x.2.2.map fun t => (x.1, some x.2.1, t))

/-- A block starts once R43 lets it (R43, R44). In the cycle in which it would start, an engine cause of its task comes first
(R117), then a breakpoint (R302), then a GET of a port that is not bound (R76): the spec gives no order among the three
(log 72). -/
def startCore (rid core : Nat) (s : State) : State :=
  match (coreAt s rid core).phase with
    | .ready b =>
      let k := coreAt s rid core
      let is := blockInstrs b
      let gets := portGets is
      if !coreActs s rid core || !mayStart s rid core b.hdr (!gets.isEmpty) || !portsFilled s rid core gets then s
      else
        match (if k.csr.hmode then [] else k.causes) with
        | p :: ps => takeTrap (modCore s rid core fun k => { k with causes := ps }) rid core p.cause p.faddr b.h none
        | [] =>
          if breakpointAt k b.h then takeTrap s rid core 0x144 0 b.h none
          else
            match getFault s rid core is with
            | some (e, slot) => takeTrap s rid core e 0 b.h (some slot)
            | none =>
              let s := modCore s rid core fun k =>
                { k with phase := .run { b with fp0 := k.csr.fpflags, bound := !gets.isEmpty },
                         csr := { k.csr with bpskip := false } }
              fireGets s rid core is
    | _ => s

/-! ### Exits (R80 to R93) -/

/-- R35: the cause of an exit target, in the core's mode. -/
def targetFault (handler : Bool) (t : Int) : Option Nat :=
  if t < 0 ∨ 16383 < t then some 0x00B
  else if !handler && decide (15360 ≤ t) then some 0x00C
  else none

/-- Record an exit's choice (R81); a second exit faults (R50). -/
def chooseExit (s : State) (e : Exit) : Act :=
  match runOf s s.cur.rid s.cur.core with
  | some b =>
    if b.exit.isSome then .trap 0x008 0
    else .done (modRun s s.cur.rid s.cur.core fun b => { b with exit := some e, exitSlot := s.cur.slot })
  | none => .hold

def handlerMode (s : State) : Bool := (coreAt s s.cur.rid s.cur.core).csr.hmode
def blockAddr (s : State) : Nat := ((runOf s s.cur.rid s.cur.core).map (·.h)).getD 0

/-- An exit with a target: checked when it fires (R35, R82). Of a second exit whose target fails too, the spec does not say
which cause comes first: here the target's, and for the other exits the cause of the exit itself, before 0x008 (log 73). -/
def targetExit (s : State) (t : Int) (mk : Nat → Exit) : Act :=
  match targetFault (handlerMode s) t with
  | some e => .trap e 0
  | none => chooseExit s (mk t.toNat)

/-- The offset target of BR, CALL and PARK (R82). -/
def offsetTarget (s : State) (o : BitVec 20) : Int := (blockAddr s : Int) + o.toInt

/-- BR (R80, R82). -/
def execBr (p : BitVec 2) (o : BitVec 20) (s : State) : Result :=
  issue (.br p o) (fun _ _ s => targetExit s (offsetTarget s o) .br) s

/-- BRI (R82). -/
def execBri (p : BitVec 2) (s : State) : Result :=
  issue (.bri p) (fun a _ s => targetExit s a.toNat .br) s

/-- CALL (R82, R85); not in handler mode (R295). -/
def execCall (p : BitVec 2) (o : BitVec 20) (s : State) : Result :=
  issue (.call p o) (fun _ _ s => if handlerMode s then .trap 0x146 0 else targetExit s (offsetTarget s o) .call) s

/-- CALLI (R82, R85). -/
def execCalli (p : BitVec 2) (s : State) : Result :=
  issue (.calli p) (fun a _ s => if handlerMode s then .trap 0x146 0 else targetExit s a.toNat .call) s

/-- The key of a call frame (R84). -/
def frameKey (rid c d : Nat) : Nat := Place.key (.scr rid c (0x3EE00 + 8 * d))

/-- RET (R82, R86): the frame is read when it fires. -/
def execRet (p : BitVec 2) (s : State) : Result :=
  issue (.ret p) (fun _ _ s =>
    let d := (coreAt s s.cur.rid s.cur.core).csr.cdepth
    if handlerMode s then .trap 0x146 0
    else if d = 0 then .trap 0x051 0
    else targetExit s (readNat s (frameKey s.cur.rid s.cur.core (d - 1)) 8) .ret) s

/-- TEND (R87). -/
def execTend (p : BitVec 2) (s : State) : Result :=
  issue (.tend p) (fun _ _ s => if handlerMode s then .trap 0x146 0 else chooseExit s .tend) s

/-- PARK (R82, R89): R89's checks in its order, then the free slot and last the resume block, between which the spec gives no
order (log 23). -/
def execPark (p : BitVec 2) (o : BitVec 20) (s : State) : Result :=
  issue (.park p o) (fun a b s =>
    let k := coreAt s s.cur.rid s.cur.core
    if handlerMode s then .trap 0x146 0
    else if 16 < popcN 32 b.toNat then .trap 0x052 0
    else if k.csr.cdepth ≠ 0 ∨ k.csr.depth ≠ 0 then .trap 0x053 0
    else
      match checkSem s s.cur.rid s.cur.core a with
      | .error e => .trap e a
      | .ok () =>
        if 32 ≤ k.contUsed.length then .trap 0x0A6 0
        else targetExit s (offsetTarget s o) fun t => .park t a (b.extractLsb' 32 32) (b.extractLsb' 0 32)) s

/-- TABORT (R88). -/
def execTabort (p : BitVec 2) (s : State) : Result :=
  issue (.tabort p) (fun a _ s => if handlerMode s then .trap 0x146 0 else chooseExit s (.tabort (a.extractLsb' 0 16))) s

/-- ERET discard (R297). -/
def execEretDiscard (p : BitVec 2) (r : BitVec 1) (s : State) : Result :=
  issue (.eretDiscard p r) (fun a _ s =>
    if handlerMode s then chooseExit s (.discard (if r = 1 then some a else none)) else .trap 0x140 0) s

/-- ERET retry (R297, R298): its target is FBLK, checked as a task-mode target. -/
def execEretRetry (p : BitVec 2) (s : State) : Result :=
  issue (.eretRetry p) (fun _ _ s =>
    if handlerMode s then
      match targetFault false (coreAt s s.cur.rid s.cur.core).csr.fblk with
      | some e => .trap e 0
      | none => chooseExit s .retry
    else .trap 0x140 0) s

/-- ERET resume (R297, R298): its target is a task-mode target. -/
def execEretResume (p : BitVec 2) (s : State) : Result :=
  issue (.eretResume p) (fun a _ s =>
    if handlerMode s then
      match targetFault false a.toNat with
      | some e => .trap e 0
      | none => chooseExit s (.resume a)
    else .trap 0x140 0) s

/-- HALT (R303). -/
def execHalt (p : BitVec 2) (s : State) : Result :=
  issue (.halt p) (fun _ _ s => if handlerMode s then chooseExit s .halt else .trap 0x140 0) s

/-! ### Completion (R50, R51, R83) -/

/-- The block's register writes land at once (R51). -/
def commitRegs (s : State) (rid c : Nat) (b : BlockRun) : State :=
  modCore s rid c fun k => { k with g := b.regs.foldl (fun g e => tset g e.1 e.2) k.g }

/-- Held CSR writes take effect, then the block's flags are ORed and its saturations counted (R174, R304). -/
def commitFlags (s : State) (rid c : Nat) (b : BlockRun) : State :=
  modCsr s rid c fun q =>
    let q := { q with fpflags := tget q.fpflags b.csrw 0,
                      mrepl := (b.csrw.filter fun (e : Nat × W64) => e.1 != 0).foldl (fun t (e : Nat × W64) => tset t (e.1 - 0x10) (e.2.setWidth 32)) q.mrepl }
    let sat := min 65535 (bitsOf q.fpflags.toNat 31 16 + b.satcnt)
    { q with fpflags := BitVec.ofNat 64 (sat * 65536 + ((q.fpflags.toNat % 64) ||| b.flags.toNat)) }

/-- A task ends by TEND: an unordered one commits, an ordered one keeps its slot until its turn (R87, R158). -/
def endTask (s : State) (rid c : Nat) : State :=
  match (coreAt s rid c).task with
  | none => freeCore s rid c
  | some t =>
    let s := releaseTask s rid c
    if (rectAt s rid).dom.out.any (fun o => o.uid == t.uid) then
      let f := fresh s
      let s := modCore f.2 rid c fun k => { k with fin := k.fin ++ [t] }
      let s := modRect s rid fun r => { r with dom := { r.dom with out := r.dom.out.map fun o =>
        if o.uid = t.uid then { o with finished := true, order := f.1, core := c } else o } }
      freeCore s rid c
    else freeCore (commitEntries s rid c t.uid t.rcd) rid c

/-- The continuation slot that PARK takes. R165 gives 32 slots and does not say which of the free ones: here the lowest (log 87). -/
def freeCont (k : Core) : Nat := ((List.range 32).find? fun i => !k.contUsed.contains i).getD 0

/-- PARK at completion: commit, write the 160-byte record, register it (R89, R90, R165). -/
def parkTask (s : State) (rid c target : Nat) (sem : W64) (thresh mask : BitVec 32) : State :=
  let k := coreAt s rid c
  let t := k.task.getD {}
  let s := commitEntries s rid c t.uid t.rcd
  let slot := freeCont k
  let base := contKey rid c slot
  let live := (List.range 32).filter fun i => mask.getLsbD i
  let regs := live.flatMap fun i => bytesOf 8 (tget 0 (coreAt s rid c).g i).toNat
  let flags := (if recOrdered t.rcd then 1 else 0) + (if recSpec t.rcd then 2 else 0)
  let bytes := bytesOf 2 target ++ bytesOf 1 (t.stage % 16) ++ bytesOf 1 flags ++ bytesOf 4 mask.toNat ++
    bytesOf 8 (recTs t.rcd) ++ bytesOf 8 (recIdx t.rcd) ++ bytesOf 4 thresh.toNat ++
    bytesOf 2 (addrSem sem + 4096 * addrDie sem) ++ bytesOf 2 0 ++ regs ++ List.replicate (128 - 8 * live.length) 0
  let s := writeKeys s base bytes
  let s := releaseTask s rid c
  let s := modCore s rid c fun k => { k with contUsed := k.contUsed ++ [slot] }
  let s := modLdie s rid (addrDie sem) fun l => { l with conts := l.conts ++
    [{ core := c, slot := slot, stage := t.stage, idx := addrSem sem, thresh := thresh, satisfied := false, seq := 0, when := 0, task := t }] }
  freeCore (satisfyAll s rid (addrDie sem) (addrSem sem)) rid c

/-- TABORT at completion: entries and spawns dropped, the record of kind 1, the domain goes on (R88, R153). R299 gives CAUSE,
FADDR, FBLK and FSLOT no value in a record of kind 1: here they are 0 (log 77). -/
def abortSelf (s : State) (rid c : Nat) (code : BitVec 16) : State :=
  match (coreAt s rid c).task with
  | none => freeCore s rid c
  | some t =>
    let s := post s (worldOf rid) { cause := 0, kind := 1, stage := t.stage, core := c, code := code.toNat, fiter := recIdx t.rcd, ts := recTs t.rcd }
    let s := dropEntries s rid c t.uid
    freeCore (domainEnd (releaseTask s rid c) rid c t.uid) rid c

/-- A CALL at completion pushes its frame, a RET pops one; what is left of them, and of the other exits, is where the task goes
(R85, R86). -/
def settleExit (s : State) (rid c h n : Nat) : Exit → State × Exit
  | .call t =>
    let d := (coreAt s rid c).csr.cdepth
    (modCsr (writeNat s (frameKey rid c d) 8 (h + n + 1)) rid c fun q => { q with cdepth := d + 1 }, .br t)
  | .ret t => (modCsr s rid c fun q => { q with cdepth := q.cdepth - 1 }, .br t)
  | e => (s, e)

/-- The entry of the link storage for a depth (R153). One that no child has written names block 0 and the task itself: the spec
gives it no reset value (log 26). -/
def linkOf (k : Core) (d : Nat) : InlineLink :=
  k.links[d]?.getD { exit := some (.br 0), task := k.task.getD {}, cdepth := k.csr.cdepth }

/-- The TEND of an inline child: the slot commits, g0 to g63 and the CSRs come back from depth DEPTH − 1, TSTAT whole (R150), and the
exit that the parent's block recorded there is left to take (R153). -/
def endChild (s : State) (rid c : Nat) : State :=
  let k := coreAt s rid c
  let d := k.csr.depth - 1
  let l := linkOf k d
  let s := match k.task with
    | some t => commitEntries s rid c t.uid t.rcd
    | none => s
  let base := Place.key (.scr rid c (0x3DE00 + 512 * d))
  let g : Tab W64 := (List.range 64).map fun i => (i, BitVec.ofNat 64 (readNat s (base + 8 * i) 8))
  modCore s rid c fun k =>
    { k with g := g, task := some l.task, csr := { k.csr with depth := d, cdepth := l.cdepth } }

/-- A task that is to be parked waits until it is safe (R89), and for the clock of the sync unit that registers it (R350). -/
def parkWaits (s : State) (rid c : Nat) (sem : W64) : Bool := !taskSafe s rid c || !semRuns s rid (addrDie sem)

/-- PARK of a task whose block has completed: at once, or as a core that waits for it with the block's register writes landed (R89). A
stop finds such a core between blocks, and it waits on after the resume (log 112). -/
def startPark (s : State) (rid c target : Nat) (sem : W64) (thresh mask : BitVec 32) : State :=
  if parkWaits s rid c sem then modCore s rid c fun k => { k with phase := .parking target sem thresh mask }
  else parkTask s rid c target sem thresh mask

/-- What runs next after an exit (R83, R153, R298); `fuel` bounds the inline children that end together. TEND ends an inline child
while DEPTH says that one is open. -/
def applyExit : Nat → State → Nat → Nat → Exit → State
  | 0, s, _, _, _ => s
  | fuel + 1, s, rid, c, e =>
    match e with
    | .br t => modCore s rid c fun k => { k with phase := .fetch t }
    | .call t => modCore s rid c fun k => { k with phase := .fetch t }
    | .ret t => modCore s rid c fun k => { k with phase := .fetch t }
    | .tend =>
      let k := coreAt s rid c
      if k.csr.depth = 0 then endTask s rid c
      else
        match (linkOf k (k.csr.depth - 1)).exit with
        | some e => applyExit fuel (endChild s rid c) rid c e
        | none => endChild s rid c
    | .park t sem thresh mask => startPark s rid c t sem thresh mask
    | .tabort code => abortSelf s rid c code
    | .discard cause => discardWith s rid c (match cause with | some x => x.toNat % 512 | none => (coreAt s rid c).csr.cause)
    | .retry => returnTrap s rid c (coreAt s rid c).csr.fblk
    | .resume t => returnTrap s rid c t.toNat
    | .halt => haltCore s rid c false

/-- Write one entry of the link storage, which grows as needed. Those skipped, which no child has written, name block 0, the task
and its CDEPTH, as `linkOf` reads one (log 26). -/
def setAt (ls : List InlineLink) (d : Nat) (l : InlineLink) : List InlineLink :=
  ls.take d ++ List.replicate (d - ls.length) { l with exit := some (.br 0) } ++ [l] ++ ls.drop (d + 1)

/-- Start the inline child a SPAWN of the block chose: the parent's registers go to its frame and the block its exit named to the
link storage, and the child waits for its regions as a task does (R99, R153). The spec does not say whether the child of a task that
writes through starts writing through, since R109 speaks of the task and R150 gives TSTAT.WT reset 0: here it does (log 95). The child
of a handler's block runs in handler mode, before an ERET or a HALT of that block acts (log 26). -/
def startInline (s : State) (rid c : Nat) (e : Exit) (rcd : BitVec 512) : State :=
  let k := coreAt s rid c
  let base := Place.key (.scr rid c (0x3DE00 + 512 * k.csr.depth))
  let s := writeKeys s base ((List.range 64).flatMap fun i => bytesOf 8 (tget 0 k.g i).toNat)
  let t := k.task.getD {}
  modCore s rid c fun k =>
    { k with links := setAt k.links k.csr.depth { exit := some e, task := t, cdepth := k.csr.cdepth },
             task := some { t with rcd := rcd },
             g := (List.range 4).map fun j => (j + 1, BitVec.ofNat 64 (recArg rcd (j + 1))), v := [],
             phase := .launching, csr := { k.csr with depth := k.csr.depth + 1 } }

/-- Every instruction is resolved and everything it delivers has been delivered (R50, R101). -/
def blockSettled (b : BlockRun) : Bool :=
  ((List.range b.n).all fun k => resolved b k && !quashing b k) && b.divide.isNone && b.products.isEmpty && b.lookups.isEmpty && b.loads.isEmpty &&
  b.pushes.all fun p => match p.st with
    | .ready _ => false
    | _ => true

/-- TABORT of an ordered task waits for safety with its block (R88). -/
def exitWaits (s : State) (rid c : Nat) : Exit → Bool
  | .tabort _ => !taskSafe s rid c
  | _ => false

/-- Whether an exit drops the block's register writes (R83). -/
def dropsRegs : Exit → Bool
  | .tend => true
  | .tabort _ => true
  | .discard _ => true
  | .halt => false
  | _ => false

/-- The block that the Periscope stepped has completed: the core is in debug halt again (R314). -/
def stepOver (s : State) (rid c : Nat) : State :=
  modCore s rid c fun k => { k with stepping := false, stepped := k.stepping || k.stepped }

/-- A block with a fault that waits ends by it, once the sequenced instructions that have issued have performed in full (R52). -/
def endFaulted (s : State) (rid c : Nat) (b : BlockRun) : State :=
  match b.fault with
  | some (cause, a, slot) => if halfDone b slot then s else takeTrap s rid c cause a b.h slot
  | none => s

/-- A settled block completes (R50, R51, R83, R153). A block that took a record inline commits and runs the child before its own exit,
a TABORT too (log 26). A core that the Periscope steps is in debug halt again (R314), but not where
the block faults: it has not completed then, and the step goes on with the next block. A CALL at a CDEPTH above 64, which only a
handler's save area can give (R84, R294), raises 0x050 as one at 64 does, of which alone R85 speaks (log 96). -/
def completeBlock (s : State) (rid core : Nat) (b : BlockRun) : State :=
  if b.fault.isSome then endFaulted s rid core b
  else if !blockSettled b || (b.inl.isSome && !(coreAt s rid core).vloads.isEmpty) then s
  else
    match b.exit with
    | none => trapSlot s rid core 0x007 0 none
    | some e =>
      if exitWaits s rid core e then s
      else if (match e with | .call _ => decide (64 ≤ (coreAt s rid core).csr.cdepth) | _ => false) then
        trapSlot s rid core 0x050 0 (some b.exitSlot)
      else
        let s := stepOver s rid core
        let s := if dropsRegs e && b.inl.isNone then s else commitRegs s rid core b
        let s := commitFlags s rid core b
        let x := settleExit s rid core b.h b.n e
        match b.inl with
        | some rcd => startInline x.1 rid core x.2 rcd
        | none => applyExit 10 x.1 rid core x.2

/-- BLOCK_COMPLETE for a core: its block completes, or the task of one that has completed with PARK is parked (R83, R89). -/
def completeCore (rid core : Nat) (s : State) : State :=
  if !coreActs s rid core then s
  else
    match (coreAt s rid core).phase with
    | .run b => completeBlock s rid core b
    | .parking t sem thresh mask => if parkWaits s rid core sem then s else parkTask s rid core t sem thresh mask
    | _ => s

end Sys2Proof.Machine
end

