-- ==== Sys2Proof/Machine/Gcm.lean ====
section
/-!
DEFINITION. Sys2Proof/Machine/Gcm.lean: AES-256-GCM, which R197 names and does not lay out: the cipher of FIPS 197 and the
mode of NIST SP 800-38D with a 96-bit IV and a 128-bit tag (PRESUMED, assumption log 14).
-/
namespace Sys2Proof.Machine

/-! ### AES-256 -/

/-- Multiplication by x in GF(2^8). -/
def xtime (a : Nat) : Nat := if a < 128 then 2 * a else (2 * a) ^^^ 0x11B

/-- Multiplication in GF(2^8); `n` bits of b are used. -/
def gmul : Nat → Nat → Nat → Nat
  | 0, _, _ => 0
  | n + 1, a, b => (if b % 2 = 1 then a else 0) ^^^ gmul n (xtime a) (b / 2)

def gsq (a : Nat) : Nat := gmul 8 a a

/-- The inverse in GF(2^8), a^254. -/
def ginv (a : Nat) : Nat :=
  let a2 := gsq a
  let a3 := gmul 8 a2 a
  let a6 := gsq a3
  let a12 := gsq a6
  let a15 := gmul 8 a12 a3
  let a240 := gsq (gsq (gsq (gsq a15)))
  gmul 8 (gmul 8 a240 a12) a2

def rotl8 (a k : Nat) : Nat := (a * 2 ^ k + a / 2 ^ (8 - k)) % 256

def sboxOf (a : Nat) : Nat :=
  let b := ginv a
  b ^^^ rotl8 b 1 ^^^ rotl8 b 2 ^^^ rotl8 b 3 ^^^ rotl8 b 4 ^^^ 0x63

/-- The S-box as one number, byte a at bits 8a: computed once. -/
def sboxTable : Nat := (List.range 256).foldl (fun t a => t + sboxOf a * 256 ^ a) 0

def sbox (a : Nat) : Nat := sboxTable / 256 ^ a % 256

/-- Key schedule: words most recent first, each a list of 4 bytes. -/
def expandKey : Nat → Nat → Nat → List (List Nat) → List (List Nat)
  | 0, _, _, ws => ws
  | n + 1, i, rcon, ws =>
    let t := ws[0]?.getD []
    let old := ws[7]?.getD []
    let t' := if i % 8 = 0 then
        match t with
        | [a, b, c, d] => [sbox b ^^^ rcon, sbox c, sbox d, sbox a]
        | _ => []
      else if i % 8 = 4 then t.map sbox else t
    expandKey n (i + 1) (if i % 8 = 0 then xtime rcon else rcon) (List.zipWith (· ^^^ ·) old t' :: ws)

/-- Bytes of a list in groups of n. -/
def chunks {α : Type} : Nat → Nat → List α → List (List α)
  | 0, _, _ => []
  | _, _, [] => []
  | f + 1, n, l => l.take n :: chunks f n (l.drop n)

/-- The 15 round keys of 16 bytes. -/
def roundKeys (key : List Nat) : List (List Nat) :=
  let ws := (expandKey 52 8 1 (chunks 8 4 key).reverse).reverse
  (chunks 15 4 ws).map List.flatten

/-- ShiftRows on a state in column order. -/
def shiftRows (st : List Nat) : List Nat :=
  (List.range 16).map fun i => st[(i + 4 * (i % 4)) % 16]?.getD 0

def mixColumn (c : List Nat) : List Nat :=
  match c with
  | [a, b, c, d] =>
    let m := fun (w x y z : Nat) => xtime w ^^^ (xtime x ^^^ x) ^^^ y ^^^ z
    [m a b c d, m b c d a, m c d a b, m d a b c]
  | _ => c

def addKey (st k : List Nat) : List Nat := List.zipWith (· ^^^ ·) st k

/-- The rounds of AES after the first key addition. -/
def aesRounds : List (List Nat) → List Nat → List Nat
  | [], st => st
  | [k], st => addKey (shiftRows (st.map sbox)) k
  | k :: ks, st => aesRounds ks (addKey ((chunks 4 4 (shiftRows (st.map sbox))).map mixColumn).flatten k)

/-- One AES-256 block under expanded round keys. -/
def aesBlock (rk : List (List Nat)) (b : List Nat) : List Nat :=
  match rk with
  | [] => b
  | k :: ks => aesRounds ks (addKey b k)

/-! ### GCM -/

/-- A big-endian number of bytes. -/
def natBE (l : List Nat) : Nat := l.foldl (fun n b => n * 256 + b) 0

/-- n big-endian bytes of a number. -/
def bytesBE (n v : Nat) : List Nat := (List.range n).map fun i => v / 256 ^ (n - 1 - i) % 256

/-- Multiplication in GF(2^128), bit 0 leftmost: n bits of x from the left. -/
def ghMul : Nat → Nat → Nat → Nat → Nat
  | 0, _, _, z => z
  | n + 1, x, v, z =>
    let z := if x / 2 ^ n % 2 = 1 then z ^^^ v else z
    let v := if v % 2 = 1 then (v / 2) ^^^ (0xE1 * 2 ^ 120) else v / 2
    ghMul n x v z

/-- GHASH over 16-byte blocks, a short last block padded with zeros. -/
def ghash (h : Nat) (y : Nat) (l : List Nat) : Nat :=
  (chunks (l.length + 1) 16 l).foldl (fun y b => ghMul 128 (y ^^^ natBE (b ++ List.replicate (16 - b.length) 0)) h 0) y

/-- Counter-mode output over the blocks of a message, from a counter. -/
def ctrBlocks (rk : List (List Nat)) (iv : List Nat) : Nat → List (List Nat) → List Nat
  | _, [] => []
  | c, b :: bs => List.zipWith (· ^^^ ·) b (aesBlock rk (iv ++ bytesBE 4 c)) ++ ctrBlocks rk iv (c + 1) bs

/-- A 256-bit key as 32 bytes, byte 0 at bits 7..0 (R4). -/
def keyBytes (k : BitVec 256) : List Nat := (bytesOf 32 k.toNat).map (·.toNat)

/-- The tag of a ciphertext under additional data. -/
def gcmTag (rk : List (List Nat)) (iv aad c : List Nat) : List Nat :=
  let h := natBE (aesBlock rk (List.replicate 16 0))
  let y := ghash h (ghash h 0 aad) c
  let y := ghMul 128 (y ^^^ (8 * aad.length * 2 ^ 64 + 8 * c.length)) h 0
  List.zipWith (· ^^^ ·) (bytesBE 16 y) (aesBlock rk (iv ++ [0, 0, 0, 1]))

/-- Decryption, and whether the tag matches. -/
def gcmOpen (key : BitVec 256) (iv aad c tag : List Byte) : List Byte × Bool :=
  let n := fun (l : List Byte) => l.map (·.toNat)
  let rk := roundKeys (keyBytes key)
  let p := ctrBlocks rk (n iv) 2 (chunks (c.length + 1) 16 (n c))
  (p.map (BitVec.ofNat 8), gcmTag rk (n iv) (n aad) (n c) == n tag)

/-- Encryption with its tag. -/
def gcmSeal (key : BitVec 256) (iv aad p : List Byte) : List Byte × List Byte :=
  let n := fun (l : List Byte) => l.map (·.toNat)
  let rk := roundKeys (keyBytes key)
  let c := ctrBlocks rk (n iv) 2 (chunks (p.length + 1) 16 (n p))
  (c.map (BitVec.ofNat 8), (gcmTag rk (n iv) (n aad) c).map (BitVec.ofNat 8))

end Sys2Proof.Machine
end

