-- ==== Sys2Proof/Machine/Flags.lean ====
section
/-!
DEFINITION. Sys2Proof/Machine/Flags.lean: the number formats, the one rounding step every floating-point result passes
through, and the flags it raises (R33, R171 to R179).
-/
namespace Sys2Proof.Machine

/-! ### Flags (R173, R174) -/

/-- What the rounding of values raised: NV, DZ, OF, UF, NX, SAT from bit 0 up, and saturations counted. -/
structure Fl where
  bits : BitVec 6 := 0
  sat : Nat := 0
  deriving DecidableEq, Repr

def flNV : Fl := { bits := 1 }
def flDZ : Fl := { bits := 2 }
def flOFNX : Fl := { bits := 0x14 }
def flUF : Fl := { bits := 8 }
def flUFNX : Fl := { bits := 0x18 }
def flNX : Fl := { bits := 0x10 }
/-- SAT, one more in SATCNT, and NX (R172, R179). -/
def flSatNX : Fl := { bits := 0x30, sat := 1 }
/-- SAT and one more in SATCNT (R187). -/
def flSat : Fl := { bits := 0x20, sat := 1 }

def Fl.join (a b : Fl) : Fl := { bits := a.bits ||| b.bits, sat := a.sat + b.sat }

/-- The flags a fired instruction raises are held with its block (R174). -/
def raise (s : State) (f : Fl) : State :=
  modRun s s.cur.rid s.cur.core fun b => { b with flags := b.flags ||| f.bits, satcnt := b.satcnt + f.sat }

/-! ### Exact values (R33 value_of) -/

/-- An exact value: NaN, an infinity, or a signed magnitude m × 2^e; `more` says that the magnitude lies strictly
between m and m + 1 times 2^e. A zero has a sign. -/
inductive Val where
  | nan
  | inf (neg : Bool)
  | num (neg : Bool) (m : Nat) (e : Int) (more : Bool)
  deriving DecidableEq, Repr

/-- A format of R171. -/
structure Fmt where
  w : Nat
  mb : Nat
  bias : Nat
  f8 : Bool
  deriving DecidableEq, Repr

def fp32 : Fmt := { w := 32, mb := 23, bias := 127, f8 := false }
def bf16 : Fmt := { w := 16, mb := 7, bias := 127, f8 := false }
def fp16 : Fmt := { w := 16, mb := 10, bias := 15, f8 := false }
def fmtF8 : Fmt := { w := 8, mb := 3, bias := 8, f8 := true }

/-- The all-ones exponent field. -/
def Fmt.emax (f : Fmt) : Nat := 2 ^ (f.w - 1 - f.mb) - 1
/-- canonical_nan (R33). -/
def Fmt.canon (f : Fmt) : Nat := if f.f8 then 0x80 else f.emax * 2 ^ f.mb + 2 ^ (f.mb - 1)
/-- The largest finite magnitude as bits (R171). -/
def Fmt.maxFinite (f : Fmt) : Nat := if f.f8 then 0x7F else f.emax * 2 ^ f.mb - 1
/-- The bits of an infinity's magnitude, 240 in F8 (R172). -/
def Fmt.infBits (f : Fmt) : Nat := if f.f8 then 0x7F else f.emax * 2 ^ f.mb
/-- The sign bit. -/
def Fmt.sign (f : Fmt) (neg : Bool) : Nat := if neg then 2 ^ (f.w - 1) else 0
/-- The exponent of the smallest normal value. -/
def Fmt.emin (f : Fmt) : Int := 1 - f.bias

/-- value_of (R33, R171). -/
def valueOf (f : Fmt) (x : Nat) : Val :=
  let neg := x / 2 ^ (f.w - 1) % 2 == 1
  let e := x / 2 ^ f.mb % (f.emax + 1)
  let m := x % 2 ^ f.mb
  if f.f8 && x % 256 == 0x80 then .nan
  else if e = 0 then .num neg m (f.emin - f.mb) false
  else if !f.f8 && e == f.emax then (if m = 0 then .inf neg else .nan)
  else .num neg (m + 2 ^ f.mb) ((e : Int) - f.bias - f.mb) false

/-! ### encode (R33, R172) -/

/-- Rounding modes by their code. -/
inductive Mode where
  | rne | rtz | rdn | rup
  deriving DecidableEq, Repr

def modeOf (m : BitVec 2) : Mode :=
  if m = 0#2 then .rne else if m = 1#2 then .rtz else if m = 2#2 then .rdn else .rup

/-- Round a magnitude that is q + part of a unit: `over` compares the part with a half (0 none, 1 below, 2 half, 3 above). -/
def roundUp (mode : Mode) (neg : Bool) (q past : Nat) : Bool :=
  match mode with
  | .rne => past == 3 || (past == 2 && q % 2 == 1)
  | .rtz => false
  | .rdn => neg && past != 0
  | .rup => !neg && past != 0

/-- m × 2^e (and more) in units of 2^q: whole units, and how the rest compares with a half. -/
def inUnits (m : Nat) (e q : Int) (more : Bool) : Nat × Nat :=
  if q ≤ e then (m * 2 ^ (e - q).toNat, if more then 1 else 0)
  else
    let k := (q - e).toNat
    if Nat.log2 m + 2 < k then (0, if m = 0 && !more then 0 else 1)
    else
      let r := m % 2 ^ k
      let half := 2 ^ (k - 1)
      (m / 2 ^ k, if r = 0 && !more then 0 else if r < half then 1 else if r = half && !more then 2 else 3)

/-- encode of a finite nonzero magnitude (R172 steps 4 to 7). -/
def encodeFinite (f : Fmt) (mode : Mode) (neg : Bool) (m : Nat) (e : Int) (more : Bool) : Nat × Fl :=
  let top := e + Nat.log2 m
  if f.f8 && (decide (8 ≤ top) || (top == 7 && (let u := inUnits m e 0 more
      decide (240 < u.1) || (u.1 == 240 && u.2 != 0)))) then (f.sign neg + 0x7F, flSatNX)
  else
    let q := max (top - f.mb) (f.emin - f.mb)
    let u := inUnits m e q more
    let r := u.1 + (if roundUp mode neg u.1 u.2 then 1 else 0)
    let bits := if r < 2 ^ f.mb then r else (q - (f.emin - f.mb)).toNat * 2 ^ f.mb + r
    if f.maxFinite < bits then
      let toInf := match mode with
        | .rne => true
        | .rtz => false
        | .rdn => neg
        | .rup => !neg
      (f.sign neg + (if toInf then f.infBits else f.maxFinite), flOFNX)
    else
      let fl : Fl := if u.2 = 0 then {} else if top < f.emin then flUFNX else flNX
      (if f.f8 && bits == 0 then 0 else f.sign neg + bits, fl)

/-- encode (R33, R172). -/
def encodeVal (f : Fmt) (mode : Mode) : Val → Nat × Fl
  | .nan => (f.canon, {})
  | .inf neg => (f.sign neg + f.infBits, if f.f8 then flSatNX else {})
  | .num neg m e more =>
    if m = 0 then (if f.f8 then 0 else f.sign neg, {}) else encodeFinite f mode neg m e more

/-- round_rne (R33). -/
def roundRne (f : Fmt) (v : Val) : Nat × Fl := encodeVal f .rne v

/-! ### Exact operations (R176, R183) -/

/-- A signed integer times 2^e as a value; an exact zero is +0, or -0 in RDN (R172). -/
def ofInt (mode : Mode) (v e : Int) : Val := .num (decide (v < 0) || (v == 0 && mode == .rdn)) v.natAbs e false

/-- The signed integer of a magnitude at a lower exponent. -/
def scaled (neg : Bool) (m : Nat) (e lo : Int) : Int :=
  let x : Int := (m * 2 ^ (e - lo).toNat : Nat)
  if neg then -x else x

def Val.neg : Val → Val
  | .nan => .nan
  | .inf n => .inf !n
  | .num n m e more => .num (!n) m e more

/-- x + y (R172, R176). -/
def addVal (mode : Mode) (x y : Val) : Val × Fl :=
  match x, y with
  | .nan, _ => (.nan, {})
  | _, .nan => (.nan, {})
  | .inf a, .inf b => if a = b then (.inf a, {}) else (.nan, flNV)
  | .inf a, _ => (.inf a, {})
  | _, .inf b => (.inf b, {})
  | .num a m e _, .num b n g _ =>
    if m = 0 ∧ n = 0 ∧ a = b then (.num a 0 0 false, {})
    else
      let lo := min e g
      (ofInt mode (scaled a m e lo + scaled b n g lo) lo, {})

/-- x × y (R176). -/
def mulVal (x y : Val) : Val × Fl :=
  match x, y with
  | .nan, _ => (.nan, {})
  | _, .nan => (.nan, {})
  | .inf a, .inf b => (.inf (a != b), {})
  | .inf a, .num b n _ _ => if n = 0 then (.nan, flNV) else (.inf (a != b), {})
  | .num a m _ _, .inf b => if m = 0 then (.nan, flNV) else (.inf (a != b), {})
  | .num a m e _, .num b n g _ => (.num (a != b) (m * n) (e + g) false, {})

/-- x ÷ y (R176, R183). -/
def divVal (x y : Val) : Val × Fl :=
  match x, y with
  | .nan, _ => (.nan, {})
  | _, .nan => (.nan, {})
  | .inf _, .inf _ => (.nan, flNV)
  | .inf a, .num b _ _ _ => (.inf (a != b), {})
  | .num a _ _ _, .inf b => (.num (a != b) 0 0 false, {})
  | .num a m e _, .num b n g _ =>
    if n = 0 then (if m = 0 then (.nan, flNV) else (.inf (a != b), flDZ))
    else
      let k := 64 + Nat.log2 n
      (.num (a != b) (m * 2 ^ k / n) (e - g - k) (m * 2 ^ k % n != 0), {})

/-- The integer square root of a number below 2^(2 n), bit by bit from the top. -/
def isqrt : Nat → Nat → Nat → Nat
  | 0, r, _ => r
  | n + 1, r, v => if (r + 2 ^ n) * (r + 2 ^ n) ≤ v then isqrt n (r + 2 ^ n) v else isqrt n r v

def sqrtNat (v : Nat) : Nat := isqrt (Nat.log2 v / 2 + 1) 0 v

/-- √x (R183). -/
def sqrtVal : Val → Val × Fl
  | .nan => (.nan, {})
  | .inf neg => if neg then (.nan, flNV) else (.inf false, {})
  | .num neg m e _ =>
    if m = 0 then (.num neg 0 0 false, {})
    else if neg then (.nan, flNV)
    else
      let k := 64 + (e % 2).toNat
      let v := m * 2 ^ k
      (.num false (sqrtNat v) ((e - k) / 2) (sqrtNat v * sqrtNat v != v), {})

/-- 1 ÷ x (R183). -/
def rcpVal (x : Val) : Val × Fl := divVal (.num false 1 0 false) x

/-- 1 ÷ √x (R183). -/
def rsqVal : Val → Val × Fl
  | .nan => (.nan, {})
  | .inf neg => if neg then (.nan, flNV) else (.num false 0 0 false, {})
  | .num neg m e _ =>
    if m = 0 then (.inf neg, flDZ)
    else if neg then (.nan, flNV)
    else
      let k := 100 + Nat.log2 m + ((e + Nat.log2 m) % 2).toNat
      let q := 2 ^ k / m
      let r := sqrtNat q
      (.num false r ((-e - k) / 2) (r * r * m != 2 ^ k), {})

/-- Bits of working precision of the two transcendental functions (log 12). -/
def workBits : Nat := 256

/-- The product of 2^(2^-i) over the one bits of a fraction of n bits, in units of 2^-256; `c` is 2^(2^-i). -/
def expProduct : Nat → Nat → Nat → Nat → Nat
  | 0, acc, _, _ => acc
  | n + 1, acc, c, f =>
    let c := sqrtNat (c * 2 ^ workBits)
    expProduct n (if f / 2 ^ n % 2 = 1 then acc * c / 2 ^ workBits else acc) c f

/-- 2^x (R183): exact only for an integer x. -/
def exp2Val : Val → Val × Fl
  | .nan => (.nan, {})
  | .inf neg => if neg then (.num false 0 0 false, {}) else (.inf false, {})
  | .num neg m e _ =>
    if 0 ≤ e then (.num false 1 (if neg then -(m * 2 ^ e.toNat : Nat) else (m * 2 ^ e.toNat : Nat)) false, {})
    else
      let k := (-e).toNat
      let v : Int := if neg then -(m : Int) else m
      let f := (v % (2 ^ k : Nat)).toNat
      let i := v / (2 ^ k : Nat)
      if f = 0 then (.num false 1 i false, {})
      else
        let p := expProduct k (2 ^ workBits) (2 * 2 ^ workBits) f
        (.num false (p / 2 ^ (workBits - 60)) (i - 60) true, {})

/-- n bits of log2 of y / 2^256, for a y from 1 to 2. -/
def logBits : Nat → Nat → Nat → Nat
  | 0, acc, _ => acc
  | n + 1, acc, y =>
    let q := y * y / 2 ^ workBits
    if 2 * 2 ^ workBits ≤ q then logBits n (2 * acc + 1) (q / 2) else logBits n (2 * acc) q

/-- log2 x (R183): exact only for a power of two. The spec gives the exact zero that 1.0 delivers no sign: here it is +0 in every
rounding mode (log 101). -/
def log2Val : Val → Val × Fl
  | .nan => (.nan, {})
  | .inf neg => if neg then (.nan, flNV) else (.inf false, {})
  | .num neg m e _ =>
    if m = 0 then (.inf true, flDZ)
    else if neg then (.nan, flNV)
    else
      let l := Nat.log2 m
      let i := e + l
      if m = 2 ^ l then (.num (decide (i < 0)) i.natAbs 0 false, {})
      else
        let v := i * (2 ^ 90 : Nat) + logBits 90 0 (m * 2 ^ (workBits - l))
        (if 0 ≤ v then .num false v.toNat (-90) true else .num true (-v - 1).toNat (-90) true, {})

/-! ### Comparison (R186, R188) -/

/-- x < y among values that are no NaN, -0 equal to +0. -/
def ltVal (x y : Val) : Bool :=
  match x, y with
  | .inf a, .inf b => a && !b
  | .inf a, .num _ _ _ _ => a
  | .num _ _ _ _, .inf b => !b
  | .num a m e _, .num b n g _ => let lo := min e g; decide (scaled a m e lo < scaled b n g lo)
  | _, _ => false

def isNan : Val → Bool
  | .nan => true
  | _ => false

def isNeg : Val → Bool
  | .inf a => a
  | .num a _ _ _ => a
  | .nan => false

def eqVal (x y : Val) : Bool := !isNan x && !isNan y && !ltVal x y && !ltVal y x

/-- The lesser of two encodings, -0 below +0; a NaN gives way (R186). -/
def minBits (f : Fmt) (greater : Bool) (x y : Nat) : Nat :=
  let vx := valueOf f x
  let vy := valueOf f y
  if isNan vx && isNan vy then f.canon
  else if isNan vx then y
  else if isNan vy then x
  else
    let less := ltVal vx vy || (eqVal vx vy && isNeg vx && !isNeg vy)
    if greater then (if less then y else x) else (if less then x else y)

/-! ### Types (R57, R175) -/

/-- Width in bits of a type code. -/
def widthOf (y : BitVec 4) : Nat :=
  match y.toNat with
  | 0 => 8 | 1 => 16 | 2 => 32 | 3 => 64
  | 4 => 8 | 5 => 16 | 6 => 32 | 7 => 64
  | 8 => 32 | 9 => 16 | 10 => 16 | _ => 8

def isSigned (y : BitVec 4) : Bool := decide (4 ≤ y.toNat) && decide (y.toNat ≤ 7)
def isFloat (y : BitVec 4) : Bool := decide (8 ≤ y.toNat) && decide (y.toNat ≤ 11)

def fmtOf (y : BitVec 4) : Fmt :=
  match y.toNat with
  | 8 => fp32 | 9 => bf16 | 10 => fp16 | _ => fmtF8

/-- The integer a lane of an integer type holds. -/
def intOf (y : BitVec 4) (x : Nat) : Int := if isSigned y then sext (widthOf y) x else (x % 2 ^ widthOf y : Nat)

/-- The exact value of a lane of any type (R187). -/
def laneValue (y : BitVec 4) (x : Nat) : Val := if isFloat y then valueOf (fmtOf y) x else ofInt .rne (intOf y x) 0

/-! ### Conversion to an integer type (R187) -/

def minInt (y : BitVec 4) : Int := if isSigned y then -(2 ^ (widthOf y - 1) : Nat) else 0
def maxInt (y : BitVec 4) : Int := if isSigned y then (2 ^ (widthOf y - 1) : Nat) - 1 else (2 ^ widthOf y : Nat) - 1

/-- A value rounded to an integer, and whether that changed it. -/
def toInt (mode : Mode) (neg : Bool) (m : Nat) (e : Int) (more : Bool) : Int × Bool :=
  let u := inUnits m e 0 more
  let r : Int := ((u.1 + (if roundUp mode neg u.1 u.2 then 1 else 0) : Nat) : Int)
  (if neg then -r else r, u.2 != 0)

/-- The set FP of R184: .f32, .bf16 and .f16; .f8 is named apart from it (R187). -/
def inFP (y : BitVec 4) : Bool := decide (8 ≤ y.toNat) && decide (y.toNat ≤ 10)

/-- One element of VCVT to an integer type: a finite value that saturates sets NV where the source is of the set FP (R187). -/
def cvtInt (src dst : BitVec 4) (mode : Mode) : Val → Nat × Fl
  | .nan => (0, flNV)
  | .inf neg => (wrap (widthOf dst) (if neg then minInt dst else maxInt dst), flNV.join flSat)
  | .num neg m e more =>
    let y := toInt mode neg m e more
    let r := max (minInt dst) (min (maxInt dst) y.1)
    let f1 : Fl := if r = y.1 then {} else if inFP src then flNV.join flSat else flSat
    (wrap (widthOf dst) r, f1.join (if y.2 then flNX else {}))

/-- One element of VCVT (R187). -/
def cvtOne (src dst : BitVec 4) (mode : Mode) (x : Nat) : Nat × Fl :=
  if isFloat dst then encodeVal (fmtOf dst) mode (laneValue src x) else cvtInt src dst mode (laneValue src x)

/-! ### Block-scaled 4-bit formats (R177, R179, R190) -/

/-- The levels of Q4N (R177). -/
def level (c : Nat) : Int :=
  match c with
  | 0 => -128 | 1 => -89 | 2 => -67 | 3 => -50 | 4 => -35 | 5 => -23 | 6 => -11 | 7 => 0
  | 8 => 10 | 9 => 21 | 10 => 32 | 11 => 45 | 12 => 59 | 13 => 76 | 14 => 98 | _ => 128

/-- (s + 1)/256 × G as a magnitude and exponent, when G is positive and finite (R177, R190). -/
def stepOf (s g : Nat) : Option (Nat × Int) :=
  match valueOf fp32 g with
  | .num false m e _ => if m = 0 then none else some (m * (s % 256 + 1), e - 8)
  | _ => none

/-- An element value (R177); NaN where the superscale is not positive and finite. -/
def q4Value (n : Bool) (c s g : Nat) : Val :=
  match stepOf s g with
  | none => .nan
  | some (m, e) =>
    let v : Int := if n then level (c % 16) else sext 4 c
    .num (decide (v < 0)) (v.natAbs * m) (e - (if n then 7 else 3)) false

/-- The nearest integer to a fraction, ties to even. -/
def nearest (num : Int) (den : Nat) : Int :=
  let q := num / den
  let r := num - q * den
  if r * 2 < den then q else if (den : Int) < r * 2 then q + 1 else if q % 2 = 0 then q else q + 1

/-- The code whose level is nearest a fraction; on a tie the level of smaller magnitude (R179). -/
def nearestLevel (num : Int) (den : Nat) : Nat :=
  let dist := fun c : Nat => (num - level c * den).natAbs
  (List.range 16).foldl (fun b c =>
    if dist c < dist b || (dist c == dist b && decide ((level c).natAbs < (level b).natAbs)) then c else b) 0

/-- quantise (R179): the code, and its flags. -/
def quantise (n : Bool) (x : Val) (m : Nat) (e : Int) : Nat × Fl :=
  match x with
  | .nan => (if n then 7 else 0, flNV)
  | .inf neg => (if n then (if neg then 0 else 15) else (if neg then 8 else 7), flSatNX)
  | .num neg k g _ =>
    let lo := min g e
    let num := scaled neg k g lo * (if n then 128 else 8)
    let den := m * 2 ^ (e - lo).toNat
    if n then
      let c := nearestLevel num den
      let sat := decide (num < -128 * (den : Int)) || decide (128 * (den : Int) < num)
      let f1 : Fl := if sat then flSatNX else if level c * den = num then {} else flNX
      (c, f1.join (if k ≠ 0 ∧ c = 7 then flUF else {}))
    else
      let q := nearest num den
      let sat := decide (2 * num < -17 * (den : Int)) || decide (15 * (den : Int) ≤ 2 * num)
      let r := max (-8) (min 7 q)
      let f1 : Fl := if sat then flSatNX else if r * den = num then {} else flNX
      (wrap 4 r, f1.join (if k ≠ 0 ∧ r = 0 then flUF else {}))

end Sys2Proof.Machine
end

