-- ==== Sys2Proof/Machine/Queues.lean ====
section
/-!
DEFINITION. Sys2Proof/Machine/Queues.lean: the checks of spawn records (R147, R148), the spill of task queues (R152, R154), and
ranges of global memory that may span extents.
-/
namespace Sys2Proof.Machine

/-! ### Ranges of global memory (R99, R148) -/

/-- Whether extents of a world with the rights cover len bytes from a; `fuel` bounds the extents visited. -/
def coveredBy (s : State) (w : Nat) (rd wr : Bool) : Nat → Nat → Nat → Bool
  | _, _, 0 => true
  | 0, _, _ => false
  | fuel + 1, a, len =>
    match extentAt s w a with
    | none => false
    | some (_, e) =>
      if (rd && !e.rd) || (wr && !e.wr) then false
      else
        let top := (e.vbase + e.len) * 0x200000
        coveredBy s w rd wr fuel top (len - (top - a))

/-- A range lies wholly inside extents of the world with the rights it asks for. -/
def rangeCovered (s : State) (w a len : Nat) (rd wr : Bool) : Bool := coveredBy s w rd wr (s.extents.length + 1) a len

/-! ### Records (R147, R148) -/

/-- The control byte and length of declared region j. -/
def regionCtl (rcd : BitVec 512) (j : Nat) : Nat := recBytes rcd (12 + j) 1
def regionLen (rcd : BitVec 512) (j : Nat) : Nat := recBytes rcd (4 + 4 * j) 4

/-- R148, 0x0A3. -/
def malformed (rcd : BitVec 512) : Bool :=
  let badRegion := fun j =>
    let ctl := regionCtl rcd j
    if regionLen rcd j = 0 then ctl != 0
    else ctl / 32 != 0 || ctl / 8 % 4 == 0 || ctl % 8 == 0 || decide (4 < ctl % 8)
  recBytes rcd 0 2 / 16384 != 0 || recBytes rcd 2 1 / 16 != 0 || recBytes rcd 3 1 / 4 != 0 || recBytes rcd 14 2 != 0 ||
  (recSpec rcd && !recOrdered rcd) || badRegion 0 || badRegion 1

/-- R148: the cause of a record that fails its check. Of several the first of its table is raised; R148 gives no order (log 89). -/
def checkRecord (s : State) (rid : Nat) (rcd : BitVec 512) : Option Nat :=
  if malformed rcd then some 0x0A3
  else if (tfind (rectAt s rid).stages (recStage rcd)).isNone then some 0x0A4
  else if (recRegion rcd 0 ++ recRegion rcd 1).any fun g =>
    decide (2 ^ 56 ≤ g.base) || !rangeCovered s (worldOf rid) g.base g.len g.rd g.wr then some 0x0AA
  else none

/-- A record of 64 bytes. -/
def recOfBytes (bs : List Byte) : BitVec 512 := BitVec.ofNat 512 (natOf bs)

/-! ### Task queues (R145, R152, R154) -/

/-- Room in the spill area: 8 × capacity records (R145). -/
def spillRoom (q : Queue) : Bool := decide (q.spill.length < 8 * q.cap)

/-- A push that is never run inline: the queue, else its spill area; the status delivered, none when the area is full
(R152, R154). -/
def pushRecord (q : Queue) (uid : Nat) (rcd : BitVec 512) : Option (Queue × Nat) :=
  if q.spill.isEmpty && roomFor q uid then
    some ({ q with recs := q.recs ++ [rcd], resv := if 0 < reservedBy q uid then useResv q.resv uid else q.resv }, 0)
  else if spillRoom q then some ({ q with spill := q.spill ++ [rcd], spilled := q.spilled + 1 }, 2)
  else none

/-- The address of the n-th record ever spilled to an area in global memory (R145). The spec does not lay the area out: the records go
round its 8 × cap places in order (log 60). -/
def spillAddr (q : Queue) (n : Nat) : Nat := q.spillBase + 64 * (n % (8 * q.cap))

/-- The home of the n-th record ever spilled to an area in global memory, where an extent of the world backs it (R145). -/
def spillPlace (s : State) (w : Nat) (q : Queue) (n : Nat) : Option Place :=
  (extentAt s w (spillAddr q n)).map fun e => physical e.2 (spillAddr q n)

/-- A place of the spill area of a queue lies where a write must wait (R103, R350). -/
def spillOpen (s : State) (rid n : Nat) : Bool :=
  let q := queueAt s rid n
  q.spillGlobal && (List.range (8 * q.cap)).any fun i =>
    writeHeld s { rid := rid, core := 0, handler := false, conf := none } (BitVec.ofNat 64 (spillAddr q i)) 64

/-- A push of a task waits while the clock of the queue's tile stands still (R350), and where it would write a record to a place in
global memory that a write must wait for (R103). -/
def pushWaits (s : State) (rid n uid : Nat) : Bool :=
  let q := queueAt s rid n
  !queueRuns s rid n || (q.spillGlobal && !(q.spill.isEmpty && roomFor q uid) && spillRoom q &&
    writeHeld s { rid := rid, core := 0, handler := false, conf := none } (BitVec.ofNat 64 (spillAddr q q.spilled)) 64)

/-- Write a record that goes to an area in global memory (R145); none where the channel refuses the write (R98, R333). -/
def spillPut (s : State) (w : Nat) (q : Queue) (rcd : BitVec 512) : Option State :=
  if q.spillGlobal then
    match spillPlace s w q q.spilled with
    | some p => if served s w p 64 then some (bumpRange (writeKeys s p.key (bytesOf 64 rcd.toNat)) p 64) else none
    | none => some s
  else some s

/-- The oldest spill record, as its area holds it now, or the class-4 cause that reading it meets (R98, R333). -/
def oldestSpill (s : State) (w : Nat) (q : Queue) : Except Nat (BitVec 512) :=
  match (if q.spillGlobal then spillPlace s w q (q.spilled - q.spill.length) else none) with
  | some p =>
    match readError s w p 64 with
    | some e => .error e
    | none => .ok (recOfBytes (readKeys s p.key 64))
  | none => .ok (q.spill.headD 0)

/-- Push a record to a task queue of a rectangle, with the status delivered, or the cause and FADDR of a push that fails: the spill area is
full, or the channel refuses the write of the record to it, and the record is not queued (R98, R145, R154, R292, log 122). -/
def pushTask (s : State) (rid n uid : Nat) (rcd : BitVec 512) : Except (Nat × Nat) (State × Nat) :=
  let q := queueAt s rid n
  match pushRecord q uid rcd with
  | some (q', st) =>
    match (if st = 2 then spillPut s (worldOf rid) q rcd else some s) with
    | some s' => .ok (modQueue (noteOccupancy s' rid n) rid n fun _ => q', st)
    | none => .error (0x080, spillAddr q q.spilled)
  | none => .error (0x0A2, 0)

/-- A pop: the head, and the oldest spill record x moves into the freed entry (R154). Where every entry is reserved and empty, the
oldest spill record itself is popped, so that counted work is picked (R169, log 76). -/
def popRecord (q : Queue) (x : BitVec 512) : Option (BitVec 512 × Queue) :=
  match q.recs, q.spill with
  | [], [] => none
  | [], _ :: xs => some (x, { q with spill := xs })
  | r :: rs, [] => some (r, { q with recs := rs })
  | r :: rs, _ :: xs => some (r, { q with recs := rs ++ [x], spill := xs })

/-- Drop the oldest spill record of a queue, whose area cannot be read, and post the cause with its address: R98 has the read return
poison, and the spec does not say what becomes of the record (log 122). -/
def dropSpill (s : State) (rid c n cause : Nat) : State :=
  let q := queueAt s rid n
  let s := modQueue s rid n fun q => { q with spill := q.spill.drop 1 }
  postFor s rid c cause 4 (spillAddr q (q.spilled - q.spill.length)) 0

/-- Pop a record from a task queue of a rectangle, for a core: none where the queue yields nothing. A pop that is to read a spill record
which cannot be read drops that; where the queue holds no other, the pop yields no record. -/
def popTask (s : State) (rid c n : Nat) : Option (Option (BitVec 512) × State) :=
  let q := queueAt s rid n
  match (if q.spill.isEmpty then Except.ok 0 else oldestSpill s (worldOf rid) q) with
  | .ok x => (popRecord q x).map fun r => (some r.1, modQueue (noteOccupancy s rid n) rid n fun _ => r.2)
  | .error e =>
    match q.recs with
    | r :: rs => some (some r, modQueue (dropSpill (noteOccupancy s rid n) rid c n e) rid n fun q => { q with recs := rs })
    | [] => some (none, dropSpill (noteOccupancy s rid n) rid c n e)

/-- Push a record at a place where no instruction stands to take a trap: a failure discards it and is posted (R98, R148,
R154). -/
def forwardRecord (s : State) (rid core uid : Nat) (rcd : BitVec 512) : State :=
  match checkRecord s rid rcd with
  | some e => postFor s rid core e 4 0 rcd
  | none =>
    let n := inputQueue s rid (recStage rcd)
    match pushTask s rid n uid rcd with
    | .ok (s', _) => s'
    | .error (e, a) => postFor s rid core e 4 a rcd

end Sys2Proof.Machine
end

