-- ==== Sys2Proof/Machine/Memory.lean ====
section
/-!
DEFINITION. Sys2Proof/Machine/Memory.lean: loads and stores, commits, seals and fences, atomics, reductions and cells, the probe
of a lease (R111 to R130), and the events of the memory side: lookups, load data, drains, acknowledgements.
-/
namespace Sys2Proof.Machine

/-! ### Shared -/

/-- Spaces of loads, of stores and atomics (R94). -/
def loadSpaces : List Nat := [0, 0xF0, 0xF1, 0xF2, 0xF5]
def storeSpaces : List Nat := [0, 0xF0, 0xF1, 0xF2]

/-- Bytes of an element type (R112). -/
def bytesOfType (y : BitVec 4) : Nat := widthOf y / 8

/-- The checks of several elements, in their order (R114): the first that fails at the core, with its address, unless the lookup of an
element before it fails. Where none fails at the core the lookups come later, in the same order (R101). -/
def checkAll (s : State) (who : Who) (n align : Nat) (acc : Acc) (allow : List Nat) (as : List W64) : Option (Nat × W64) :=
  (List.range as.length).findSome? fun k =>
    let a := as[k]?.getD 0
    match checkLocal s who a n align allow with
    | .ok () => none
    | .error e => (firstCause s who acc ((as.take k).map fun a => (a, n))).or (some (e, a))

/-- Issue a load of parts that passed the checks made at the core. Its own bytes are those its stores hold now (R107);
the core's own memories are read now, for they alone change under it; other bytes come with the data (R111). -/
def issueLoad (s : State) (parts : List (W64 × Nat)) (dst : LoadDst) : Act :=
  let rid := s.cur.rid
  let c := s.cur.core
  let who := whoTask s rid c
  let near := parts.all fun p => selector p.1 == 0xF0 || selector p.1 == 0xF5
  let bad := if near then parts.findSome? fun p => (readError s (worldOf rid) (homeOf s who p.1) p.2).map (·, p.1) else none
  match bad with
  | some (e, a) => .trap e a
  | none =>
    let own := parts.flatMap fun p =>
      if near then (memBytes s who p.1 p.2).map some else ownBytes s rid c p.1 p.2
    let s := modRun s rid c fun b => { b with loads := b.loads ++ [{ slot := s.cur.slot, parts := parts, own := own, dst := dst }] }
    .done (addLookup s rid c .read parts)

/-- The answer of a store as the answer of its instruction. -/
def ofStore : StoreRes → Act
  | .done s => .done s
  | .wait => .hold
  | .later s => .later s
  | .trap e a => .trap e a

/-- A store of pieces that passed the checks made at the core, for the instruction that issues. -/
def issueStore (s : State) (ps : List (W64 × List Byte)) : Act := ofStore (storePieces s s.cur.rid s.cur.core ps)

/-- R53, R101: the answer of an immediate operation: held, or what it does. -/
def immediate (s : State) (f : State → Act) : Act := if immediateHeld s s.cur.rid s.cur.core then .hold else f s

/-! ### LD, ST, LDV, STV, LDVS, STVS (R112 to R114) -/

/-- LD (R112). -/
def execLd (p : BitVec 2) (y : BitVec 4) (d : BitVec 10) (t : BitVec 9) (s : State) : Result :=
  issue (.ld p y d t) (fun a _ s =>
    let n := bytesOfType y
    let ea := addrPlus a d.toInt
    match checkLocal s (whoTask s s.cur.rid s.cur.core) ea n n loadSpaces with
    | .error e => .trap e ea
    | .ok () => issueLoad s [(ea, n)] (.scalar n (isSigned y) t)) s

/-- ST (R112). -/
def execSt (p : BitVec 2) (y : BitVec 4) (d : BitVec 10) (s : State) : Result :=
  issue (.st p y d) (fun a b s =>
    let n := bytesOfType y
    let ea := addrPlus a d.toInt
    match checkLocal s (whoTask s s.cur.rid s.cur.core) ea n n storeSpaces with
    | .error e => .trap e ea
    | .ok () => issueStore s [(ea, bytesOf n b.toNat)]) s

/-- LDV (R113). -/
def execLdv (p : BitVec 2) (v : BitVec 5) (d : BitVec 5) (s : State) : Result :=
  issue (.ldv p v d) (fun a _ s =>
    let ea := addrPlus a (128 * d.toInt)
    match checkLocal s (whoTask s s.cur.rid s.cur.core) ea 128 128 loadSpaces with
    | .error e => .trap e ea
    | .ok () => issueLoad s [(ea, 128)] (.vector v.toNat)) s

/-- STV (R113). -/
def execStv (p : BitVec 2) (v : BitVec 5) (d : BitVec 5) (s : State) : Result :=
  issue (.stv p v d) (fun a _ s =>
    let ea := addrPlus a (128 * d.toInt)
    match checkLocal s (whoTask s s.cur.rid s.cur.core) ea 128 128 storeSpaces with
    | .error e => .trap e ea
    | .ok () => issueStore s [(ea, bytesOf 128 (tget 0 (coreAt s s.cur.rid s.cur.core).v v.toNat).toNat)]) s

/-- The element addresses of LDVS and STVS (R114). -/
def strided (a b : W64) (n : Nat) : List W64 := (List.range (128 / n)).map fun (i : Nat) => addrPlus a (Int.ofNat i * b.toInt)

/-- LDVS (R114): every element is checked before any is accessed. -/
def execLdvs (p : BitVec 2) (y : BitVec 4) (v : BitVec 5) (s : State) : Result :=
  issue (.ldvs p y v) (fun a b s =>
    let n := bytesOfType y
    let as := strided a b n
    match checkAll s (whoTask s s.cur.rid s.cur.core) n n .read loadSpaces as with
    | some (e, ea) => .trap e ea
    | none => issueLoad s (as.map fun ea => (ea, n)) (.vector v.toNat)) s

/-- STVS (R114). -/
def execStvs (p : BitVec 2) (y : BitVec 4) (v : BitVec 5) (s : State) : Result :=
  issue (.stvs p y v) (fun a b s =>
    let n := bytesOfType y
    let as := strided a b n
    let x := (tget 0 (coreAt s s.cur.rid s.cur.core).v v.toNat).toNat
    match checkAll s (whoTask s s.cur.rid s.cur.core) n n .write storeSpaces as with
    | some (e, ea) => .trap e ea
    | none => issueStore s ((List.range as.length).map fun i => (as[i]?.getD 0, bytesOf n (x / 256 ^ (n * i))))) s

/-! ### CMT, SEAL, FENCE (R118 to R121) -/

/-- CMT (R118). -/
def execCmt (p : BitVec 2) (s : State) : Result :=
  issue (.cmt p) (fun _ _ s => immediate s fun s => .done (commitRunning s s.cur.rid s.cur.core)) s

/-- The first half of a SEAL or of a fence that releases: the commit, once. -/
def commitPart (s : State) : State :=
  modRun (commitRunning s s.cur.rid s.cur.core) s.cur.rid s.cur.core fun b => { b with part := b.part ++ [s.cur.slot] }

/-- Whether the first half of the issuing slot has performed. -/
def partDone (s : State) : Bool :=
  match runOf s s.cur.rid s.cur.core with
  | some b => b.part.contains s.cur.slot
  | none => false

/-- Everything the release covers has performed and is acknowledged, on every core the task has run on, and the core's replay
queue is empty (R119, R121). Below system scope a write to host memory or a peer is waited for until it is placed (R120, R133). -/
def releaseDone (s : State) (system : Bool) : Bool :=
  let r := rectAt s s.cur.rid
  let uid := coreUid s s.cur.rid s.cur.core
  (taskDrains r uid).isEmpty && (taskAcks r uid system).isEmpty && replayEmpty s s.cur.rid s.cur.core

/-- A fence of system scope (R120). -/
def systemScope (e : BitVec 3) : Bool := e == 4#3

/-- Loads before the slot have all delivered, those of a block that a fault ended included (R52, R121). -/
def loadsDelivered (s : State) : Bool :=
  (coreAt s s.cur.rid s.cur.core).vloads.isEmpty &&
  match runOf s s.cur.rid s.cur.core with
  | some b => b.loads.all fun l => decide (s.cur.slot ≤ l.slot)
  | none => true

/-- SEAL (R119). -/
def execSeal (p : BitVec 2) (s : State) : Result :=
  issue (.seal p) (fun a b s => immediate s fun s =>
    let who := whoTask s s.cur.rid s.cur.core
    if !partDone s then
      match translate s who a 8 8 .write [0, 0xF1, 0xF2] with
      | .error e => .trap e a
      | .ok () => if watched s s.cur.rid s.cur.core a 8 .write then .trap 0x149 a else .later (commitPart s)
    else if !releaseDone s true then .hold
    else
      match immediateWrite s who ((coreAt s s.cur.rid s.cur.core).task.getD {}) a (bytesOf 8 b.toNat) with
      | none => .hold
      | some s' => .done (bind s' s.cur.rid s.cur.core)) s

/-- FENCE of kind acquire (R121). -/
def execFenceAcq (p : BitVec 2) (e : BitVec 3) (s : State) : Result :=
  issue (.fenceAcq p e) (fun _ _ s => if loadsDelivered s then .done s else .hold) s

/-- FENCE of kind release (R121). -/
def execFenceRel (p : BitVec 2) (e : BitVec 3) (s : State) : Result :=
  issue (.fenceRel p e) (fun _ _ s => immediate s fun s =>
    if !partDone s then .later (commitPart s) else if releaseDone s (systemScope e) then .done s else .hold) s

/-- FENCE of kind SC (R121, R134): the step that ends its release half gives its place at every fence point. -/
def execFenceSc (p : BitVec 2) (e : BitVec 3) (s : State) : Result :=
  issue (.fenceSc p e) (fun _ _ s => immediate s fun s =>
    if !partDone s then .later (commitPart s) else if releaseDone s (systemScope e) && loadsDelivered s then .done s else .hold) s

/-! ### LPROBE (R129) -/

/-- The granule version an address of a granule has. -/
def versionAt (s : State) (w a : Nat) : BitVec 32 :=
  match extentAt s w a with
  | some (_, e) =>
    match physical e a with
    | .glob t x => tget 0 s.versions (versionKey t (x / 0x200000))
    | _ => 0
  | none => 0

/-- The word LPROBE delivers (R129). For an address of space 0x00 that no extent covers, the spec gives VERSION, TIER, MIG and PINNED no
value: here they are 0 (log 115). -/
def probeWord (s : State) (rid c : Nat) (a : W64) : W64 :=
  let who := whoTask s rid c
  let sel := selector a
  let x := a.toNat % 2 ^ 56
  let may := fun acc allow => match translate s who a 1 1 acc allow with
    | .ok () => 1
    | .error _ => 0
  let low := may .write storeSpaces * 4 + may .read loadSpaces * 2 + (if isSpace sel && zeroBitsOk a then 1 else 0)
  if sel ≠ 0 then BitVec.ofNat 64 low
  else
    let e := ((extentAt s (worldOf rid) x).map (·.2)).getD { world := 0, tier := 0, rd := false, wr := false, pins := 0, vbase := 0, pbase := 0, len := 0 }
    let inReg := (match (coreAt s rid c).task with
      | some t => (taskRegions s rid t.rcd).any fun g => decide (g.base ≤ x) && decide (x < g.base + g.len)
      | none => false)
    BitVec.ofNat 64 ((versionAt s (worldOf rid) x).toNat * 2 ^ 32 + (if e.pins ≠ 0 then 128 else 0) +
      (if e.mig.isSome then 64 else 0) + e.tier % 4 * 16 + (if inReg then 8 else 0) + low)

/-- LPROBE (R129). -/
def execLprobe (p : BitVec 2) (t : BitVec 9) (s : State) : Result :=
  issue (.lprobe p t) (fun a _ s => .send s (probeWord s s.cur.rid s.cur.core a)) s

/-! ### Atomics and reductions (R122 to R124) -/

/-- The new word of an atomic on words of n bytes (R122); codes 9 to 15 are refused at fetch. -/
def atomicWord (o : BitVec 4) (n old v : Nat) : Nat :=
  let w := 8 * n
  let v := v % 2 ^ w
  let less := decide (sext w old < sext w v)
  match o.toNat with
  | 0 => (old + v) % 2 ^ w
  | 1 => old &&& v
  | 2 => old ||| v
  | 3 => old ^^^ v
  | 4 => v
  | 5 => if less then old else v
  | 6 => if less then v else old
  | 7 => min old v
  | _ => max old v

def atomicBytes (w : BitVec 1) : Nat := if w = 1 then 8 else 4

/-- An atomic at memory or in the scratchpad: the old word and the new state; a wait; or a cause (R98, R103). -/
inductive AtomRes where
  | ok (s : State) (old : Nat)
  | wait
  | trap (cause : Nat) (a : W64)

/-- The write of an atomic: at memory it waits for its acknowledgement, in the scratchpad it is private to its core (R121, R133). -/
def atomicWrite (s : State) (who : Who) (a : W64) (n : Nat) (v : Option Nat) : State :=
  let uid := coreUid s who.rid who.core
  match v with
  | none => noteHbm s who.rid (homeOf s who a)
  | some v =>
    let s := performWrite s who uid a (bytesOf n v)
    if selector a = 0xF0 then s else addAck s who uid a

/-- Read, change and write one word of n bytes (R106, R122). It performs ahead of a store of its task that the buffer still holds to
other bytes of the line: R97 and R106 stop it at its own bytes only, where R132 asks one task's writes of a line in program order, and
the spec does not say which holds (log 97). Where a watchpoint matches and the buffer holds a byte too, it gives no order: here 0x149 comes
before 0x06C (log 116). `f` gives the new word, none where nothing is written. -/
def atomicNow (s : State) (a : W64) (n : Nat) (f : Nat → Option Nat) : AtomRes :=
  let rid := s.cur.rid
  let c := s.cur.core
  let who := whoTask s rid c
  match translate s who a n n .atomic storeSpaces with
  | .error e => .trap e a
  | .ok () =>
    if watched s rid c a n .atomic then .trap 0x149 a
    else if ownHolds s rid c a n then .trap 0x06C a
    else if writeHeld s who a n || drainingLine s who a n || loadMeets s who a n then .wait
    else
      match readError s (worldOf rid) (homeOf s who a) n with
      | some e => .trap e a
      | none =>
        let old := natOf (memBytes s who a n)
        .ok (bind (atomicWrite s who a n (f old)) rid c) old

/-- AMO (R122). -/
def execAmo (p : BitVec 2) (o : BitVec 4) (w : BitVec 1) (t : BitVec 9) (s : State) : Result :=
  issue (.amo p o w t) (fun a b s => immediate s fun s =>
    match atomicNow s a (atomicBytes w) (fun old => some (atomicWord o (atomicBytes w) old b.toNat)) with
    | .ok s' old => .send s' (BitVec.ofNat 64 old)
    | .wait => .hold
    | .trap e x => .trap e x) s

/-- The expected and the new word of a CAS, or a cause (R123): the pair of the wide form is read now. -/
def casPair (s : State) (w : BitVec 1) (b : W64) : Except (Nat × W64) (Nat × Nat) :=
  if w = 0 then .ok (b.toNat / 2 ^ 32, b.toNat % 2 ^ 32)
  else
    let who := whoTask s s.cur.rid s.cur.core
    match checkLocal s who b 16 16 [0xF0] with
    | .error e => .error (e, b)
    | .ok () =>
      match readError s (worldOf s.cur.rid) (homeOf s who b) 16 with
      | some e => .error (e, b)
      | none =>
        let v := natOf (memBytes s who b 16)
        .ok (v % 2 ^ 64, v / 2 ^ 64)

/-- CAS (R123). The spec does not order the checks of the two addresses of the wide form, nor 0x06C against them: here the
word's address comes first, then the pair's, then 0x06C (log 74). -/
def execCas (p : BitVec 2) (w : BitVec 1) (t : BitVec 9) (s : State) : Result :=
  issue (.cas p w t) (fun a b s => immediate s fun s =>
    match translate s (whoTask s s.cur.rid s.cur.core) a (atomicBytes w) (atomicBytes w) .atomic storeSpaces with
    | .error e => .trap e a
    | .ok () =>
      match casPair s w b with
      | .error e => .trap e.1 e.2
      | .ok pr =>
        match atomicNow s a (atomicBytes w) (fun old => if old = pr.1 then some pr.2 else none) with
        | .ok s' old => .send s' (BitVec.ofNat 64 old)
        | .wait => .hold
        | .trap e x => .trap e x) s

/-- Take one commit-buffer entry for a reduction or cell operation, or overflow (R105, R109). -/
def bufferOne (s : State) (a : W64) (n : Nat) (k : EntKind) : Act :=
  let rid := s.cur.rid
  let c := s.cur.core
  if entriesUsed (coreAt s rid c) < 256 then .done (addLookup (addEntry s rid c a k) rid c .atomic [(a, n)])
  else
    match overflow s rid c with
    | some s' => .later s'
    | none => .hold

/-- Whether the running task writes through (R109). -/
def writesThrough (s : State) : Bool :=
  match (coreAt s s.cur.rid s.cur.core).task with
  | some t => t.wt
  | none => false

/-- RED (R124): at once in the scratchpad and after an overflow, else a commit-buffer entry. R98 does not say where one in the scratchpad,
which returns no value and is not among its immediate writes, raises 0x081 or 0x082: here at its slot (log 109). -/
def execRed (p : BitVec 2) (o : BitVec 4) (w : BitVec 1) (s : State) : Result :=
  issue (.red p o w) (fun a b s =>
    let n := atomicBytes w
    match checkLocal s (whoTask s s.cur.rid s.cur.core) a n n storeSpaces with
    | .error e => .trap e a
    | .ok () =>
      if selector a = 0xF0 ∨ writesThrough s then
        (match runOf s s.cur.rid s.cur.core with
          | none => .hold
          | some r =>
            if lookupsBelow r s.cur.slot then .hold
            else
              match atomicNow s a n (fun old => some (atomicWord o n old b.toNat)) with
              | .ok s' _ => .done s'
              | .wait => .hold
              | .trap e x =>
                if selector a ≠ 0xF0 ∧ (e = 0x080 ∨ e = 0x081 ∨ e = 0x082) then .done (reportCause s s.cur.rid s.cur.core (coreUid s s.cur.rid s.cur.core)
                  (((coreAt s s.cur.rid s.cur.core).task.map (·.rcd)).getD 0) e x)
                else .trap e x)
      else bufferOne s a n (.red o (w == 1) b)) s

/-! ### Cells (R125 to R128) -/

/-- A cell: W, L, INEXACT, INVALID, RANGE as R125 lays them out. -/
def cellW (x : BitVec 256) : Int := sext 192 x.toNat
def cellL (x : BitVec 256) : Int := sext 16 (bitsOf x.toNat 207 192)
def cellOf (w l : Int) (flags : Nat) : BitVec 256 := BitVec.ofNat 256 (wrap 192 w + wrap 16 l * 2 ^ 192 + flags % 8 * 2 ^ 208)

/-- The cell a space-0xF4 address names. -/
def cellIdx (a : W64) : Nat := addrOff a / 32
def cellAtAddr (s : State) (rid : Nat) (a : W64) : BitVec 256 := tget 0 (ldieAt s rid (addrDie a)).cells (cellIdx a)
/-- Write a cell: its data is then whole (R98). -/
def setCell (s : State) (rid die ix : Nat) (x : BitVec 256) : State :=
  modLdie { s with bad := s.bad.filter (· != cellKey rid die ix), poison := s.poison.filter (· != cellKey rid die ix) } rid die
    fun l => { l with cells := tset l.cells ix x }

/-- What a contribution makes of a cell (R127). -/
def contribute (x : BitVec 256) (v : Val) : BitVec 256 :=
  let fl := bitsOf x.toNat 210 208
  match v with
  | .nan => cellOf (cellW x) (cellL x) (fl ||| 2)
  | .inf _ => cellOf (cellW x) (cellL x) (fl ||| 2)
  | .num neg m e _ =>
    let l := cellL x
    let lo := min e l
    let n := scaled neg m e lo
    let unit : Int := (2 ^ (l - lo).toNat : Nat)
    let inexact := n % unit != 0
    let range := decide ((2 ^ (190 + (l - lo).toNat) : Nat) ≤ n.natAbs)
    cellOf (cellW x + n / unit) l (fl ||| (if inexact then 1 else 0) ||| (if range then 4 else 0))

/-- The value a REDF adds (R127). -/
def contribution (half : Bool) (v : W64) : Val :=
  if half then valueOf bf16 (v.toNat % 2 ^ 16) else valueOf fp32 (v.toNat % 2 ^ 32)

/-- The error that reading the cell at an address meets (R98). -/
def cellError (s : State) (rid : Nat) (a : W64) : Option Nat := dataError s (cellKey rid (addrDie a) (cellIdx a)) 1

/-- A write of a cell performs for a task: the cell, and the domain (R125, R160). -/
def performCell (s : State) (who : Who) (uid : Nat) (a : W64) (f : BitVec 256 → BitVec 256) : State :=
  orderedWrite (setCell s who.rid (addrDie a) (cellIdx a) (f (cellAtAddr s who.rid a))) who uid a 32

/-- The error that a write of a cell meets: a REDF reads the cell it adds to, a CELLINIT does not (R98, R126, R127). -/
def cellReadError (s : State) (rid : Nat) (a : W64) : EntKind → Option Nat
  | .redf _ _ => cellError s rid a
  | _ => none

/-- REDF and CELLINIT: a commit-buffer entry, or at once after an overflow, when an error in the cell that a REDF reads is
reported (R98, R106, R109). -/
def cellWrite (s : State) (a : W64) (k : EntKind) (f : BitVec 256 → BitVec 256) : Act :=
  let rid := s.cur.rid
  let c := s.cur.core
  let who := whoTask s rid c
  match checkLocal s who a 32 32 [0xF4] with
  | .error e => .trap e a
  | .ok () =>
    if writesThrough s then
      (if immediateHeld s rid c || drainingLine s who a 32 || !targetRuns s who a || !domainRuns s rid then .hold
       else
         match cellReadError s rid a k with
         | some e => .done (reportCause s rid c who.uid who.rcd e a)
         | none => .done (bind (addAck (performCell s who (coreUid s rid c) a f) who (coreUid s rid c) a) rid c))
    else bufferOne s a 32 k

/-- REDF (R127). -/
def execRedf (p : BitVec 2) (y : BitVec 4) (s : State) : Result :=
  issue (.redf p y) (fun a b s =>
    cellWrite s a (.redf (y == 9#4) b) (fun x => contribute x (contribution (y == 9#4) b))) s

/-- CELLINIT (R126). -/
def execCellinit (p : BitVec 2) (s : State) : Result :=
  issue (.cellinit p) (fun a b s =>
    match checkLocal s (whoTask s s.cur.rid s.cur.core) a 32 32 [0xF4] with
    | .error e => .trap e a
    | .ok () =>
      if b.toInt < -160 ∨ 127 < b.toInt then .trap 0x06E a
      else cellWrite s a (.cellinit b) (fun _ => cellOf 0 b.toInt 0)) s

/-- The FP32 a cell reads as, with its flags (R128). -/
def readCell (x : BitVec 256) : Nat × Fl :=
  if x.getLsbD 209 then (fp32.canon, {}) else roundRne fp32 (ofInt .rne (cellW x) (cellL x))

/-- CELLRD (R128). -/
def execCellrd (p : BitVec 2) (t : BitVec 9) (s : State) : Result :=
  issue (.cellrd p t) (fun a _ s =>
    let who := whoTask s s.cur.rid s.cur.core
    match checkLocal s who a 32 32 [0xF4] with
    | .error e => .trap e a
    | .ok () =>
      match cellError s s.cur.rid a with
      | some e => .trap e a
      | none =>
      let r := readCell (cellAtAddr s s.cur.rid a)
      .send (noteRead (raise s r.2) who (coreUid s s.cur.rid s.cur.core) a) (BitVec.ofNat 64 r.1)) s

/-! ### LEASE_LOOKUP_RESULT and LOAD_DATA_RETURN (R101, R111) -/

/-- LEASE_LOOKUP_RESULT: the k-th lookup of the running block is answered (R101). -/
def execLeaseLookupResult (rid core k : Nat) (s : State) : Result :=
  .next (match runOf s rid core with
    | none => s
    | some b =>
      match b.lookups[k]? with
      | none => s
      | some l =>
        if !coreActs s rid core then s
        else
          match firstCause s (whoTask s rid core) l.acc l.parts with
          | some (e, a) => trapSlot s rid core e a (some l.slot)
          | none => modRun s rid core fun b => { b with lookups := dropAt b.lookups k })

/-- One of some earlier loads of a core asks for an 8-byte unit this one asks for: it returns first (R111, R132). -/
def loadBehind (s : State) (who : Who) (earlier : List Load) (l : Load) : Bool :=
  earlier.any fun m => m.parts.any fun p => l.parts.any fun q => sameUnit s who p.1 p.2 who q.1 q.2

/-- The bytes one part of a load returns: its own where it has them, else those at its home; or a class-4 cause (R98,
R107). -/
def partBytes (s : State) (who : Who) (a : W64) (n : Nat) (own : List (Option Byte)) : Except Nat (List Byte) :=
  let p := homeOf s who a
  let need := own.any (·.isNone)
  let meets := fun (ks : List Nat) => (List.range n).any fun i => (own[i]?.getD none).isNone && ks.contains (p.key + i)
  if need && !served s (worldOf who.rid) p n then .error 0x080
  else if meets s.bad then .error 0x081
  else if meets s.poison then .error 0x082
  else .ok (List.zipWith (fun (o : Option Byte) b => o.getD b) own (memBytes s who a n))

/-- The bytes of all parts of a load in order, or the first cause with its address. -/
def gatherParts (s : State) (who : Who) : List (W64 × Nat) → List (Option Byte) → Except (Nat × W64) (List Byte)
  | [], _ => .ok []
  | (a, n) :: ps, own =>
    match partBytes s who a n (own.take n) with
    | .error e => .error (e, a)
    | .ok bs =>
      match gatherParts s who ps (own.drop n) with
      | .error e => .error e
      | .ok r => .ok (bs ++ r)

/-- What the reads of a load leave behind: its lines, 64 bytes apart (R136), and a sample for each part that HBM4E answers (R306). -/
def noteParts (s : State) (who : Who) (uid : Nat) (ps : List (W64 × Nat)) : State :=
  ps.foldl (fun s p => (List.range ((p.2 + 63) / 64)).foldl (fun s i => noteRead s who uid (addrPlus p.1 (64 * i : Nat)))
    (noteHbm s who.rid (homeOf s who p.1))) s

/-- The value a scalar load delivers (R112). -/
def loadValue (n : Nat) (signed : Bool) (bs : List Byte) : W64 :=
  if signed then BitVec.ofInt 64 (sext (8 * n) (natOf bs)) else BitVec.ofNat 64 (natOf bs)

/-- A vector load that outlived its block performs: its lines are recorded, and its register is written (R113, R136). A failed
lookup or data that it cannot read has no slot left to raise a cause at, and leaves the register as it was (R101, log 75). -/
def performLate (s : State) (rid core : Nat) (l : Load) : State :=
  let who := whoTask s rid core
  if l.unchecked && (firstCause s who .read l.parts).isSome then s
  else
    match l.dst, gatherParts s who l.parts l.own with
    | .vector v, .ok bs =>
      modCore (noteParts s who who.uid l.parts) rid core fun q => { q with v := tset q.v v (BitVec.ofNat 1024 (natOf bs)) }
    | _, _ => s

/-- The data of the k-th vector load whose block a fault has ended arrives: the load performs in full, after the earlier ones of
its bytes (R52, R111). -/
def returnLate (s : State) (rid core k : Nat) (l : Load) : State :=
  let late := (coreAt s rid core).vloads
  if loadBehind s (whoTask s rid core) (late.take k) l then s
  else performLate (modCore s rid core fun q => { q with vloads := dropAt q.vloads k }) rid core l

/-- The data of the k-th load of the running block arrives (R111 to R114). All of its bytes are read at one instant: R111 asks that of
each 8-byte unit only, so that the words of a vector load could be of different age (log 114). -/
def returnLoad (s : State) (rid core k : Nat) : State :=
  match runOf s rid core with
  | none => s
  | some b =>
    match b.loads[k]? with
    | none => s
    | some l =>
      if loadBehind s (whoTask s rid core) ((coreAt s rid core).vloads ++ b.loads.take k) l || b.lookups.any (fun q => q.slot == l.slot) then s
      else
        let who := whoTask s rid core
        match gatherParts s who l.parts l.own with
        | .error (e, a) => trapSlot s rid core e a (some l.slot)
        | .ok bs =>
          let s := noteParts s who (coreUid s rid core) l.parts
          let s := modRun s rid core fun b => { b with loads := dropAt b.loads k }
          match l.dst with
          | .scalar n signed t => deliver s rid core l.slot (some (loadValue n signed bs)) t
          | .vector v => bind (modCore s rid core fun q => { q with v := tset q.v v (BitVec.ofNat 1024 (natOf bs)) }) rid core

/-- LOAD_DATA_RETURN: the data of the k-th load of a core arrives, counted from those whose block has ended, which return to a core
that has halted since, too (R52, R111). -/
def execLoadDataReturn (rid core k : Nat) (s : State) : Result :=
  .next (
    let late := (coreAt s rid core).vloads
    match late[k]? with
    | some l => if coreLives s rid core then returnLate s rid core k l else s
    | none => if coreActs s rid core then returnLoad s rid core (k - late.length) else s)

/-! ### WRITE_ACK and DRAIN_ENTRY_PERFORM (R103, R108, R133) -/

/-- WRITE_ACK: the k-th write of a core is acknowledged; a write to host memory or a peer first at package scope, when the I/O die
has placed it on the link, and then by the completion (R133). -/
def execWriteAck (rid core k : Nat) (s : State) : Result :=
  .next (if !clockRuns s (coreDie (rectAt s rid) core) then s else match (coreAt s rid core).acks[k]? with
    | some w =>
      if w.host && !w.placed then
        settleWrite (modCore s rid core fun q => { q with acks := modAt q.acks k fun w => { w with placed := true } }) rid w.id
      else acknowledge s rid core w.id
    | none => s)

/-- Bytes an entry reaches at its target. -/
def entryLen (e : Entry) : Nat :=
  match e.kind with
  | .line _ _ => 64
  | .red _ wide _ => if wide then 8 else 4
  | .redf _ _ => 32
  | .cellinit _ => 32
  | .spawn _ => 0

/-- Entries of one line perform in order, spawns in order among themselves: the entries ahead in the core's drain, and those the
task committed earlier on a core that it has left (R89, R108, R132). -/
def entryBehind (s : State) (rid c : Nat) (earlier : List Draining) (d : Draining) : Bool :=
  let line := entryLine s rid c d.entry
  (earlier.any fun e => entryLine s rid c e.entry == line) ||
  (taskDrains (rectAt s rid) d.entry.task).any fun e =>
    e.1 != c && decide (e.2.commit < d.commit) && entryLine s rid e.1 e.2.entry == line

/-- Perform a drained entry at its target; none of its bytes where memory refuses it, and the cause is posted (R98, R108). -/
def performEntry (s : State) (who : Who) (d : Draining) : State :=
  let e := d.entry
  let w := worldOf who.rid
  let a := e.addr
  match e.kind with
  | .spawn rcd => forwardRecord s who.rid who.core e.task rcd
  | .cellinit l => performCell s who e.task a (fun _ => cellOf 0 l.toInt 0)
  | .redf half v =>
    match cellError s who.rid a with
    | some c => postFor s who.rid who.core c 3 a.toNat d.rcd
    | none => performCell s who e.task a (fun x => contribute x (contribution half v))
  | .red o wide v =>
    let n := if wide then 8 else 4
    let p := homeOf s who a
    match readError s w p n with
    | some c => postFor s who.rid who.core c 3 a.toNat d.rcd
    | none => performWrite s who e.task a (bytesOf n (atomicWord o n (natOf (memBytes s who a n)) v.toNat))
  | .line m x =>
    let p := homeOf s who a
    if !served s w p 64 then postFor s who.rid who.core 0x080 3 a.toNat d.rcd
    else
      let s := (List.range 64).foldl (fun s i =>
        if m.getLsbD i then writeKey s (p.key + i) (x.extractLsb' (8 * i) 8) else s) s
      let s := noteHbm (bumpVersion s p) who.rid p
      (List.range 64).foldl (fun s i =>
        if m.getLsbD i then orderedWrite s who e.task (addrPlus a (i : Nat)) 1 else s) s

/-- A drained entry that has performed waits for its acknowledgement under its own number; a spawn needs none. -/
def entryAck (s : State) (who : Who) (e : Entry) : State :=
  match e.kind with
  | .spawn _ => acknowledge s who.rid who.core e.id
  | _ => awaitAck s who e.id e.task e.addr

/-- Whether two addresses of space 0x00 lie in one granule (R103). -/
def sameGranule (a b : W64) : Bool := a.toNat / 0x200000 == b.toNat / 0x200000

/-- An entry that would perform waits as a write at memory does, where a retained range meets any byte of its line, one that it does not
write too (R205 does not say, log 121), and for the loads of its task that asked for one of its 8-byte units and
have not returned, so that none reads the bytes of a later store or a later write before an earlier one (R107, R111, R132). -/
def drainHeld (s : State) (rid core : Nat) (d : Draining) : Bool :=
  writeHeld s (whoEntry rid core d) d.entry.addr (entryLen d.entry) || loadMeets s (whoEntry rid core d) d.entry.addr (entryLen d.entry)

/-- An entry of the replay queue performs once its window has closed, in its order (R103). -/
def performReplay (s : State) (rid core k : Nat) (d : Draining) : State :=
  let q := coreAt s rid core
  let who := whoEntry rid core d
  if inWindow s who d.entry.addr || (q.replay.take k).any (fun e => !inWindow s who e.entry.addr) ||
      entryBehind s rid core (q.replay.take k) d || drainHeld s rid core d then s
  else entryAck (performEntry (modCore s rid core fun q => { q with replay := dropAt q.replay k }) who d) who d.entry

/-- A deferred spawn waits where its push would (R103, R154, R350). -/
def spawnWaits (s : State) (rid : Nat) (e : Entry) : Bool :=
  match e.kind with
  | .spawn rcd => pushWaits s rid (inputQueue s rid (recStage rcd)) e.task
  | _ => false

/-- An entry of the drain performs, or is parked; while the replay queue is full the core's drain waits (R103). -/
def performDrain (s : State) (rid core j : Nat) (d : Draining) : State :=
  let q := coreAt s rid core
  let who := whoEntry rid core d
  let parks := inWindow s who d.entry.addr ||
    q.replay.any (fun e => selector d.entry.addr == 0 && sameGranule e.entry.addr d.entry.addr)
  let isSpawn := isSpawnEntry d
  if 16 ≤ q.replay.length ∨ entryBehind s rid core (q.drain.take j) d = true then s
  else if parks && !isSpawn then
    modCore s rid core fun q => { q with drain := dropAt q.drain j, replay := q.replay ++ [d] }
  else if (!isSpawn && drainHeld s rid core d) || spawnWaits s rid d.entry then s
  else entryAck (performEntry (modCore s rid core fun q => { q with drain := dropAt q.drain j }) who d) who d.entry

/-- DRAIN_ENTRY_PERFORM: the k-th entry of a core's replay queue and drain together performs, or parks (R103, R108). -/
def execDrainEntryPerform (rid core k : Nat) (s : State) : Result :=
  .next (if !coreUnit s rid core then s else
    let q := coreAt s rid core
    match q.replay[k]? with
    | some d => performReplay s rid core k d
    | none =>
      match q.drain[k - q.replay.length]? with
      | some d => performDrain s rid core (k - q.replay.length) d
      | none => s)

end Sys2Proof.Machine
end

