-- ==== Sys2Proof/Machine/Streams.lean ====
section
/-!
DEFINITION. Sys2Proof/Machine/Streams.lean: pattern descriptors and their walks (R224 to R229), and the sequencers' commands
and events (R222, R223, R230 to R238).
-/
namespace Sys2Proof.Machine

/-! ### Descriptors (R224, R226) -/

def pMode (d : BitVec 512) : Nat := recBytes d 0 1 % 16
def pNdim (d : BitVec 512) : Nat := recBytes d 0 1 / 16 % 8
def pEsize (d : BitVec 512) : Nat := 2 ^ (recBytes d 1 1 / 64)
def pPkt (d : BitVec 512) : Nat := recBytes d 1 1 % 64
def pHdr (d : BitVec 512) : Bool := recBytes d 2 1 % 2 == 1
def pKey (d : BitVec 512) : Nat := recBytes d 2 1 / 2 % 16
def pLane (d : BitVec 512) : Nat := recBytes d 2 1 / 32
def pIdx (d : BitVec 512) : Nat := recBytes d 3 1 % 16
def pBase (d : BitVec 512) : Nat := recBytes d 4 4
def pHdrBase (d : BitVec 512) : Nat := recBytes d 8 4
/-- COUNTn, taken as 1 above NDIM (R225). -/
def pCount (d : BitVec 512) (n : Nat) : Nat := if n ≤ pNdim d then recBytes d (16 + 8 * n) 4 % 65536 + 1 else 1
def pStride (d : BitVec 512) (n : Nat) : Int := sext 32 (recBytes d (20 + 8 * n) 4)

/-- The WIN fields (R226). -/
def wIW (d : BitVec 512) : Nat := recBytes d 16 2 + 1
def wIH (d : BitVec 512) : Nat := recBytes d 18 2 + 1
def wC (d : BitVec 512) : Nat := recBytes d 20 2 + 1
def wKH (d : BitVec 512) : Nat := recBytes d 22 1 / 16 + 1
def wKW (d : BitVec 512) : Nat := recBytes d 22 1 % 16 + 1
def wSY (d : BitVec 512) : Nat := recBytes d 23 1 / 16 % 8 + 1
def wSX (d : BitVec 512) : Nat := recBytes d 23 1 % 8 + 1
def wPY (d : BitVec 512) : Nat := recBytes d 24 1 / 16
def wPX (d : BitVec 512) : Nat := recBytes d 24 1 % 16
def wRows (d : BitVec 512) : Nat := recBytes d 25 1 % 64 + 1
def wRow0 (d : BitVec 512) : Nat := recBytes d 28 4
def wKoff (d : BitVec 512) : Nat := recBytes d 32 4
def wKcnt (d : BitVec 512) : Nat := recBytes d 36 4 + 1

/-- Elements of a linear, gather or ring walk (R225, R227). -/
def elementCount (d : BitVec 512) : Nat := pCount d 0 * pCount d 1 * pCount d 2 * pCount d 3 * pCount d 4

/-- Payload bytes of a walk (R225, R226). -/
def payloadLen (d : BitVec 512) : Nat :=
  if pMode d = 1 then 256 * ((wKcnt d * pEsize d + 3) / 4) else elementCount d * pEsize d

/-- Payload bytes of a packet. -/
def pktLen (d : BitVec 512) : Nat := (pPkt d + 1) * 256

/-- Bytes of a stream, headers included (R229). -/
def streamLen (d : BitVec 512) : Nat :=
  payloadLen d + (if pHdr d then 64 * ((payloadLen d + pktLen d - 1) / pktLen d) else 0)

/-- R224 to R229: what SPAT refuses with 0x0C2. -/
def badDescriptor (d : BitVec 512) : Bool :=
  let ring := pMode d == 3
  let win := pMode d == 1
  recBytes d 0 1 / 128 != 0 || decide (4 < pNdim d) || decide (3 < pMode d) || (win && pNdim d != 0) ||
  (!pHdr d && (pPkt d != 0 || pHdrBase d != 0)) || (!ring && (pLane d != 0 || pKey d != 0)) ||
  recBytes d 3 1 / 16 != 0 || (pMode d != 2 && pIdx d != 0) || decide (2 ^ 21 ≤ pBase d) || decide (2 ^ 21 ≤ pHdrBase d) ||
  pHdrBase d % 64 != 0 || recBytes d 12 4 != 0 || recBytes d 56 8 != 0 ||
  (pMode d == 2 && pNdim d != 1) ||
  (if win then
    recBytes d 23 1 / 128 != 0 || recBytes d 23 1 / 8 % 2 != 0 || recBytes d 25 1 / 64 != 0 || recBytes d 26 2 != 0 ||
    recBytes d 40 16 != 0 || pEsize d == 8 || decide (wIW d + 2 * wPX d < wKW d) || decide (wIH d + 2 * wPY d < wKH d)
  else (List.range 5).any fun n =>
    if n ≤ pNdim d then recBytes d (18 + 8 * n) 2 != 0 else recBytes d (16 + 8 * n) 8 != 0) ||
  decide (2 ^ 32 ≤ streamLen d)

/-! ### Walks (R225 to R229) -/

/-- R225: an element of size e may lie at an address of a tile with queue storage from q up. -/
def elementOk (q : Nat) (a : Int) (e : Nat) : Bool :=
  decide (0 ≤ a) && a % e == 0 && decide (a + e ≤ 2 ^ 21) && decide (a + e ≤ (q : Int))

/-- The address of element n of a linear walk (R225). -/
def linearAddr (d : BitVec 512) (n : Nat) : Int :=
  let step := fun (acc : Int × Nat) k => (acc.1 + (acc.2 % pCount d k : Nat) * pStride d k, acc.2 / pCount d k)
  ((List.range 5).foldl step ((pBase d : Int), n)).1

/-- A byte of a walk: at an offset of the tile, or a zero fill. -/
inductive WByte where
  | byAt (off : Nat)
  | zero
  deriving DecidableEq, Repr

/-- Bytes of a tile as a number. -/
def tileRead (s : State) (rid tile off n : Nat) : Nat := readNat s (Place.key (.mt rid tile off)) n

/-- A walk address that fails R225, or an index walk that ends, is 0x0C4 at that offset (R227, R230). -/
def walkFault (a : Int) : Nat × Int := (0x0C4, a)

/-- Index m of the gather walk of a descriptor, read from its tile (R227): its cause where it cannot be. Where the index walk has ended no
address failed, and the spec names none: here the cause is given BASE of the gather pattern (log 98). -/
def readIndex (s : State) (rid tile : Nat) (d : BitVec 512) (m : Nat) : Except (Nat × Int) Nat :=
  let ix := (tget {} (tileAt s rid tile).slots (pIdx d)).desc
  let a := linearAddr ix m
  if elementCount ix ≤ m then .error (walkFault (pBase d))
  else if !elementOk (tileAt s rid tile).qbase a 4 then .error (walkFault a)
  else
    match dataError s (Place.key (.mt rid tile a.toNat)) 4 with
    | some e => .error (e, a)
    | none => .ok (tileRead s rid tile a.toNat 4)

/-- The offset of the index that element n of a gather walk is still to take. -/
def indexOff (s : State) (rid tile : Nat) (d : BitVec 512) (taken : Option (Nat × Nat)) (n : Nat) : Option Nat :=
  if pMode d = 2 ∧ taken.map (·.1) ≠ some (n / pCount d 0) then
    some (linearAddr (tget {} (tileAt s rid tile).slots (pIdx d)).desc (n / pCount d 0)).toNat
  else none

/-- The address of element n of a walk of a slot of a tile, or its cause. A gather walk takes each index once: `taken` is the one
taken last, with its number (R227). -/
def elementAddr (s : State) (rid tile : Nat) (d : BitVec 512) (taken : Option (Nat × Nat)) (n : Nat) : Except (Nat × Int) Nat :=
  let check := fun (a : Int) => if elementOk (tileAt s rid tile).qbase a (pEsize d) then Except.ok a.toNat else .error (walkFault a)
  if pMode d = 2 then
    let m := n / pCount d 0
    match (match taken with
      | some (m', j) => if m' = m then Except.ok j else readIndex s rid tile d m
      | none => readIndex s rid tile d m) with
    | .error e => .error e
    | .ok j => check (pBase d + (j : Int) * pStride d 1 + (n % pCount d 0 : Nat) * pStride d 0)
  else check (linearAddr d n)

/-- The index that a gather walk holds once it has visited element n (R227). -/
def takeIndex (s : State) (rid tile : Nat) (d : BitVec 512) (taken : Option (Nat × Nat)) (n : Nat) : Option (Nat × Nat) :=
  if pMode d = 2 ∧ taken.map (·.1) ≠ some (n / pCount d 0) then
    match readIndex s rid tile d (n / pCount d 0) with
    | .ok j => some (n / pCount d 0, j)
    | .error _ => taken
  else taken

/-- A payload byte of a window walk (R226). -/
def windowByte (q : Nat) (d : BitVec 512) (b : Nat) : Except (Nat × Int) WByte :=
  let es := pEsize d
  let e := 4 / es
  let r := b % 256 / 4
  let u := b % 4 / es
  let ow := (wIW d + 2 * wPX d - wKW d) / wSX d + 1
  let oh := (wIH d + 2 * wPY d - wKH d) / wSY d + 1
  let p := wRow0 d + r
  let k := b / 256 * e + u
  let kk := wKoff d + k
  let ch := kk % wC d
  let t := kk / wC d
  let ky := t / wKW d
  let iy : Int := (p / ow * wSY d + ky : Nat) - (wPY d : Int)
  let ix : Int := (p % ow * wSX d + t % wKW d : Nat) - (wPX d : Int)
  if r < wRows d ∧ p < ow * oh ∧ k < wKcnt d ∧ ky < wKH d ∧ 0 ≤ iy ∧ iy < wIH d ∧ 0 ≤ ix ∧ ix < wIW d then
    let a : Int := pBase d + ((iy * wIW d + ix) * wC d + ch) * es
    if elementOk q a es then .ok (.byAt (a.toNat + b % es)) else .error (walkFault a)
  else .ok .zero

/-- Payload byte b of the walk of a descriptor in a tile. -/
def payloadByte (s : State) (rid tile : Nat) (d : BitVec 512) (taken : Option (Nat × Nat)) (b : Nat) : Except (Nat × Int) WByte :=
  if pMode d = 1 then windowByte (tileAt s rid tile).qbase d b
  else
    match elementAddr s rid tile d taken (b / pEsize d) with
    | .ok a => .ok (.byAt (a + b % pEsize d))
    | .error e => .error e

/-- The payload byte that byte b of a stream is; none in a header (R229). -/
def payloadPos (d : BitVec 512) (b : Nat) : Option Nat :=
  if !pHdr d then some b
  else
    let per := 64 + pktLen d
    if b % per < 64 then none else some (b / per * pktLen d + (b % per - 64))

/-- How many payload bytes stand before byte b of a stream (R229). -/
def payloadBefore (d : BitVec 512) (b : Nat) : Nat :=
  if !pHdr d then b else b / (64 + pktLen d) * pktLen d + (b % (64 + pktLen d) - 64)

/-- Byte b of the stream of a descriptor, headers included (R229). -/
def streamByteAt (s : State) (rid tile : Nat) (d : BitVec 512) (taken : Option (Nat × Nat)) (b : Nat) : Except (Nat × Int) WByte :=
  match payloadPos d b with
  | some q => payloadByte s rid tile d taken q
  | none =>
    let a : Int := pHdrBase d + 64 * (b / (64 + pktLen d))
    if elementOk (tileAt s rid tile).qbase a 64 then .ok (.byAt (a.toNat + b % (64 + pktLen d))) else .error (walkFault a)

/-- The value of a byte of a walk, read at memory. -/
def wbyte (s : State) (rid tile : Nat) : WByte → Byte
  | .byAt off => readKey s (Place.key (.mt rid tile off))
  | .zero => 0

/-- The space-0xF1 address of a byte of a tile as a core writes it (R95). -/
def tileAddr (r : Rect) (c tile : Nat) (off : Int) : W64 :=
  let dx := wrap 8 ((tileX r tile : Int) - coreX r c)
  let dy := wrap 8 ((tileY r tile : Int) - coreY r c)
  BitVec.ofNat 64 (0xF1 * 2 ^ 56 + dx * 2 ^ 40 + dy * 2 ^ 32 + wrap 21 off)

/-! ### Slots and stream queues (R222, R223, R238) -/

def slotAt (s : State) (rid tile k : Nat) : PSlot := tget {} (tileAt s rid tile).slots k
def modSlot (s : State) (rid tile k : Nat) (f : PSlot → PSlot) : State :=
  modTile s rid tile fun t => { t with slots := tset t.slots k (f (tget {} t.slots k)) }
def portQ (s : State) (rid tile p : Nat) : List SCmd := tget [] (tileAt s rid tile).ports p
def setPortQ (s : State) (rid tile p : Nat) (q : List SCmd) : State :=
  modTile s rid tile fun t => { t with ports := tset t.ports p q }
/-- Change the head of a stream queue. -/
def modHead (s : State) (rid tile p : Nat) (f : SCmd → SCmd) : State := setPortQ s rid tile p (modAt (portQ s rid tile p) 0 f)

/-- The slots a command uses: its own and, in gather mode, its index slot (R223). -/
def slotsOf (s : State) (rid tile : Nat) : SWork → List Nat
  | .sstart k _ _ => if pMode (slotAt s rid tile k).desc = 2 then [k, pIdx (slotAt s rid tile k).desc] else [k]
  | .sacc k => if pMode (slotAt s rid tile k).desc = 2 then [k, pIdx (slotAt s rid tile k).desc] else [k]
  | _ => []

/-- Hold or free slots. -/
def holdSlots (s : State) (rid tile : Nat) (ks : List Nat) (held : Bool) : State :=
  ks.foldl (fun s k => modSlot s rid tile k fun x => { x with held := held }) s

/-- A command with a number comes to use a slot: it is the most recent one (R238). A slot that holds no descriptor stays empty. -/
def useSlot (s : State) (rid tile k uid : Nat) (st : SlotPh) : State :=
  modSlot s rid tile k fun x => { x with last := uid, st := if x.st = .empty then .empty else st, index := 0 }

/-- A command with a number starts on a slot: it uses the slot from then on (R223), also where a SPAT wrote the slot since the command
came; a command that came later and waits for the slot stays the most recent one (R238, log 33). -/
def startSlot (s : State) (rid tile k uid : Nat) : State :=
  if (slotAt s rid tile k).st = .queued ∧ (slotAt s rid tile k).last ≠ uid then s else useSlot s rid tile k uid .running

/-- What becomes of the command of a slot, while it is the most recent one (R238). -/
def noteSlot (s : State) (rid tile k uid : Nat) (st : SlotPh) : State :=
  modSlot s rid tile k fun x => if x.last = uid ∧ x.st ≠ .empty then { x with st := st } else x

/-- The progress of the command of a slot, while it is the most recent one (R238). -/
def noteIndex (s : State) (rid tile k uid ix : Nat) : State :=
  modSlot s rid tile k fun x => if x.last = uid then { x with index := ix } else x

/-- Drop the head of a stream queue, free what it held, and note what became of it at its slot. -/
def endHead (s : State) (rid tile p : Nat) (st : SlotPh) : State :=
  match portQ s rid tile p with
  | [] => s
  | c :: cs =>
    let ks := if c.started then slotsOf s rid tile c.work else []
    let s := holdSlots (setPortQ s rid tile p cs) rid tile ks false
    match c.work with
    | .sstart k _ _ => noteSlot s rid tile k c.hdr.uid st
    | .sacc k => noteSlot s rid tile k c.hdr.uid st
    | _ => s

/-- The head of a stream queue fails (R117). -/
def failHead (s : State) (rid tile p cause : Nat) (a : W64) : State :=
  match portQ s rid tile p with
  | [] => s
  | c :: _ => failCommand (endHead s rid tile p .failed) rid c.hdr cause a

/-- The cause that a stream or accept meets at its start (R230). -/
def startCause (s : State) (rid tile k : Nat) (modes : List Nat) (hdr : Option Bool) : Option Nat :=
  let x := slotAt s rid tile k
  let d := x.desc
  if x.st = .empty then some 0x0C3
  else if !modes.contains (pMode d) then some 0x0C5
  else if hdr.isSome && hdr != some (pHdr d) then some 0x0C5
  else if pMode d = 2 then
    let ix := slotAt s rid tile (pIdx d)
    if ix.st = .empty ∨ pMode ix.desc ≠ 0 ∨ pEsize ix.desc ≠ 4 then some 0x0C5 else none
  else none

/-- A command at the head starts when every slot it needs is free (R223). -/
def startHead (s : State) (rid tile p : Nat) (k : Nat) (c : SCmd) (modes : List Nat) (hdr : Option Bool) : State :=
  let ks := slotsOf s rid tile c.work
  if ks.any fun j => (slotAt s rid tile j).held then s
  else
    match startCause s rid tile k modes hdr with
    | some e => failHead (startSlot s rid tile k c.hdr.uid) rid tile p e 0
    | none => modHead (startSlot (holdSlots s rid tile ks true) rid tile k c.hdr.uid) rid tile p fun c => { c with started := true }

/-! ### Streams and accepts (R235, R236) -/

/-- Whether an accept is armed in a slot of a tile. -/
def armed (s : State) (rid tile k : Nat) : Bool :=
  (tileAt s rid tile).ports.any fun p => match p.2 with
    | c :: _ => c.started && (match c.work with | .sacc j => j == k | _ => false)
    | [] => false

/-- The bytes of a stream from a position up, until one fails or its data cannot be read, with the cause and the offset (R98,
R230). -/
def streamBytes (s : State) (rid tile : Nat) (d : BitVec 512) (taken : Option (Nat × Nat)) : Nat → Nat → List Byte × Option (Nat × Int)
  | _, 0 => ([], none)
  | b, n + 1 =>
    match streamByteAt s rid tile d taken b with
    | .error e => ([], some e)
    | .ok x =>
      match (match x with
        | .byAt off => (dataError s (Place.key (.mt rid tile off)) 1).map fun e => (e, (off : Int))
        | .zero => none) with
      | some e => ([], some e)
      | none =>
        let r := streamBytes s rid tile d taken (b + 1) n
        (wbyte s rid tile x :: r.1, r.2)

/-- Bytes of a tile are on their way from a commit that a command follows (R140). -/
def tileDrains (s : State) (rid tile : Nat) (c : SCmd) (off n : Nat) : Bool :=
  drainingLine s (whoCmd rid c.hdr) (tileAddr (rectAt s rid) c.hdr.core tile off) n

/-- The index that payload byte q of a walk is to take is on its way from a commit that the command follows (R140, R227). -/
def indexDrains (s : State) (rid tile : Nat) (c : SCmd) (d : BitVec 512) (q : Nat) : Bool :=
  (indexOff s rid tile d c.taken (q / pEsize d)).any fun off => tileDrains s rid tile c off 4

/-- A byte that a stream is to read, or the index it goes by, is on its way from a commit that the command follows (R140). -/
def readWaits (s : State) (rid tile : Nat) (c : SCmd) (d : BitVec 512) (b : Nat) : Bool :=
  (match streamByteAt s rid tile d c.taken b with
    | .ok (.byAt off) => tileDrains s rid tile c off 1
    | _ => false) ||
  (payloadPos d b).any (indexDrains s rid tile c d)

/-- The bytes of one flit or more as they arrive: each 64th ends a flit, and so does the last (R229, R275). -/
def asFlits (uid start : Nat) (bs : List Byte) : List Arrived :=
  (List.zip (List.range bs.length) bs).map fun x =>
    { byte := x.2, sender := uid, last := (start + x.1 + 1) % 64 == 0 || x.1 + 1 == bs.length }

/-- A running stream sends up to n flits to the accept armed at its destination (R235). -/
def sendFlits (s : State) (rid tile p n : Nat) (c : SCmd) (k dt dk : Nat) : State :=
  let d := (slotAt s rid tile k).desc
  let m := min (64 * n) (streamLen d - c.sent)
  if !armed s rid dt dk || !clockRuns s (tileDie (rectAt s rid) dt) || (List.range m).any (fun i => readWaits s rid tile c d (c.sent + i)) then s
  else
    let r := streamBytes s rid tile d c.taken c.sent m
    let sent := c.sent + r.1.length
    let taken := if payloadBefore d c.sent < payloadBefore d sent
      then takeIndex s rid tile d c.taken ((payloadBefore d sent - 1) / pEsize d) else c.taken
    let s := modTile s rid dt fun t =>
      { t with inbound := tmod [] t.inbound dk fun l => l ++ asFlits c.hdr.uid c.sent r.1 }
    let s := modHead (noteIndex s rid tile k c.hdr.uid sent) rid tile p fun c => { c with sent := sent, taken := taken }
    match r.2 with
    | some e => failHead s rid tile p e.1 (tileAddr (rectAt s rid) c.hdr.core tile e.2)
    | none => s

/-- Credit a sender with a byte that an accept wrote. -/
def credit (s : State) (rid uid : Nat) : State :=
  modRect s rid fun r => { r with tiles := r.tiles.map fun t =>
    (t.1, { t.2 with ports := t.2.ports.map fun p =>
      (p.1, p.2.map fun c => if c.hdr.uid = uid then { c with accepted := c.accepted + 1 } else c) }) }

/-- The write of byte b of an accept's walk must wait: for a range an MMAC retains, or for an entry that a commit before the accept
drains, onto the byte or onto the index it goes by (R140, R205). -/
def acceptWaits (s : State) (rid tile : Nat) (c : SCmd) (d : BitVec 512) (b : Nat) : Bool :=
  (match payloadByte s rid tile d c.taken b with
    | .ok (.byAt off) => retainedAt s (.mt rid tile off) 1 || tileDrains s rid tile c off 1
    | _ => false) ||
  indexDrains s rid tile c d b

/-- A running accept writes up to n bytes that arrived for its slot (R236). -/
def takeBytes (rid tile p k : Nat) : Nat → State → State
  | 0, s => s
  | n + 1, s =>
    match portQ s rid tile p, tget [] (tileAt s rid tile).inbound k with
    | c :: _, x :: xs =>
      let d := (slotAt s rid tile k).desc
      if payloadLen d ≤ c.sent ∨ acceptWaits s rid tile c d c.sent = true then s
      else
        match payloadByte s rid tile d c.taken c.sent with
        | .error e => failHead s rid tile p e.1 (tileAddr (rectAt s rid) c.hdr.core tile e.2)
        | .ok .zero => s
        | .ok (.byAt off) =>
          let taken := takeIndex s rid tile d c.taken (c.sent / pEsize d)
          let s := modTile s rid tile fun t => { t with inbound := tset t.inbound k xs }
          let s := performWrite s (whoCmd rid c.hdr) c.hdr.task (tileAddr (rectAt s rid) c.hdr.core tile off) [x.byte]
          let s := noteIndex (credit s rid x.sender) rid tile k c.hdr.uid (c.sent + 1)
          takeBytes rid tile p k n (modHead s rid tile p fun c => { c with sent := c.sent + 1, taken := taken })
    | _, _ => s

/-- The flit at the front of what has arrived for a slot. -/
def flitOf : List Arrived → List Arrived
  | [] => []
  | x :: xs => if x.last then [x] else x :: flitOf xs

/-- A running accept writes up to n flits that arrived for its slot, each once all of it can be written (R236, R246). -/
def takeFlits (rid tile p k uid : Nat) : Nat → State → State
  | 0, s => s
  | n + 1, s =>
    match portQ s rid tile p with
    | c :: _ =>
      let d := (slotAt s rid tile k).desc
      let m := min (flitOf (tget [] (tileAt s rid tile).inbound k)).length (payloadLen d - c.sent)
      if c.hdr.uid ≠ uid ∨ m = 0 ∨ ((List.range m).any fun i => acceptWaits s rid tile c d (c.sent + i)) = true then s
      else takeFlits rid tile p k uid n (takeBytes rid tile p k m s)
    | [] => s

/-- The engine at a port acts: the clocks of its tile and of the cores that its commands come from run (R350). -/
def portUnit (s : State) (rid tile p : Nat) : Bool :=
  tileUnit s rid tile && (portQ s rid tile p).all fun c => clockRuns s (coreDie (rectAt s rid) c.hdr.core)

/-- STREAM_START: the head of a stream queue starts, or moves up to n further flits (R223, R235, R236). -/
def execStreamStart (rid tile port n : Nat) (s : State) : Result :=
  .next (if !portUnit s rid tile port then s else
    match portQ s rid tile port with
    | [] => s
    | c :: _ =>
      match c.work with
      | .sstart k dt dk =>
        if c.started then sendFlits s rid tile port n c k dt dk else startHead s rid tile port k c [0, 1, 2] none
      | .sacc k =>
        if c.started then takeFlits rid tile port k c.hdr.uid n s else startHead s rid tile port k c [0, 2] (some false)
      | _ => s)

/-- The last byte of a started stream or accept has been written (R235, R236). -/
def allWritten (s : State) (rid tile : Nat) (c : SCmd) : Bool :=
  match c.work with
  | .sstart k _ _ =>
    let len := streamLen (slotAt s rid tile k).desc
    c.started && c.sent == len && c.accepted == len
  | .sacc k => c.started && c.sent == payloadLen (slotAt s rid tile k).desc
  | _ => false

/-- SSTART_COMPLETE: every byte sent has been written by an accept (R235). -/
def execSstartComplete (rid tile port : Nat) (s : State) : Result :=
  .next (if !portUnit s rid tile port then s else
    match portQ s rid tile port with
    | c :: _ =>
      match c.work with
      | .sstart _ _ _ =>
        if allWritten s rid tile c && maySignal s rid c.hdr then signal (endHead s rid tile port .completed) rid c.hdr else s
      | _ => s
    | [] => s)

/-- ACCEPT_COMPLETE: the walk of the accept is filled (R236). -/
def execAcceptComplete (rid tile port : Nat) (s : State) : Result :=
  .next (if !portUnit s rid tile port then s else
    match portQ s rid tile port with
    | c :: _ =>
      match c.work with
      | .sacc _ =>
        if allWritten s rid tile c && maySignal s rid c.hdr then signal (endHead s rid tile port .completed) rid c.hdr else s
      | _ => s
    | [] => s)

/-! ### The stream word and its checks (R233) -/

def swDx (w : W64) : Int := sext 8 (bitsOf w.toNat 31 24)
def swDy (w : W64) : Int := sext 8 (bitsOf w.toNat 23 16)
def swPort (w : W64) : Nat := bitsOf w.toNat 10 8
def swSlot (w : W64) : Nat := bitsOf w.toNat 7 4

/-- The checks of a stream word: the tile and the semaphore it names (R233). `x` is a destination word. R233 gives no order: here the zero
bits of both words come first, then the semaphore, the tile and the port, before what the command's own operand fails (log 89). -/
def streamWord (s : State) (w : W64) (sem : BitVec 1) (ports : List Nat) (x : W64) : Except Nat (Nat × Option (Nat × Nat)) :=
  let rid := s.cur.rid
  if bitsOf w.toNat 63 46 ≠ 0 ∨ bitsOf w.toNat 15 11 ≠ 0 ∨ bitsOf w.toNat 3 0 ≠ 0 then .error 0x0C0
  else if bitsOf x.toNat 63 32 ≠ 0 ∨ bitsOf x.toNat 15 8 ≠ 0 ∨ bitsOf x.toNat 3 0 ≠ 0 then .error 0x0C0
  else
    match packedSem s rid w sem 0x0C0 with
    | .error e => .error e
    | .ok sm =>
      match tileFrom (rectAt s rid) s.cur.core (swDx w) (swDy w) with
      | none => .error 0x0C1
      | some t => if ports.contains (swPort w) then .ok (t, sm) else .error 0x0C6

/-- Put a command of the running task at the tail of a stream queue, or hold while the queue or the token is full, or the clock of
the queue stands still (R222, R232, R350). -/
def enqueueStream (s : State) (tile p tok : Nat) (sem : Option (Nat × Nat)) (work : SWork) : Act :=
  let rid := s.cur.rid
  let c := s.cur.core
  if 8 ≤ (portQ s rid tile p).length ∨ tokenFull s rid c tok ∨ !clockRuns s (tileDie (rectAt s rid) tile) then .hold
  else
    let h := commandHdr s rid c tok sem
    let s := setPortQ h.2 rid tile p (portQ h.2 rid tile p ++ [{ hdr := h.1, work := work }])
    .done (match work with
      | .sstart k _ _ => useSlot s rid tile k h.1.uid .queued
      | .sacc k => useSlot s rid tile k h.1.uid .queued
      | _ => s)

/-- SSTART (R235). -/
def execSstart (p : BitVec 2) (g : BitVec 1) (k : BitVec 3) (s : State) : Result :=
  issue (.sstart p g k) (fun a b s => immediate s fun s =>
    match streamWord s a g [0, 1, 2, 3] b with
    | .error e => .trap e 0
    | .ok (t, sem) =>
      let r := rectAt s s.cur.rid
      match tileXY r (tileX r t + swDx b) (tileY r t + swDy b) with
      | none => .trap 0x0C7 0
      | some dt => enqueueStream s t (swPort a) k.toNat sem (.sstart (swSlot a) dt (swSlot b))) s

/-- SACC (R236). -/
def execSacc (p : BitVec 2) (g : BitVec 1) (k : BitVec 3) (s : State) : Result :=
  issue (.sacc p g k) (fun a _ s => immediate s fun s =>
    match streamWord s a g [0, 1, 2, 3] 0 with
    | .error e => .trap e 0
    | .ok (t, sem) => enqueueStream s t (swPort a) k.toNat sem (.sacc (swSlot a))) s

/-- SSTOP (R237). -/
def execSstop (p : BitVec 2) (g : BitVec 1) (k : BitVec 3) (s : State) : Result :=
  issue (.sstop p g k) (fun a _ s => immediate s fun s =>
    match streamWord s a g [0, 1, 2, 3] 0 with
    | .error e => .trap e 0
    | .ok (t, sem) => enqueueStream s t (swPort a) k.toNat sem (.sstop (swSlot a))) s

/-- Whether a command is of a slot. -/
def ofSlot (k : Nat) (c : SCmd) : Bool :=
  match c.work with
  | .sstart j _ _ => j == k
  | .sacc j => j == k
  | .spat j _ => j == k
  | _ => false

/-- Cancel the commands of a slot that stand at the front of a queue (R237). They stand between flits, for a step sends and writes
whole ones. -/
def cancelFront (rid tile p k : Nat) : Nat → State → State
  | 0, s => s
  | n + 1, s =>
    match portQ s rid tile p with
    | c :: _ =>
      if ofSlot k c then cancelFront rid tile p k n (tokenSub (endHead s rid tile p .cancelled) rid c.hdr.core c.hdr.tok) else s
    | [] => s

/-- The first SSTOP of a queue, with the commands ahead of it. -/
def splitStop : List SCmd → List SCmd → Option (List SCmd × SCmd × Nat)
  | _, [] => none
  | ahead, c :: cs =>
    match c.work with
    | .sstop k => some (ahead.reverse, c, k)
    | _ => splitStop (c :: ahead) cs

/-- SSTOP_HEAD: once nothing but commands of its slot stands ahead of it, SSTOP cancels them and completes; one whose last byte is
written completes first (R237, log 13). -/
def execSstopHead (rid tile port : Nat) (s : State) : Result :=
  .next (if !portUnit s rid tile port then s else
    match splitStop [] (portQ s rid tile port) with
    | none => s
    | some (ahead, c, k) =>
      if !ahead.all (ofSlot k) || ahead.any (allWritten s rid tile) || !maySignal s rid c.hdr then s
      else
        let s := cancelFront rid tile port k ahead.length s
        signal (setPortQ s rid tile port ((portQ s rid tile port).drop 1)) rid c.hdr)

/-! ### SPAT (R234) -/

/-- The latest command of a tile's stream queues that needs a slot: its port (R234). -/
def latestUser (s : State) (rid tile k : Nat) : Option Nat :=
  let all := (tileAt s rid tile).ports.flatMap fun p => (p.2.filter fun c => (slotsOf s rid tile c.work).contains k ||
    (match c.work with | .spat j _ => j == k | _ => false)).map fun c => (p.1, c.hdr.uid)
  (all.foldl (fun (m : Option (Nat × Nat)) x => match m with
    | some y => if y.2 < x.2 then some x else m
    | none => some x) none).map (·.1)

/-- The write and check of a slot by SPAT, which then completes or fails (R230, R234). -/
def writeSlot (s : State) (rid tile k : Nat) (h : Hdr) (d : BitVec 512) : State :=
  if badDescriptor d then failCommand s rid h 0x0C2 0
  else signal (modSlot s rid tile k fun x => { x with desc := d, st := .loaded, index := 0, last := h.uid }) rid h

/-- The party of an engine's access at perform: task mode (R96). -/
def whoEngine (s : State) (rid c : Nat) : Who := { whoTask s rid c with handler := false }

/-- Bytes an engine reads at memory when a command performs: a descriptor (R107, R115, R234, R240). -/
def readDescriptor (s : State) (a : W64) (n align : Nat) (spaces : List Nat) : Except (Option (Nat × W64)) (List Byte) :=
  let rid := s.cur.rid
  let who := whoEngine s rid s.cur.core
  match checkLocal s who a n align spaces with
  | .error e => .error (some (e, a))
  | .ok () =>
    if drainingLine s who a n then .error none
    else
      match readError s (worldOf rid) (homeOf s who a) n with
      | some e => .error (some (e, a))
      | none => .ok (memBytes s who a n)

/-- SPAT (R234). -/
def execSpat (p : BitVec 2) (g : BitVec 1) (k : BitVec 3) (s : State) : Result :=
  issue (.spat p g k) (fun a b s => immediate s fun s =>
    let rid := s.cur.rid
    match streamWord s a g [0] 0 with
    | .error e => .trap e 0
    | .ok (t, sem) =>
      match readDescriptor s b 64 64 [0xF0, 0xF1] with
      | .error e => noDescriptor e
      | .ok bs =>
        let d := recOfBytes bs
        match latestUser s rid t (swSlot a) with
        | some q => enqueueStream s t q k.toNat sem (.spat (swSlot a) d)
        | none =>
          if (slotAt s rid t (swSlot a)).held || tokenFull s rid s.cur.core k.toNat || !replayEmpty s rid s.cur.core ||
              !clockRuns s (tileDie (rectAt s rid) t) || !sem.all (fun x => semRuns s rid x.1) then .hold
          else
            let h := commandHdr s rid s.cur.core k.toNat sem
            .done (writeSlot h.2 rid t (swSlot a) h.1 d)) s

/-- SPAT_SLOT_WRITE: a SPAT at the head of a stream queue writes its slot once it is free (R234). -/
def execSpatSlotWrite (rid tile port : Nat) (s : State) : Result :=
  .next (if !portUnit s rid tile port then s else
    match portQ s rid tile port with
    | c :: cs =>
      match c.work with
      | .spat k d =>
        if (slotAt s rid tile k).held || !maySignal s rid c.hdr then s
        else writeSlot (setPortQ s rid tile port cs) rid tile k c.hdr d
      | _ => s
    | [] => s)

/-! ### SPROG (R238) -/

/-- STATE codes of R238. -/
def phaseCode : SlotPh → Nat
  | .empty => 0 | .loaded => 1 | .queued => 2 | .running => 3
  | .completed => 4 | .cancelled => 5 | .failed => 6 | .frozen => 7

/-- SPROG (R238). -/
def execSprog (p : BitVec 2) (t : BitVec 9) (s : State) : Result :=
  issue (.sprog p t) (fun a _ s =>
    match streamWord s a 0 [0] 0 with
    | .error e => .trap e 0
    | .ok (tile, _) =>
      let x := slotAt s s.cur.rid tile (swSlot a)
      .send s (BitVec.ofNat 64 (phaseCode x.st * 2 ^ 60 + x.index % 2 ^ 32))) s

end Sys2Proof.Machine
end

