-- ==== Sys2Proof/Machine/Packets.lean ====
section
/-!
DEFINITION. Sys2Proof/Machine/Packets.lean: tile packets (R195 to R197), what enters the cells (R198, R199), and the exact sums
of a cell (R201, R203).
-/
namespace Sys2Proof.Machine

/-! ### The header (R195) -/

def hFmt (h : BitVec 512) : Nat := recBytes h 0 1 % 16
def hRole (h : BitVec 512) : Nat := recBytes h 1 1 / 2 % 2
def hEnc (h : BitVec 512) : Bool := recBytes h 1 1 % 2 == 1
def hCount (h : BitVec 512) : Nat := recBytes h 2 1 % 64 + 1
def hKlen (h : BitVec 512) : Nat := recBytes h 4 2 % 16384 + 1
def hKoff (h : BitVec 512) : Nat := recBytes h 6 2 % 16384
def hRecBase (h : BitVec 512) : Nat := recBytes h 8 4 % 2 ^ 21
def hRecStride (h : BitVec 512) : Nat := recBytes h 12 4 % 2 ^ 21
def hQg (h : BitVec 512) : Nat := recBytes h 16 4
def hKey (h : BitVec 512) : Nat := recBytes h 24 1 % 16

/-- Block-scaled 4-bit types: .q4u and .q4n (R177). -/
def isQ4 (fmt : Nat) : Bool := fmt == 12 || fmt == 13

/-- Stored width in bits of an operand type. -/
def operandWidth (fmt : Nat) : Nat := if isQ4 fmt then 4 else widthOf (BitVec.ofNat 4 fmt)

/-- Beats of a packet (R196). -/
def packetBeats (h : BitVec 512) : Nat := (hKlen h * operandWidth (hFmt h) + 31) / 32

/-- A field outside R195, whatever the edge and the step. RECBASE may be any byte: R195 asks 64-byte alignment of RECSTRIDE alone
(log 91). An ENC = 1 packet of more than 16 beats, which R196 rules out and gives no cause, is malformed like one that R195 rules out
(log 102). -/
def headerBad (h : BitVec 512) : Bool :=
  recBytes h 0 1 / 16 != 0 || recBytes h 1 1 / 4 != 0 || recBytes h 2 1 / 64 != 0 || recBytes h 3 1 != 0 ||
  recBytes h 4 2 / 16384 != 0 || recBytes h 6 2 / 16384 != 0 || recBytes h 8 4 / 2 ^ 21 != 0 ||
  recBytes h 12 4 / 2 ^ 21 != 0 || recBytes h 20 4 != 0 || recBytes h 24 1 / 16 != 0 || recBytes h 25 3 != 0 ||
  recBytes h 40 8 != 0 ||
  (if isQ4 (hFmt h) then hRecStride h % 64 != 0 || decide (2 ^ 21 < hRecBase h + (hCount h - 1) * hRecStride h + 8452)
   else hKoff h != 0 || hRecBase h != 0 || hRecStride h != 0) ||
  (if hEnc h then decide (16 < packetBeats h) else hKey h != 0 || recBytes h 28 12 != 0 || recBytes h 48 16 != 0)

/-- A positive power of two as FP32 (R195, QG). -/
def powerOfTwo (q : Nat) : Bool := q % 2 ^ 23 == 0 && decide (1 ≤ q / 2 ^ 23) && decide (q / 2 ^ 23 ≤ 254)

/-- Stored types allowed at an edge (R198, R199). -/
def typeAllowed (role : Nat) (stored : Bool) (fmt : Nat) : Bool :=
  if role = 1 then [13, 4, 11, 9].contains fmt
  else if stored then [12, 11, 9, 4].contains fmt
  else [8, 9].contains fmt

/-! ### Taking packets (R196, R197) -/

/-- An error of an operand: the beat it is met at, its place in R210's order, its cause, and the tile offset of a
walk address that fails or whose data cannot be read. -/
structure OpErr where
  beat : Nat
  rank : Nat
  cause : Nat
  off : Int := 0
  deriving DecidableEq, Repr

/-- The earlier of two errors. R210 gives the checks of one beat no order: here it is that of the rows of its table (log 111). -/
def firstErr (a b : Option OpErr) : Option OpErr :=
  match a, b with
  | some x, some y => if y.beat < x.beat ∨ (y.beat = x.beat ∧ y.rank < x.rank) then some y else some x
  | some x, none => some x
  | none, y => y

/-- Which operand is read: the tile and slot that stream it, its edge, and the fields of the MMAC. -/
structure Source where
  rid : Nat
  tile : Nat
  desc : BitVec 512
  role : Nat
  k : Nat
  lstart : Nat
  keys : Tab (BitVec 256)

/-- An operand as its packets give it: elements and scale codes of each row or column in K order. -/
structure Operand where
  head : Option (BitVec 512) := none
  n : Nat := 0
  beats : Nat := 0
  pos : Nat := 0
  codes : List (List Nat) := []
  scales : List (List Nat) := []
  gs : List Nat := []

/-- The place of a row's record in its tile (R178, R196). -/
def recAt (h : BitVec 512) (r : Nat) : Nat := hRecBase h + r * hRecStride h

/-- R195, R196, R210: the cause a header raises where it stands, with its place in the order. A later A header with ENC = 1, which R195
calls malformed and R196 a packet that disagrees, raises the cause of the second, 0x0EA (log 111). -/
def headerFault (src : Source) (o : Operand) (h : BitVec 512) : Option (Nat × Nat) :=
  let stored := src.lstart == 3
  match o.head with
  | none =>
    if headerBad h || hRole h != src.role || (src.role == 0 && hEnc h) || !typeAllowed src.role stored (hFmt h) ||
        !(if src.role = 0 ∧ !stored then powerOfTwo (hQg h) else hQg h == 0) then some (0, 0x0E2)
    else if isQ4 (hFmt h) ∧ 16384 < hKoff h + src.k then some (2, 0x0E3)
    else if hEnc h && (tfind src.keys (hKey h)).isNone then some (4, 0x0E5)
    else none
  | some f =>
    if headerBad h then some (0, 0x0E2)
    else if hFmt h ≠ hFmt f ∨ hRole h ≠ hRole f ∨ hEnc h ≠ hEnc f ∨ hCount h ≠ hCount f ∨ hRecBase h ≠ hRecBase f ∨
        hRecStride h ≠ hRecStride f ∨ hQg h ≠ hQg f ∨ (isQ4 (hFmt f) ∧ hKoff h ≠ hKoff f + o.n) then some (3, 0x0EA)
    else if hEnc h && (tfind src.keys (hKey h)).isNone then some (4, 0x0E5)
    else none

/-- The additional authenticated data of a packet (R197). -/
def packetAad (s : State) (src : Source) (h : BitVec 512) : List Byte :=
  let b0 := hKoff h / 64
  let b1 := (hKoff h + hKlen h - 1) / 64
  let rec4 := fun r => bytesOf (b1 - b0 + 1) (tileRead s src.rid src.tile (recAt h r + 8192 + b0) (b1 - b0 + 1)) ++
    bytesOf 4 (tileRead s src.rid src.tile (recAt h r + 8448) 4)
  bytesOf 48 (recBytes h 0 48) ++ (if isQ4 (hFmt h) then (List.range (hCount h)).flatMap rec4 else [])

/-- The plain payload of a packet, and whether its tag matches (R197). -/
def openPacket (s : State) (src : Source) (h : BitVec 512) (body : List Byte) : List Byte × Bool :=
  if hEnc h then
    gcmOpen (tget 0 src.keys (hKey h)) (bytesOf 12 (recBytes h 28 12)) (packetAad s src h) body (bytesOf 16 (recBytes h 48 16))
  else (body, true)

/-- The K run of row or column r of a payload, as one number (R196). -/
def rowRun (body : List Byte) (nb r : Nat) : Nat :=
  (List.range nb).foldr (fun c acc => natOf ((body.drop (256 * c + 4 * r)).take 4) + 2 ^ 32 * acc) 0

/-- The elements of the rows of a packet (R178, R196). -/
def packetCodes (h : BitVec 512) (body : List Byte) : List (List Nat) :=
  let w := operandWidth (hFmt h)
  (List.range (hCount h)).map fun r =>
    let run := rowRun body (packetBeats h) r
    (List.range (hKlen h)).map fun j => run / 2 ^ (w * j) % 2 ^ w

/-- The scale codes of the rows of a packet (R196). -/
def packetScales (s : State) (src : Source) (h : BitVec 512) : List (List Nat) :=
  if isQ4 (hFmt h) then
    (List.range (hCount h)).map fun r => (List.range (hKlen h)).map fun j =>
      tileRead s src.rid src.tile (recAt h r + 8192 + (hKoff h + j) / 64) 1
  else []

/-- A record byte of a packet whose data cannot be read, with its cause (R98, R196). -/
def recordError (s : State) (src : Source) (h : BitVec 512) : Option (Nat × Nat) :=
  if isQ4 (hFmt h) then
    (List.range (hCount h)).findSome? fun r =>
      [(recAt h r + 8192 + hKoff h / 64, (hKoff h + hKlen h - 1) / 64 + 1 - hKoff h / 64), (recAt h r + 8448, 4)].findSome? fun g =>
        (dataError s (Place.key (.mt src.rid src.tile g.1)) g.2).map fun e => (e, g.1)
  else none

/-- Rows put after rows. -/
def appendRows (a b : List (List Nat)) : List (List Nat) := if a.isEmpty then b else List.zipWith (· ++ ·) a b

/-- Take packets until K elements have come (R196). An error ends the walk; what was taken stays for the widths. The scale codes and
the superscale are read at their bytes of the tile: the spec names no check where they lie in its queue storage, and here only the end
of the tile stops them (log 103). -/
def takePackets (s : State) (src : Source) : Nat → Operand → Operand × Option OpErr
  | 0, o => (o, none)
  | fuel + 1, o =>
    let len := streamLen src.desc
    if o.n = src.k then
      (o, if o.pos < len then some { beat := o.beats + 1, rank := 3, cause := 0x0EA } else none)
    else if len ≤ o.pos then (o, some { beat := max o.beats 1, rank := 3, cause := 0x0EA })
    else
      let at0 := if o.beats = 0 then 0 else o.beats + 1
      let hb := streamBytes s src.rid src.tile src.desc none o.pos (min 64 (len - o.pos))
      match hb.2 with
      | some e => (o, some { beat := at0, rank := 6, cause := e.1, off := e.2 })
      | none =>
        let h := recOfBytes hb.1
        match (headerFault src o h).map (fun x => (x, (0 : Int))) <|> (recordError s src h).map (fun e => ((6, e.1), (e.2 : Int))) with
        | some ((rank, cause), off) =>
          ({ o with head := some (o.head.getD h) }, some { beat := at0, rank := rank, cause := cause, off := off })
        | none =>
          let o := { o with head := some (o.head.getD h) }
          let want := 256 * packetBeats h
          let pb := streamBytes s src.rid src.tile src.desc none (o.pos + 64) (min want (len - (o.pos + 64)))
          match pb.2 with
          | some e => (o, some { beat := o.beats + pb.1.length / 256 + 1, rank := 6, cause := e.1, off := e.2 })
          | none =>
            if pb.1.length + 255 < want then
              (o, some { beat := o.beats + max 1 (pb.1.length / 256), rank := 3, cause := 0x0EA })
            else
              let beats := o.beats + packetBeats h
              if src.k < o.n + hKlen h then (o, some { beat := beats, rank := 3, cause := 0x0EA })
              else
                let p := openPacket s src h (pb.1 ++ List.replicate (want - pb.1.length) 0)
                if !p.2 then (o, some { beat := beats, rank := 5, cause := 0x0E4 })
                else
                  takePackets s src fuel
                    { o with n := o.n + hKlen h, beats := beats, pos := o.pos + 64 + min want (len - (o.pos + 64)),
                             codes := appendRows o.codes (packetCodes h p.1),
                             scales := appendRows o.scales (packetScales s src h),
                             gs := if isQ4 (hFmt h) then (List.range (hCount h)).map fun r =>
                               tileRead s src.rid src.tile (recAt h r + 8448) 4 else [] }

/-- The whole operand of a source. -/
def readOperand (s : State) (src : Source) : Operand × Option OpErr := takePackets s src (src.k + 1) {}

/-! ### The bytes an attempt reads (R205) -/

/-- Put a byte offset on a list of ranges, newest first. -/
def addOffset (rs : List (Nat × Nat)) (off : Nat) : List (Nat × Nat) :=
  match rs with
  | (lo, hi) :: l => if off = hi then (lo, hi + 1) :: l else (off, off + 1) :: rs
  | [] => [(off, off + 1)]

/-- The longest stream an operand of K elements can take: each packet has at least one element. -/
def longestStream (k : Nat) : Nat := k * (64 + 256)

/-- The ranges that a pattern reads, its index walk included (R227). -/
def patternRanges (s : State) (rid tile : Nat) (d : BitVec 512) (k : Nat) : List (Nat × Nat) :=
  let n := min (streamLen d) (longestStream k)
  let rs := (List.range n).foldl (fun rs b => match streamByteAt s rid tile d none b with
    | .ok (.byAt off) => addOffset rs off
    | _ => rs) []
  if pMode d = 2 then
    let ix := (slotAt s rid tile (pIdx d)).desc
    (List.range (elementCount d / pCount d 0)).foldl (fun rs m =>
      let a := linearAddr ix m
      if elementOk (tileAt s rid tile).qbase a 4 then (a.toNat, a.toNat + 4) :: rs else rs) rs
  else rs

/-- The first header that a pattern sends, where its bytes can be read. -/
def firstHeader (s : State) (rid tile : Nat) (d : BitVec 512) : Option (BitVec 512) :=
  match streamBytes s rid tile d none 0 64 with
  | (bs, none) => some (recOfBytes bs)
  | (_, some _) => none

/-- The record bytes that an operand of K elements reads: scale codes and superscales. -/
def recordRanges (s : State) (rid tile : Nat) (d : BitVec 512) (k : Nat) : List (Nat × Nat) :=
  match firstHeader s rid tile d with
  | some h =>
    if isQ4 (hFmt h) && !headerBad h then
      (List.range (hCount h)).flatMap fun r =>
        [(recAt h r + 8192 + hKoff h / 64, recAt h r + 8192 + (hKoff h + k - 1) / 64 + 1), (recAt h r + 8448, recAt h r + 8452)]
    else []
  | none => []

/-! ### What enters the cells (R198, R199, R203) -/

/-- n × 2^e exactly; none for a NaN or an infinity. -/
abbrev Exact := Option (Int × Int)

def exactOf : Val → Exact
  | .num neg m e _ => some (if neg then -(m : Int) else m, e)
  | _ => none

/-- A row or column as it enters: the values, the factor as FP32 bits, whether its superscale makes its cells invalid,
and what the quantiser clipped and flushed. -/
structure Entering where
  vals : List Exact
  factor : BitVec 32 := 0x3F800000
  bad : Bool := false
  sat : Nat := 0
  und : Nat := 0

/-- G is a positive finite FP32 value (R199). -/
def superscaleOk (g : Nat) : Bool :=
  match valueOf fp32 g with
  | .num false m _ _ => m != 0
  | _ => false

/-- The exponent of a QG. -/
def qgExp (q : Nat) : Int := (bitsOf q 30 23 : Int) - 127

/-- The value of a stored element that is not block-scaled. -/
def storedValue (fmt x : Nat) : Val := laneValue (BitVec.ofNat 4 fmt) x

/-- The least sc + 1 for which 7/8 × (sc + 1)/256 × QG reaches an element (R198). -/
def codeNeeded (g : Int) (x : Val) : Nat :=
  match x with
  | .num _ m e _ =>
    let d := e + 11 - g
    if 0 ≤ d then (m * 2 ^ d.toNat + 6) / 7 else (m + 7 * 2 ^ (-d).toNat - 1) / (7 * 2 ^ (-d).toNat)
  | _ => 0

/-- The scale code of a block of elements (R198). -/
def blockCode (g : Int) (xs : List Val) : Nat :=
  let need := xs.foldl (fun m x => max m (codeNeeded g x)) 0
  min (need - 1) 255

/-- The scale codes of the blocks of 64 elements of a row. -/
def blockCodes (g : Int) (xs : List Val) : List Nat := (chunks (xs.length + 1) 64 xs).map (blockCode g)

/-- Divide by a power of two. -/
def downBy (g : Int) : Val → Val
  | .num neg m e more => .num neg m (e - g) more
  | v => v

/-- One element of a row at a step of the ladder: the value that enters, whether it was clipped (R198, R203). -/
def enterOne (step : Nat) (g : Int) (sc : Nat) (x : Val) : Exact × Bool :=
  match x with
  | .num _ _ _ _ =>
    if step = 0 then
      let q := quantise false x (sc + 1) (g - 8)
      (some (sext 4 q.1 * (sc + 1 : Nat), -11), q.2.sat != 0)
    else if step = 1 then
      let y := downBy g x
      let big := match y with
        | .num _ m e _ => ltVal (.num false 240 0 false) (.num false m e false)
        | _ => false
      (exactOf (valueOf fmtF8 (roundRne fmtF8 y).1), big)
    else
      let v := exactOf (valueOf bf16 (roundRne bf16 (downBy g x)).1)
      (v, v.isNone)
  | _ => (none, true)

/-- A finite nonzero element whose entering value is 0 (R203). -/
def flushed (x : Val) (v : Exact) : Bool :=
  match x, v with
  | .num _ m _ _, some (n, _) => m != 0 && n == 0
  | _, _ => false

/-- A row of A at a step (R198). -/
def enterRow (o : Operand) (step r : Nat) : Entering :=
  let h := o.head.getD 0
  let codes := o.codes[r]?.getD []
  if step = 3 then
    if isQ4 (hFmt h) then
      let g := o.gs[r]?.getD 0
      { vals := List.zipWith (fun q (sc : Nat) => some (sext 4 q * (sc + 1 : Nat), -11)) codes (o.scales[r]?.getD []),
        factor := BitVec.ofNat 32 g, bad := !superscaleOk g }
    else { vals := codes.map fun x => exactOf (storedValue (hFmt h) x) }
  else
    let g := qgExp (hQg h)
    let xs := codes.map (storedValue (hFmt h))
    let scs := blockCodes g xs
    let es := (List.range xs.length).map fun k => enterOne step g (scs[k / 64]?.getD 0) (xs[k]?.getD .nan)
    let vals := es.map (·.1)
    { vals := vals, factor := BitVec.ofNat 32 (hQg h), sat := (es.filter (·.2)).length,
      und := ((List.zip xs vals).filter fun p => flushed p.1 p.2).length }

/-- A column of B (R199). -/
def enterCol (o : Operand) (c : Nat) : Entering :=
  let h := o.head.getD 0
  let codes := o.codes[c]?.getD []
  if isQ4 (hFmt h) then
    let g := o.gs[c]?.getD 0
    { vals := List.zipWith (fun q (sc : Nat) => some (level (q % 16) * (sc + 1 : Nat), -15)) codes (o.scales[c]?.getD []),
      factor := BitVec.ofNat 32 g, bad := !superscaleOk g }
  else { vals := codes.map fun x => exactOf (storedValue (hFmt h) x) }

/-! ### A cell (R200, R201, R203) -/

/-- One product into a cell: floored to the grid 2^(E-64) and added (R201). An invalid factor marks the cell. -/
def addProduct (e : Int) (c : MCell) (a b : Exact) : MCell :=
  match a, b with
  | some (x, ex), some (y, ey) =>
    let sh := ex + ey - (e - 64)
    let p := x * y
    let u : Int := if 0 ≤ sh then p * (2 ^ sh.toNat : Nat) else p / (2 ^ (-sh).toNat : Nat)
    let c := if sh < 0 ∧ p % (2 ^ (-sh).toNat : Nat) ≠ 0 then { c with ploss := true } else c
    let c := if 2 ^ 95 ≤ u.natAbs then { c with pinv := true }
      else if u ≠ 0 then { c with pnz := true, peak := max c.peak (Nat.log2 u.natAbs) }
      else c
    { c with psum := c.psum + BitVec.ofInt 128 u }
  | _, _ => { c with pinv := true }

/-- The attempt state of a cell after all the products of a row and a column. -/
def attemptCell (e : Int) (c : MCell) (a b : Entering) : MCell :=
  (List.zip a.vals b.vals).foldl (fun c p => addProduct e c p.1 p.2)
    { c with psum := 0, peak := 0, pnz := false, pinv := a.bad || b.bad, ploss := false }

/-- R203: the cell counts for CAN at cancellation depth c. -/
def cancelled (x : MCell) (c : Nat) : Bool :=
  x.pnz && !x.pinv && (x.psum == 0 || decide (Nat.log2 x.psum.toInt.natAbs + c < x.peak))

/-- Clear the attempt state (R201, a squash or a fault). -/
def clearAttempt (c : MCell) : MCell := { c with psum := 0, peak := 0, pnz := false, pinv := false, ploss := false }

/-- Retirement of a cell (R201). -/
def retireCell (acc : Bool) (c : MCell) : MCell :=
  clearAttempt { c with sum := if acc then c.sum + c.psum else c.psum,
                        invalid := (acc && c.invalid) || c.pinv, gridloss := (acc && c.gridloss) || c.ploss }

/-- ACC: SUM saturated to 96 bits, and whether that clipped it (R200, R212). -/
def drained (c : MCell) : Int × Bool :=
  let x := c.sum.toInt
  let hi : Int := 2 ^ 95 - 1
  let lo : Int := -(2 ^ 95)
  if hi < x then (hi, true) else if x < lo then (lo, true) else (x, false)

end Sys2Proof.Machine
end

