-- ==== Sys2Proof/Machine/Matrix.lean ====
section
/-!
DEFINITION. Sys2Proof/Machine/Matrix.lean: the matrix instructions (R207 to R217) and the events of the matrix queue: leave,
attempts and the ladder, drains, chains, gangs and grants (R202 to R206, R209 to R219, R353).
-/
namespace Sys2Proof.Machine

/-! ### Arrays and gangs (R216) -/

def arrAt (s : State) (rid c : Nat) : MArray := (coreAt s rid c).arr

/-- The core whose array leads: the anchor of a gang, else the core itself. -/
def anchorOf (s : State) (rid c : Nat) : Nat := ((arrAt s rid c).anchor).getD c

def gangW (a : MArray) : Nat := max a.gw 1
def gangH (a : MArray) : Nat := max a.gh 1

/-- The core of gang member (u,v) of an anchor, where the tile is one of the rectangle. -/
def memberAt (r : Rect) (c u v : Nat) : Option Nat := coreXY r (coreX r c + 2 * u : Nat) (coreY r c + 2 * v : Nat)

/-- The places (u,v) of a lattice. -/
def lattice (w h : Nat) : List (Nat × Nat) := (List.range h).flatMap fun v => (List.range w).map fun u => (u, v)

/-- The members of the gang of an anchor with their places. -/
def membersOf (s : State) (rid c : Nat) : List (Nat × Nat × Nat) :=
  let a := arrAt s rid c
  (lattice (gangW a) (gangH a)).map fun p => (p.1, p.2, (memberAt (rectAt s rid) c p.1 p.2).getD c)

/-- The memory tile that streams A for gang row v, and B for gang column u (R194, R216). -/
def sourceA (r : Rect) (c v : Nat) : Option Nat := tileXY r ((coreX r c : Int) - 1) (coreY r c + 2 * v : Nat)
def sourceB (r : Rect) (c u : Nat) : Option Nat := tileXY r (coreX r c + 2 * u : Nat) ((coreY r c : Int) - 1)

/-- Whether every source tile of a gang lies in the rectangle (R210). -/
def sourcesExist (s : State) (rid c : Nat) : Bool :=
  let r := rectAt s rid
  let a := arrAt s rid c
  ((List.range (gangH a)).all fun v => (sourceA r c v).isSome) && ((List.range (gangW a)).all fun u => (sourceB r c u).isSome)

/-- The destination tile of a member's drain in mode 0 or 1 (R211). -/
def drainTile (r : Rect) (m mode : Nat) : Option Nat :=
  if mode = 0 then tileFrom r m 1 0 else tileFrom r m 0 1

/-! ### The matrix queue (R204, R207, R214) -/

/-- The dies that hold members of a gang, in rising order, with the members on each (R218). -/
def diesOf (s : State) (rid c : Nat) : List (Nat × Nat) :=
  let ms := membersOf s rid c
  ((List.range 4).map fun d => (d, (ms.filter fun m => coreDie (rectAt s rid) m.2.2 == d).length)).filter fun x => x.2 != 0

/-- The array of a core acts with the rest of its gang: the clock of every die of a member runs (R350). -/
def arrayUnit (s : State) (rid c : Nat) : Bool := enginesAct s rid && domainRuns s rid && (diesOf s rid c).all fun x => clockRuns s x.1

/-- Put a request at the end of a die's arbiter (R353). -/
def askLeave (s : State) (d : Nat) (q : LeaveReq) : State := modDie s d fun x => { x with reqs := x.reqs ++ [q] }

/-- Tile-microseconds that an MGRANT of x asks of a die with m of n members (R218). -/
def grantShare (x m n : Nat) : Nat := (x * m + n - 1) / n

/-- An array has a request for a grant at some die's arbiter. -/
def grantAsked (s : State) (rid c : Nat) : Bool :=
  (List.range 4).any fun d => (dieAt s d).reqs.any fun q => q.rid == rid && q.core == c && q.grant

/-- An MGRANT that comes to the head asks its first die; one that has asked already goes on with that request (R217, R218). -/
def startGrant (s : State) (rid c amount : Nat) : State :=
  let ds := diesOf s rid c
  match ds with
  | (d, m) :: _ =>
    if grantAsked s rid c then s
    else askLeave (modArr s rid c fun a => { a with grantDies := [] }) d
      { rid := rid, core := c, tiles := (grantShare amount m (ds.map (·.2)).sum + 999) / 1000, grant := true }
  | [] => s

/-- MBUDGETs at the head take effect; an MGRANT that comes to the head makes its request (R214, R217). -/
def settleMatrix (rid c : Nat) : Nat → State → State
  | 0, s => s
  | n + 1, s =>
    match (arrAt s rid c).q with
    | q :: qs =>
      match q.work with
      | .mbudget b => settleMatrix rid c n (modArr s rid c fun a => { a with budget := b, q := qs })
      | .mgrant x => startGrant s rid c x
      | _ => s
    | [] => s

/-- Put a command in a matrix queue; a command that finds it empty is at its head. -/
def pushMatrix (s : State) (rid c : Nat) (q : MCmd) : State :=
  let first := (arrAt s rid c).q.isEmpty
  let s := modArr s rid c fun a => { a with q := a.q ++ [q] }
  if first then settleMatrix rid c 17 s else s

/-- Drop the head: the next command comes to the head. -/
def dropMatrix (s : State) (rid c : Nat) : State :=
  settleMatrix rid c 17 (modArr s rid c fun a => { a with q := a.q.drop 1, st := .idle })

/-- A full queue of 16 holds the instruction (R207), and so does one whose clocks do not all run (R350). -/
def matrixFull (s : State) : Bool :=
  let a := anchorOf s s.cur.rid s.cur.core
  decide (16 ≤ (arrAt s s.cur.rid a).q.length) || !arrayUnit s s.cur.rid a

/-- An engine command enters the queue of the core's array or gang (R207, R232). -/
def enqueueMatrix (s : State) (tok : Nat) (sem : Option (Nat × Nat)) (work : MWork) : Act :=
  let rid := s.cur.rid
  let c := s.cur.core
  if tokenFull s rid c tok then .hold
  else
    let h := commandHdr s rid c tok sem
    .done (pushMatrix h.2 rid (anchorOf s rid c) { hdr := h.1, work := work })

/-- The issuing core is a member other than the anchor (R210, R216). -/
def isMember (s : State) : Bool := (arrAt s s.cur.rid s.cur.core).anchor.isSome

/-! ### MMAC (R208, R210) -/

def mwK (w : W64) : Nat := bitsOf w.toNat 18 8
def mwLmax (w : W64) : Nat := bitsOf w.toNat 23 22
def mwLstart (w : W64) : Nat := bitsOf w.toNat 21 20
def mwAcc (w : W64) : Bool := w.getLsbD 19
def mwB (w : W64) : Nat := bitsOf w.toNat 7 4
def mwA (w : W64) : Nat := bitsOf w.toNat 3 0

/-- The checks of an MMAC when it performs, and the semaphore it names; COPYM makes them for its own MMAC (R208, R210, R242). The spec
gives them no order: here zero bits, the semaphore, ranges, the sources' tiles, the gang role (log 89). -/
def checkMmac (s : State) (w : W64) (sem : BitVec 1) : Except Nat (Option (Nat × Nat)) :=
  let rid := s.cur.rid
  let c := s.cur.core
  if bitsOf w.toNat 63 46 ≠ 0 ∨ bitsOf w.toNat 31 24 ≠ 0 then .error 0x0E1
  else
    match packedSem s rid w sem 0x0E1 with
    | .error e => .error e
    | .ok sm =>
      if mwK w = 0 ∨ 1024 < mwK w ∨ mwLmax w < mwLstart w ∨ ((mwLstart w == 3) != (mwLmax w == 3)) = true then .error 0x0E1
      else if !sourcesExist s rid (anchorOf s rid c) then .error 0x0E0
      else if isMember s then .error 0x0E7
      else .ok sm

/-- MMAC (R210). -/
def execMmac (p : BitVec 2) (g : BitVec 1) (k : BitVec 3) (s : State) : Result :=
  issue (.mmac p g k) (fun a _ s => immediate s fun s =>
    if matrixFull s then .hold
    else
      match checkMmac s a g with
      | .error e => .trap e 0
      | .ok sem => enqueueMatrix s k.toNat sem (.mmac a false)) s

/-! ### MINIT, MDRAIN, MBUDGET, MGANG, MGRANT, MSTAT: the instructions -/

/-- MINIT (R209); checks in the order zero bits, semaphore, gang role (log 89). -/
def execMinit (p : BitVec 2) (g : BitVec 1) (k : BitVec 3) (s : State) : Result :=
  issue (.minit p g k) (fun a _ s => immediate s fun s =>
    if matrixFull s then .hold
    else if bitsOf a.toNat 63 46 ≠ 0 ∨ bitsOf a.toNat 31 10 ≠ 0 then .trap 0x0E1 0
    else
      match packedSem s s.cur.rid a g 0x0E1 with
      | .error e => .trap e 0
      | .ok sem => if isMember s then .trap 0x0E7 0 else enqueueMatrix s k.toNat sem (.minit (a.setWidth 10))) s

def dwMode (w : W64) : Nat := bitsOf w.toNat 1 0
def dwFmt (w : W64) : Nat := bitsOf w.toNat 5 2
def dwScale (w : W64) : Nat := bitsOf w.toNat 7 6
def dwKeep (w : W64) : Bool := w.getLsbD 8
def dwOff (w : W64) : Nat := bitsOf w.toNat 30 10
def dwRows (w : W64) : Nat := bitsOf w.toNat 53 48 + 1
def dwCols (w : W64) : Nat := bitsOf w.toNat 59 54 + 1
/-- Bytes of an element of a drain. -/
def dwSize (w : W64) : Nat := operandWidth (dwFmt w) / 8

/-- Fields of MDRAIN outside their range (R211, R213). -/
def drainFieldsBad (w : W64) : Bool :=
  bitsOf w.toNat 63 60 != 0 || bitsOf w.toNat 47 46 != 0 || bitsOf w.toNat 31 31 != 0 || dwMode w == 3 ||
  (if dwMode w = 2 then bitsOf w.toNat 59 48 != 0 || bitsOf w.toNat 30 2 != 0
   else bitsOf w.toNat 9 9 != 0 || !([8, 9, 11].contains (dwFmt w)))

/-- Whether every member's destination tile lies in the rectangle (R211); a chain looks for its receiver at the head. -/
def drainTilesExist (s : State) (rid c mode : Nat) : Bool :=
  mode == 2 || (membersOf s rid c).all fun m => (drainTile (rectAt s rid) m.2.2 mode).isSome

/-- MDRAIN (R211). R208 gives the checks no order: here the fields, the semaphore, the tiles, the gang role (log 89). -/
def execMdrain (p : BitVec 2) (g : BitVec 1) (k : BitVec 3) (s : State) : Result :=
  issue (.mdrain p g k) (fun a b s => immediate s fun s =>
    if matrixFull s then .hold
    else if drainFieldsBad a then .trap 0x0E1 0
    else
      match packedSem s s.cur.rid a g 0x0E1 with
      | .error e => .trap e 0
      | .ok sem =>
        if !drainTilesExist s s.cur.rid (anchorOf s s.cur.rid s.cur.core) (dwMode a) then .trap 0x0E0 0
        else if isMember s then .trap 0x0E7 0
        else enqueueMatrix s k.toNat sem (.mdrain a (b.setWidth 32))) s

/-- The budgets of MBUDGET's operands (R214). -/
def budgetOf (a b : W64) : Budget :=
  { satb := bitsOf a.toNat 20 0, undb := bitsOf a.toNat 41 21, canb := bitsOf a.toNat 58 42,
    strict := b.getLsbD 7, c := bitsOf b.toNat 6 0 }

/-- MBUDGET (R214): an immediate operation that enters the queue, with no token; zero bits are checked before the gang role (log 89). -/
def execMbudget (p : BitVec 2) (s : State) : Result :=
  issue (.mbudget p) (fun a b s => immediate s fun s =>
    if matrixFull s then .hold
    else if bitsOf a.toNat 63 59 ≠ 0 ∨ bitsOf b.toNat 63 8 ≠ 0 then .trap 0x0E1 0
    else if isMember s then .trap 0x0E7 0
    else
      let rid := s.cur.rid
      let c := s.cur.core
      .done (pushMatrix (bind s rid c) rid c { hdr := { core := c }, work := .mbudget (budgetOf a b) })) s

/-- MGANG (R216); checks in the order zero bits, semaphore, ranges (log 89). -/
def execMgang (p : BitVec 2) (g : BitVec 1) (k : BitVec 3) (s : State) : Result :=
  issue (.mgang p g k) (fun a _ s => immediate s fun s =>
    let w := bitsOf a.toNat 2 0
    let h := bitsOf a.toNat 5 3
    if matrixFull s then .hold
    else if bitsOf a.toNat 63 46 ≠ 0 ∨ bitsOf a.toNat 31 6 ≠ 0 then .trap 0x0E1 0
    else
      match packedSem s s.cur.rid a g 0x0E1 with
      | .error e => .trap e 0
      | .ok sem =>
        if w = 0 ∨ 6 < w ∨ h = 0 ∨ 3 < h then .trap 0x0E1 0 else enqueueMatrix s k.toNat sem (.mgang a)) s

/-- MGRANT (R217); checks in the order zero bits, semaphore, range (log 89). One that a member of a gang issues is not among the commands
that R216 bars, and the spec does not say what it does: here it joins the anchor's queue and its balance is the anchor's (log 119). -/
def execMgrant (p : BitVec 2) (g : BitVec 1) (k : BitVec 3) (s : State) : Result :=
  issue (.mgrant p g k) (fun a _ s => immediate s fun s =>
    let x := bitsOf a.toNat 19 0
    if matrixFull s then .hold
    else if bitsOf a.toNat 63 46 ≠ 0 ∨ bitsOf a.toNat 31 20 ≠ 0 then .trap 0x0E1 0
    else
      match packedSem s s.cur.rid a g 0x0E1 with
      | .error e => .trap e 0
      | .ok sem => if x = 0 then .trap 0x0E1 0 else enqueueMatrix s k.toNat sem (.mgrant x)) s

/-- The word of SEL 2 (R215). -/
def gangWord (s : State) (rid c : Nat) : W64 :=
  let a := arrAt s rid (anchorOf s rid c)
  BitVec.ofNat 64 ((if (arrAt s rid c).anchor.isSome then 2 ^ 15 else 0) + a.gh % 4 * 2 ^ 13 + a.gw % 8 * 2 ^ 10 + a.e.toNat)

/-- MSTAT (R215). -/
def execMstat (p : BitVec 2) (e : BitVec 2) (t : BitVec 9) (s : State) : Result :=
  issue (.mstat p e t) (fun _ _ s =>
    let rid := s.cur.rid
    let c := s.cur.core
    let a := arrAt s rid (anchorOf s rid c)
    if a.q.any fun q => q.hdr.core == c then .hold
    else .send s (if e = 0 then a.stat0 else if e = 1 then a.stat1 else gangWord s rid c)) s

/-! ### Operands of an operation -/

/-- The key slots an operation decrypts with: those latched when its first headers passed, else the world's (R334). -/
def keysOf (s : State) (rid c : Nat) : Tab (BitVec 256) :=
  match (arrAt s rid c).keys with
  | some k => k
  | none => (worldAt s (worldOf rid)).keys

/-- The sources of an operation: A of each gang row, then B of each gang column. -/
def sourcesOf (s : State) (rid c : Nat) (w : W64) : List Source :=
  let r := rectAt s rid
  let a := arrAt s rid c
  let mk := fun role slot (t : Option Nat) => t.toList.map fun t =>
    { rid := rid, tile := t, desc := (slotAt s rid t slot).desc, role := role, k := mwK w, lstart := mwLstart w,
      keys := keysOf s rid c : Source }
  ((List.range (gangH a)).flatMap fun v => mk 0 (mwA w) (sourceA r c v)) ++
  ((List.range (gangW a)).flatMap fun u => mk 1 (mwB w) (sourceB r c u))

/-- Slots that an operation uses: tile and slot, index slots of gather patterns included. -/
def operandSlots (s : State) (rid c : Nat) (w : W64) : List (Nat × Nat) :=
  (sourcesOf s rid c w).flatMap fun x =>
    let k := if x.role = 0 then mwA w else mwB w
    (if pMode x.desc = 2 then [k, pIdx x.desc] else [k]).map fun j => (x.tile, j)

/-- Every operand with its source and its earliest error. -/
def readOperands (s : State) (rid c : Nat) (w : W64) : List (Source × Operand × Option OpErr) :=
  (sourcesOf s rid c w).map fun x => let o := readOperand s x; (x, o.1, o.2)

/-- Width of the format of a step of the ladder; step 3 has none of its own. -/
def stepWidth (step : Nat) : Nat :=
  match step with
  | 0 => 4 | 1 => 8 | 2 => 16 | _ => 0

/-- Widths of the operands whose first header has come. -/
def headWidths (os : List (Source × Operand × Option OpErr)) : List Nat :=
  os.filterMap fun x => x.2.1.head.map fun h => operandWidth (hFmt h)

/-- R210, 0x0E1 at the first headers: K times the widest format. -/
def widthErr (w : W64) (os : List (Source × Operand × Option OpErr)) : Option OpErr :=
  let ws := headWidths os
  if ws.length = os.length ∧ 4096 < mwK w * ws.foldl max (stepWidth (mwLmax w)) then
    some { beat := 0, rank := 1, cause := 0x0E1 } else none

/-- The error of an attempt, with the tile where a walk address failed. -/
def attemptErr (w : W64) (os : List (Source × Operand × Option OpErr)) : Option (OpErr × Nat) :=
  let es := os.filterMap fun x => x.2.2.map fun e => (e, x.1.tile)
  let es := match widthErr w os with
    | some e => (e, 0) :: es
    | none => es
  es.foldl (fun m x => match m with
    | some y => if firstErr (some y.1) (some x.1) = some y.1 then some y else some x
    | none => some x) none

/-- FADDR of an attempt's error: the failing byte of its tile for 0x0C4 (R230) and for data that cannot be read (R98), else 0. -/
def errAddr (s : State) (rid c : Nat) (e : OpErr × Nat) : W64 :=
  if e.1.cause = 0x0C4 ∨ e.1.cause = 0x081 ∨ e.1.cause = 0x082 then tileAddr (rectAt s rid) c e.2 e.1.off else 0

/-! ### Cost of an operation (R202, R217) -/

/-- Clock of an operating point in MHz (R350). -/
def opMhz (op : Nat) : Nat :=
  ([300, 350, 400, 450, 500, 550, 600, 650, 700, 750, 800, 900, 1000, 1100, 1200, 1250] : List Nat)[op]?.getD 1000

/-- Clock of a die: a throttled die runs at the frequency of OP0 (R354). -/
def dieMhz (s : State) (d : Nat) : Nat := if (dieAt s d).throttle then 300 else opMhz (dieAt s d).op

/-- Parts of a microsecond that every clock of R350 divides. -/
def microParts : Nat := 180180000

/-- Whether a source lies across a seam from the array it feeds (R202). R202 does not say which array of a gang that lies on several
dies counts: here its anchor's (log 92). -/
def acrossSeam (s : State) (rid c : Nat) (w : W64) : Bool :=
  let r := rectAt s rid
  (sourcesOf s rid c w).any fun x => tileDie r x.tile != coreDie r c

/-- T + I + 128 of an attempt at a step, in cycles, from the first headers that can be read (R202, R217). The crossing
adds 4 ns and 2 to 7 cycles (R12). -/
def attemptCycles (s : State) (rid c : Nat) (w : W64) (step : Nat) : Nat :=
  let xs := sourcesOf s rid c w
  let hs := xs.map fun x => (x.role, (firstHeader s rid x.tile x.desc).getD 0)
  let wide := fun role => (hs.filter fun h => h.1 == role).foldl (fun m h => max m (operandWidth (hFmt h.2))) 0
  let wd := max (max (wide 0) (wide 1)) (stepWidth step)
  let seam := acrossSeam s rid c w
  let t := (mwK w * wd + 31) / 32 * (if seam then 2 else 1)
  let lq := if step = 0 then 2 + (64 * wide 0 + 31) / 32 else 2
  let ld := if hs.any fun h => hEnc h.2 then 12 else 1
  t + 4 + (if seam then 2 + Config.crossing s.free % 6 else 0) + max lq ld + 128

/-- Parts of tile-microseconds that a number of tiles of a die spend on one attempt. -/
def attemptCost (s : State) (rid c : Nat) (w : W64) (step d tiles : Nat) : Nat :=
  let seam := if acrossSeam s rid c w then microParts * 4 / 1000 else 0
  tiles * (attemptCycles s rid c w step * (microParts / dieMhz s d) + seam)

/-- What is left of an array's balances on a die. -/
def balanceLeft (a : MArray) (d : Nat) : Nat := ((a.balances.filter fun b => b.die == d).map (·.left)).sum

/-- The balances cover the operation's estimate on every die (R217, R218). -/
def balancePays (s : State) (rid c : Nat) (w : W64) : Bool :=
  (diesOf s rid c).all fun x =>
    decide (attemptCost s rid c w (mwLmax w) x.1 x.2 * (mwLmax w - mwLstart w + 1) ≤ balanceLeft (arrAt s rid c) x.1)

/-- Take a cost from the balances on a die, the oldest first; a balance that is spent ends. -/
def spend (d : Nat) : Nat → List Balance → List Balance
  | _, [] => []
  | n, b :: bs =>
    if b.die ≠ d then b :: spend d n bs
    else if b.left ≤ n then spend d (n - b.left) bs
    else { b with left := b.left - n } :: bs

/-- Take the cost of an attempt, when balances pay for the operation (R217). An attempt that an error ends before its decision
has run for a part of its cycles that the spec does not give. -/
def payAttempt (s : State) (rid c : Nat) (w : W64) (step : Nat) (whole : Bool) : State :=
  let held := (List.range 4).any fun d => (dieAt s d).leaves.any fun l => l.rid == rid && l.core == c
  if held then s
  else
    let s := (diesOf s rid c).foldl (fun s x =>
      let cost := attemptCost s rid c w step x.1 x.2
      modArr s rid c fun a =>
        { a with balances := spend x.1 (if whole then cost else min cost (Config.endedCost s.free)) a.balances }) s
    { s with free := s.free + 1 }

/-! ### Leave and the start of an operation (R204, R205, R217, R218, R353) -/

/-- Tiles of a die that count against its limit: held leave and balances (R353). -/
def tilesUsed (s : State) (d : Nat) : Nat :=
  ((dieAt s d).leaves.map (·.tiles)).sum +
  (s.rects.flatMap fun r => r.2.cores.flatMap fun k =>
    (k.2.arr.balances.filter fun b => b.die == d && b.left != 0).map fun b => (b.amount + 999) / 1000).sum

/-- The request at the head of a die's arbiter, if it is of this array and fits (R353). -/
def grantable (s : State) (rid c d : Nat) (grant : Bool) : Bool :=
  match (dieAt s d).reqs with
  | q :: _ => q.rid == rid && q.core == c && q.grant == grant && decide (tilesUsed s d + q.tiles ≤ (dieAt s d).limit)
  | [] => false

/-- Give back the leave of an array, and drop what it still asks for. -/
def giveBack (s : State) (rid c : Nat) : State :=
  (List.range 4).foldl (fun s d => modDie s d fun x =>
    { x with leaves := x.leaves.filter fun l => !(l.rid == rid && l.core == c),
             reqs := x.reqs.filter fun l => !(l.rid == rid && l.core == c) }) s

/-- Operations have ended: key requests that wait for nothing more are answered (R334). -/
def answerKeys (s : State) (w : Nat) (uids : List Nat) : State :=
  let waits := (worldAt s w).keyResp.map fun k => (k.1, k.2.filter fun u => !uids.contains u)
  let s := modWorld s w fun q => { q with keyResp := waits.filter fun k => !k.2.isEmpty }
  (waits.filter fun k => k.2.isEmpty).foldl (fun s k => emit s (.spdm w [k.1])) s

/-- End what an operation holds: retention, slots, leave, keys (R204, R205, R334). Pattern slots get a state and the
bytes sent. -/
def releaseOperation (s : State) (rid c : Nat) (w : W64) (uid : Nat) (begun : Bool) (st : SlotPh) : State :=
  let s := giveBack s rid c
  let s := if begun then
      let ps := (readOperands s rid c w).map fun x => (x.1.tile, if x.1.role = 0 then mwA w else mwB w, x.2.1.pos)
      let s := (operandSlots s rid c w).foldl (fun s p => modSlot s rid p.1 p.2 fun x => { x with held := false }) s
      ps.foldl (fun s p => noteSlot (noteIndex s rid p.1 p.2.1 uid p.2.2) rid p.1 p.2.1 uid st) s
    else s
  let s := modRect s rid fun r => { r with tiles := r.tiles.map fun t =>
    (t.1, { t.2 with retained := t.2.retained.filter fun g => g.1 != uid }) }
  answerKeys (modArr s rid c fun a => { a with keys := none, frozenStep := none }) (worldOf rid) [uid]

/-- Change the cells of every member of a gang. -/
def mapCells (s : State) (rid c : Nat) (f : MCell → MCell) : State :=
  (membersOf s rid c).foldl (fun s m => modArr s rid m.2.2 fun a => { a with cells := a.cells.map fun x => (x.1, f x.2) }) s

/-- Whether an operation has passed its start: slots held and ranges retained. -/
def begun (a : MArray) : Bool :=
  a.frozenStep.isSome || (match a.st with
    | .ready _ => true
    | .run _ _ => true
    | _ => false)

/-- SEL 0 of MSTAT (R215). -/
def statusWord (loss inv past : Bool) (step can und sat : Nat) : W64 :=
  BitVec.ofNat 64 ((if loss then 2 ^ 63 else 0) + (if inv then 2 ^ 62 else 0) + (if past then 2 ^ 61 else 0) +
    step % 4 * 2 ^ 59 + can % 2 ^ 17 * 2 ^ 42 + und % 2 ^ 21 * 2 ^ 21 + sat % 2 ^ 21)

/-- Faulted (R204): the status is recorded, INVALID and GRIDLOSS of the last retired attempt stay (R215). R215 has STEP of an attempt; an
operation that faults before any records the step at which its first attempt would have begun (log 42). -/
def failMmac (s : State) (rid c : Nat) (q : MCmd) (w : W64) (step can und sat cause : Nat) (faddr : W64) : State :=
  let a := arrAt s rid c
  let s := match a.st with
    | .run _ _ => if cause = 0x0E6 then s else payAttempt s rid c w step false
    | .ready _ => payAttempt s rid c w step false
    | _ => s
  let s := releaseOperation s rid c w q.hdr.uid (begun a) .failed
  let s := mapCells s rid c clearAttempt
  let keep := statusWord (a.stat0.getLsbD 63) (a.stat0.getLsbD 62) false step can und sat
  let s := modArr s rid c fun a => { a with stat0 := keep }
  failCommand (dropMatrix s rid c) rid q.hdr cause faddr

/-- The step an operation starts at: LSTART, or the step that was frozen (R204). -/
def firstStep (a : MArray) (w : W64) : Nat := a.frozenStep.getD (mwLstart w)

/-- The head of a matrix queue, when it is an MMAC. -/
def headMmac (s : State) (rid c : Nat) : Option (MCmd × W64) :=
  match (arrAt s rid c).q with
  | q :: _ =>
    match q.work with
    | .mmac w _ => some (q, w)
    | _ => none
  | [] => none

/-- The field checks that an MMAC at the head of its queue may fail since it performed: COPYM places one for a core that may have
joined a gang since, whose members issue none (R204, R210, R221, R242). -/
def headCause (s : State) (rid c : Nat) (q : MCmd) : Option Nat :=
  if !sourcesExist s rid c then some 0x0E0
  else if (arrAt s rid q.hdr.core).anchor.isSome then some 0x0E7
  else none

/-- MMAC_HEAD: the field checks, then leave is asked for, or the balances pay (R204, R217, R218). The spec does not say when in Leave a
balance is judged: here once, as the operation enters it, also where the balance lapses before the operation starts (log 120). -/
def execMmacHead (rid core : Nat) (s : State) : Result :=
  .next (if !arrayUnit s rid core then s else
    match headMmac s rid core, (arrAt s rid core).st with
    | some (q, w), .idle =>
      match headCause s rid core q with
      | some e => failMmac s rid core q w (mwLstart w) 0 0 0 e 0
      | none =>
      if balancePays s rid core w then modArr s rid core fun a => { a with st := .leave [] true }
      else
        match diesOf s rid core with
        | (d, m) :: _ =>
          modArr (askLeave s d { rid := rid, core := core, tiles := m, grant := false }) rid core
            fun a => { a with st := .leave [] false }
        | [] => s
    | _, _ => s)

/-- Cause of a source that cannot start (R230). -/
def sourceCause (s : State) (rid c : Nat) (w : W64) : Option Nat :=
  (sourcesOf s rid c w).findSome? fun x =>
    startCause s rid x.tile (if x.role = 0 then mwA w else mwB w) [0, 1, 2] (some true)

/-- Retain what the operation reads (R205). -/
def retainAll (s : State) (rid c : Nat) (w : W64) (uid : Nat) : State :=
  (sourcesOf s rid c w).foldl (fun s x =>
    let rs := patternRanges s rid x.tile x.desc x.k ++ recordRanges s rid x.tile x.desc x.k
    modTile s rid x.tile fun t =>
      { t with retained := t.retained.filter (fun g => g.1 != uid) ++ rs.map fun g => (uid, g.1, g.2) }) s

/-- An operand range of an operation is on its way from a commit that its MMAC follows (R140, R220). -/
def operandsDrain (s : State) (rid c : Nat) (q : MCmd) (w : W64) : Bool :=
  !(taskDrains (rectAt s rid) q.hdr.task).isEmpty &&
  (sourcesOf s rid c w).any fun x =>
    (patternRanges s rid x.tile x.desc x.k ++ recordRanges s rid x.tile x.desc x.k).any fun g =>
      drainingLine s (whoCmd rid q.hdr) (tileAddr (rectAt s rid) q.hdr.core x.tile g.1) (g.2 - g.1)

/-- The slots of the A and B patterns of an operation, with their tiles. -/
def streamSlots (s : State) (rid c : Nat) (w : W64) : List (Nat × Nat) :=
  (sourcesOf s rid c w).map fun x => (x.tile, if x.role = 0 then mwA w else mwB w)

/-- With leave held, start the patterns once their slots are free (R204, R205, R223). -/
def beginOperation (s : State) (rid c : Nat) (q : MCmd) (w : W64) (granted : List Nat) (paid : Bool) : State :=
  let a := arrAt s rid c
  let s := modArr s rid c fun a => { a with st := .leave granted paid }
  let ks := operandSlots s rid c w
  if a.frozenStep.isNone && (operandsDrain s rid c q w || ks.any fun p => (slotAt s rid p.1 p.2).held) then s
  else
    let ss := streamSlots s rid c w
    match sourceCause s rid c w with
    | some e =>
      failMmac (ss.foldl (fun s p => useSlot s rid p.1 p.2 q.hdr.uid .failed) s) rid c q w (firstStep a w) 0 0 0 e 0
    | none =>
      let s := noteEvent (retainAll s rid c w q.hdr.uid) rid (coreDie (rectAt s rid) c) 3
      let s := ks.foldl (fun s p => modSlot s rid p.1 p.2 fun x => { x with held := true }) s
      let s := ss.foldl (fun s p => useSlot s rid p.1 p.2 q.hdr.uid .running) s
      modArr s rid c fun a => { a with st := .ready (firstStep a w), frozenStep := none }

/-- MATRIX_LEAVE_GRANT: balances pay, or the arbiter of the next die grants its share (R217, R218, R353). -/
def execMatrixLeaveGrant (rid core die : Nat) (s : State) : Result :=
  .next (if !arrayUnit s rid core then s else
    match headMmac s rid core, (arrAt s rid core).st with
    | some (q, w), .leave granted paid =>
      let ds := diesOf s rid core
      match (if paid then none else ds[granted.length]?) with
      | none => beginOperation s rid core q w granted paid
      | some (d, m) =>
        if d ≠ die ∨ !grantable s rid core d false then s
        else
          let l : LeaveReq := { rid := rid, core := core, tiles := m, grant := false }
          let s := modDie s d fun x => { x with reqs := x.reqs.drop 1, leaves := x.leaves ++ [l] }
          let granted := granted ++ [d]
          match ds[granted.length]? with
          | some (d', m') =>
            modArr (askLeave s d' { l with tiles := m' }) rid core fun a => { a with st := .leave granted false }
          | none => beginOperation s rid core q w granted false
    | _, _ => s)

/-! ### Attempts (R197, R201 to R204) -/

/-- The progress of the streams of a running attempt: some of their bytes have been sent (R238). -/
def showProgress (s : State) (rid c : Nat) (q : MCmd) (w : W64) : State :=
  let s := (sourcesOf s rid c w).foldl (fun s x =>
    noteIndex s rid x.tile (if x.role = 0 then mwA w else mwB w) q.hdr.uid (min (streamLen x.desc) (Config.bytesSent s.free))) s
  { s with free := s.free + 1 }

/-- The streams of an operation go back to their starts (R204). -/
def rewindStreams (s : State) (rid c : Nat) (q : MCmd) (w : W64) : State :=
  (streamSlots s rid c w).foldl (fun s p => noteIndex s rid p.1 p.2 q.hdr.uid 0) s

/-- MATRIX_ATTEMPT_START: the first headers arrive and are checked; the keys are latched (R202, R210, R334). -/
def execMatrixAttemptStart (rid core : Nat) (s : State) : Result :=
  .next (if !arrayUnit s rid core then s else
    match headMmac s rid core, (arrAt s rid core).st with
    | some (q, w), .ready step =>
      let os := readOperands s rid core w
      match attemptErr w os with
      | some e =>
        if e.1.beat = 0 then failMmac s rid core q w step 0 0 0 e.1.cause (errAddr s rid q.hdr.core e)
        else showProgress (modArr s rid core fun a => { a with keys := some (keysOf s rid core), st := .run step false }) rid core q w
      | none =>
        let enc := os.any fun x => match x.2.1.head with
          | some h => hEnc h
          | none => false
        showProgress (modArr s rid core fun a => { a with keys := some (keysOf s rid core), st := .run step (!enc) }) rid core q w
    | _, _ => s)

/-- DECRYPT_TAG_CHECK: the tags of the packets are compared; a mismatch ends the operation (R197). -/
def execDecryptTagCheck (rid core : Nat) (s : State) : Result :=
  .next (if !arrayUnit s rid core then s else
    match headMmac s rid core, (arrAt s rid core).st with
    | some (q, w), .run step false =>
      match attemptErr w (readOperands s rid core w) with
      | some e =>
        if e.1.cause = 0x0E4 then failMmac s rid core q w step 0 0 0 0x0E4 0
        else modArr s rid core fun a => { a with st := .run step true }
      | none => modArr s rid core fun a => { a with st := .run step true }
    | _, _ => s)

/-- What enters from the rows of gang row v and the columns of gang column u. -/
def enteringRows (os : List (Source × Operand × Option OpErr)) (step v : Nat) : List Entering :=
  match (os.filter fun x => x.1.role == 0)[v]? with
  | some x => (List.range x.2.1.codes.length).map fun r => enterRow x.2.1 step r
  | none => []

def enteringCols (os : List (Source × Operand × Option OpErr)) (u : Nat) : List Entering :=
  match (os.filter fun x => x.1.role == 1)[u]? with
  | some x => (List.range x.2.1.codes.length).map fun c => enterCol x.2.1 c
  | none => []

/-- Form the products of an attempt in the cells of a member (R194, R201). -/
def attemptMember (e : Int) (cells : Tab MCell) (rows cols : List Entering) : Tab MCell :=
  (List.zip (List.range rows.length) rows).foldl (fun t i =>
    (List.zip (List.range cols.length) cols).foldl (fun t j =>
      tset t (64 * i.1 + j.1) (attemptCell e (tget {} t (64 * i.1 + j.1)) i.2 j.2)) t) cells

/-- Form every product of an attempt. -/
def runAttempt (s : State) (rid c : Nat) (os : List (Source × Operand × Option OpErr)) (step : Nat) : State :=
  let e := (arrAt s rid c).e.toInt
  (membersOf s rid c).foldl (fun s m =>
    modArr s rid m.2.2 fun a => { a with cells := attemptMember e a.cells (enteringRows os step m.2.1) (enteringCols os m.1) }) s

/-- Cells of an attempt that a test selects: rows and columns it covered. -/
def countCells (s : State) (rid c : Nat) (p : MCell → Bool) : Nat :=
  ((membersOf s rid c).map fun m => ((arrAt s rid m.2.2).cells.filter fun x => p x.2).length).sum

/-- Retire the covered cells of a member and latch its factors (R201, R204). -/
def retireMember (acc : Bool) (rows cols : List Entering) (a : MArray) : MArray :=
  let covered := fun k => decide (k / 64 < rows.length) && decide (k % 64 < cols.length)
  let latch := fun (t : Tab (BitVec 32)) (l : List Entering) =>
    (List.zip (List.range l.length) l).foldl (fun t x => tset t x.1 x.2.factor) t
  { a with cells := a.cells.map fun x => if covered x.1 then (x.1, retireCell acc x.2) else x,
           ga := latch a.ga rows, gb := latch a.gb cols }

/-- Retire an operation (R201, R204, R219). -/
def retire (s : State) (rid c : Nat) (q : MCmd) (w : W64) (os : List (Source × Operand × Option OpErr))
    (step can und sat : Nat) (past : Bool) : State :=
  let loss := countCells s rid c (·.ploss) != 0
  let inv := countCells s rid c (·.pinv) != 0
  let s := (membersOf s rid c).foldl (fun s m =>
    modArr s rid m.2.2 (retireMember (mwAcc w) (enteringRows os step m.2.1) (enteringCols os m.1))) s
  let s := if step < 3 then modCsr s rid q.hdr.core fun k => { k with mrepl := tmod 0 k.mrepl step (· + 1) } else s
  let s := modArr s rid c fun a => { a with stat0 := statusWord loss inv past step can und sat }
  let s := releaseOperation s rid c w q.hdr.uid true .completed
  signal (noteEvent (dropMatrix s rid c) rid (coreDie (rectAt s rid) c) 2) rid q.hdr

/-- MATRIX_ATTEMPT_END: at L + 3 the attempt retires, is squashed, or faults (R203, R204). -/
def execMatrixAttemptEnd (rid core : Nat) (s : State) : Result :=
  .next (if !arrayUnit s rid core then s else
    match headMmac s rid core, (arrAt s rid core).st with
    | some (q, w), .run step true =>
      let os := readOperands s rid core w
      match attemptErr w os with
      | some e => failMmac s rid core q w step 0 0 0 e.1.cause (errAddr s rid q.hdr.core e)
      | none =>
        if !maySignal s rid q.hdr then s
        else
          let b := (arrAt s rid core).budget
          let t := runAttempt s rid core os step
          let rows := (membersOf s rid core).flatMap fun m => enteringRows os step m.2.1
          let sat := (rows.map (·.sat)).sum
          let und := (rows.map (·.und)).sum
          let can := countCells t rid core fun x => cancelled x b.c
          let past := decide (b.satb < sat) || decide (b.undb < und) || decide (b.canb < can)
          let t := payAttempt t rid core w step true
          if past && decide (step < mwLmax w) then
            rewindStreams (modArr (mapCells t rid core clearAttempt) rid core fun a => { a with st := .ready (step + 1) }) rid core q w
          else if past && b.strict then failMmac t rid core q w step can und sat 0x0E6 0
          else retire t rid core q w os step can und sat past
    | _, _ => s)

/-! ### MINIT (R209) -/

/-- MINIT_EXECUTE (R209). -/
def execMinitExecute (rid core : Nat) (s : State) : Result :=
  .next (if !arrayUnit s rid core then s else
    match (arrAt s rid core).q with
    | q :: _ =>
      match q.work with
      | .minit e =>
        if !maySignal s rid q.hdr then s
        else
          let s := (membersOf s rid core).foldl (fun s m =>
            modArr s rid m.2.2 fun a => { a with cells := [], ga := [], gb := [], e := e }) s
          signal (dropMatrix s rid core) rid q.hdr
      | _ => s
    | [] => s)

/-! ### MDRAIN (R211 to R213) -/

/-- Counts of a drain (R215, SEL 1). -/
structure DrainCount where
  nx : Bool := false
  osat : Nat := 0
  nan : Nat := 0
  dovf : Nat := 0

/-- An element of the normaliser: its bits, and its part of the drain status (R212). A zero takes the sign of the factors' product, as
a product of values does: R212 gives the exact product of a zero no sign (log 93). -/
def normalise (a : MArray) (w : W64) (f : BitVec 32) (i j : Nat) : Nat × DrainCount :=
  let fmt := fmtOf (BitVec.ofNat 4 (dwFmt w))
  let cell := tget {} a.cells (64 * i + j)
  let one : Val := .num false 1 0 false
  let fs := if 2 ≤ dwScale w then valueOf fp32 f.toNat else one
  let latched := fun (t : Tab (BitVec 32)) k => if dwScale w % 2 = 1 then one else valueOf fp32 (tget 0x3F800000 t k).toNat
  let finite := match fs with
    | .num _ _ _ _ => true
    | _ => false
  if cell.invalid || !finite then (fmt.canon, { nan := 1 })
  else
    let acc := drained cell
    let v := (mulVal (mulVal (mulVal (ofInt .rne acc.1 (a.e.toInt - 64)) (latched a.ga i)).1 (latched a.gb j)).1 fs).1
    let r := roundRne fmt v
    (r.1, { nx := r.2.bits.getLsbD 4, osat := if r.2.sat != 0 || r.2.bits.getLsbD 2 || (fmt.f8 && v matches .inf _) then 1 else 0,
            nan := if isNan (valueOf fmt r.1) then 1 else 0, dovf := if acc.2 then 1 else 0 })

/-- The elements of a member's drain in order (R211). -/
def drainElements (a : MArray) (w : W64) (f : BitVec 32) : List (Nat × DrainCount) :=
  (List.range (dwRows w)).flatMap fun i => (List.range (dwCols w)).map fun j => normalise a w f i j

/-- SEL 1 of MSTAT (R215). -/
def drainStatus (l : List DrainCount) : W64 :=
  BitVec.ofNat 64 ((if l.any (·.nx) then 2 ^ 51 else 0) + (l.map (·.osat)).sum % 2 ^ 17 * 2 ^ 34 +
    (l.map (·.nan)).sum % 2 ^ 17 * 2 ^ 17 + (l.map (·.dovf)).sum % 2 ^ 17)

/-- Clear SUM and the sticky flags (R211, KEEP = 0). -/
def clearSum (c : MCell) : MCell := { c with sum := 0, invalid := false, gridloss := false }

/-- One member's drain: its writes, and its cells cleared unless KEEP is 1 (R211). -/
def drainMember (s : State) (rid m : Nat) (q : MCmd) (w : W64) (es : List (Nat × DrainCount)) : State :=
  let t := (drainTile (rectAt s rid) m (dwMode w)).getD 0
  let bs := es.flatMap fun e => bytesOf (dwSize w) e.1
  let s := performWrite s (whoCmd rid q.hdr) q.hdr.task (tileAddr (rectAt s rid) q.hdr.core t (dwOff w)) bs
  let clear := fun (x : Nat × MCell) => if x.1 / 64 < dwRows w ∧ x.1 % 64 < dwCols w then (x.1, clearSum x.2) else x
  if dwKeep w then s else modArr s rid m fun a => { a with cells := a.cells.map clear }

/-- A command other than an MMAC fails at the head (R117). -/
def failMatrixHead (s : State) (rid c : Nat) (q : MCmd) (cause : Nat) : State :=
  failCommand (dropMatrix s rid c) rid q.hdr cause 0

/-- A chain into this array is on its way (R213). -/
def chainComing (s : State) (rid c : Nat) : Bool :=
  let r := rectAt s rid
  match coreXY r ((coreX r c : Int) - 2) (coreY r c) with
  | none => false
  | some k => match (arrAt s rid k).st with
    | .sending _ => true
    | _ => false

/-- The receiver of a chain: the compute tile two to the east (R213). -/
def chainTo (r : Rect) (c : Nat) : Option Nat := coreXY r (coreX r c + 2 : Nat) (coreY r c)

/-- The normalised drain of modes 0 and 1 at the head (R211, R212). OFFSET may be any byte: R211 names no alignment (log 91). -/
def drainNow (s : State) (rid c : Nat) (q : MCmd) (w : W64) (f : BitVec 32) : State :=
  let r := rectAt s rid
  let ms := membersOf s rid c
  let n := dwRows w * dwCols w * dwSize w
  let tileOf := fun m => (drainTile r m (dwMode w)).getD 0
  if !drainTilesExist s rid c (dwMode w) then failMatrixHead s rid c q 0x0E0
  else if ms.any fun m => decide (min (2 ^ 21) (tileAt s rid (tileOf m.2.2)).qbase < dwOff w + n) then failMatrixHead s rid c q 0x0E9
  else if ms.any fun m => retainedAt s (.mt rid (tileOf m.2.2) (dwOff w)) n || !clockRuns s (tileDie r (tileOf m.2.2)) ||
      drainingLine s (whoCmd rid q.hdr) (tileAddr r q.hdr.core (tileOf m.2.2) (dwOff w)) n then s
  else
    let all := ms.map fun m => (m.2.2, drainElements (arrAt s rid m.2.2) w f)
    let s := all.foldl (fun s m => drainMember s rid m.1 q w m.2) s
    modArr s rid c fun a => { a with st := .drained, stat1 := drainStatus (all.flatMap fun m => m.2.map (·.2)) }

/-- The start of a chain at the head (R213). -/
def chainStart (s : State) (rid c : Nat) (q : MCmd) : State :=
  let a := arrAt s rid c
  match chainTo (rectAt s rid) c with
  | none => failMatrixHead s rid c q 0x0E0
  | some k =>
    if a.gw ≠ 0 ∨ a.anchor.isSome then failMatrixHead s rid c q 0x0E0
    else if (arrAt s rid k).e ≠ a.e then failMatrixHead s rid c q 0x0E8
    else modArr s rid c fun a => { a with st := .sending 4096 }

/-- MDRAIN_EXECUTE (R211 to R213): it sees a whole incoming chain or none of it. -/
def execMdrainExecute (rid core : Nat) (s : State) : Result :=
  .next (if !arrayUnit s rid core then s else
    match (arrAt s rid core).q, (arrAt s rid core).st with
    | q :: _, .idle =>
      match q.work with
      | .mdrain w f =>
        if (membersOf s rid core).any fun m => chainComing s rid m.2.2 then s
        else if dwMode w = 2 then chainStart s rid core q else drainNow s rid core q w f
      | _ => s
    | _, _ => s)

/-- MDRAIN_COMPLETE: the writes are acknowledged and it signals (R139, R211). -/
def execMdrainComplete (rid core : Nat) (s : State) : Result :=
  .next (match (arrAt s rid core).q, (arrAt s rid core).st with
    | q :: _, .drained => if arrayUnit s rid core && maySignal s rid q.hdr then signal (dropMatrix s rid core) rid q.hdr else s
    | _, _ => s)

/-- Add a chained cell into the receiver's own sum, and OR the flags (R213). -/
def addChained (x y : MCell) : MCell :=
  { y with sum := y.sum + x.sum, invalid := y.invalid || x.invalid, gridloss := y.gridloss || x.gridloss }

/-- CHAIN_VALUE_ARRIVE: the next cell that a core sends is added by its receiver; after the last it signals (R213). -/
def execChainValueArrive (rid core : Nat) (s : State) : Result :=
  .next (match (arrAt s rid core).q, (arrAt s rid core).st, chainTo (rectAt s rid) core with
    | q :: _, .sending left, some k =>
      let sends := match (arrAt s rid k).st with
        | .sending _ => true
        | _ => false
      let stopped := !clockRuns s (coreDie (rectAt s rid) core) || !clockRuns s (coreDie (rectAt s rid) k)
      if stopped || sends || (left == 1 && !maySignal s rid q.hdr) then s
      else
        let ix := 4096 - left
        let x := tget {} (arrAt s rid core).cells ix
        let s := if (tfind (arrAt s rid core).cells ix).isSome then
            modArr s rid k fun a => { a with cells := tmod {} a.cells ix (addChained x) } else s
        if left ≤ 1 then
          let s := modArr s rid core fun a => { a with cells := a.cells.map fun y => (y.1, clearSum y.2), stat1 := drainStatus [] }
          signal (dropMatrix s rid core) rid q.hdr
        else modArr s rid core fun a => { a with st := .sending (left - 1) }
    | _, _, _ => s)

/-! ### Gangs (R216) -/

/-- Dissolve the gang of an anchor. -/
def dissolve (s : State) (rid c : Nat) : State :=
  let s := (membersOf s rid c).foldl (fun s m => modArr s rid m.2.2 fun a => { a with anchor := none }) s
  modArr s rid c fun a => { a with gw := 0, gh := 0 }

/-- Join the members of a gang to an anchor; one member alone is no gang. -/
def join (s : State) (rid c w h : Nat) (ms : List Nat) : State :=
  let a := arrAt s rid c
  let s := ms.foldl (fun s m => modArr s rid m fun x =>
    { x with cells := [], e := a.e, budget := a.budget, anchor := if m = c then none else some c }) s
  if w * h = 1 then s else modArr s rid c fun x => { x with gw := w, gh := h }

/-- A member may join a gang of an anchor: it belongs to no other (R216). -/
def mayJoin (s : State) (rid c m : Nat) : Bool :=
  let a := arrAt s rid m
  m == c || ((a.anchor.isNone || a.anchor == some c) && a.gw == 0)

/-- MGANG_JOIN (R216). -/
def execMgangJoin (rid core : Nat) (s : State) : Result :=
  .next (if !arrayUnit s rid core then s else
    match (arrAt s rid core).q with
    | q :: _ =>
      match q.work with
      | .mgang x =>
        let w := bitsOf x.toNat 2 0
        let h := bitsOf x.toNat 5 3
        let r := rectAt s rid
        let ms := (lattice w h).map fun p => memberAt r core p.1 p.2
        let busy := ms.any fun m => match m with
          | some k => k != core && !(arrAt s rid k).q.isEmpty
          | none => false
        let bad := ms.any fun m => match m with
          | some k => !mayJoin s rid core k
          | none => true
        if busy then s
        else if q.hdr.core ≠ core ∨ bad = true then failMatrixHead s rid core q 0x0E7
        else if !maySignal s rid q.hdr then s
        else
          let s := join (dissolve s rid core) rid core w h (ms.filterMap id)
          signal (dropMatrix s rid core) rid q.hdr
      | _ => s
    | [] => s)

/-! ### Grants (R217, R218, R353) -/

/-- MGRANT_GRANTED: the arbiter of the next die grants its share; after the last MGRANT signals (R217, R218). -/
def execMgrantGranted (rid core die : Nat) (s : State) : Result :=
  .next (if !arrayUnit s rid core then s else
    match (arrAt s rid core).q with
    | q :: _ =>
      match q.work with
      | .mgrant x =>
        let ds := diesOf s rid core
        let n := (ds.map (·.2)).sum
        let done := (arrAt s rid core).grantDies
        match ds[done.length]? with
        | none => s
        | some (d, m) =>
          let last := decide (ds.length ≤ done.length + 1)
          if d ≠ die ∨ !grantable s rid core d true ∨ (last && !maySignal s rid q.hdr) = true then s
          else
            let share := grantShare x m n
            let s := modDie s d fun y => { y with reqs := y.reqs.drop 1 }
            let s := modArr s rid core fun a =>
              { a with balances := a.balances ++ [{ die := d, amount := share, left := share * microParts }],
                       grantDies := done ++ [d] }
            match ds[done.length + 1]? with
            | some (d', m') =>
              askLeave s d' { rid := rid, core := core, tiles := (grantShare x m' n + 999) / 1000, grant := true }
            | none => signal (noteEvent (dropMatrix s rid core) rid (coreDie (rectAt s rid) core) 3) rid q.hdr
      | _ => s
    | [] => s)

/-- GRANT_BALANCE_LAPSE: a balance lapses 1,000 µs after its grant (R217); it waits while its core's die relocks (R350). -/
def execGrantBalanceLapse (rid core k : Nat) (s : State) : Result :=
  .next (if !clockRuns s (coreDie (rectAt s rid) core) then s else modArr s rid core fun a => { a with balances := dropAt a.balances k })

/-! ### Pre-emption (R206) -/

/-- The running attempt of a core's array is abandoned; its balances lapse and its requests are withdrawn (R204, R206,
R217). Retention goes on. -/
def preemptArray (s : State) (rid c : Nat) : State :=
  let a := arrAt s rid c
  let s := giveBack s rid c
  let stop := fun (s : State) (step : Option Nat) =>
    modArr (mapCells s rid c clearAttempt) rid c fun a => { a with st := .idle, frozenStep := step }
  let s := match a.st with
    | .ready step => stop s (some step)
    | .run step _ => stop s (some step)
    | .leave _ _ => modArr s rid c fun a => { a with st := .idle }
    | _ => s
  modArr s rid c fun a => { a with balances := [], grantDies := [] }

end Sys2Proof.Machine
end

