-- ==== Sys2Proof/Machine/Copies.lean ====
section
/-!
DEFINITION. Sys2Proof/Machine/Copies.lean: the copy engines: VGATHER and VSCATTER (R115, R116), COPY, COPYM and TMOVE (R239 to
R243), queue fences (R138, R244), TOKRD (R245), and the events of the copy queue.
-/
namespace Sys2Proof.Machine

/-! ### The copy queue (R239) -/

def copyQ (s : State) (rid c : Nat) : List CopyCmd := (coreAt s rid c).copyq
def setCopyQ (s : State) (rid c : Nat) (q : List CopyCmd) : State := modCore s rid c fun k => { k with copyq := q }

/-- The MMAC that a COPYM of a core placed stands in a matrix queue: the COPYM has not completed, and no later command of its copy queue
signals before it (R138, R242). -/
def copymOpen (s : State) (rid c : Nat) : Bool :=
  (rectAt s rid).cores.any fun k => k.2.arr.q.any fun m => m.hdr.core == c && (match m.work with
    | .mmac _ placed => placed
    | _ => false)

def isFence (w : CopyWork) : Bool :=
  match w with
  | .fence => true
  | _ => false

/-- Copy commands in flight: a queue fence does not count (R239, R244). -/
def copiesInFlight (s : State) (rid c : Nat) : Nat := ((copyQ s rid c).filter fun q => !isFence q.work).length

/-- A command of the running task enters its core's copy queue; the 65th waits, as a full token does (R232, R239). -/
def enqueueCopy (s : State) (tok : Nat) (sem : Option (Nat × Nat)) (work : CopyWork) : Act :=
  let rid := s.cur.rid
  let c := s.cur.core
  if 64 ≤ copiesInFlight s rid c ∨ tokenFull s rid c tok then .hold
  else
    let h := commandHdr s rid c tok sem
    .done (setCopyQ h.2 rid c (copyQ h.2 rid c ++ [{ hdr := h.1, work := work }]))

/-- A number in bytes i to i + n - 1 of a descriptor. -/
def field (bs : List Byte) (i n : Nat) : Nat := natOf ((bs.drop i).take n)

/-- SEM of a copy or TMOVE descriptor at byte i: its semaphore, 0x0C8 for a nonzero zero-field, 0x069 for an index
outside the allocation (R240, R243). -/
def descSem (s : State) (bs : List Byte) (i : Nat) (sem : BitVec 1) : Except Nat (Option (Nat × Nat)) :=
  let v := field bs i 2
  if sem = 0 then (if v = 0 then .ok none else .error 0x0C8)
  else if v / 2 ^ 14 ≠ 0 then .error 0x0C8
  else if (ldieAt s s.cur.rid (v / 4096)).nsem ≤ v % 4096 then .error 0x069
  else .ok (some (v / 4096, v % 4096))

/-- FADDR of a cause that a field of a descriptor raises: the descriptor's address for one of class 3 (R97), and 0 for 0x0C8, where no
access failed (R292, log 98). -/
def fieldAddr (cause : Nat) (a : W64) : W64 := if cause = 0x0C8 then 0 else a

/-- The copy descriptor at an address: destination, source, length and semaphore (R240). Of 0x0C8 and 0x069 the spec gives no order: here
LEN and the zero bytes come first, then the zero bits of SEM, then its index (log 89). -/
def copyDescriptor (s : State) (a : W64) (sem : BitVec 1) : Except (Option (Nat × W64)) (W64 × W64 × Nat × Option (Nat × Nat)) :=
  match readDescriptor s a 32 32 [0xF0, 0xF1] with
  | .error e => .error e
  | .ok bs =>
    if field bs 16 4 = 0 ∨ field bs 22 10 ≠ 0 then .error (some (0x0C8, 0))
    else
      match descSem s bs 20 sem with
      | .error e => .error (some (e, fieldAddr e a))
      | .ok sm => .ok (BitVec.ofNat 64 (field bs 0 8), BitVec.ofNat 64 (field bs 8 8), field bs 16 4, sm)

/-! ### The instructions -/

/-- COPY, immediate form (R240). -/
def execCopy (p : BitVec 2) (l : BitVec 4) (k : BitVec 3) (s : State) : Result :=
  issue (.copy p l k) (fun a b s => immediate s fun s => enqueueCopy s k.toNat none (.copy a b (2 ^ l.toNat))) s

/-- COPY, descriptor form (R240). -/
def execCopyD (p : BitVec 2) (g : BitVec 1) (k : BitVec 3) (s : State) : Result :=
  issue (.copyD p g k) (fun a _ s => immediate s fun s =>
    match copyDescriptor s a g with
    | .error e => noDescriptor e
    | .ok (dst, src, len, sem) => enqueueCopy s k.toNat sem (.copy dst src len)) s

/-- COPYM (R242); the checks of the descriptor come before those of the MMAC word (log 89). -/
def execCopym (p : BitVec 2) (g : BitVec 1) (k : BitVec 3) (s : State) : Result :=
  issue (.copym p g k) (fun a b s => immediate s fun s =>
    match copyDescriptor s a 0 with
    | .error e => noDescriptor e
    | .ok (dst, src, len, _) =>
      match checkMmac s b g with
      | .error e => .trap e 0
      | .ok sem => enqueueCopy s k.toNat sem (.copym dst src len b)) s

/-- TMOVE (R243); its zero bytes are checked before its semaphore (log 89). -/
def execTmove (p : BitVec 2) (g : BitVec 1) (k : BitVec 3) (s : State) : Result :=
  issue (.tmove p g k) (fun a _ s => immediate s fun s =>
    match readDescriptor s a 32 32 [0xF0, 0xF1] with
    | .error e => noDescriptor e
    | .ok bs =>
      if field bs 30 2 ≠ 0 then .trap 0x0C8 0
      else
        match descSem s bs 28 g with
        | .error e => .trap e (fieldAddr e a)
        | .ok sem => enqueueCopy s k.toNat sem
            (.tmove (BitVec.ofNat 64 (field bs 0 8)) (BitVec.ofNat 64 (field bs 8 8)) (field bs 16 2 + 1) (field bs 18 2 + 1)
              (sext 32 (field bs 20 4)) (sext 32 (field bs 24 4)))) s

/-- The semaphore of VGATHER and VSCATTER: an index on the issuing core's die (R115). -/
def gatherSem (s : State) (bs : List Byte) (sem : BitVec 1) : Except Nat (Option (Nat × Nat)) :=
  let r := rectAt s s.cur.rid
  let d := logicalDie r (coreDie r s.cur.core)
  if sem = 0 then .ok none
  else if (ldieAt s s.cur.rid d).nsem ≤ field bs 28 2 then .error 0x069
  else .ok (some (d, field bs 28 2))

/-- What VGATHER and VSCATTER do when they perform (R115). Of a bad semaphore and a bad field the semaphore comes first, as the table
of R97 lists the two; R115 gives no order (log 89). -/
def gatherAt (s : State) (a : W64) (g : BitVec 1) (k : BitVec 3) (mk : W64 → W64 → W64 → Nat → CopyWork) : Act :=
  match readDescriptor s a 32 32 [0xF0, 0xF1] with
  | .error e => noDescriptor e
  | .ok bs =>
    match gatherSem s bs g with
    | .error e => .trap e a
    | .ok sem =>
      if field bs 24 4 = 0 ∨ 65536 < field bs 24 4 ∨ field bs 30 2 ≠ 0 then .trap 0x06D a
      else enqueueCopy s k.toNat sem
        (mk (BitVec.ofNat 64 (field bs 0 8)) (BitVec.ofNat 64 (field bs 8 8)) (BitVec.ofNat 64 (field bs 16 8)) (field bs 24 4))

/-- VGATHER (R115). -/
def execVgather (p : BitVec 2) (z : BitVec 2) (g : BitVec 1) (k : BitVec 3) (s : State) : Result :=
  issue (.vgather p z g k) (fun a _ s => immediate s fun s =>
    gatherAt s a g k fun dst src idx n => .gather dst src idx (2 ^ z.toNat) n) s

/-- VSCATTER (R115). -/
def execVscatter (p : BitVec 2) (z : BitVec 2) (g : BitVec 1) (k : BitVec 3) (s : State) : Result :=
  issue (.vscatter p z g k) (fun a _ s => immediate s fun s =>
    gatherAt s a g k fun dst src idx n => .scatter dst src idx (2 ^ z.toNat) n) s

/-- TOKRD (R245). -/
def execTokrd (p : BitVec 2) (a : BitVec 1) (k : BitVec 3) (t : BitVec 9) (s : State) : Result :=
  issue (.tokrd p a k t) (fun _ _ s =>
    let n := fun i => tokenAt s s.cur.rid s.cur.core i
    .send s (if a = 0 then BitVec.ofNat 64 (n k.toNat)
      else BitVec.ofNat 64 ((List.range 8).foldl (fun v i => v + min (n i) 255 * 256 ^ i) 0))) s

/-! ### Queue fences (R138, R244) -/

/-- Queues that a fence word names. -/
structure FenceWord where
  copy : Bool
  matrix : Bool
  ring : Bool
  xdie : Bool
  tile : Nat
  ports : List Nat

/-- A fence word outside its ranges, else what it names (R244); checks in the order 0x0C8, semaphore, tile, which the spec does not give
(log 89). -/
def fenceWord (s : State) (w : W64) (g : BitVec 1) : Except Nat (FenceWord × Option (Nat × Nat)) :=
  let x := w.toNat
  let ports := (List.range 6).filter fun p => x / 2 ^ (6 + p) % 2 == 1
  if bitsOf x 63 46 ≠ 0 ∨ bitsOf x 15 12 ≠ 0 ∨ bitsOf x 5 4 ≠ 0 ∨ (ports.isEmpty ∧ bitsOf x 31 16 ≠ 0) then .error 0x0C8
  else
    match packedSem s s.cur.rid w g 0x0C8 with
    | .error e => .error e
    | .ok sem =>
      let t := tileFrom (rectAt s s.cur.rid) s.cur.core (sext 8 (bitsOf x 31 24)) (sext 8 (bitsOf x 23 16))
      if !ports.isEmpty && t.isNone then .error 0x0C1
      else .ok ({ copy := w.getLsbD 0, matrix := w.getLsbD 1, ring := w.getLsbD 2, xdie := w.getLsbD 3, tile := t.getD 0,
                  ports := ports }, sem)

/-- Some named queue is full, or its clock stands still (R207, R222, R265, R350). -/
def fenceBlocked (s : State) (f : FenceWord) : Bool :=
  let rid := s.cur.rid
  let c := s.cur.core
  (!f.ports.isEmpty && !clockRuns s (tileDie (rectAt s rid) f.tile)) ||
  (f.matrix && matrixFull s) || (f.ring && decide (16 ≤ (coreAt s rid c).ringq.length)) ||
  f.ports.any fun p => decide (8 ≤ (portQ s rid f.tile p).length)

/-- Place a fence entry in every named queue (R244). -/
def placeFence (s : State) (rid c : Nat) (h : Hdr) (f : FenceWord) : State :=
  let s := if f.copy then setCopyQ s rid c (copyQ s rid c ++ [{ hdr := h, work := .fence }]) else s
  let s := if f.matrix then pushMatrix s rid (anchorOf s rid c) { hdr := h, work := .fence } else s
  let s := if f.ring then modCore s rid c fun k => { k with ringq := k.ringq ++ [{ hdr := h, work := .fence }] } else s
  let s := if f.xdie then modCore s rid c fun k => { k with xdieq := k.xdieq ++ [{ hdr := h, work := .fence }] } else s
  let s := f.ports.foldl (fun s p => setPortQ s rid f.tile p (portQ s rid f.tile p ++ [{ hdr := h, work := .fence }])) s
  let q : QFence := { hdr := h, arr := anchorOf s rid c, copy := f.copy, matrix := f.matrix, ring := f.ring, xdie := f.xdie, tile := f.tile, ports := f.ports }
  modRect s rid fun r => { r with fences := tset r.fences h.uid q }

/-- COPY, queue fence form (R244). -/
def execCopyQf (p : BitVec 2) (g : BitVec 1) (k : BitVec 3) (s : State) : Result :=
  issue (.copyQf p g k) (fun a _ s => immediate s fun s =>
    let rid := s.cur.rid
    let c := s.cur.core
    match fenceWord s a g with
    | .error e => .trap e 0
    | .ok (f, sem) =>
      let empty := !f.copy && !f.matrix && !f.ring && !f.xdie && f.ports.isEmpty
      if fenceBlocked s f ∨ tokenFull s rid c k.toNat ∨ (empty && !replayEmpty s rid c) = true then .hold
      else
        let h := commandHdr s rid c k.toNat sem
        .done (if empty then signal h.2 rid h.1 else placeFence h.2 rid c h.1 f)) s

/-- Every command ahead of the entries of a fence, in every named queue, has completed: the entries stand at the heads, and no COPYM ahead
of the entry in the copy queue is open. A fence that names the matrix queue too does not wait for that: the MMAC may stand behind the
fence's own entry there, and would never start (log 100). -/
def fenceReached (s : State) (rid c : Nat) (f : QFence) : Bool :=
  let k := coreAt s rid c
  let is := fun (h : Option Hdr) => (h.map (·.uid)) == some f.hdr.uid
  (!f.copy || is (k.copyq.head?.map (·.hdr)) && (f.matrix || !copymOpen s rid c)) && (!f.matrix || is ((arrAt s rid f.arr).q.head?.map (·.hdr))) &&
  (!f.ring || is (k.ringq.head?.map (·.hdr))) && (!f.xdie || is (k.xdieq.head?.map (·.hdr))) &&
  f.ports.all fun p => is ((portQ s rid f.tile p).head?.map (·.hdr))

/-- The clocks of the queues that a fence names run (R350). -/
def fenceRuns (s : State) (rid : Nat) (f : QFence) : Bool :=
  (f.ports.isEmpty || clockRuns s (tileDie (rectAt s rid) f.tile)) && (!f.matrix || arrayUnit s rid f.arr)

/-- Take the entries of a fence out of their queues. -/
def dropFence (s : State) (rid c : Nat) (f : QFence) : State :=
  let s := modRect s rid fun r => { r with fences := tdel r.fences f.hdr.uid }
  let s := if f.copy then setCopyQ s rid c ((copyQ s rid c).drop 1) else s
  let s := if f.matrix then dropMatrix s rid f.arr else s
  let s := if f.ring then modCore s rid c fun k => { k with ringq := k.ringq.drop 1 } else s
  let s := if f.xdie then modCore s rid c fun k => { k with xdieq := k.xdieq.drop 1 } else s
  f.ports.foldl (fun s p => setPortQ s rid f.tile p ((portQ s rid f.tile p).drop 1)) s

/-- QUEUE_FENCE_COMPLETE (R244). -/
def execQueueFenceComplete (rid core uid : Nat) (s : State) : Result :=
  .next (match tfind (rectAt s rid).fences uid with
    | some f =>
      if f.hdr.core = core ∧ fenceReached s rid core f ∧ maySignal s rid f.hdr ∧ coreUnit s rid core ∧ fenceRuns s rid f then
        signal (dropFence s rid core f) rid f.hdr
      else s
    | none => s)

/-! ### Pins (R104) -/

/-- The extents that accesses of a command translate through. -/
def extentsOf (s : State) (rid : Nat) (as : List W64) : List Nat :=
  as.filterMap fun a => if selector a = 0 then (extentAt s (worldOf rid) (a.toNat % 2 ^ 56)).map (·.1) else none

/-- Pin extents that a command does not pin yet; none while one has 511 pins. -/
def addPins : List Nat → List Nat → State → Option (State × List Nat)
  | [], pins, s => some (s, pins)
  | x :: xs, pins, s =>
    if pins.contains x then addPins xs pins s
    else
      match tfind s.extents x with
      | none => addPins xs pins s
      | some e =>
        if 511 ≤ e.pins then none
        else addPins xs (pins ++ [x]) { s with extents := tset s.extents x { e with pins := e.pins + 1 } }

/-- Release the pins of a command. -/
def dropPins (s : State) (pins : List Nat) : State :=
  { s with extents := s.extents.map fun e => if pins.contains e.1 then (e.1, { e.2 with pins := e.2.pins - 1 }) else e }

/-- Change the head of a copy queue. -/
def modCopy (s : State) (rid c : Nat) (f : CopyCmd → CopyCmd) : State := setCopyQ s rid c (modAt (copyQ s rid c) 0 f)

/-- Take the head of a copy queue out, with its pins. -/
def dropCopy (s : State) (rid c : Nat) (q : CopyCmd) : State := setCopyQ (dropPins s q.pins) rid c ((copyQ s rid c).drop 1)

/-- The head of a copy queue fails (R117). -/
def failCopy (s : State) (rid c : Nat) (q : CopyCmd) (cause : Nat) (a : W64) : State :=
  failCommand (dropCopy s rid c q) rid q.hdr cause a

/-- The head of a copy queue is to fail: its token falls no earlier than that of an open COPYM (R117, R138). -/
def failInTurn (s : State) (rid c : Nat) (q : CopyCmd) (cause : Nat) (a : W64) : State :=
  if copymOpen s rid c then s else failCopy s rid c q cause a

/-! ### Moving bytes (R98, R103, R108, R205, R241) -/

/-- Spaces of either end of a copy, and of TMOVE (R241, R243). -/
def copySpaces : List Nat := [0, 0xF0, 0xF1, 0xF2]
def moveSpaces : List Nat := [0xF0, 0xF1, 0xF2]

/-- The first byte of a range whose read fails, with its cause (R98). -/
def badByte (s : State) (rid : Nat) (who : Who) (a : W64) (n : Nat) : Option (Nat × W64) :=
  match readError s (worldOf rid) (homeOf s who a) n with
  | none => none
  | some _ => (List.range n).findSome? fun i =>
      let b := addrPlus a (Int.ofNat i)
      (readError s (worldOf rid) (homeOf s who b) 1).map (·, b)

/-- What one move of an engine answers. -/
inductive MoveRes where
  | wait
  | fail (cause : Nat) (a : W64)
  | done (s : State)

/-- Read n bytes at memory whole, then write them at memory (R241). Both ranges passed their checks. -/
def moveBytes (s : State) (rid : Nat) (h : Hdr) (dst src : W64) (n : Nat) : MoveRes :=
  let who := whoCmd rid h
  if drainingLine s who src n || drainingLine s who dst n || writeHeld s who dst n then .wait
  else
    match badByte s rid who src n with
    | some (e, a) => .fail e a
    | none =>
      if !served s (worldOf rid) (homeOf s who dst) n then .fail 0x080 dst
      else .done (engineAck (performWrite (noteHbm s rid (homeOf s who src)) who h.task dst (memBytes s who src n)) who dst)

/-- The checks of both ends of one range: a cause with its address. The spec does not say which end's comes first where both ends
of a copy or of a row fail: here the source's (log 89). -/
def checkEnds (s : State) (rid : Nat) (h : Hdr) (dst src : W64) (n : Nat) (spaces : List Nat) : Option (Nat × W64) :=
  match translate s (whoCmd rid h) src n 0 .read spaces with
  | .error e => some (e, src)
  | .ok () =>
    match translate s (whoCmd rid h) dst n 0 .write spaces with
    | .error e => some (e, dst)
    | .ok () => none

/-! ### COPY and the copy of COPYM (R241, R242) -/

/-- The copy that a command makes. -/
def copyOf (w : CopyWork) : Option (W64 × W64 × Nat) :=
  match w with
  | .copy dst src len => some (dst, src, len)
  | .copym dst src len _ => some (dst, src, len)
  | _ => none

/-- COPY_CHUNK: the copy starts with its checks and pins, then moves its next chunk of 4 KiB (R241). -/
def execCopyChunk (rid core : Nat) (s : State) : Result :=
  .next (if !coreUnit s rid core then s else
    match copyQ s rid core with
    | [] => s
    | q :: _ =>
      match copyOf q.work with
      | none => s
      | some (dst, src, len) =>
        if !q.started then
          match checkEnds s rid q.hdr dst src len copySpaces with
          | some (e, a) => failInTurn s rid core q e a
          | none =>
            match addPins (extentsOf s rid [src, dst]) q.pins s with
            | none => s
            | some (s, pins) => modCopy s rid core fun q => { q with started := true, pins := pins }
        else if len ≤ q.prog then s
        else
          let n := min 4096 (len - q.prog)
          let at0 := fun a => addrPlus a (Int.ofNat q.prog)
          match moveBytes s rid q.hdr (at0 dst) (at0 src) n with
          | .wait => s
          | .fail e a => failInTurn s rid core q e a
          | .done s => modCopy s rid core fun q => { q with prog := q.prog + n })

/-- Steps of a command that completes by itself: bytes, rows or elements. -/
def copyTotal (w : CopyWork) : Option Nat :=
  match w with
  | .copy _ _ len => some len
  | .gather _ _ _ _ n => some n
  | .scatter _ _ _ _ n => some n
  | .tmove _ _ rows _ _ _ => some rows
  | _ => none

/-- COPY_COMPLETE: the last write is acknowledged and the command signals, after every earlier command of its queue (R116, R138, R139,
R241, R243). -/
def execCopyComplete (rid core : Nat) (s : State) : Result :=
  .next (if !coreUnit s rid core then s else
    match copyQ s rid core with
    | [] => s
    | q :: _ =>
      if q.started ∧ copyTotal q.work = some q.prog ∧ maySignal s rid q.hdr ∧ !copymOpen s rid core then signal (dropCopy s rid core q) rid q.hdr else s)

/-- COPYM_MMAC_PLACE: after the copy the MMAC goes to the tail of the matrix queue (R242). The COPYM counts as a copy no longer, and later
commands of the queue go on with their accesses; its token falls as the MMAC retires or faults, and only then do theirs (R138, log 100). -/
def execCopymMmacPlace (rid core : Nat) (s : State) : Result :=
  .next (if !coreUnit s rid core then s else
    match copyQ s rid core with
    | [] => s
    | q :: _ =>
      match q.work with
      | .copym _ _ len w =>
        let a := anchorOf s rid core
        if !q.started || q.prog != len || decide (16 ≤ (arrAt s rid a).q.length) || !arrayUnit s rid a then s
        else pushMatrix (dropCopy s rid core q) rid a { hdr := q.hdr, work := .mmac w true }
      | _ => s)

/-! ### VGATHER and VSCATTER (R116) -/

/-- Addresses of element i: the index, then given j the source and the destination. -/
def gatherEnds (w : CopyWork) (i j : Nat) : Option (W64 × W64 × W64 × Nat × Nat) :=
  match w with
  | .gather dst src idx n count => some (addrPlus idx (Int.ofNat (4 * i)), addrPlus src (Int.ofNat (n * j)), addrPlus dst (Int.ofNat (n * i)), n, count)
  | .scatter dst src idx n count => some (addrPlus idx (Int.ofNat (4 * i)), addrPlus src (Int.ofNat (n * i)), addrPlus dst (Int.ofNat (n * j)), n, count)
  | _ => none

/-- One element: check and read the index, check the source, check the destination, move (R116). -/
def gatherOne (s : State) (rid core : Nat) (q : CopyCmd) : State :=
  let who := whoCmd rid q.hdr
  match gatherEnds q.work q.prog 0 with
  | none => s
  | some (ia, _, _, n, count) =>
    if count ≤ q.prog then s
    else
      match translate s who ia 4 0 .read copySpaces with
      | .error e => failInTurn s rid core q e ia
      | .ok () =>
        if drainingLine s who ia 4 then s
        else
          match badByte s rid who ia 4 with
          | some (e, a) => failInTurn s rid core q e a
          | none =>
            match gatherEnds q.work q.prog (natOf (memBytes s who ia 4)) with
            | none => s
            | some (_, src, dst, _, _) =>
              match checkEnds s rid q.hdr dst src n copySpaces with
              | some (e, a) => failInTurn s rid core q e a
              | none =>
                match addPins (extentsOf s rid [ia, src, dst]) q.pins s with
                | none => s
                | some (s, pins) =>
                  let s := modCopy s rid core fun q => { q with pins := pins }
                  let q := { q with pins := pins }
                  match moveBytes s rid q.hdr dst src n with
                  | .wait => s
                  | .fail e a => failInTurn s rid core q e a
                  | .done s' => modCopy (noteHbm s' rid (homeOf s who ia)) rid core fun q => { q with started := true, prog := q.prog + 1 }

/-- GATHER_ELEMENT: the next element of a VGATHER or VSCATTER at the head (R116). -/
def execGatherElement (rid core : Nat) (s : State) : Result :=
  .next (if !coreUnit s rid core then s else
    match copyQ s rid core with
    | [] => s
    | q :: _ => gatherOne s rid core q)

/-! ### TMOVE (R243) -/

/-- Destination and source of row r. -/
def rowEnds (dst src : W64) (dp sp : Int) (r : Nat) : W64 × W64 := (addrPlus dst (Int.ofNat r * dp), addrPlus src (Int.ofNat r * sp))

/-- TMOVE_ROW: TMOVE starts with the checks of every row, then moves its next row (R243). -/
def execTmoveRow (rid core : Nat) (s : State) : Result :=
  .next (if !coreUnit s rid core then s else
    match copyQ s rid core with
    | [] => s
    | q :: _ =>
      match q.work with
      | .tmove dst src rows rb dp sp =>
        if !q.started then
          match (List.range rows).findSome? (fun r =>
              let e := rowEnds dst src dp sp r
              checkEnds s rid q.hdr e.1 e.2 rb moveSpaces) with
          | some (e, a) => failInTurn s rid core q e a
          | none => modCopy s rid core fun q => { q with started := true }
        else if rows ≤ q.prog then s
        else
          let e := rowEnds dst src dp sp q.prog
          match moveBytes s rid q.hdr e.1 e.2 rb with
          | .wait => s
          | .fail c a => failInTurn s rid core q c a
          | .done s => modCopy s rid core fun q => { q with prog := q.prog + 1 }
      | _ => s)

end Sys2Proof.Machine
end

