-- ==== Sys2Proof/Machine/Ring.lean ====
section
/-!
DEFINITION. Sys2Proof/Machine/Ring.lean: the Halo (R249 to R262, R272): bindings, feeders, stations and captures, and the ring
instructions (R263 to R271).
-/
namespace Sys2Proof.Machine

/-! ### Boards in the ring queues -/

def ringQ (s : State) (rid c : Nat) : List RingCmd := (coreAt s rid c).ringq
def setRingQ (s : State) (rid c : Nat) (q : List RingCmd) : State := modCore s rid c fun k => { k with ringq := q }

/-- STATE of a board (R268). -/
def boardState (b : Board) : Nat :=
  match b.st with
  | .queued => 1 | .armed => 2 | .capturing => 3 | .stopped => 7

/-- The record of RSTAT (R268). -/
def boardWord (st status : Nat) (b : Board) : W64 :=
  BitVec.ofNat 64 (st % 16 * 2 ^ 60 + status % 16 * 2 ^ 56 + b.lap.toNat % 2 ^ 16 * 2 ^ 32 + min b.corrupted 65535 * 2 ^ 16 +
    min b.tiles 65535)

/-- Note a board's record where it is the most recent into its slot. -/
def noteBoard (s : State) (rid uid st status : Nat) (b : Board) : State :=
  modSlot s rid b.tile b.slot fun x => if x.boardUid = uid then { x with board := boardWord st status b } else x

/-- Put a board back at its place of a ring queue. -/
def setBoard (s : State) (rid c ix : Nat) (q : RingCmd) (b : Board) : State :=
  let s := setRingQ s rid c (modAt (ringQ s rid c) ix fun x => { x with work := .board b })
  noteBoard s rid q.hdr.uid (boardState b) 0 b

/-- The board at a place of a ring queue. -/
def boardAt (s : State) (rid c ix : Nat) : Option (RingCmd × Board) :=
  match (ringQ s rid c)[ix]? with
  | some q =>
    match q.work with
    | .board b => some (q, b)
    | _ => none
  | none => none

/-- Take a board out of its queue; its slot is free if it held it (R223), and shows what became of the board (R238). -/
def dropBoard (s : State) (rid c ix : Nat) (q : RingCmd) (b : Board) (ph : SlotPh) : State :=
  let s := noteSlot (setRingQ s rid c (dropAt (ringQ s rid c) ix)) rid b.tile b.slot q.hdr.uid ph
  if b.st = .queued then s else modSlot s rid b.tile b.slot fun x => { x with held := false }

/-- Every board of a machine: rectangle, core and place. -/
def allBoards (s : State) : List (Nat × Nat × Nat) :=
  s.rects.flatMap fun r => r.2.cores.flatMap fun k => (List.range k.2.ringq.length).map fun i => (r.1, k.1, i)

/-! ### Bindings (R249) -/

/-- A binding takes effect on a lane, or leaves it unbound: armed boards of the lane end UNBOUND; the pending binding stays (R249, R262). -/
def takeBinding (s : State) (lane : Nat) (b : Option Binding) : State :=
  let l := laneAt s lane
  let bound := match b with
    | some x => if x.unbind then none else some x
    | none => none
  let s := modLane s lane fun _ =>
    { l with bound := bound, lap := 0, layer := 0, tidx := 0, entry := none, feeder := 0, gen := l.gen + 1,
             stations := [] }
  (allBoards s).foldl (fun s p =>
    match boardAt s p.1 p.2.1 p.2.2 with
    | some (q, x) =>
      if x.lane = lane ∧ x.st = .armed then setBoard s p.1 p.2.1 p.2.2 q { x with unbound := true, ending := true } else s
    | none => s) s

/-- The lane is bound to a world. -/
def boundTo (s : State) (lane w : Nat) : Bool :=
  match (laneAt s lane).bound with
  | some b => b.world == w
  | none => false

/-! ### Feeders (R250, R254, R256) -/

/-- Dies in ring order from a die (R255). -/
def ringFrom (f : Nat) : List Nat :=
  match f with
  | 0 => [0, 1, 3, 2] | 1 => [1, 3, 2, 0] | 3 => [3, 2, 0, 1] | _ => [2, 0, 1, 3]

/-- A feeder as the party of an access: the bound world, no task (R250). -/
def whoFeeder (w : Nat) : Who := { rid := 8 * w, core := 0, handler := false, conf := none }

/-- Bytes that a feeder reads at memory through the lease table of a world, 64 at a time: a cause with its address. -/
def feederRead (s : State) (w : Nat) : Nat → W64 → Nat → Except (Nat × W64) (List Byte)
  | 0, _, _ => .ok []
  | fuel + 1, a, n =>
    if n = 0 then .ok []
    else
      let m := min 64 n
      match translate s (whoFeeder w) a m 16 .read [0] with
      | .error e => .error (e, a)
      | .ok () =>
        match readError s w (homeOf s (whoFeeder w) a) m with
        | some e => .error (e, a)
        | none =>
          match feederRead s w fuel (addrPlus a (Int.ofNat m)) (n - m) with
          | .error e => .error e
          | .ok bs => .ok (memBytes s (whoFeeder w) a m ++ bs)

/-- A feeder posts its cause (R250, kind 6 of R299). -/
def feederPost (s : State) (w cause : Nat) (a : W64) : State := post s w { cause := cause, kind := 6, faddr := a.toNat }

/-- R256: the lane injects in slot period k. -/
def paceAllows (p k : Nat) : Bool := p == 0 || decide (k * 9 * p / 2000 < (k + 1) * 9 * p / 2000)

/-- One more slot period for every station of a lane (R267). -/
def ageStations (l : Lane) : Lane :=
  { l with period := l.period + 1, stations := l.stations.map fun t => (t.1, { t.2 with age := min (t.2.age + 1) 65535 }) }

/-- The layer that follows, or the lap boundary, where a pending binding takes effect, with D0's feeder first (R249, R250). -/
def nextLayer (s : State) (lane : Nat) (b : Binding) : State :=
  let l := laneAt s lane
  if l.layer + 1 < b.nl then modLane s lane fun l => { l with layer := l.layer + 1, tidx := 0, entry := none }
  else
    match l.pending with
    | some p => takeBinding (modLane s lane fun l => { l with pending := none }) lane (some p)
    | none => modLane s lane fun l => { l with lap := l.lap + 1, layer := 0, tidx := 0, entry := none }

/-! ### Stations and captures (R255, R258 to R262) -/

/-- LAYER of the IV of a tile header (R195). -/
def ivLayer (h : BitVec 512) : Nat := recBytes h 32 2

/-- A capturing board takes a tile of its layer (R259 to R262). -/
def captureTile (d : BitVec 512) (b : Board) (t : RingTile) (good : Bool) : Board :=
  let last := t.tidx + 1 == t.nt
  let bad := !good || (!t.aux && (hKey t.header != pKey d || ivLayer t.header != t.layer))
  if 8 ≤ b.buf.length then { b with overrun := true, ending := true }
  else if payloadLen d ≤ b.walk then { b with short := true, ending := true }
  else if bad then
    { b with corrupted := b.corrupted + 1, walk := b.walk + 4096, hdrIx := if t.aux then b.hdrIx else b.hdrIx + 1, ending := last }
  else
    let past := decide (payloadLen d < b.walk + 256 * t.beats)
    { b with buf := b.buf ++ [(t, b.walk, b.hdrIx)], walk := b.walk + 256 * t.beats,
             hdrIx := if t.aux then b.hdrIx else b.hdrIx + 1, short := b.short || past, ending := last || past }

/-- What a board does with a tile that passes its station (R258, R259): a queued one notes a head that it misses. -/
def boardSees (d : BitVec 512) (b : Board) (t : RingTile) (good : Bool) : Board :=
  if b.ending ∨ t.lane ≠ b.lane then b
  else
    match b.st with
    | .queued => if good && t.tidx == 0 && t.layer == b.layer && b.missedLap == some t.lap then { b with missed := true } else b
    | .armed =>
      if good ∧ t.tidx = 0 ∧ t.layer = b.layer then captureTile d { b with st := .capturing, lap := t.lap } t good else b
    | .capturing =>
      if t.lap = b.lap ∧ t.layer = b.layer then captureTile d b t good
      else if good then { b with ending := true }
      else b
    | _ => b

/-- The first tile of a lane that has still to pass the station of a die, when it has come to it. -/
def tileDue (l : Lane) (die : Nat) : Option (Nat × RingTile × List Nat) :=
  match findIx (fun (t : RingTile × List Nat) => t.2.contains die) l.ring with
  | some (ix, t, d :: ds) => if d = die then some (ix, t, ds) else none
  | _ => none

/-- A station notes a tile of the present binding (R258, R267, R269). -/
def stationSees (l : Lane) (die : Nat) (t : RingTile) (good : Bool) : Lane :=
  if t.gen ≠ l.gen then l
  else
    { l with stations := tmod {} l.stations die fun x =>
        if good then
          { x with seen := true, lap := t.lap, layer := t.layer, tidx := t.tidx, age := 0,
                   ended := t.layer + 1 == t.nl && t.tidx + 1 == t.nt,
                   heads := (if x.seen && x.lap == t.lap then x.heads else []) ++ (if t.tidx = 0 then [t.layer] else []) }
        else { x with corrupt := min (x.corrupt + 1) 65535 } }

/-- A tile passes the station of a die and the boards that stand there: those of its world whose tile is on the die. A queued board
notes the head that it misses also while its rectangle is frozen (R258, R259). -/
def passStation (s : State) (lane die : Nat) (t : RingTile) (good : Bool) : State :=
  let s := modLane s lane fun l => stationSees l die t good
  (allBoards s).foldl (fun s p =>
    match boardAt s p.1 p.2.1 p.2.2 with
    | some (q, b) =>
      if worldOf p.1 = t.world ∧ (enginesAct s p.1 = true ∨ b.st = .queued) ∧ tileDie (rectAt s p.1) b.tile = die then
        let b' := boardSees (slotAt s p.1 b.tile b.slot).desc b t good
        if b' = b then s else setBoard s p.1 p.2.1 p.2.2 q b'
      else s
    | none => s) s

/-! ### Feeders (R249, R250, R252, R254, R256) -/

/-- A tile leaves its feeder, whose own station sees it at once; the others are to see it (R254). -/
def launch (s : State) (lane f : Nat) (t : RingTile) : State :=
  passStation (modLane s lane fun l => { l with ring := l.ring ++ [(t, (ringFrom f).drop 1)] }) lane f t t.good

/-- One step of CRC-32C over a byte: eight shifts by the reflected polynomial 0x82F63B78. -/
def crcByte (c : BitVec 32) (b : Byte) : BitVec 32 :=
  (List.range 8).foldl (fun c _ => if c.getLsbD 0 then (c >>> 1) ^^^ 0x82F63B78 else c >>> 1) (c ^^^ b.setWidth 32)

/-- CRC-32C of bytes. -/
def crc32c (bs : List Byte) : BitVec 32 := ~~~ (bs.foldl crcByte 0xFFFFFFFF)

/-- Bits [479:0] of the slot control of a tile on the ring (R252). -/
def RingTile.fields (t : RingTile) : Nat :=
  let bit := fun (b : Bool) n => if b then 2 ^ n else 0
  t.lane % 8 + bit t.aux 4 + bit (t.tidx + 1 == t.nt) 5 + bit (t.tidx == 0) 6 + 2 ^ 7 + t.world % 64 * 2 ^ 8 +
  t.feeder % 4 * 2 ^ 14 + (t.beats - 1) % 16 * 2 ^ 16 + t.lap.toNat * 2 ^ 32 + t.layer % 2 ^ 16 * 2 ^ 64 + t.tidx % 2 ^ 16 * 2 ^ 80 +
  (t.nt - 1) % 2 ^ 16 * 2 ^ 96 + (t.nl - 1) % 2 ^ 16 * 2 ^ 112

/-- The slot control of a tile with its CRC over the rest of the control, the tile header and the whole payload field; a tile that
its feeder could not read goes out with a CRC that fails (R250, R252). -/
def RingTile.control (t : RingTile) : BitVec 512 :=
  let body := bytesOf 60 t.fields ++ bytesOf 64 t.header.toNat ++ t.payload ++ List.replicate (4096 - t.payload.length) 0
  let crc := crc32c body
  BitVec.ofNat 512 (t.fields + (if t.good then crc else ~~~ crc).toNat * 2 ^ 480)

/-- A layer whose entry cannot be read: one slot with a failing CRC, then the layer after it (R250). -/
def loseLayer (s : State) (lane : Nat) (b : Binding) (cause : Nat) (a : W64) : State :=
  let l := laneAt s lane
  let t : RingTile := { lane := lane, world := b.world, lap := l.lap, layer := l.layer, nl := b.nl, tidx := 0, nt := 0, beats := 1, aux := true,
                        good := false, gen := l.gen, header := 0, payload := [], feeder := l.feeder }
  nextLayer (launch (feederPost s b.world cause a) lane l.feeder t) lane b

/-- A layer entry of 16 bytes: source, tiles and home; none where a field is malformed (R250). -/
def layerEntry (bs : List Byte) : Option (W64 × Nat × Nat) :=
  if field bs 10 1 / 4 ≠ 0 ∨ field bs 11 5 ≠ 0 ∨ field bs 0 8 % 64 ≠ 0 then none
  else some (BitVec.ofNat 64 (field bs 0 8), field bs 8 2 + 1, field bs 10 1 % 4)

/-- A tile record of 4,224 bytes is malformed (R250). -/
def recordBad (bs : List Byte) : Bool := field bs 4160 1 / 16 != 0 || field bs 4161 1 / 2 != 0 || field bs 4162 62 != 0

/-- The tile as it would go out with no beat and no payload (R250, R254). -/
def dueTile (l : Lane) (lane : Nat) (b : Binding) (nt home : Nat) : RingTile :=
  { lane := lane, world := b.world, lap := l.lap, layer := l.layer, nl := b.nl, tidx := l.tidx, nt := nt, beats := 1, aux := false, good := true,
    gen := l.gen, header := 0, payload := [], feeder := home }

/-- A tile with the header, the beats and the kind of its record (R250). -/
def filledTile (t : RingTile) (bs : List Byte) : RingTile :=
  { t with beats := field bs 4160 1 % 16 + 1, aux := field bs 4161 1 % 2 == 1, header := recOfBytes (bs.take 64),
           payload := (bs.drop 64).take (256 * (field bs 4160 1 % 16 + 1)) }

/-- A feeder reads the record of a tile; one it cannot read, or that is malformed, goes out marked (R250). -/
def pullTile (s : State) (t : RingTile) (a : W64) : State × RingTile :=
  match feederRead s t.world 67 a 4224 with
  | .error (e, x) => (feederPost { s with free := s.free + 1 } t.world e x, { t with good := false, aux := Config.unreadKind s.free })
  | .ok bs =>
    if recordBad bs then (feederPost s t.world 0x105 a, { filledTile t bs with good := false }) else (s, filledTile t bs)

/-- Inject the tile that is due from its layer's home (R250, R254). -/
def injectTile (s : State) (lane : Nat) (b : Binding) (src : W64) (nt home : Nat) : State :=
  let l := laneAt s lane
  let r := pullTile s (dueTile l lane b nt home) (addrPlus src (Int.ofNat (4224 * l.tidx)))
  let s := launch r.1 lane home r.2
  if l.tidx + 1 = nt then nextLayer (modLane s lane fun l => { l with feeder := home }) lane b
  else modLane s lane fun l => { l with tidx := l.tidx + 1 }

/-- The stream's previous tile has passed the station of a die (R254), and the die has power (R352). -/
def mayInject (s : State) (l : Lane) (die : Nat) : Bool :=
  (l.ring.all fun t => !t.2.contains die) && (dieAt s die).gate != .gated && (dieAt s die).gate != .powering

/-- FEEDER_INJECT: one slot period of a lane, in which the tile that is due may be injected (R250, R254, R256). -/
def execFeederInject (lane : Nat) (s : State) : Result :=
  .next (
    let k := (laneAt s lane).period
    let s := modLane s lane ageStations
    let l := laneAt s lane
    match l.bound with
    | none => s
    | some b =>
      if !paceAllows l.pace k then s
      else
        match l.entry with
        | some (src, nt, home) => if mayInject s l home then injectTile s lane b src nt home else s
        | none =>
          let a := addrPlus b.table (Int.ofNat (16 * l.layer))
          match feederRead s b.world 1 a 16 with
          | .error (e, x) => if mayInject s l l.feeder then loseLayer s lane b e x else s
          | .ok bs =>
            match layerEntry bs with
            | none => if mayInject s l l.feeder then loseLayer s lane b 0x105 a else s
            | some e =>
              let s := modLane s lane fun l => { l with entry := some e }
              if mayInject s l e.2.2 then injectTile s lane b e.1 e.2.1 e.2.2 else s)

/-- HALO_SLOT_PASS: the next tile of a lane passes the station of a die; `ok` 0 is a slot whose CRC fails there (R252,
R255, R259, R261). A gated die's repeater passes it on unseen (R352). -/
def execHaloSlotPass (lane die ok : Nat) (s : State) : Result :=
  .next (match tileDue (laneAt s lane) die with
    | none => s
    | some (ix, t, rest) =>
      let s := modLane s lane fun l =>
        { l with ring := if rest.isEmpty then dropAt l.ring ix else modAt l.ring ix fun x => (x.1, rest) }
      if (dieAt s die).gate = .gated then s else passStation s lane die t (t.good && ok != 0))

/-- Commands ahead of a place that keep a board from starting: fences, and boards that have not armed (R138, R265). -/
def boardBlocked (q : List RingCmd) (ix : Nat) : Bool :=
  (q.take ix).any fun x => match x.work with
    | .fence => true
    | .board b => b.failed.isNone && (b.st == .queued || b.st == .stopped)
    | .rdrop _ _ => false

/-- Boards of a queue that are armed or capturing (R265). -/
def boardsActive (q : List RingCmd) : Nat :=
  (q.filter fun x => match x.work with
    | .board b => b.failed.isNone && (b.st == .armed || b.st == .capturing)
    | _ => false).length

/-- The lap that a station is in: once its tail has passed, the next one (R249, R258). -/
def stationLap (x : StationLane) : BitVec 32 := if !x.seen then 0 else if x.ended then x.lap + 1 else x.lap

/-- The head of a layer in the lap that a station is in has passed it (R258). -/
def headPassed (x : StationLane) (layer : Nat) : Bool := x.seen && !x.ended && x.heads.contains layer

/-- A board fails under R117. Its token falls after the commands ahead of it in its queue have signalled (R138). -/
def failBoard (s : State) (rid c ix : Nat) (q : RingCmd) (b : Board) (cause : Nat) (a : W64) : State :=
  let s := noteBoard s rid q.hdr.uid 6 0 b
  if ix = 0 then failCommand (dropBoard s rid c 0 q b .failed) rid q.hdr cause a
  else
    noteSlot (setRingQ s rid c (modAt (ringQ s rid c) ix fun x =>
      { x with work := .board { b with failed := some (cause, a), ending := true, buf := [] } })) rid b.tile b.slot q.hdr.uid .failed

/-- The cause of a board at its start: its slot, then its pattern (R230, R259, R265). -/
def boardCause (s : State) (rid : Nat) (b : Board) : Option Nat :=
  match startCause s rid b.tile b.slot [3] none with
  | some e => some e
  | none =>
    let d := (slotAt s rid b.tile b.slot).desc
    if pLane d ≠ b.lane ∨ tfind (worldAt s (worldOf rid)).keys (pKey d) = none then some 0x101 else none

/-- Arm a board: it starts from its walk's beginning; the station counts a missed head (R258). -/
def armBoard (s : State) (rid c ix : Nat) (q : RingCmd) (b : Board) : State :=
  let die := tileDie (rectAt s rid) b.tile
  let s := if b.missed then modLane s b.lane fun l =>
      { l with stations := tmod {} l.stations die fun x => { x with missed := min (x.missed + 1) 65535 } }
    else s
  let s := useSlot (modSlot s rid b.tile b.slot fun x => { x with held := true }) rid b.tile b.slot q.hdr.uid .running
  setBoard s rid c ix q { b with st := .armed, missedLap := none, missed := false, lap := 0, walk := 0, hdrIx := 0, tiles := 0, corrupted := 0,
                                 overrun := false, short := false, buf := [] }

/-- The engine of a board acts: the clocks of its core and of its tile run (R350). -/
def boardUnit (s : State) (rid core : Nat) (b : Board) : Bool := coreUnit s rid core && tileUnit s rid b.tile

/-- BOARD_ARM: a queued board starts and arms, in queue order, at most four at a time; a board stopped by pre-emption
arms again (R258, R265, R272). -/
def execBoardArm (rid core k : Nat) (s : State) : Result :=
  .next (
    match boardAt s rid core k with
    | none => s
    | some (q, b) =>
      let qs := ringQ s rid core
      if !boardUnit s rid core b || boardBlocked qs k || decide (4 ≤ boardsActive qs) then s
      else
        if b.failed.isSome || b.st == .armed || b.st == .capturing || (b.st == .queued && (slotAt s rid b.tile b.slot).held) then s
        else
          match boardCause s rid b with
          | some e => failBoard s rid core k q b e 0
          | none => armBoard s rid core k q b)

/-- The payload of a buffered tile at its walk bytes, to the walk's end: offset and byte of each, or the address that
fails R225. -/
def placeBytes (s : State) (rid tile : Nat) (d : BitVec 512) : Nat → List Byte → List (Nat × Byte) × Option (Nat × Int)
  | _, [] => ([], none)
  | n, x :: xs =>
    if payloadLen d ≤ n then ([], none)
    else
      match payloadByte s rid tile d none n with
      | .ok (.byAt off) =>
        let r := placeBytes s rid tile d (n + 1) xs
        ((off, x) :: r.1, r.2)
      | .ok .zero => placeBytes s rid tile d (n + 1) xs
      | .error e => ([], some e)

/-- Write bytes of a memory tile for a command. -/
def writeTile (s : State) (rid tile : Nat) (h : Hdr) (bs : List (Nat × Byte)) : State :=
  bs.foldl (fun s x => performWrite s (whoCmd rid h) h.task (tileAddr (rectAt s rid) h.core tile x.1) [x.2]) s

/-- The lowest and one past the highest offset of a linear walk (R225). -/
def walkHull (d : BitVec 512) : Int × Int :=
  (List.range 5).foldl (fun h k =>
    let x := (pCount d k - 1 : Nat) * pStride d k
    (h.1 + min 0 x, h.2 + max 0 x)) (pBase d, pBase d + (pEsize d : Int))

/-- A walk of a ring pattern from walk byte n on visits one of some offsets. -/
def walkMeets (d : BitVec 512) (n : Nat) (offs : List Nat) : Bool :=
  let h := walkHull d
  let near := offs.filter fun (o : Nat) => decide (h.1 ≤ o) && decide (o < h.2)
  !near.isEmpty && (List.range (elementCount d - n / pEsize d)).any fun i =>
    let a := linearAddr d (n / pEsize d + i)
    near.any fun (o : Nat) => decide (a ≤ o) && decide (o < a + pEsize d)

/-- A board has still to write a byte at one of some offsets of its tile: payload from its oldest tile that is not written on, and a
header for each tile of 256 bytes or more (R259). -/
def boardOwes (d : BitVec 512) (b : Board) (offs : List Nat) : Bool :=
  let next := (b.buf.head?.map fun x => (x.2.1, x.2.2)).getD (b.walk, b.hdrIx)
  let left := (payloadLen d - next.1 + 255) / 256
  !(b.ending && b.buf.isEmpty) &&
  (walkMeets d next.1 offs ||
   (pHdr d && offs.any fun o => decide (pHdrBase d + 64 * next.2 ≤ o) && decide (o < pHdrBase d + 64 * (next.2 + left))))

/-- An earlier board of a ring queue has still to write a byte that a board is to write: the earlier access performs first (R138,
R273). -/
def boardsAhead (s : State) (rid c ix tile : Nat) (offs : List Nat) : Bool :=
  ((ringQ s rid c).take ix).any fun q => match q.work with
    | .board b => b.tile == tile && boardOwes (slotAt s rid b.tile b.slot).desc b offs
    | _ => false

/-- Write one buffered tile (R259, R260). A board that fails here signals its core, so it waits for that core's clock (R350). -/
def writeCapture (s : State) (rid c ix : Nat) (q : RingCmd) (b : Board) (t : RingTile) (n p : Nat) : State :=
  let d := (slotAt s rid b.tile b.slot).desc
  let hdr := !t.aux && pHdr d
  let ha : Int := pHdrBase d + 64 * p
  let hOk := elementOk (tileAt s rid b.tile).qbase ha 64
  let hs : List (Nat × Byte) := if hdr && hOk then
      (List.range 64).map fun i => (ha.toNat + i, BitVec.ofNat 8 (recBytes t.header i 1)) else []
  let ps := placeBytes s rid b.tile d n t.payload
  if boardsAhead s rid c ix b.tile ((hs ++ ps.1).map (·.1)) ||
      (hs ++ ps.1).any (fun x => drainingLine s (whoCmd rid q.hdr) (tileAddr (rectAt s rid) q.hdr.core b.tile x.1) 1) then s
  else if (hs ++ ps.1).any fun x => retainedAt s (.mt rid b.tile x.1) 1 then
    setBoard s rid c ix q { b with overrun := true, ending := true, buf := [] }
  else if ((hdr && !hOk) || ps.2.isSome) && !coreUnit s rid c then s
  else if hdr && !hOk then failBoard s rid c ix q b 0x0C4 (tileAddr (rectAt s rid) q.hdr.core b.tile ha)
  else
    let s := writeTile s rid b.tile q.hdr (hs ++ ps.1)
    match ps.2 with
    | some e => failBoard s rid c ix q b e.1 (tileAddr (rectAt s rid) q.hdr.core b.tile e.2)
    | none =>
      let s := noteIndex s rid b.tile b.slot q.hdr.uid (min (n + t.payload.length) (payloadLen d))
      setBoard s rid c ix q { b with tiles := b.tiles + 1, buf := b.buf.drop 1 }

/-- CAPTURE_WRITE: the station writes the oldest buffered tile of a board (R259, R260). -/
def execCaptureWrite (rid core k : Nat) (s : State) : Result :=
  .next (
    match boardAt s rid core k with
    | none => s
    | some (q, b) =>
      if !tileUnit s rid b.tile then s else
      match b.buf with
      | [] => s
      | (t, n, p) :: _ => writeCapture s rid core k q b t n p)

/-- The status of a board that has ended (R262). -/
def boardStatus (b : Board) : Nat :=
  if b.unbound then 3 else if b.overrun then 1 else if b.short then 4 else if b.corrupted ≠ 0 then 2 else 0

/-- A board that failed comes to the head of its queue: its token falls and its cause is reported (R117, R138). -/
def settleFailed (s : State) (rid c : Nat) (q : RingCmd) (b : Board) : State :=
  match b.failed with
  | some e => failCommand (dropBoard s rid c 0 q b .failed) rid q.hdr e.1 e.2
  | none => s

/-- BOARD_COMPLETE: an ended board whose tiles are written signals, after every earlier command of its queue (R262). -/
def execBoardComplete (rid core k : Nat) (s : State) : Result :=
  .next (
    match boardAt s rid core k with
    | none => s
    | some (q, b) =>
      if !boardUnit s rid core b ∨ k ≠ 0 ∨ !b.ending ∨ !b.buf.isEmpty then s
      else if b.failed.isSome then settleFailed s rid core q b
      else if !maySignal s rid q.hdr then s
      else
        let die := tileDie (rectAt s rid) b.tile
        let s := modLane s b.lane fun l =>
          { l with stations := tmod {} l.stations die fun x =>
              { x with boards := min (x.boards + 1) 65535,
                       overruns := if boardStatus b = 1 then min (x.overruns + 1) 65535 else x.overruns } }
        let s := noteEvent (noteBoard s rid q.hdr.uid 4 (boardStatus b) b) rid die 4
        signal (dropBoard s rid core k q b .completed) rid q.hdr)

/-! ### RDROP (R266) -/

/-- The first RDROP of a ring queue, with the commands ahead of it. -/
def splitDrop : List RingCmd → List RingCmd → Option (List RingCmd × RingCmd × Nat × Nat)
  | _, [] => none
  | ahead, q :: qs =>
    match q.work with
    | .rdrop t k => some (ahead.reverse, q, t, k)
    | _ => splitDrop (q :: ahead) qs

/-- A command is a board into a slot. -/
def boardInto (tile slot : Nat) (q : RingCmd) : Bool :=
  match q.work with
  | .board b => b.tile == tile && b.slot == slot
  | _ => false

/-- Cancel the first n commands of a ring queue, which are boards. -/
def cancelBoards (rid c : Nat) : Nat → State → State
  | 0, s => s
  | n + 1, s =>
    match boardAt s rid c 0 with
    | some (q, b) =>
      if b.failed.isSome then cancelBoards rid c n (settleFailed s rid c q b)
      else
        let s := noteBoard s rid q.hdr.uid 5 5 b
        cancelBoards rid c n (tokenSub (dropBoard s rid c 0 q b .cancelled) rid q.hdr.core q.hdr.tok)
    | none => s

/-- RDROP_HEAD: once only boards into its slot stand ahead of it, RDROP cancels them and signals (R266, log 13). -/
def execRdropHead (rid core : Nat) (s : State) : Result :=
  .next (if !coreUnit s rid core then s else
    match splitDrop [] (ringQ s rid core) with
    | none => s
    | some (ahead, q, t, k) =>
      if !ahead.all (boardInto t k) || !tileUnit s rid t || !maySignal s rid q.hdr then s
      else
        let s := cancelBoards rid core ahead.length s
        signal (setRingQ s rid core ((ringQ s rid core).drop 1)) rid q.hdr)

/-! ### The board word (R264) -/

def bwSlot (w : W64) : Nat := bitsOf w.toNat 7 4

/-- The first three rows of R264's checks: the tile and the semaphore. `x` is a layer word. -/
def boardWordCheck (s : State) (w : W64) (sem : BitVec 1) (x : W64) : Except Nat (Nat × Option (Nat × Nat)) :=
  let rid := s.cur.rid
  let semZero := bitsOf w.toNat 45 32 == 0
  if bitsOf w.toNat 63 46 ≠ 0 ∨ bitsOf w.toNat 15 8 ≠ 0 ∨ bitsOf w.toNat 3 0 ≠ 0 ∨ (sem = 0 ∧ !semZero) ∨ bitsOf x.toNat 63 16 ≠ 0 then
    .error 0x102
  else
    match tileFrom (rectAt s rid) s.cur.core (swDx w) (swDy w) with
    | none => .error 0x103
    | some t =>
      match packedSem s rid w sem 0x102 with
      | .error e => .error e
      | .ok sm => .ok (t, sm)

/-- Put a command of the running task in its ring queue (R232, R265); a board whose tile's clock stands still waits (R350). -/
def enqueueRing (s : State) (tok : Nat) (sem : Option (Nat × Nat)) (work : RingWork) : Act :=
  let rid := s.cur.rid
  let c := s.cur.core
  let stopped := match work with
    | .board b => !clockRuns s (tileDie (rectAt s rid) b.tile)
    | _ => false
  if tokenFull s rid c tok || stopped then .hold
  else
    let h := commandHdr s rid c tok sem
    let s := setRingQ h.2 rid c (ringQ h.2 rid c ++ [{ hdr := h.1, work := work }])
    .done (match work with
      | .board b => useSlot (modSlot s rid b.tile b.slot fun x => { x with board := boardWord 1 0 b, boardUid := h.1.uid })
          rid b.tile b.slot h.1.uid .queued
      | _ => s)

/-- A full ring queue of 16 holds the instruction (R265). -/
def ringFull (s : State) : Bool := decide (16 ≤ (ringQ s s.cur.rid s.cur.core).length)

/-- RBOARD (R264, R265). -/
def execRboard (p : BitVec 2) (l : BitVec 3) (g : BitVec 1) (k : BitVec 3) (s : State) : Result :=
  issue (.rboard p l g k) (fun a b s => immediate s fun s =>
    let rid := s.cur.rid
    if ringFull s then .hold
    else
      match boardWordCheck s a g b with
      | .error e => .trap e 0
      | .ok (t, sem) =>
        match (laneAt s l.toNat).bound with
        | none => .trap 0x100 0
        | some x =>
          if x.world ≠ worldOf rid then .trap 0x100 0
          else if x.nl ≤ bitsOf b.toNat 15 0 then .trap 0x104 0
          else
            let st := tget {} (laneAt s l.toNat).stations (tileDie (rectAt s rid) t)
            enqueueRing s k.toNat sem
              (.board { lane := l.toNat, layer := bitsOf b.toNat 15 0, tile := t, slot := bwSlot a,
                        missedLap := some (stationLap st), missed := headPassed st (bitsOf b.toNat 15 0) })) s

/-- RDROP (R264, R266). -/
def execRdrop (p : BitVec 2) (g : BitVec 1) (k : BitVec 3) (s : State) : Result :=
  issue (.rdrop p g k) (fun a _ s => immediate s fun s =>
    if ringFull s then .hold
    else
      match boardWordCheck s a g 0 with
      | .error e => .trap e 0
      | .ok (t, sem) => enqueueRing s k.toNat sem (.rdrop t (bwSlot a))) s

/-- The station of the core's die for a lane. -/
def ownStation (s : State) (lane : Nat) : StationLane :=
  tget {} (laneAt s lane).stations (coreDie (rectAt s s.cur.rid) s.cur.core)

/-- A task of world 0 may ask about any lane (R267, R269). -/
def mayAsk (s : State) (lane : Nat) : Bool := worldOf s.cur.rid == 0 || boundTo s lane (worldOf s.cur.rid)

/-- RWHERE (R267). -/
def execRwhere (p : BitVec 2) (l : BitVec 3) (t : BitVec 9) (s : State) : Result :=
  issue (.rwhere p l t) (fun _ _ s =>
    let x := ownStation s l.toNat
    .send s (if !mayAsk s l.toNat then 0xFFFFFFFFFFFFFFFF
      else if !x.seen then 0x0000FFFF00000000
      else BitVec.ofNat 64 (x.lap.toNat % 65536 * 2 ^ 48 + x.layer % 65536 * 2 ^ 32 + x.tidx % 65536 * 2 ^ 16 + x.age))) s

/-- RSTAT, K = 0 (R268). -/
def execRstat (p : BitVec 2) (t : BitVec 9) (s : State) : Result :=
  issue (.rstat p t) (fun a _ s =>
    match boardWordCheck s a 0 0 with
    | .error e => .trap e 0
    | .ok (tile, _) => .send s (slotAt s s.cur.rid tile (bwSlot a)).board) s

/-- The lane statistics of a station (R269, R351). -/
def laneStat (x : StationLane) : W64 :=
  BitVec.ofNat 64 (x.overruns * 2 ^ 48 + x.corrupt * 2 ^ 32 + x.missed * 2 ^ 16 + x.boards)

/-- RSTAT, K = 1 (R269). -/
def execRstatLane (p : BitVec 2) (l : BitVec 3) (t : BitVec 9) (s : State) : Result :=
  issue (.rstatLane p l t) (fun _ _ s =>
    if mayAsk s l.toNat then .send s (laneStat (ownStation s l.toNat)) else .trap 0x100 0) s

/-! ### RBIND and RPACE (R270, R271) -/

/-- The binding that a descriptor gives; none where it is malformed (R250, R270). -/
def bindingOf (s : State) (bs : List Byte) : Option Binding :=
  let w := field bs 10 1
  if field bs 8 2 / 4096 ≠ 0 ∨ w / 64 ≠ 0 ∨ field bs 11 1 / 2 ≠ 0 ∨ field bs 12 52 ≠ 0 ∨ (worldAt s w).st = .disabled then none
  else some { world := w, table := BitVec.ofNat 64 (field bs 0 8), nl := field bs 8 2 + 1, unbind := field bs 11 1 % 2 == 1 }

/-- RBIND (R249, R270). -/
def execRbind (p : BitVec 2) (l : BitVec 3) (s : State) : Result :=
  issue (.rbind p l) (fun a _ s => immediate s fun s =>
    let rid := s.cur.rid
    let c := s.cur.core
    let who := whoTask s rid c
    if worldOf rid ≠ 0 then .trap 0x106 0
    else
      match checkLocal s who a 64 64 [0xF0] with
      | .error e => .trap e a
      | .ok () =>
        match readError s (worldOf rid) (homeOf s who a) 64 with
        | some e => .trap e a
        | none =>
          match bindingOf s (memBytes s who a 64) with
          | none => .trap 0x105 0
          | some b =>
            let s := bind s rid c
            if (laneAt s l.toNat).bound.isNone then .done (takeBinding s l.toNat (some b))
            else .done (modLane s l.toNat fun l => { l with pending := some b })) s

/-- RPACE (R256, R271). -/
def execRpace (p : BitVec 2) (l : BitVec 3) (s : State) : Result :=
  issue (.rpace p l) (fun a _ s => immediate s fun s =>
    let rid := s.cur.rid
    let v := a.toNat
    if worldOf rid ≠ 0 then .trap 0x106 0
    else if 222 < v ∨ (v ≠ 0 ∧ v < 8) then .trap 0x105 0
    else .done (modLane (bind s rid s.cur.core) l.toNat fun l => { l with pace := v, period := 0 })) s

/-! ### Pre-emption and the end of a world (R249, R272) -/

/-- Stop the armed and capturing boards of a core; a capture that has ended and is written completes as it is (R272). -/
def stopBoards (s : State) (rid c : Nat) : State :=
  (List.range (ringQ s rid c).length).foldl (fun s ix =>
    match boardAt s rid c ix with
    | some (q, b) =>
      if (b.st = .armed ∨ b.st = .capturing) ∧ !(b.ending && b.buf.isEmpty) then
        noteSlot (setBoard s rid c ix q { b with st := .stopped, ending := false, unbound := false, buf := [] }) rid b.tile b.slot q.hdr.uid .frozen
      else s
    | none => s) s

/-- A world is reset or destroyed: lanes bound to it become unbound, pending bindings that name it are dropped, and its tiles leave the
ring. Pending bindings and tiles of other worlds stay (R249, R262; log 46). -/
def unbindWorld (s : State) (w : Nat) : State :=
  (List.range 8).foldl (fun s n =>
    let s := modLane s n fun l =>
      { l with pending := l.pending.filter fun p => p.world != w, ring := l.ring.filter fun t => t.1.world != w }
    if boundTo s n w then takeBinding s n none else s) s

end Sys2Proof.Machine
end

