-- ==== Sys2Proof/Machine/Dies.lean ====
section
/-!
DEFINITION. Sys2Proof/Machine/Dies.lean: split fences (R278 to R281), XSEM and COLL (R282 to R284), links and firewalls (R275,
R276, R331, R332).
-/
namespace Sys2Proof.Machine

/-! ### Split fences (R278 to R281) -/

/-- Writes of a task that have not been acknowledged at package scope, with their targets and numbers: entries on their way,
parked ones included, and writes performed, on every core that the task has run on (R278, R280). -/
def writesOut (s : State) (rid uid : Nat) : List (Nat × Nat) :=
  let r := rectAt s rid
  (((taskDrains r uid).filter fun d => !isSpawnEntry d.2).map fun d =>
    (targetOf s (whoEntry rid d.1 d.2) d.2.entry.addr, d.2.entry.id)) ++
  ((taskAcks r uid false).map fun w => (w.target, w.id))

/-- The first free fence record of a core: R280 takes "a free record" (log 104). -/
def freeFence (k : Core) : Option Nat := (List.range 16).find? fun i => (tfind k.fences i).isNone

/-- A fence record of the running task, with the writes that it counts now (R278, R280). -/
def takeFence (s : State) (rid c i : Nat) (m : BitVec 5) : State :=
  let uid := coreUid s rid c
  modCore s rid c fun k =>
    { k with fences := tset k.fences i { seq := k.fseq, mask := m, task := uid, waits := (writesOut s rid uid).filter fun w => m.getLsbD w.1 },
             fseq := k.fseq + 1 }

/-- XFENCE commits and takes a record in one step; with no record free, it commits and then raises 0x122 (R280). -/
def execXfence (p : BitVec 2) (m : BitVec 5) (t : BitVec 9) (s : State) : Result :=
  issue (.xfence p m t) (fun _ _ s => immediate s fun s =>
    let rid := s.cur.rid
    let c := s.cur.core
    let k := coreAt s rid c
    match freeFence k with
    | none => if partDone s then .trap 0x122 0 else .later (commitPart s)
    | some i => .send (takeFence (bind (commitRunning s rid c) rid c) rid c i m) (BitVec.ofNat 64 (k.fseq.toNat * 2 ^ 32 + i * 4096 + m.toNat))) s

/-- XWAIT (R281). -/
def execXwait (p : BitVec 2) (s : State) : Result :=
  issue (.xwait p) (fun a _ s =>
    let rid := s.cur.rid
    let c := s.cur.core
    let i := bitsOf a.toNat 15 12
    if bitsOf a.toNat 31 16 ≠ 0 ∨ bitsOf a.toNat 11 5 ≠ 0 then .trap 0x121 0
    else
      match tfind (coreAt s rid c).fences i with
      | none => .trap 0x120 0
      | some f =>
        if f.task ≠ coreUid s rid c ∨ f.seq ≠ a.extractLsb' 32 32 then .trap 0x120 0
        else if f.mask ≠ a.extractLsb' 0 5 then .trap 0x121 0
        else if !f.waits.isEmpty then .hold
        else .done (modCore s rid c fun k => { k with fences := tdel k.fences i })) s

/-! ### XSEM and COLL (R282 to R284) -/

/-- Put a command of the running task in its cross-die queue. -/
def enqueueX (s : State) (tok : Nat) (sem : Option (Nat × Nat)) (work : XWork) (waits : List Nat) : Act :=
  let rid := s.cur.rid
  let c := s.cur.core
  if tokenFull s rid c tok then .hold
  else
    let h := commandHdr s rid c tok sem
    .done (modCore h.2 rid c fun k => { k with xdieq := k.xdieq ++ [{ hdr := h.1, work := work, waits := waits }] })

/-- The completion word: its zero fields, then its semaphore (R208, R282). -/
def completionWord (s : State) (w : W64) (g : BitVec 1) : Except Nat (Option (Nat × Nat)) :=
  if bitsOf w.toNat 63 46 ≠ 0 then .error 0x123 else packedSem s s.cur.rid w g 0x123

/-- XSEM (R282, R283). -/
def execXsem (p : BitVec 2) (g : BitVec 1) (k : BitVec 3) (s : State) : Result :=
  issue (.xsem p g k) (fun a b s => immediate s fun s =>
    let rid := s.cur.rid
    let c := s.cur.core
    match checkSem s rid c a with
    | .error e => .trap e a
    | .ok () =>
      match completionWord s b g with
      | .error e => .trap e 0
      | .ok sem =>
        enqueueX s k.toNat sem (.xsem (addrDie a) (addrSem a) (b.extractLsb' 0 32)) ((writesOut s rid (coreUid s rid c)).map (·.2))) s

/-- Participants of a COLL: the dies of its mask without the root (R284). -/
def participants (mask : BitVec 4) (root : Nat) : List Nat := (List.range 4).filter fun d => mask.getLsbD d && d != root

/-- The address of a cell range on another die (R95). -/
def cellAddr (d off : Nat) : W64 := BitVec.ofNat 64 (0xF4 * 2 ^ 56 + d * 2 ^ 40 + off)

/-- The checks of COLL when it performs: root range, completion word, participants' windows (R282, R284). -/
def collCheck (s : State) (a b : W64) (mask : BitVec 4) (g : BitVec 1) : Except (Nat × W64) (Nat × Option (Nat × Nat)) :=
  let n := bitsOf b.toNat 15 0 + 1
  match checkLocal s (whoTask s s.cur.rid s.cur.core) a (32 * n) 32 [0xF4] with
  | .error e => .error (e, a)
  | .ok () =>
    if bitsOf b.toNat 31 16 ≠ 0 then .error (0x123, 0)
    else
      match completionWord s b g with
      | .error e => .error (e, 0)
      | .ok sem =>
        match (participants mask (addrDie a)).find? fun d => decide ((ldieAt s s.cur.rid d).cellwin < addrOff a + 32 * n) with
        | some d => .error (0x068, cellAddr d (addrOff a))
        | none => .ok (n, sem)

/-- COLL REDUCE (R282, R284). -/
def execCollReduce (p : BitVec 2) (m : BitVec 4) (g : BitVec 1) (k : BitVec 3) (s : State) : Result :=
  issue (.collReduce p m g k) (fun a b s => immediate s fun s =>
    match collCheck s a b m g with
    | .error e => .trap e.1 e.2
    | .ok (n, sem) => enqueueX s k.toNat sem (.coll true (addrDie a) (addrOff a) n m) []) s

/-- COLL BCAST (R282, R284). -/
def execCollBcast (p : BitVec 2) (m : BitVec 4) (g : BitVec 1) (k : BitVec 3) (s : State) : Result :=
  issue (.collBcast p m g k) (fun a b s => immediate s fun s =>
    match collCheck s a b m g with
    | .error e => .trap e.1 e.2
    | .ok (n, sem) => enqueueX s k.toNat sem (.coll false (addrDie a) (addrOff a) n m) []) s

/-- Take the head of a cross-die queue out. -/
def dropX (s : State) (rid c : Nat) : State := modCore s rid c fun k => { k with xdieq := k.xdieq.drop 1 }

/-- XSEM_ADD_PERFORM: once the writes it waits for are acknowledged, XSEM adds and completes (R283). -/
def execXsemAddPerform (rid core : Nat) (s : State) : Result :=
  .next (if !coreUnit s rid core then s else
    match (coreAt s rid core).xdieq with
    | q :: _ =>
      match q.work with
      | .xsem d i delta =>
        if !q.waits.isEmpty || !maySignal s rid q.hdr || !semRuns s rid d then s else signal (semAdd (dropX s rid core) rid d i delta) rid q.hdr
      | _ => s
    | [] => s)

def cellFlags (x : BitVec 256) : Nat := bitsOf x.toNat 210 208

/-- What stops a collective at one cell: participant by participant, an error in its cell or the root's, then a different LSB weight;
where there is none to compare with, an error in the root's cell that a REDUCE reads (R98, R117, R284; log 110). -/
def collCellFault (s : State) (rid : Nat) (reduce : Bool) (root off : Nat) (ds : List Nat) : Option (Nat × W64) :=
  let ra := cellAddr root off
  let err := fun a => (cellError s rid a).map fun e => (e, a)
  let ofDie := fun d =>
    let a := cellAddr d off
    err a <|> err ra <|> if cellL (cellAtAddr s rid a) = cellL (cellAtAddr s rid ra) then none else some (0x124, a)
  ds.findSome? ofDie <|> if reduce then err ra else none

/-- What stops a collective: at its first cell that fails, with the cause and the address (R117, R284). -/
def collFault (s : State) (rid : Nat) (reduce : Bool) (root off n : Nat) (ds : List Nat) : Option (Nat × W64) :=
  (List.range n).findSome? fun i => collCellFault s rid reduce root (off + 32 * i) ds

/-- One cell of a collective (R284). -/
def collCell (s : State) (rid : Nat) (h : Hdr) (reduce : Bool) (root off : Nat) (ds : List Nat) : State :=
  let who := whoCmd rid h
  let ra := cellAddr root off
  let x := cellAtAddr s rid ra
  if reduce then
    let ps := ds.map fun d => cellAtAddr s rid (cellAddr d off)
    performCell s who h.task ra fun _ =>
      cellOf (ps.foldl (fun w p => w + cellW p) (cellW x)) (cellL x) (ps.foldl (fun f p => f ||| cellFlags p) (cellFlags x))
  else ds.foldl (fun s d => performCell s who h.task (cellAddr d off) fun _ => x) s

/-- COLL_EXECUTE: the cells are read and their weights compared, then every cell is combined, and the command completes (R284). -/
def execCollExecute (rid core : Nat) (s : State) : Result :=
  .next (if !coreUnit s rid core then s else
    match (coreAt s rid core).xdieq with
    | q :: _ =>
      match q.work with
      | .coll reduce root off n mask =>
        let ds := participants mask root
        if (root :: ds).any (fun d => !semRuns s rid d || drainingLine s (whoCmd rid q.hdr) (cellAddr d off) (32 * n)) || !maySignal s rid q.hdr then s
        else
          match collFault s rid reduce root off n ds with
          | some e => failCommand (dropX s rid core) rid q.hdr e.1 e.2
          | none =>
            let s := (List.range n).foldl (fun s i => collCell s rid q.hdr reduce root (off + 32 * i) ds) s
            signal (dropX s rid core) rid q.hdr
      | _ => s
    | [] => s)

/-! ### Links (R275, R276) -/

def linkAt (s : State) (n : Nat) : Link := tget {} s.links n
def modLink (s : State) (n : Nat) (f : Link → Link) : State := { s with links := tset s.links n (f (linkAt s n)) }

/-- The rectangle that holds a page of the package grid (R13). -/
def rectOfPage (s : State) (col row : Nat) : Option (Nat × Rect) :=
  s.rects.find? fun e => e.2.live && decide (e.2.ax ≤ col) && decide (col < e.2.ax + e.2.w) && decide (e.2.ay ≤ row) && decide (row < e.2.ay + e.2.h)

/-- The destination of a flit in tiles of the package (R275). -/
def Flit.destX (f : Flit) : Int := f.srcX + f.dx
def Flit.destY (f : Flit) : Int := f.srcY + f.dy

/-- Bits [47:16] of the sideband of a flit: WORLD, VC, DX and DY (R275). -/
def Flit.side (f : Flit) : BitVec 32 :=
  BitVec.ofNat 32 (f.world % 64 * 2 ^ 26 + f.vc % 8 * 2 ^ 23 + wrap 8 f.dx * 2 ^ 15 + wrap 8 f.dy * 2 ^ 7)

/-- The sideband with the CRC that the sender formed over the payload and bits [47:16] (R275). -/
def Flit.sideband (f : Flit) : BitVec 48 := f.side ++ Config.crc16 f.payload f.side

/-- Whether a port passes a flit: the rectangle it enters has the flit's tag, and a tile port also asks that the
destination lie inside it (R331, R332). -/
def portPasses (s : State) (f : Flit) : Bool :=
  match rectOfPage s (f.enterX / 4) (f.enterY / 4) with
  | none => false
  | some (rid, r) =>
    worldOf rid == f.world &&
    (f.dieNet || (decide (4 * r.ax ≤ f.destX) && decide (f.destX < 4 * (r.ax + r.w)) && decide (4 * r.ay ≤ f.destY) && decide (f.destY < 4 * (r.ay + r.h))))

/-- DROPS after a dropped flit (R351). -/
def countDrop (d : W64) (f : Flit) : W64 :=
  let x := d.toNat
  let tileDrops := min 65535 (x % 65536 + (if f.dieNet then 0 else 1))
  let netDrops := min 65535 (x / 65536 % 65536 + (if f.dieNet then 1 else 0))
  BitVec.ofNat 64 (tileDrops + netDrops * 65536 + f.enterX % 64 * 2 ^ 32 + f.enterY % 32 * 2 ^ 38 + f.port % 8 * 2 ^ 43)

/-- A stream command of a rectangle by number: tile and port of the queue whose head it is. -/
def streamOf (r : Rect) (uid : Nat) : Option (Nat × Nat) :=
  r.tiles.findSome? fun t => t.2.ports.findSome? fun p => match p.2 with
    | c :: _ => if c.hdr.uid = uid then some (t.1, p.1) else none
    | [] => none

/-- Fail the engine command of a core that a number names (R117, R331); none where it names no such command. -/
def failOwned (s : State) (rid c uid : Nat) (k : Core) : Option State :=
  let ours := fun (h : Hdr) => h.uid == uid
  (k.copyq.head?.bind fun q => if ours q.hdr then some (failCopy s rid c q 0x125 0) else none) <|>
  ((findIx (fun q : RingCmd => ours q.hdr) k.ringq).bind fun r => match r.2.work with
    | .board b => some (failBoard s rid c r.1 r.2 b 0x125 0)
    | _ => none) <|>
  (k.xdieq.head?.bind fun q => if ours q.hdr then some (failCommand (dropX s rid c) rid q.hdr 0x125 0) else none) <|>
  (k.arr.q.head?.bind fun m => if !ours m.hdr then none else match m.work with
    | .mmac w _ => some (failMmac s rid c m w (firstStep k.arr w) 0 0 0 0x125 0)
    | _ => some (failMatrixHead s rid c m 0x125))

/-- A dropped flit fails what sent it, or is posted to the sending world (R331). -/
def failSender (s : State) (f : Flit) : State :=
  match f.owner with
  | none => postWorld s f.world 0x125 2
  | some (rid, uid) =>
    let r := rectAt s rid
    match streamOf r uid with
    | some (t, p) => failHead s rid t p 0x125 0
    | none =>
      match r.cores.findSome? fun k => failOwned s rid k.1 uid k.2 with
      | some s => s
      | none =>
        match r.cores.find? fun k => (k.2.task.map (·.uid)) == some uid with
        | some k => reportCause s rid k.1 uid ((k.2.task.map (·.rcd)).getD 0) 0x125 0
        | none => postWorld s f.world 0x125 2

/-- Flits of one virtual channel between one pair of tiles keep their order (R276). -/
def sameChannel (f g : Flit) : Bool :=
  f.vc == g.vc && f.srcX == g.srcX && f.srcY == g.srcY && f.dx == g.dx && f.dy == g.dy

/-- A flit that no earlier flit of its channel stands before on the link (R276). -/
def inTurn (l : Link) (k : Nat) (f : Flit) : Bool := !(l.flits.take k).any (sameChannel f)

/-- Sixteen replays of a flit, which follow its first failure, have failed: the link must retrain (R276). -/
def mustRetrain (l : Link) : Bool := l.flits.any fun f => decide (17 ≤ f.fails)

/-- The traffic of a link waits: it retrains, or must (R276). -/
def linkWaits (l : Link) : Bool := l.retraining || mustRetrain l

/-- The CRC of a flit of a link fails once more; the sender keeps the flit for its replay (R276). -/
def failFlit (s : State) (link k : Nat) : State :=
  modLink s link fun l => { l with flits := modAt l.flits k fun f => { f with fails := f.fails + 1 } }

/-- A flit whose CRC holds reaches its port, which passes or drops it (R331, R332). -/
def takeFlit (s : State) (link k : Nat) (f : Flit) : State :=
  let s := modLink s link fun l => { l with flits := dropAt l.flits k }
  if portPasses s f then s
  else
    let d := pageDie (f.enterX / 4) (f.enterY / 4)
    failSender (modDie s d fun x => { x with drops := countDrop x.drops f }) f

/-- The clock of the die that a flit enters runs (R350). -/
def portRuns (s : State) (f : Flit) : Bool := clockRuns s (pageDie (f.enterX / 4) (f.enterY / 4))

/-- A flit that its port drops waits for every clock of the device, since its drop ends a command wherever that stands (R331, R350), and a
copy behind an open COPYM ends no earlier than that (R138). -/
def dropWaits (s : State) (f : Flit) : Bool :=
  !portPasses s f && (!clocksRun s || (match f.owner with
    | some (rid, uid) => (rectAt s rid).cores.any fun k => copymOpen s rid k.1 && k.2.copyq.head?.any fun q => q.hdr.uid == uid
    | none => false))

/-- The fabric dies that a link joins, where its number gives them: 0 to 3 are the seams of the pairs of R351, 4 to 7 the links of the dies
to the I/O die. A peer port is the I/O die's, and a link between tiles lies on the die that its flits enter. -/
def linkDies (link : Nat) : List Nat :=
  match link with
  | 0 => [0, 1]
  | 1 => [1, 3]
  | 2 => [3, 2]
  | 3 => [2, 0]
  | 4 => [0]
  | 5 => [1]
  | 6 => [2]
  | 7 => [3]
  | _ => []

/-- The clocks at both ends of a link run: while one stands still its flits wait in the crossing, and neither the retry buffer nor the
count of its replays changes (R276, R350). -/
def linkRuns (s : State) (link : Nat) : Bool := (linkDies link).all (clockRuns s) && (linkAt s link).flits.all (portRuns s)

/-- FLIT_RECEIVE: a flit of a link reaches its port. `n` is twice the flit's place among those on the link, plus 1 where its CRC
holds (R276, R331, R332). -/
def execFlitReceive (link n : Nat) (s : State) : Result :=
  .next (
    let l := linkAt s link
    match l.flits[n / 2]? with
    | none => s
    | some f =>
      if linkWaits l || !inTurn l (n / 2) f || !linkRuns s link then s
      else if n % 2 = 0 then failFlit s link (n / 2)
      else if dropWaits s f then s
      else takeFlit s link (n / 2) f)

/-- The flit of a link that is being replayed: the oldest whose CRC has failed. -/
def replayed (l : Link) : Option (Nat × Flit) := findIx (fun f : Flit => decide (0 < f.fails)) l.flits

/-- FLIT_CRC_REPLAY: a replay of a flit fails too (R276). -/
def execFlitCrcReplay (link : Nat) (s : State) : Result :=
  .next (
    let l := linkAt s link
    if linkWaits l || !linkRuns s link then s
    else
      match replayed l with
      | some (k, _) => failFlit s link k
      | none => s)

/-- LINK_RETRAIN: after 16 failed replays of one flit the link retrains; the count saturates (R276, R351). -/
def execLinkRetrain (link : Nat) (s : State) : Result :=
  .next (
    let l := linkAt s link
    if l.retraining || !mustRetrain l || !linkRuns s link then s
    else modLink s link fun l =>
      { l with retraining := true, flits := l.flits.map fun f => { f with fails := 0 }, retrains := min 65535 (l.retrains + 1) })

/-- LINK_RETRAIN_DONE: traffic goes on in order (R276). -/
def execLinkRetrainDone (link : Nat) (s : State) : Result :=
  .next (if linkRuns s link then modLink s link fun l => { l with retraining := false } else s)

end Sys2Proof.Machine
end

