-- ==== Sys2Proof/Machine/Tasks.lean ====
section
/-!
DEFINITION. Sys2Proof/Machine/Tasks.lean: spawning, deques, queue length and reservation, semaphores (R151 to R164), pushes
that waited (R42), the commit of ordered tasks (R158), picking and launching (R149, R157 to R161), the balancer (R166 to
R168).
-/
namespace Sys2Proof.Machine

/-! ### SPAWN (R152) -/

/-- The record at an address, as SPAWN and DQPUSH load it (R151): none yet while an earlier load of its bytes has not returned
(R111), or a cause with its address where it cannot be read. -/
def readRecord (s : State) (a : W64) : Except (Option (Nat × W64)) (BitVec 512) :=
  let rid := s.cur.rid
  let c := s.cur.core
  match checkLocal s (whoTask s rid c) a 64 64 [0xF0, 0xF1] with
  | .error e => .error (some (e, a))
  | .ok () =>
    if loadMeets s (whoTask s rid c) a 64 then .error none
    else
      match taskBytes s rid c a 64 with
      | .error e => .error (some (e, a))
      | .ok bs => .ok (recOfBytes bs)

/-- An entry of the task is on its way to the line of a record, which an immediate SPAWN or DQPUSH loads after it (R108). -/
def recordDrains (s : State) (a : W64) : Bool := drainingLine s (whoTask s s.cur.rid s.cur.core) a 64

/-- A push of a record that SPAWN makes at once: status 0 or 2, or the cause of one that fails (R98, R152, R154). -/
def spawnPush (s : State) (rcd : BitVec 512) : Act :=
  let rid := s.cur.rid
  let c := s.cur.core
  let n := inputQueue s rid (recStage rcd)
  if pushWaits s rid n (coreUid s rid c) then .hold
  else
    match pushTask s rid n (coreUid s rid c) rcd with
    | .ok (s', st) => .send (bind s' rid c) (BitVec.ofNat 64 st)
    | .error (e, a) => .trap e (BitVec.ofNat 64 a)

/-- Whether a SPAWN runs its record inline (R152). -/
def mayInline (s : State) (rcd : BitVec 512) : Bool :=
  let rid := s.cur.rid
  let c := s.cur.core
  let q := queueAt s rid (inputQueue s rid (recStage rcd))
  let k := coreAt s rid c
  q.spill.isEmpty && !roomFor q (coreUid s rid c) && !recOrdered rcd &&
  decide (k.csr.depth < k.csr.depthmax) &&
  (match runOf s rid c with
    | some b => b.inl.isNone
    | none => false)

/-- The effect of SPAWN on a record that passed its check (R109, R152). -/
def spawnRecord (s : State) (rcd : BitVec 512) : Act :=
  let rid := s.cur.rid
  let c := s.cur.core
  let t := (coreAt s rid c).task.getD {}
  if recOrdered t.rcd then
    if recOrdered rcd && decide (recTs rcd < recTs t.rcd) then .trap 0x0A5 0
    else if t.wt then spawnPush s rcd
    else if entriesUsed (coreAt s rid c) < 256 then .send (addEntry s rid c 0 (.spawn rcd)) 3
    else
      match overflow s rid c with
      | some s' => .later s'
      | none => .hold
  else
    if mayInline s rcd then
      .send (bind (modRun s rid c fun b => { b with inl := some rcd }) rid c) 1
    else spawnPush s rcd

/-- The load of a record is a load of the task: a line of space 0xF1 that it reads is recorded (R136, R152). -/
def noteRecord (s : State) (a : W64) : State :=
  noteRead s (whoTask s s.cur.rid s.cur.core) (coreUid s s.cur.rid s.cur.core) a

/-- The checks of SPAWN, then its effect (R152). -/
def spawnAt (s : State) (a : W64) : Act :=
  match readRecord s a with
  | .error e => noDescriptor e
  | .ok rcd =>
    match checkRecord s s.cur.rid rcd with
    | some e => .trap e 0
    | none => spawnRecord (noteRecord s a) rcd

/-- SPAWN (R152): an ordered task that has not overflowed defers and waits for nothing; else it is immediate (R151). -/
def execSpawn (p : BitVec 2) (t : BitVec 9) (s : State) : Result :=
  issue (.spawn p t) (fun a _ s =>
    if taskOrdered s s.cur.rid s.cur.core && !writesThrough s then spawnAt s a
    else immediate s fun s => if recordDrains s a then .hold else spawnAt s a) s

/-! ### The deque (R155) -/

/-- DQPUSH (R155): the bottom is the end of the list. -/
def execDqpush (p : BitVec 2) (t : BitVec 9) (s : State) : Result :=
  issue (.dqpush p t) (fun a _ s => immediate s fun s =>
    if recordDrains s a then .hold
    else
    match readRecord s a with
    | .error e => noDescriptor e
    | .ok rcd =>
      match checkRecord s s.cur.rid rcd with
      | some e => .trap e 0
      | none =>
        let k := coreAt s s.cur.rid s.cur.core
        if some (recStage rcd) ≠ k.stage then .trap 0x0A7 0
        else if 32 ≤ k.deque.length then .send (bind s s.cur.rid s.cur.core) 0
        else .send (bind (modCore s s.cur.rid s.cur.core fun k => { k with deque := k.deque ++ [rcd] }) s.cur.rid s.cur.core) 1) s

/-- DQPOP (R155): the write is a store of the task. -/
def execDqpop (p : BitVec 2) (t : BitVec 9) (s : State) : Result :=
  issue (.dqpop p t) (fun a _ s => immediate s fun s =>
    let rid := s.cur.rid
    let c := s.cur.core
    match checkLocal s (whoTask s rid c) a 64 64 [0xF0, 0xF1] with
    | .error e => .trap e a
    | .ok () =>
      match (coreAt s rid c).deque.reverse with
      | [] => .send (bind s rid c) 0
      | r :: rs =>
        match storePieces s rid c [(a, bytesOf 64 r.toNat)] with
        | .wait => .hold
        | .later s' => .later s'
        | .trap e x => .trap e x
        | .done s' => .send (bind (modCore s' rid c fun k => { k with deque := rs.reverse }) rid c) 1) s

/-! ### QLEN and QRSV (R146, R162, R163) -/

/-- The queue QLEN and QRSV name, or their cause; `push` asks for the push side of a port (R146, R151, R170). -/
def namedQueue (s : State) (k : BitVec 1) (q : BitVec 6) (push : Bool) : Except Nat Nat :=
  let rid := s.cur.rid
  if k = 0 then
    match portBind s rid s.cur.core q.toNat with
    | none => .error 0x0A0
    | some pb => if push && pb.pop then .error 0x0A1 else .ok pb.queue
  else if (tfind (rectAt s rid).stages q.toNat).isNone then .error 0x0A4
  else .ok (inputQueue s rid q.toNat)

/-- QLEN (R162). -/
def execQlen (p : BitVec 2) (k : BitVec 1) (q : BitVec 6) (t : BitVec 9) (s : State) : Result :=
  issue (.qlen p k q t) (fun _ _ s =>
    match namedQueue s k q false with
    | .error e => .trap e 0
    | .ok n =>
      let x := queueAt s s.cur.rid n
      .send s (BitVec.ofNat 64 ((held x + reserved x) % 2 ^ 32 + 2 ^ 32 * x.spill.length))) s

/-- Reservations a task holds in all queues (R163). -/
def heldByTask (r : Rect) (uid : Nat) : Nat := (r.queues.map fun q => reservedBy q.2 uid).sum

/-- QRSV (R163). -/
def execQrsv (p : BitVec 2) (k : BitVec 1) (q : BitVec 6) (t : BitVec 9) (s : State) : Result :=
  issue (.qrsv p k q t) (fun a _ s => immediate s fun s =>
    let rid := s.cur.rid
    let c := s.cur.core
    match namedQueue s k q true with
    | .error e => .trap e 0
    | .ok n =>
      if a.toNat = 0 ∨ 64 < a.toNat then .trap 0x0A8 0
      else if !queueRuns s rid n then .hold
      else
        let x := queueAt s rid n
        let uid := coreUid s rid c
        let ok := decide (held x + reserved x + a.toNat ≤ x.cap) && x.spill.isEmpty &&
          decide (heldByTask (rectAt s rid) uid + a.toNat ≤ 64)
        if ok then .send (bind (modQueue s rid n fun x => { x with resv := x.resv ++ [(uid, a.toNat)] }) rid c) 1
        else .send (bind s rid c) 0) s

/-! ### Semaphores (R164) -/

/-- SEMADD (R164). -/
def execSemadd (p : BitVec 2) (t : BitVec 9) (s : State) : Result :=
  issue (.semadd p t) (fun a b s => immediate s fun s =>
    let rid := s.cur.rid
    let c := s.cur.core
    match checkSem s rid c a with
    | .error e => .trap e a
    | .ok () =>
      if !replayEmpty s rid c || !semRuns s rid (addrDie a) then .hold
      else
        let old := semAt s rid (addrDie a) (addrSem a)
        .send (bind (semAdd s rid (addrDie a) (addrSem a) (b.setWidth 32)) rid c) (old.signExtend 64)) s

/-- SEMSET (R164). -/
def execSemset (p : BitVec 2) (s : State) : Result :=
  issue (.semset p) (fun a b s => immediate s fun s =>
    let rid := s.cur.rid
    let c := s.cur.core
    match checkSem s rid c a with
    | .error e => .trap e a
    | .ok () =>
      if !replayEmpty s rid c || !semRuns s rid (addrDie a) then .hold
      else .done (bind (setSem s rid (addrDie a) (addrSem a) (b.setWidth 32)) rid c)) s

/-- SEMRD (R164). -/
def execSemrd (p : BitVec 2) (t : BitVec 9) (s : State) : Result :=
  issue (.semrd p t) (fun a _ s => immediate s fun s =>
    let rid := s.cur.rid
    let c := s.cur.core
    match checkSem s rid c a with
    | .error e => .trap e a
    | .ok () => .send (bind s rid c) ((semAt s rid (addrDie a) (addrSem a)).signExtend 64)) s

/-! ### PORT_PUSH_PERFORM (R42) -/

/-- PORT_PUSH_PERFORM: the k-th producer of a port of the running block tries its push again (R42). -/
def execPortPushPerform (rid core k : Nat) (s : State) : Result :=
  .next (if coreActs s rid core then tryPush s rid core k else s)

/-! ### ORDERED_COMMIT (R158) -/

/-- Among safe finished records of equal TS the first to finish commits first (R158). -/
def firstFinished (d : Domain) (o : Outst) : Bool :=
  d.out.all fun p => !(p.finished && p.ts == o.ts && decide (p.order < o.order))

/-- ORDERED_COMMIT: a finished safe task hands its entries to the drain; once all have performed it leaves the domain (R108, R158). The
clocks of the arbiter and of the task's core run (R350). -/
def execOrderedCommit (rid uid : Nat) (s : State) : Result :=
  .next (
    let d := (rectAt s rid).dom
    match d.out.find? (fun o => o.uid == uid) with
    | none => s
    | some o =>
      if !o.finished || !isSafe d uid || !firstFinished d o || !arbiterRuns s rid || !clockRuns s (coreDie (rectAt s rid) o.core) then s
      else
        if !o.committing then
          let s := commitEntries s rid o.core uid o.rcd
          modRect s rid fun r => { r with dom := { r.dom with out := r.dom.out.map fun p =>
            if p.uid = uid then { p with committing := true } else p } }
        else if !(taskDrains (rectAt s rid) uid).isEmpty then s
        else domainLeave (modCore s rid o.core fun k => { k with fin := k.fin.filter fun t => t.uid != uid }) rid uid)

/-! ### Picking (R157 to R161) -/

/-- R161: with four finished unsafe tasks the core aborts the one of highest TS, of equals the last to finish. -/
def slotAbort (s : State) (rid c : Nat) : State :=
  let k := coreAt s rid c
  let d := (rectAt s rid).dom
  if k.fin.length < 4 ∨ k.fin.any (fun t => isSafe d t.uid) then s
  else
    let mine := d.out.filter fun o => k.fin.any fun t => t.uid == o.uid
    match mine with
    | [] => s
    | o :: os =>
      let worst := os.foldl (fun m x => if m.ts < x.ts ∨ (m.ts = x.ts ∧ m.order < x.order) then x else m) o
      abortTask s rid worst

/-- R168: the core may change stage: its matrix queue is empty, and it has no gang. The records of its deque wait where their
pushes would (R103, R350). -/
def mayChange (s : State) (rid c : Nat) : Bool :=
  let k := coreAt s rid c
  k.arr.q.isEmpty && k.arr.anchor.isNone && k.arr.gw == 0 &&
  !(!k.deque.isEmpty && (match k.stage with
    | some st => !queueRuns s rid (inputQueue s rid st) || spillOpen s rid (inputQueue s rid st)
    | none => false))

/-- The stage change of R168: the deque moves to the old stage's queue, oldest first. Of a record that cannot be pushed, as where the
spill area is full, the spec says nothing: here it is discarded and its cause posted, as that of a drained spawn (R154, log 117). -/
def changeStage (s : State) (rid c : Nat) (next : Option Nat) : State :=
  let k := coreAt s rid c
  let s := match k.stage with
    | some st => k.deque.foldl (fun s rcd =>
        let n := inputQueue s rid st
        match pushTask s rid n 0 rcd with
        | .ok (s', _) => s'
        | .error (e, a) => postFor s rid c e 4 a rcd) s
    | none => s
  let dm := match next with
    | some st => (stageAt s rid st).depth
    | none => 0
  let s := modCore s rid c fun k => { k with deque := [], stage := next, newStage := none, csr := { k.csr with depthmax := dm } }
  modRect s rid fun r => { r with bal := { r.bal with move := none } }

/-- Give a core a record to launch (R149, R157). -/
def beginTask (s : State) (rid c st uid rerun : Nat) (rcd : BitVec 512) : State :=
  modCore s rid c fun k =>
    { k with task := some { uid := uid, rcd := rcd, stage := st, rerun := rerun }, phase := .launching }

/-- Two regions share a byte (R159). -/
def regionsMeet (g h : Region) : Bool := meets g.base g.len h.base h.len

/-- Put a record among the outstanding ones, or change it there (R158). -/
def noteOutst (r : Rect) (o : Outst) : Rect :=
  let out := if r.dom.out.any (fun p => p.uid == o.uid) then r.dom.out.map (fun p => if p.uid = o.uid then o else p)
    else r.dom.out ++ [o]
  settleDomain { r with dom := { r.dom with out := out } }

/-- An ordered record that a core picks: refused, held or started (R158, R159). -/
def admitRecord (s : State) (rid c st : Nat) (rr : ReRec) (again : Bool) : State :=
  let d := (rectAt s rid).dom
  let ts := recTs rr.rcd
  if !again && decide (ts < d.safeMark) then postFor s rid c 0x0A9 4 0 rr.rcd
  else
    let regs := taskRegions s rid rr.rcd
    let reads := regs.filter (·.rd)
    let o : Outst := { uid := rr.uid, rcd := rr.rcd, ts := ts, stage := st, core := c, rerun := rr.rerun, started := true,
                       finished := false, order := 0, committing := false, reads := reads,
                       writes := regs.filter (·.wr), lines := [], wide := [] }
    let past := (d.out.filter fun p => decide (p.ts < ts) && p.uid != rr.uid && reads.any fun g => p.writes.any fun h => regionsMeet g h).map (·.uid)
    if !recSpec rr.rcd && !past.isEmpty && decide (d.hold.length < 64) then
      modRect s rid fun r =>
        let r := noteOutst r { o with started := false }
        { r with dom := { r.dom with hold := r.dom.hold ++ [(rr, past)] } }
    else beginTask (modRect s rid fun r => noteOutst r o) rid c st rr.uid rr.rerun rr.rcd

/-- A record that a core picks for its stage (R157, R158). -/
def pickRecord (s : State) (rid c st : Nat) (rcd : BitVec 512) : State :=
  let f := fresh s
  if recOrdered rcd then admitRecord f.2 rid c st { rcd := rcd, uid := f.1, rerun := 0 } false
  else beginTask f.2 rid c st f.1 0 rcd

/-- Satisfied continuations of a stage with the die of their sync unit. -/
def satisfied (r : Rect) (st : Nat) : List (Nat × Cont) :=
  r.dies.flatMap fun d => (d.2.conts.filter fun k => k.satisfied && k.stage == st).map fun k => (d.1, k)

/-- The one satisfied first. -/
def oldestCont : List (Nat × Cont) → Option (Nat × Cont)
  | [] => none
  | x :: l => some (l.foldl (fun m y => if y.2.when < m.2.when then y else m) x)

/-- Resume a continuation on a core: the state of R91, read from the holder's record (R165). The task goes on, so it still writes
through if it did (R109), and an ordered one is now on this core. The record's bytes are read as they are: the spec names no slot and no
report for an error of their data (R98, log 106). -/
def resumeCont (s : State) (rid c die : Nat) (k : Cont) : State :=
  let base := contKey rid k.core k.slot
  let mask := readNat s (base + 4) 4
  let live := (List.range 32).filter fun i => mask / 2 ^ i % 2 == 1
  let g : Tab W64 := (List.range live.length).map fun j => (live[j]?.getD 0, BitVec.ofNat 64 (readNat s (base + 32 + 8 * j) 8))
  let target := readNat s base 2 % 16384
  let times := readNat s (base + 8) 16
  let keep := k.task.rcd &&& ~~~ (BitVec.ofNat 512 ((2 ^ 128 - 1) * 2 ^ 128))
  let t := { k.task with rcd := keep ||| BitVec.ofNat 512 (times * 2 ^ 128), resumed := true }
  let s := modLdie s rid die fun l => { l with conts := l.conts.filter fun q => !(q.core == k.core && q.slot == k.slot) }
  let s := modCore s rid k.core fun q => { q with contUsed := q.contUsed.filter (· != k.slot) }
  let s := runsOn s rid t.uid c
  modCore s rid c fun q =>
    { q with g := g, v := [], task := some t, phase := .fetch target,
             csr := { q.csr with cdepth := 0, depth := 0, fpflags := 0 } }

/-- Satisfied continuations of a stage that can be resumed: the clocks of their sync units and of their holders run (R350). -/
def resumable (s : State) (rid st : Nat) : List (Nat × Cont) :=
  (satisfied (rectAt s rid) st).filter fun x => semRuns s rid x.1 && clockRuns s (coreDie (rectAt s rid) x.2.core)

/-- Step 1 of R157: continuations in the core's own scratchpad, or held by a core that has left the stage. -/
def ownCont (s : State) (rid c st : Nat) : Option (Nat × Cont) :=
  oldestCont ((resumable s rid st).filter fun x => x.2.core == c || (coreAt s rid x.2.core).stage != some st)

/-- The peers of a stage from a core onward (R157). -/
def peers (r : Rect) (c st : Nat) : List Nat :=
  ((List.range (coreCount r)).map fun i => (c + i) % coreCount r).filter fun j => j != c && (coreOf r j).stage == some st

/-- The oldest satisfied continuation that a peer of a stage holds (R157). -/
def peerCont (s : State) (rid st p : Nat) : Option (Nat × Cont) := oldestCont ((resumable s rid st).filter fun x => x.2.core == p)

/-- A core is free (R157). -/
def isFree (k : Core) : Bool := k.task.isNone && k.phase == .idle

/-- A free core picks in the present cycle for the stage it has: it acts, nothing stops it, it takes no other stage first, fewer than four
of its tasks wait for their commit, and the clock of the stage's queue runs (R157, R161, R168, R308, R350). -/
def picksNow (s : State) (rid c : Nat) : Option Nat :=
  let k := coreAt s rid c
  if coreActs s rid c && isFree k && !stopsHere s rid c && decide (k.fin.length < 4) && !(k.newStage.isSome && mayChange s rid c) then
    k.stage.filter fun st => queueRuns s rid (inputQueue s rid st)
  else none

/-- The running block of a core has a DQPOP that performs in the present cycle (R53, R101, R155). -/
def popsNow (s : State) (rid c : Nat) : Bool :=
  coreActs s rid c && (match runOf s rid c with
    | some b => (List.range b.n).any fun k => match decodeRow (wordOf b k) with
      | some (.dqpop p t) =>
        !resolved b k && mayIssue (coreAt s rid c) b (.dqpop p t) k && taskSafe s rid c && !lookupsBelow b k &&
          (match readiness (.dqpop p t) b k with
            | .ready _ _ => true
            | _ => false)
      | _ => false
    | none => false)

/-- The owner of a deque asks for its bottom in the present cycle: it picks, and has no continuation of its own to take first, or its
block pops it (R155 to R157). -/
def ownerAsks (s : State) (rid p : Nat) : Bool :=
  popsNow s rid p || (match picksNow s rid p with
    | some st => (ownCont s rid p st).isNone
    | none => false)

/-- A deque gives a thief its top in the present cycle: its clock runs, no thief before it is served there, and it holds more records
than its owner takes (R156, R350). -/
def dequeGives (s : State) (rid : Nat) (taken : List Nat) (p : Nat) : Bool :=
  clockRuns s (coreDie (rectAt s rid) p) && !taken.contains p &&
  decide ((if ownerAsks s rid p then 1 else 0) < (coreAt s rid p).deque.length)

/-- The peer at which a core that asks at step 4 of R157 finds work, with whether it is the peer's deque that gives it. -/
def theftAt (s : State) (rid c st : Nat) (taken : List Nat) : Option (Nat × Bool) :=
  (peers (rectAt s rid) c st).findSome? fun p =>
    if (peerCont s rid st p).isSome then some (p, false) else if dequeGives s rid taken p then some (p, true) else none

/-- A core that picks finds nothing at steps 1 to 3 of R157, and asks its peers. -/
def asksPeers (s : State) (rid c : Nat) : Option Nat :=
  (picksNow s rid c).filter fun st =>
    (ownCont s rid c st).isNone && (coreAt s rid c).deque.isEmpty && (stageAt s rid st).rerun.isEmpty &&
    (queueAt s rid (inputQueue s rid st)).recs.isEmpty && (queueAt s rid (inputQueue s rid st)).spill.isEmpty

/-- The deques whose top goes, in the present cycle, to thieves of a lower number than a core: of several thieves at one deque the lowest
is served, and each other finds it empty and goes on (R156). -/
def takenBefore (s : State) (rid c : Nat) : List Nat :=
  (List.range c).foldl (fun taken d => match asksPeers s rid d with
    | some st => (match theftAt s rid d st taken with
        | some (p, true) => p :: taken
        | _ => taken)
    | none => taken) []

/-- Step 4 of R157: the first peer with work gives its oldest satisfied continuation, or the top of its deque. -/
def stealWork (s : State) (rid c st : Nat) : Option State :=
  match theftAt s rid c st (takenBefore s rid c) with
  | some (p, true) =>
    match (coreAt s rid p).deque with
    | rcd :: ds => some (pickRecord (modCore s rid p fun k => { k with deque := ds }) rid c st rcd)
    | [] => none
  | some (p, false) => (peerCont s rid st p).map fun x => resumeCont s rid c x.1 x.2
  | none => none

/-- The pick of a core of a stage, in the order of R157; none where nothing yields work. -/
def pickFor (s : State) (rid c st : Nat) : Option State :=
  let r := rectAt s rid
  match ownCont s rid c st with
  | some (die, k) => some (resumeCont s rid c die k)
  | none =>
    match (coreOf r c).deque.reverse with
    | rcd :: ds => some (pickRecord (modCore s rid c fun k => { k with deque := ds.reverse }) rid c st rcd)
    | [] =>
      match (stageAt s rid st).rerun with
      | rr :: rs => some (admitRecord (modStage s rid st fun x => { x with rerun := rs }) rid c st rr true)
      | [] =>
        let n := inputQueue s rid st
        match popTask s rid c n with
        | some (some rcd, s') => some (pickRecord s' rid c st rcd)
        | some (none, s') => some s'
        | none => stealWork s rid c st

/-- The core takes the stage that the balancer set for it, once it may (R168). -/
def takeStage (s : State) (rid c : Nat) : State :=
  match (coreAt s rid c).newStage with
  | some next => if mayChange s rid c then changeStage s rid c next else s
  | none => s

/-- The core picks for its stage, where fewer than four of its tasks wait for their commit and the clock of the stage's queue runs (R157, R161, R350). -/
def pickNext (s : State) (rid c : Nat) : State :=
  if 4 ≤ (coreAt s rid c).fin.length then s
  else
    match (coreAt s rid c).stage with
    | none => s
    | some st => if queueRuns s rid (inputQueue s rid st) then (pickFor s rid c st).getD s else s

/-- A free core picks (R157, R161, R168). -/
def pickCore (rid core : Nat) (s : State) : State :=
  if !coreActs s rid core || !isFree (coreAt s rid core) || !decide (core < coreCount (rectAt s rid)) then s
  else pickNext (slotAbort (takeStage s rid core) rid core) rid core

/-- Every granule of a region that an extent of the world backs is in HBM4E (R99). -/
def resident (s : State) (w : Nat) (g : Region) : Bool :=
  s.extents.all fun e => e.2.world != w || !meets g.base g.len (e.2.vbase * 0x200000) (e.2.len * 0x200000) || e.2.tier == 0

/-- Once its regions are resident, a picked record starts its entry block (R149); an inline child, whose state stands already,
too (R153). -/
def launchCore (rid core : Nat) (s : State) : State :=
    let k := coreAt s rid core
    match k.task, k.phase with
    | some t, .launching =>
      if !coreActs s rid core || !(taskRegions s rid t.rcd).all (fun g => resident s (worldOf rid) g) then s
      else if k.csr.depth ≠ 0 then modCore s rid core fun k => { k with phase := .fetch (recEntry t.rcd) }
      else
        modCore s rid core fun k =>
          { k with g := (List.range 4).map fun j => (j + 1, BitVec.ofNat 64 (recArg t.rcd (j + 1))), v := [],
                   phase := .fetch (recEntry t.rcd), csr := { k.csr with cdepth := 0, depth := 0, fpflags := 0 } }
    | _, _ => s

/-! ### The balancer (R166 to R168) -/

/-- Cores of a stage, halted ones counted absent (R166, R296). -/
def stageCores (r : Rect) (st : Option Nat) : List Nat :=
  (List.range (coreCount r)).filter fun c => (coreOf r c).stage == st && !(coreOf r c).csr.halted

/-- occ of one stage now (R166). -/
def occupancy (r : Rect) (st : Nat) : Nat :=
  let g := tget {} r.stages st
  let q := tget {} r.queues g.queue
  q.recs.length + q.spill.length + g.rerun.length + ((stageCores r (some st)).map fun c => (coreOf r c).deque.length).sum +
  (satisfied r st).length

/-- BALANCER_SAMPLE: one of the eight samples of an interval (R166, R350). -/
def execBalancerSample (rid : Nat) (s : State) : Result :=
  .next (if !(rectAt s rid).live || !arbiterRuns s rid || decide (8 ≤ (rectAt s rid).bal.samples.length) then s
    else modRect s rid fun r =>
      { r with bal := { r.bal with samples := r.bal.samples ++ [r.stages.map fun g => occupancy r g.1] } })

/-- P of the i-th stage (R166). Where every core of the stage is halted n is 0, and the spec gives no P: here it is 0 (log 99). -/
def pressure (r : Rect) (i : Nat) (st : Nat) : Nat :=
  256 * (r.bal.samples.map fun v => v[i]?.getD 0).sum / (8 * (stageCores r (some st)).length)

/-- Stage numbers with their P. -/
def pressures (r : Rect) : List (Nat × Nat) :=
  (List.range r.stages.length).map fun i => let st := (r.stages[i]?.map (·.1)).getD 0; (st, pressure r i st)

/-- The core a donor gives: the fewest deque records, then the highest number (R167). -/
def donorCore (r : Rect) (st : Option Nat) : Option Nat :=
  match stageCores r st with
  | [] => none
  | c :: cs => some (cs.foldl (fun m x => if (coreOf r x).deque.length ≤ (coreOf r m).deque.length then x else m) c)

/-- The receiver: the highest P with room, the lower stage of equals (R167). -/
def receiver (r : Rect) : Option (Nat × Nat) :=
  ((pressures r).filter fun x => decide ((stageCores r (some x.1)).length < (tget {} r.stages x.1).max)).foldl
    (fun m x => match m with
      | none => some x
      | some y => if y.2 < x.2 then some x else m) none

/-- The donor stage: the lowest P above its minimum, the lower stage of equals (R167). -/
def donor (r : Rect) : Option (Nat × Nat) :=
  ((pressures r).filter fun x => decide ((tget {} r.stages x.1).min < (stageCores r (some x.1)).length)).foldl
    (fun m x => match m with
      | none => some x
      | some y => if x.2 < y.2 then some x else m) none

/-- The move of an interval: core and receiving stage (R167). -/
def balanceMove (r : Rect) : Option (Nat × Nat) :=
  match receiver r with
  | none => none
  | some (rs, rp) =>
    match donorCore r none with
    | some c => if r.bal.h ≤ rp + 1 ∨ 0 < rp then some (c, rs) else none
    | none =>
      match donor r with
      | some (ds, dp) =>
        if ds ≠ rs ∧ r.bal.h + dp ≤ rp then (donorCore r (some ds)).map fun c => (c, rs) else none
      | none => none

/-- BALANCER_INTERVAL_END: a move not yet made is cancelled, and at most one is chosen (R167, R168, R350). -/
def execBalancerIntervalEnd (rid : Nat) (s : State) : Result :=
  .next (if !(rectAt s rid).live || !arbiterRuns s rid || (rectAt s rid).bal.samples.length != 8 then s
    else modRect s rid fun r =>
      let m := balanceMove r
      let cores := r.cores.map fun c => (c.1, { c.2 with newStage := none })
      let cores := match m with
        | some (c, st) => tmod {} cores c fun k => { k with newStage := some (some st) }
        | none => cores
      { r with cores := cores, bal := { r.bal with samples := [], move := m } })

end Sys2Proof.Machine
end

