-- ==== Sys2Proof/Machine/System.lean ====
section
/-!
DEFINITION. Sys2Proof/Machine/System.lean: TRAP and BRK (R300 to R302), the CSRs (R150, R292, R304), TIME (R305) and the
monitors (R306, R307).
-/
namespace Sys2Proof.Machine

/-! ### TRAP and BRK -/

/-- TRAP (R301): cause 0x150 + n at its slot. -/
def execTrap (p : BitVec 2) (n : BitVec 4) (s : State) : Result :=
  issue (.trap p n) (fun _ _ _ => .trap (0x150 + n.toNat) 0) s

/-- BRK (R302): cause 0x143 with FADDR = tag. -/
def execBrk (p : BitVec 2) (g : BitVec 8) (s : State) : Result :=
  issue (.brk p g) (fun _ _ _ => .trap 0x143 (g.setWidth 64)) s

/-! ### CSRs (R292, R304) -/

/-- TSTAT (R150). -/
def tstat (s : State) (rid c : Nat) : W64 :=
  let k := coreAt s rid c
  let t := k.task.getD {}
  let b := fun (x : Bool) n => if x then 2 ^ n else 0
  BitVec.ofNat 64 (min t.rerun 255 * 256 + b t.wt 4 + b (k.csr.depth != 0) 3 + b (taskSafe s rid c) 2 + b (recSpec t.rcd) 1 +
    b (recOrdered t.rcd) 0)

/-- HSTAT (R292). DBG reads 1 while the core stands in debug halt, and 0 while it still runs a block, in a step too (R302, R314). -/
def hstat (k : Core) : W64 :=
  let q := k.csr
  let b := fun (x : Bool) n => if x then 2 ^ n else 0
  BitVec.ofNat 64 (b q.bpskip 5 + b q.tpend 4 + b (debugHalted k) 3 + b q.halted 2 + b q.cread 1 + b q.hmode 0)

/-- A CSR by number as it stands; FPFLAGS is the core's own here (R150, R292, R304). -/
def csrValue (s : State) (rid c n : Nat) : W64 :=
  let k := coreAt s rid c
  let q := k.csr
  let t := k.task.getD {}
  match n with
  | 0x000 => q.fpflags
  | 0x001 => BitVec.ofNat 64 (recTs t.rcd)
  | 0x002 => BitVec.ofNat 64 (recIdx t.rcd)
  | 0x003 => BitVec.ofNat 64 (k.stage.getD 0)
  | 0x004 => BitVec.ofNat 64 q.depth
  | 0x005 => BitVec.ofNat 64 q.depthmax
  | 0x006 => tstat s rid c
  | 0x007 => BitVec.ofNat 64 q.cdepth
  | 0x010 => (tget 0 q.mrepl 0).setWidth 64
  | 0x011 => (tget 0 q.mrepl 1).setWidth 64
  | 0x012 => (tget 0 q.mrepl 2).setWidth 64
  | 0x020 => BitVec.ofNat 64 q.cause
  | 0x021 => BitVec.ofNat 64 q.cause2
  | 0x022 => q.faddr
  | 0x023 => BitVec.ofNat 64 q.fblk
  | 0x024 => BitVec.ofNat 64 q.fslot
  | 0x025 => q.fiter
  | 0x026 => hstat k
  | 0x027 => q.hvec
  | 0x030 => tget 0 q.bpa 0
  | 0x031 => tget 0 q.bpa 1
  | 0x032 => tget 0 q.bpa 2
  | 0x033 => tget 0 q.bpa 3
  | 0x034 => tget 0 q.wpa 0
  | 0x035 => tget 0 q.wpa 1
  | _ => 0

/-- The cause of an access to a CSR (R304): 0x141 where the revision has none, 0x142 where the mode does not allow it. -/
def csrCause (b0 handler write : Bool) (n : Nat) : Option Nat :=
  let rw := n == 0 || (decide (0x010 ≤ n) && decide (n ≤ 0x012))
  let task := decide (1 ≤ n) && decide (n ≤ 7)
  let trap := decide (0x020 ≤ n) && decide (n ≤ 0x026)
  let debug := (decide (0x030 ≤ n) && decide (n ≤ 0x033)) || (b0 && (n == 0x034 || n == 0x035))
  if !(rw || task || trap || n == 0x027 || debug) then some 0x141
  else if rw then none
  else if task then (if write then some 0x142 else none)
  else if !handler then some 0x142
  else if n == 0x027 then none
  else if write then some 0x142
  else none

/-- CSRR (R304): FPFLAGS as it stood at block start; reading CAUSE sets CREAD. -/
def execCsrr (p : BitVec 2) (c : BitVec 10) (t : BitVec 9) (s : State) : Result :=
  issue (.csrr p c t) (fun _ _ s =>
    let rid := s.cur.rid
    let n := c.toNat
    match csrCause (s.rev == .b0) (handlerMode s) false n with
    | some e => .trap e 0
    | none =>
      let v := csrValue s rid s.cur.core n
      if n = 0 then .send s (((runOf s rid s.cur.core).map (·.fp0)).getD v)
      else if n = 0x020 then .send (modCsr s rid s.cur.core fun q => { q with cread := true }) v
      else .send s v) s

/-- Write a CSR at once: reserved bits stay zero (R173, R219, R292). -/
def writeCsr (s : State) (rid c n : Nat) (v : W64) : State :=
  modCsr s rid c fun q =>
    match n with
    | 0x000 => { q with fpflags := v &&& 0xFFFF003F }
    | 0x010 => { q with mrepl := tset q.mrepl 0 (v.setWidth 32) }
    | 0x011 => { q with mrepl := tset q.mrepl 1 (v.setWidth 32) }
    | 0x012 => { q with mrepl := tset q.mrepl 2 (v.setWidth 32) }
    | 0x027 => { q with hvec := v &&& 0x8000000000003FFF }
    | _ => q

/-- CSRW (R304): held with the block in task mode, at once and binding in handler mode. -/
def execCsrw (p : BitVec 2) (c : BitVec 10) (s : State) : Result :=
  issue (.csrw p c) (fun a _ s =>
    let rid := s.cur.rid
    let n := c.toNat
    match csrCause (s.rev == .b0) (handlerMode s) true n with
    | some e => .trap e 0
    | none =>
      if handlerMode s then immediate s fun s => .done (bind (writeCsr s rid s.cur.core n a) rid s.cur.core)
      else .done (modRun s rid s.cur.core fun b => { b with csrw := tset b.csrw n a })) s

/-! ### TIME (R305) -/

/-- Cycles of a core's die pass before its task reads them, by an amount the spec does not give (log 9): the count is one that the
values the task has read do not exceed (R305). -/
def tickDie (s : State) (rid c : Nat) : State :=
  let d := coreDie (rectAt s rid) c
  let last := (((coreAt s rid c).task).getD {}).cyc
  modDie { s with free := s.free + 1 } d fun x =>
    { x with cyc := (if x.cyc.toNat < last.toNat then last else x.cyc) + BitVec.ofNat 64 (Config.cycles s.free) }

/-- The task of a core has read a count of cycles. -/
def readCycles (s : State) (rid c : Nat) (v : W64) : State :=
  modCore s rid c fun k => { k with task := k.task.map fun t => { t with cyc := v } }

/-- TIME: the package's nanoseconds, or the cycles of the core's die (R305). -/
def execTime (p : BitVec 2) (x : BitVec 1) (t : BitVec 9) (s : State) : Result :=
  issue (.time p x t) (fun _ _ s =>
    if x = 0 then .send (tick s) (tick s).ns
    else
      let rid := s.cur.rid
      let c := s.cur.core
      let s := tickDie s rid c
      let v := (dieAt s (coreDie (rectAt s rid) c)).cyc
      .send (readCycles s rid c v) v) s

/-! ### MONCFG and MONRD (R306, R307) -/

/-- Edge i of a descriptor, from 1 (R306). -/
def edge (bs : List Byte) (i : Nat) : Nat := field bs (4 * i) 4

/-- A descriptor outside R306. -/
def badMonitor (bs : List Byte) : Bool :=
  let src := field bs 0 1
  let sel := field bs 1 1
  let period := field bs 2 1
  decide (7 < src) || (src == 1 && decide (15 < sel)) || (src == 5 && decide (2 < sel)) || (src != 1 && src != 5 && sel != 0) ||
  ((src == 1 || src == 6 || src == 7) && decide (20 < period)) || (!(src == 1 || src == 6 || src == 7) && period != 0) ||
  field bs 3 1 != 0 || (List.range 14).any fun i => decide (edge bs (i + 2) < edge bs (i + 1))

/-- A monitor just configured: its counts are cleared (R306). -/
def configured (m : Monitor) (bs : List Byte) : Monitor :=
  { min := 0xFFFFFFFF, src := field bs 0 1, sel := field bs 1 1, period := field bs 2 1,
    edges := (List.range 15).map fun i => BitVec.ofNat 32 (edge bs (i + 1)), ldie := m.ldie }

/-- MONCFG (R306); it waits for the clock of the monitor's die (R350). -/
def execMoncfg (p : BitVec 2) (s : State) : Result :=
  issue (.moncfg p) (fun a b s => immediate s fun s =>
    let rid := s.cur.rid
    let c := s.cur.core
    let who := whoTask s rid c
    match monitorAt s rid a with
    | none => .trap 0x147 0
    | some n =>
      match checkLocal s who b 64 64 [0xF0] with
      | .error e => .trap e b
      | .ok () =>
        match readError s (worldOf rid) (homeOf s who b) 64 with
        | some e => .trap e b
        | none =>
          let bs := memBytes s who b 64
          if badMonitor bs then .trap 0x147 0
          else if !clockRuns s (n / 32) then .hold
          else .done (bind { s with monitors := tset s.monitors n (configured (tget {} s.monitors n) bs) } rid c)) s

/-- MONRD (R307). -/
def execMonrd (p : BitVec 2) (i : BitVec 5) (t : BitVec 9) (s : State) : Result :=
  issue (.monrd p i t) (fun a _ s =>
    match monitorAt s s.cur.rid a with
    | none => .trap 0x147 0
    | some n =>
      let s' := sampleMonitor s s.cur.rid n
      match monItem (s.rev == .b0) (tget {} s'.monitors n) i.toNat with
      | none => .trap 0x147 0
      | some v => .send s' v) s

end Sys2Proof.Machine
end

