-- ==== Sys2Proof/Machine/Launch.lean ====
section
/-!
DEFINITION. Sys2Proof/Machine/Launch.lean: the launch processor: the head of a world's queue and its checks (R344, R345, R347),
TASK, SIGNAL, BARRIER and COPY packets, and the result of a PLACE (R346).
-/
namespace Sys2Proof.Machine

/-! ### The head of a launch queue (R343, R347) -/

/-- Entries of a queue whose size register holds n: other values than 6 to 16 disable it (R343). -/
def queueSize (n : Nat) : Nat := if 6 ≤ n ∧ n ≤ 16 then 2 ^ n else 0

def pktKind (bs : List Byte) : Nat := field bs 15 1 % 16
def pktHold (bs : List Byte) : Bool := field bs 15 1 / 32 % 2 == 1
def pktRect (bs : List Byte) : Nat := field bs 14 1 % 8
/-- The vector a packet raises when it completes. -/
def pktIrq (bs : List Byte) : Option Nat := if field bs 15 1 / 16 % 2 = 1 then some (field bs 14 1 / 8) else none
/-- RESADDR of a PLACE. -/
def pktRes (bs : List Byte) : W64 := BitVec.ofNat 64 (field bs 24 8)

/-- The host as the party of an access: the world of a function, no task. -/
def whoHost (w : Nat) : Who := { rid := 8 * w, core := 0, handler := false, conf := none }

/-- OP of a PLACE (R345). -/
def placeOp (bs : List Byte) : Nat := field bs 32 1 % 16

/-- A BARRIER with HOLD is outstanding (R347). -/
def queueHeld (q : World) : Bool :=
  q.pkts.any fun k => match k.work with
    | .barrier _ _ hold => hold
    | _ => false

/-- COPY and BARRIER packets without HOLD that are outstanding (R347). -/
def outstanding (q : World) : Nat :=
  (q.pkts.filter fun k => match k.work with
    | .barrier _ _ hold => !hold
    | _ => true).length

/-- A semaphore word: its semaphore, if it is valid (R345). -/
def semWord (v : Nat) : Option (Nat × Nat) := if v / 32768 = 1 then some (v / 4096 % 4, v % 4096) else none

/-- A semaphore word outside R345: bit 14, or an index outside the allocation. -/
def badSemWord (s : State) (rid v : Nat) : Bool :=
  v / 16384 % 2 == 1 || (match semWord v with
    | some (d, i) => decide ((ldieAt s rid d).nsem ≤ i)
    | none => false)

/-- A malformed packet (R347). -/
def badPacket (s : State) (w : Nat) (bs : List Byte) : Bool :=
  let rid := 8 * w + pktRect bs
  let z := fun i n => field bs i n != 0
  let k := pktKind bs
  decide (5 ≤ k) || (pktHold bs && k != 2) || decide (64 ≤ field bs 15 1) || (k != 1 && !(rectAt s rid).live) ||
  (k == 1 && (z 8 6 || z 40 24 || decide (16 ≤ field bs 32 1) || decide (128 ≤ field bs 33 1))) ||
  (k == 2 && (z 0 14 || z 40 24 || (List.range 3).any fun c => z (18 + 8 * c) 2 || badSemWord s rid (field bs (16 + 8 * c) 2))) ||
  (k == 3 && (z 8 6 || z 30 34 || !(z 24 4) || badSemWord s rid (field bs 28 2))) ||
  (k == 4 && (z 0 14 || z 18 2 || z 24 40 || badSemWord s rid (field bs 16 2) ||
    ((semWord (field bs 16 2)).isNone && (z 16 2 || z 20 4))))

/-- The packet at the head of a world's queue, unless the queue is held: a LOCKED world's serves only PLACE packets, and a FROZEN
one's PLACE Save alone, since R338 lets the host save its rectangles where R347 holds the whole queue (R329, log 48). -/
def queueHead (s : State) (w : Nat) : Option (List Byte) :=
  let q := worldAt s w
  let n := queueSize q.lqsize
  if n = 0 ∨ q.lqhead = q.lqtail ∨ q.placing.isSome ∨ queueHeld q then none
  else
    let bs := readKeys s (Place.key (.glob 2 (q.lqbase.toNat + 64 * (q.lqhead.toNat % n)))) 64
    match q.st with
    | .disabled => none
    | .locked => if pktKind bs = 1 then some bs else none
    | .frozen => if pktKind bs = 1 ∧ placeOp bs = 4 then some bs else none
    | _ => some bs

/-- The spawn record of a TASK packet: bytes 14 and 15 are zeroed. -/
def taskRecord (bs : List Byte) : BitVec 512 := recOfBytes (bs.take 14 ++ [0, 0] ++ bs.drop 16)

/-- The push of a TASK packet's record must wait (R103, R154, R350). -/
def taskWaits (s : State) (w : Nat) (bs : List Byte) : Bool :=
  pushWaits s (8 * w + pktRect bs) (inputQueue s (8 * w + pktRect bs) (recStage (taskRecord bs))) 0

/-- The semaphore of a SIGNAL packet lies on a die whose clock stands still: it waits (R350). -/
def signalWaits (s : State) (w : Nat) (bs : List Byte) : Bool :=
  !(semWord (field bs 16 2)).all fun x => semRuns s (8 * w + pktRect bs) x.1

/-- An extent of a world is in its switch-over window (R103). -/
def windowOpen (s : State) (w : Nat) : Bool :=
  s.extents.any fun e => e.2.world == w && (match e.2.mig with
    | some m => m.window
    | none => false)

/-- A PLACE waits until its result can be written, and while a clock stands still; one that writes the contents of regions or an image
into global memory waits for every window of its world (R103, R346, R350, log 55). -/
def placeWaits (s : State) (w : Nat) (bs : List Byte) : Bool :=
  writeHeld s (whoHost w) (pktRes bs) 8 || !clocksRun s || ((placeOp bs == 0 || placeOp bs == 4) && windowOpen s w)

/-- The head packet of a world can be taken now: it is malformed, or nothing that its kind waits for stands in its way (R328,
R347). -/
def takeable (s : State) (w : Nat) : Bool :=
  match queueHead s w with
  | none => false
  | some bs =>
    let moving := isMoving s (8 * w + pktRect bs)
    let room := decide (outstanding (worldAt s w) < 16)
    badPacket s w bs || (match pktKind bs with
      | 0 => !moving && !taskWaits s w bs
      | 1 => !placeWaits s w bs
      | 2 => pktHold bs || room
      | 3 => !moving && room
      | _ => !moving && !signalWaits s w bs)

/-- How far a world stands behind the one served last, in the rotation (R347). -/
def turnsAfter (s : State) (w : Nat) : Nat := (w + 127 - s.turn % 64) % 64

/-- It is a world's turn: no world before it in the rotation has a packet that can be taken (R347). -/
def hasTurn (s : State) (w : Nat) : Bool :=
  (List.range 64).all fun v => !(decide (turnsAfter s v < turnsAfter s w) && takeable s v)

/-- The packet that the launch processor takes from a world's queue: the head, in the world's turn (R347). -/
def headPacket (s : State) (w : Nat) : Option (List Byte) := if hasTurn s w then queueHead s w else none

/-- Take the head packet: LQHEAD advances past it, and the rotation goes on after its world (R347). -/
def takeHead (s : State) (w : Nat) : State := { modWorld s w (fun q => { q with lqhead := q.lqhead + 1 }) with turn := w }

/-- A completed packet raises its vector (R344). -/
def raiseIrq (s : State) (w : Nat) (irq : Option Nat) : State :=
  match irq with
  | some v => emit s (.irq w v)
  | none => s

/-- Serve the head packet of a world when its kind is the one asked for; a malformed one is discarded and posted. A kind
that is none of the five counts as TASK's turn (R347). -/
def serveHead (s : State) (w kind : Nat) (f : List Byte → State) : State :=
  match headPacket s w with
  | none => s
  | some bs =>
    if pktKind bs ≠ kind ∧ !(kind == 0 && decide (5 ≤ pktKind bs)) then s
    else if badPacket s w bs then post (takeHead s w) w { cause := 0x0A3, kind := 4 }
    else f bs

/-! ### TASK, SIGNAL and BARRIER (R345) -/

/-- PKT_TASK (R148, R154, R328, R345). A record that fails is posted with CORE 0, since no core stands for it and R299 gives the field no
other value (log 118). -/
def execPktTask (world : Nat) (s : State) : Result :=
  .next (serveHead s world 0 fun bs =>
    let rid := 8 * world + pktRect bs
    if isMoving s rid || taskWaits s world bs then s
    else
      let rcd := taskRecord bs
      let s := takeHead s world
      match checkRecord s rid rcd with
      | some e => postFor s rid 0 e 4 0 rcd
      | none =>
        let n := inputQueue s rid (recStage rcd)
        match pushTask s rid n 0 rcd with
        | .error (e, a) => postFor s rid 0 e 4 a rcd
        | .ok (s', _) => raiseIrq s' world (pktIrq bs))

/-- PKT_SIGNAL (R328, R345). -/
def execPktSignal (world : Nat) (s : State) : Result :=
  .next (serveHead s world 4 fun bs =>
    let rid := 8 * world + pktRect bs
    if isMoving s rid || signalWaits s world bs then s
    else
      let s := takeHead s world
      let s := match semWord (field bs 16 2) with
        | some (d, i) => semAdd s rid d i (BitVec.ofNat 32 (field bs 20 4))
        | none => s
      raiseIrq s world (pktIrq bs))

/-- The valid conditions of a BARRIER: die, index and threshold (R345). -/
def barrierConds (bs : List Byte) : List (Nat × Nat × BitVec 32) :=
  (List.range 3).filterMap fun c =>
    (semWord (field bs (16 + 8 * c) 2)).map fun x => (x.1, x.2, BitVec.ofNat 32 (field bs (20 + 8 * c) 4))

/-- Put a packet among the outstanding ones of its world. -/
def addPkt (s : State) (w : Nat) (work : PktWork) (irq : Option Nat) : State :=
  let f := fresh s
  modWorld f.2 w fun q => { q with pkts := q.pkts ++ [{ id := f.1, work := work, irq := irq }] }

/-- PKT_BARRIER: taken and evaluated at once; later changes of its semaphores evaluate it again (R345, R347). -/
def execPktBarrier (world : Nat) (s : State) : Result :=
  .next (serveHead s world 2 fun bs =>
    let rid := 8 * world + pktRect bs
    let cs := barrierConds bs
    if !pktHold bs && decide (16 ≤ outstanding (worldAt s world)) then s
    else
      let s := takeHead s world
      if barrierHolds s rid cs then raiseIrq s world (pktIrq bs)
      else addPkt s world (.barrier (pktRect bs) cs (pktHold bs)) (pktIrq bs))

/-! ### COPY (R345) -/

/-- PKT_COPY: a COPY is taken while fewer than 16 are outstanding (R328, R347). -/
def execPktCopy (world : Nat) (s : State) : Result :=
  .next (serveHead s world 3 fun bs =>
    if isMoving s (8 * world + pktRect bs) || decide (16 ≤ outstanding (worldAt s world)) then s
    else
      addPkt (takeHead s world) world
        (.copy (pktRect bs) (BitVec.ofNat 64 (field bs 0 8)) (BitVec.ofNat 64 (field bs 16 8)) (field bs 24 4) (semWord (field bs 28 2)) 0 false)
        (pktIrq bs))

/-- The first byte of a range of global memory that extents of a world do not cover with a right, and its cause (R97). -/
def spanFault (s : State) (w : Nat) (acc : Acc) : Nat → Nat → Nat → Option (Nat × Nat)
  | 0, _, _ => none
  | fuel + 1, a, len =>
    if len = 0 then none
    else
      match extentAt s w a with
      | none => some (0x064, a)
      | some (_, e) =>
        if (needsRd acc && !e.rd) || (needsWr acc && !e.wr) then some (0x065, a)
        else
          let top := (e.vbase + e.len) * 0x200000
          spanFault s w acc fuel top (len - (top - a))

/-- The check of one end of a host COPY: space 0x00, extents and rights. -/
def copySpanFault (s : State) (w : Nat) (acc : Acc) (a : W64) (len : Nat) : Option (Nat × Nat) :=
  let sel := selector a
  if !isSpace sel then some (0x060, a.toNat)
  else if sel ≠ 0 then some (0x063, a.toNat)
  else spanFault s w acc (s.extents.length + 2) (a.toNat % 2 ^ 56) len

/-- Bytes from an address to the end of its extent. -/
def extentRest (s : State) (w : Nat) (a : W64) : Nat :=
  match extentAt s w (a.toNat % 2 ^ 56) with
  | some (_, e) => (e.vbase + e.len) * 0x200000 - a.toNat % 2 ^ 56
  | none => 0

/-- Change an outstanding packet by its number. -/
def modPkt (s : State) (w id : Nat) (f : Pkt → Pkt) : State :=
  modWorld s w fun q => { q with pkts := q.pkts.map fun k => if k.id = id then f k else k }

/-- An outstanding COPY ends: it leaves the count and raises its vector; one that succeeded adds to its semaphore
(R345). -/
def endCopy (s : State) (w : Nat) (k : Pkt) (rid : Nat) (sem : Option (Nat × Nat)) : State :=
  let s := completePkts s w fun x => x.id == k.id
  match sem with
  | some (d, i) => if (rectAt s rid).live then semAdd s rid d i 1 else s
  | none => s

/-- A COPY fails: its cause is posted as kind 2, and it still completes (R345). -/
def failHostCopy (s : State) (w : Nat) (k : Pkt) (rid : Nat) (e : Nat × Nat) : State :=
  endCopy (post s w { cause := e.1, kind := 2, faddr := e.2 }) w k rid none

/-- Bytes that a piece of a COPY moves when n are asked for: whole 8-byte units where both addresses are aligned, since each is
written single-copy atomically (R241, R365). -/
def pieceLen (dst src : W64) (n : Nat) : Nat :=
  if dst.toNat % 8 = 0 ∧ src.toNat % 8 = 0 then max 8 (n / 8 * 8) else n

/-- One piece of a host COPY: up to 4 KiB inside one extent at each end. -/
def hostPiece (s : State) (w : Nat) (k : Pkt) (rid : Nat) (dst src : W64) (len prog n : Nat) (sem : Option (Nat × Nat)) : State :=
  let a := addrPlus src (Int.ofNat prog)
  let b := addrPlus dst (Int.ofNat prog)
  let m := min (min (pieceLen dst src n) 4096) (min (len - prog) (min (extentRest s w a) (extentRest s w b)))
  let who := whoHost w
  if writeHeld s who b m || !sem.all (fun x => semRuns s rid x.1) then s
  else
    match readError s w (homeOf s who a) m with
    | some e => failHostCopy s w k rid (e, a.toNat)
    | none =>
      if !served s w (homeOf s who b) m then failHostCopy s w k rid (0x080, b.toNat)
      else
        let p := homeOf s who b
        let s := bumpRange (writeKeys s p.key (memBytes s who a m)) p m
        if prog + m = len then endCopy s w k rid sem
        else modPkt s w k.id fun x => match x.work with
          | .copy r d c l e _ _ => { x with work := .copy r d c l e (prog + m) true }
          | _ => x

/-- HOST_COPY_COMPLETE: the I/O die's engine checks an outstanding COPY of a world whole, then moves its next bytes, at
most n of them; after the last the COPY completes (R328, R345). -/
def execHostCopyComplete (world k n : Nat) (s : State) : Result :=
  .next (match (worldAt s world).pkts[k]? with
    | none => s
    | some p =>
      match p.work with
      | .copy rect dst src len sem prog checked =>
        let rid := 8 * world + rect
        if isMoving s rid || (worldAt s world).st == .frozen then s
        else if checked then hostPiece s world p rid dst src len prog n sem
        else
          match copySpanFault s world .read src len with
          | some e => failHostCopy s world p rid e
          | none =>
            match copySpanFault s world .write dst len with
            | some e => failHostCopy s world p rid e
            | none => hostPiece s world p rid dst src len prog n sem
      | _ => s)

/-! ### The result of a PLACE (R346) -/

/-- Write the result of a PLACE at RESADDR and complete its packet; a result that cannot be written is posted as kind 4. -/
def placeResult (s : State) (w : Nat) (res : W64) (v : Nat) (irq : Option Nat) : State :=
  let who := whoHost w
  let fail := fun (e : Nat) => post s w { cause := e, kind := 4, faddr := res.toNat }
  let s := match translate s who res 8 8 .write [0] with
    | .error e => fail e
    | .ok () =>
      let p := homeOf s who res
      if !served s w p 8 then fail 0x080 else bumpRange (writeNat s p.key 8 v) p 8
  raiseIrq s w irq

/-- Serve a PLACE whose OP a test accepts, once its result can be written: the packet is taken, a RECT that the command
finds wrong gives BADRECT (R346). -/
def servePlace (s : State) (w : Nat) (ops : Nat → Bool) (f : List Byte → Nat → State → State) : State :=
  serveHead s w 1 fun bs =>
    let op := placeOp bs
    if !ops op || placeWaits s w bs then s
    else
      let rid := 8 * w + pktRect bs
      let s := takeHead s w
      if decide (6 ≤ op) || (op == 0) == (rectAt s rid).live then placeResult s w (pktRes bs) 10 (pktIrq bs)
      else f bs rid s

end Sys2Proof.Machine
end

