-- ==== Sys2Proof/Machine/Freeze.lean ====
section
/-!
DEFINITION. Sys2Proof/Machine/Freeze.lean: stopping and resuming a rectangle (R206, R246, R272, R308, R309), the events of a core
between blocks, the PLACE commands Freeze, Resume and Release (R346), and the Periscope's halt, step and resume (R302, R314).
-/
namespace Sys2Proof.Machine

/-! ### The end of a stop (R206, R246, R272, R308) -/

/-- A core stands between blocks in task mode, or is halted or in debug halt, in handler mode too (R308, R309). -/
def coreStopped (k : Core) : Bool :=
  k.csr.halted || debugHalted k || (!k.csr.hmode && (match k.phase with
    | .run _ => false
    | _ => true))

/-- An array is not sending the values of an MDRAIN or a chain, which finish first (R206). -/
def arrayQuiet (k : Core) : Bool :=
  match k.arr.st with
  | .drained => false
  | .sending _ => false
  | _ => true

/-- Every core has stopped and every array is quiet. -/
def allStopped (s : State) (rid : Nat) : Bool :=
  (rectAt s rid).cores.all fun k => coreStopped k.2 && arrayQuiet k.2

/-- Cores that still run (R309). -/
def runningCores (s : State) (rid : Nat) : List Nat :=
  ((rectAt s rid).cores.filter fun k => !coreStopped k.2).map (·.1)

/-- The slots of the started commands of a rectangle's stream queues change state (R246). -/
def markStreams (s : State) (rid : Nat) (from_ into : SlotPh) : State :=
  (rectAt s rid).tiles.foldl (fun s t => t.2.ports.foldl (fun s p =>
    match p.2 with
    | q :: _ => if q.started then (slotsOf s rid t.1 q.work).foldl (fun s k =>
        modSlot s rid t.1 k fun x => if x.st = from_ then { x with st := into } else x) s else s
    | [] => s) s) s

/-- The pins of a core's copy queue are released: a started copy translates again when it goes on (R104, R246). -/
def saveCopies (s : State) (rid c : Nat) : State :=
  let pins := (copyQ s rid c).flatMap (·.pins)
  let s := (copyQ s rid c).foldl (fun s q => dropPins s q.pins) s
  if pins.isEmpty then s
  else setCopyQ s rid c ((copyQ s rid c).map fun q =>
    { q with pins := [], started := q.started && (copyOf q.work).isNone })

/-- Engines save their progress and boards stop (R308 steps 4 and 5). -/
def saveEngines (s : State) (rid : Nat) : State :=
  let s := (List.range (coreCount (rectAt s rid))).foldl (fun s c => saveCopies (stopBoards (preemptArray s rid c) rid c) rid c) s
  markStreams s rid .running .frozen

/-- Write the result of a PLACE Freeze; while the write must wait the result is kept (R103, R346). -/
def giveResult (s : State) (w : Nat) (p : Placing) (v : Nat) : State :=
  if writeHeld s (whoHost w) p.res 8 then modWorld s w fun q => { q with placing := some { p with result := some v } }
  else placeResult (modWorld s w fun q => { q with placing := none }) w p.res v p.irq

/-- A PLACE Freeze of the rectangle ends with a result, where it has none yet (R346). -/
def endFreeze (s : State) (rid v : Nat) : State :=
  let w := worldOf rid
  match (worldAt s w).placing with
  | some p => if 8 * w + p.slot = rid ∧ p.result = none then giveResult s w p v else s
  | none => s

/-- The device reports a rectangle frozen (R308 step 6): report code 1. -/
def reportFrozen (s : State) (rid : Nat) : State := emit s (.report rid [1])

/-- The rectangle is frozen. -/
def freezeNow (s : State) (rid : Nat) : State :=
  endFreeze (reportFrozen (modRect (saveEngines s rid) rid fun r => { r with freeze := .frozen }) rid) rid 0

/-- A stop that every core has reached ends, while every clock runs (R350, log 63); the placer's own stop ends at the cut (R325). -/
def settleStop (s : State) (rid : Nat) : State :=
  let r := rectAt s rid
  if r.live ∧ (r.freeze = .stopping ∨ r.freeze = .stuck) ∧ !isMoving s rid ∧ allStopped s rid ∧ clocksRun s then freezeNow s rid else s

/-- Stop a rectangle (R308). -/
def startStop (s : State) (rid : Nat) : State :=
  if (rectAt s rid).freeze = .running then
    settleStop (abandonAll (modRect s rid fun r => { r with freeze := .stopping }) rid) rid
  else settleStop s rid

/-! ### Resuming (R246, R272, R309) -/

/-- A trap that was deferred to the resume is taken (R293, R309). -/
def takeDeferred (s : State) (rid c : Nat) : State :=
  let q := (coreAt s rid c).csr
  if !q.tpend then s
  else
    let s := modCsr s rid c fun q => { q with tpend := false }
    if q.hvec.getLsbD 63 then enterHandler s rid c else discardWith s rid c q.cause

/-- Resume a rectangle: deferred traps first, then engines go on. -/
def resumeRect (s : State) (rid : Nat) : State :=
  let cs := List.range (coreCount (rectAt s rid))
  let s := modRect s rid fun r => { r with freeze := .running }
  let s := cs.foldl (fun s c => takeDeferred s rid c) s
  let s := markStreams s rid .frozen .running
  cs.foldl (fun s c => if (arrAt s rid c).st = .idle then settleMatrix rid c 17 s else s) s

/-- Someone still wants the rectangle stopped: the host, or a frozen world (R338, R346). -/
def wantsStop (s : State) (rid : Nat) : Bool :=
  (rectAt s rid).hostStop || (worldAt s (worldOf rid)).st == .frozen

/-- Resume unless someone still wants it stopped or the placer holds it. -/
def tryResume (s : State) (rid : Nat) : State :=
  if (rectAt s rid).live ∧ (rectAt s rid).freeze ≠ .running ∧ !wantsStop s rid ∧ !isMoving s rid then resumeRect s rid else s

/-! ### A core between blocks -/

/-- BLOCK_FETCH (R45, R60); a core that is to stop stops here (R308). -/
def execBlockFetch (rid core : Nat) (s : State) : Result :=
  .next (if stopsHere s rid core then settleStop s rid else fetchCore rid core s)

/-- BLOCK_START (R43, R44, R308). -/
def execBlockStart (rid core : Nat) (s : State) : Result :=
  .next (if stopsHere s rid core then settleStop s rid else startCore rid core s)

/-- CORE_PICK (R157, R161, R168); a rectangle that stops picks nothing (R308, R325). -/
def execCorePick (rid core : Nat) (s : State) : Result :=
  .next (if stopsHere s rid core then settleStop s rid else pickCore rid core s)

/-- TASK_LAUNCH (R149, R308). -/
def execTaskLaunch (rid core : Nat) (s : State) : Result :=
  .next (if stopsHere s rid core then settleStop s rid else launchCore rid core s)

/-- BLOCK_COMPLETE (R50, R51, R83, R153); the last core to stop ends the stop (R309). -/
def execBlockComplete (rid core : Nat) (s : State) : Result :=
  .next (settleStop (completeCore rid core s) rid)

/-! ### PLACE Freeze and Resume (R308, R309, R346) -/

/-- PLACE_FREEZE: the stop starts; a later event finds it ended, or writes the result that had to wait. -/
def execPlaceFreeze (world : Nat) (s : State) : Result :=
  .next (match (worldAt s world).placing with
    | some p =>
      match p.result with
      | some v => giveResult s world p v
      | none => settleStop s (8 * world + p.slot)
    | none =>
      servePlace s world (fun op => op == 2) fun bs rid s =>
        let s := modRect s rid fun r => { r with hostStop := true }
        if (rectAt s rid).freeze = .frozen then placeResult s world (pktRes bs) 0 (pktIrq bs)
        else startStop (modWorld s world fun q => { q with placing := some { slot := pktRect bs, res := pktRes bs, irq := pktIrq bs } }) rid)

/-- BOUND_BLOCK_LIMIT: where a core still runs a bound block, the device reports the world stuck and names the cores: report code 2
(R309). -/
def execBoundBlockLimit (rid : Nat) (s : State) : Result :=
  .next (
    let r := rectAt s rid
    if r.live ∧ (r.freeze = .stopping ∨ r.freeze = .stuck) ∧ !isMoving s rid ∧ !(runningCores s rid).isEmpty then
      let s := modRect s rid fun r => { r with freeze := .stuck }
      endFreeze (emit s (.report rid (2 :: runningCores s rid))) rid 11
    else settleStop s rid)

/-- PLACE_RESUME (R309, R346). -/
def execPlaceResume (world : Nat) (s : State) : Result :=
  .next (servePlace s world (fun op => op == 3) fun bs rid s =>
    let s := tryResume (modRect s rid fun r => { r with hostStop := false }) rid
    placeResult s world (pktRes bs) 0 (pktIrq bs))

/-! ### Releasing a rectangle (R339 steps 1 and 4, R346) -/

/-- Matrix operations of a rectangle that hold keys (R334). -/
def keyedOps (s : State) (rid : Nat) : List Nat :=
  (rectAt s rid).cores.filterMap fun k => if k.2.arr.keys.isSome then k.2.arr.q.head?.map (·.hdr.uid) else none

/-- The cells of a rectangle are written: their data is whole (R98). -/
def scrubCells (s : State) (rid : Nat) : State :=
  let stays := fun k => !(decide (cellKey rid 0 0 ≤ k) && decide (k < cellKey (rid + 1) 0 0))
  { s with bad := s.bad.filter stays, poison := s.poison.filter stays }

/-- Scrub every byte of a rectangle: scratchpads, memory tiles, windows, cells, instruction stores. -/
def scrubRect (s : State) (rid : Nat) : State :=
  let s := scrub (scrubCells s rid) (Place.key (.scr rid 0 0)) (Place.key (.scr (rid + 1) 0 0))
  let s := scrub s (Place.key (.mt rid 0 0)) (Place.key (.mt (rid + 1) 0 0))
  let s := scrub s (Place.key (.db rid 0 0)) (Place.key (.db (rid + 1) 0 0))
  scrub s (Place.key (.ist rid 0 0)) (Place.key (.ist (rid + 1) 0 0))

/-- Monitors of a rectangle are cleared. -/
def scrubMonitors (s : State) (rid : Nat) : State :=
  { s with monitors := s.monitors.filter fun m => !monFor s rid m.1 }

/-- Stop a rectangle at once, cancel its engine commands without signalling, scrub it and free it. A move of it is
abandoned (R328, R339). -/
def releaseRect (s : State) (rid : Nat) : State :=
  let r := rectAt s rid
  let s := r.cores.foldl (fun s k => k.2.copyq.foldl (fun s q => dropPins s q.pins) s) s
  let s := (List.range 4).foldl (fun s d => modDie s d fun x =>
    { x with leaves := x.leaves.filter (fun l => l.rid != rid), reqs := x.reqs.filter (fun l => l.rid != rid) }) s
  let s := answerKeys s (worldOf rid) (keyedOps s rid)
  let s := scrubMonitors (scrubRect s rid) rid
  let s := if isMoving s rid then
      { s with pass := { s.pass with moving := none }, host := { s.host with compAband := min 255 (s.host.compAband + 1) } }
    else s
  { s with rects := tdel s.rects rid, pass := { s.pass with todo := s.pass.todo.filter (· != rid) } }

/-! ### The Periscope's run control (R302, R303, R314) -/

/-- The Periscope serves a world that its session has unlocked; another request is refused with 0x163 (R314). -/
def periscope (s : State) (w : Nat) (f : State → State) : State :=
  if (worldAt s w).unlocked then f s else postWorld s w 0x163 7

/-- What the Periscope does to a rectangle waits for every clock (R350, log 63). -/
def periscopeRect (s : State) (rid : Nat) (f : State → State) : State :=
  periscope s (worldOf rid) fun s => if (rectAt s rid).live && clocksRun s then f s else s

/-- PERISCOPE_HALT: debug halt of every core; one that stands in it, or runs a step, in handler mode goes no further for it (R302,
R314). -/
def execPeriscopeHalt (rid : Nat) (s : State) : Result :=
  .next (periscopeRect s rid fun s =>
    let s := abandonAll s rid
    (List.range (coreCount (rectAt s rid))).foldl (fun s c =>
      modCore s rid c fun k =>
        { k with stepping := k.stepping && k.csr.hmode, stepped := debugHalted k, csr := { k.csr with dbg := true } }) s)

/-- A halted core leaves handler mode and picks (R296). -/
def unhalt (s : State) (rid c : Nat) : State :=
  if !(coreAt s rid c).csr.halted then s
  else freeCore (releaseTask (modCsr s rid c fun q => { q with halted := false, hmode := false, cread := false }) rid c) rid c

/-- PERISCOPE_RESUME: DBG is cleared on every core, BPSKIP set on the core that matched, and halted cores run again
(R296, R302). -/
def execPeriscopeResume (rid : Nat) (s : State) : Result :=
  .next (periscopeRect s rid fun s =>
    (List.range (coreCount (rectAt s rid))).foldl (fun s c =>
      unhalt (modCore s rid c fun k =>
        { k with stepping := false, stepped := false, csr := { k.csr with dbg := false, matched := false, bpskip := k.csr.bpskip || k.csr.matched } }) rid c) s)

/-- PERISCOPE_STEP: one core of a rectangle in debug halt runs until its next block completes; a halted one leaves handler mode first,
and picks (R296, R314). -/
def execPeriscopeStep (rid core : Nat) (s : State) : Result :=
  .next (periscopeRect s rid fun s =>
    if !inDebug s rid || !decide (core < coreCount (rectAt s rid)) then s
    else unhalt (modCore s rid core fun k =>
      { k with stepping := true, stepped := false, csr := { k.csr with dbg := true, matched := false, bpskip := k.csr.bpskip || k.csr.matched } })
      rid core)

end Sys2Proof.Machine
end

