-- ==== Sys2Proof/Machine/Image.lean ====
section
/-!
DEFINITION. Sys2Proof/Machine/Image.lean: the Imnel image (R317 to R320): its container, its records and the checks of them
(R23, R31, R321 step 1).
-/
namespace Sys2Proof.Machine

/-! ### Global memory read whole (R97, R98, R333) -/

/-- n bytes of a world's global memory, granule by granule; none where the lease, a channel or ECC refuses some. -/
def readSpan (s : State) (w : Nat) : Nat → Nat → Nat → Option (List Byte)
  | 0, _, n => if n = 0 then some [] else none
  | fuel + 1, a, n =>
    if n = 0 then some []
    else
      match extentAt s w a with
      | none => none
      | some (_, e) =>
        let m := min n (0x200000 - a % 0x200000)
        let p := physical e a
        if !e.rd || (readError s w p m).isSome then none
        else (readSpan s w fuel (a + m) (n - m)).map fun bs => readKeys s p.key m ++ bs

/-- n bytes at an address of space 0x00. -/
def readWorld (s : State) (w : Nat) (a : W64) (n : Nat) : Option (List Byte) :=
  if selector a ≠ 0 then none else readSpan s w (n / 0x200000 + 2) a.toNat n

/-! ### Directory (R318) -/

/-- A section: its type, offset and length. -/
structure Section where
  ty : Nat
  off : Nat
  len : Nat
  deriving DecidableEq, Repr

/-- The directory of an image. -/
def sections (bs : List Byte) : List Section :=
  (List.range (min (field bs 12 4) 11)).map fun i =>
    { ty := field bs (64 + 16 * i) 2, len := field bs (68 + 16 * i) 4, off := field bs (72 + 16 * i) 8 }

def sectionOf (bs : List Byte) (ty : Nat) : Option Section := (sections bs).find? fun x => x.ty == ty

/-- The bytes of a section; an absent one has none. -/
def sectionBytes (bs : List Byte) (ty : Nat) : List Byte :=
  match sectionOf bs ty with
  | some x => (bs.drop x.off).take x.len
  | none => []

/-- Records of n bytes. -/
def records (n : Nat) (bs : List Byte) : List (List Byte) :=
  (List.range (bs.length / n)).map fun i => (bs.drop (n * i)).take n

/-- Two sections share a byte. -/
def overlapping (x y : Section) : Bool := decide (x.off < y.off + y.len) && decide (y.off < x.off + x.len)

/-- No two sections overlap, and no type appears twice. -/
def disjoint : List Section → Bool
  | [] => true
  | x :: l => l.all (fun y => !overlapping x y && x.ty != y.ty) && disjoint l

/-- The container of an image outside R317 or R318. -/
def badContainer (bs : List Byte) : Bool :=
  let n := field bs 12 4
  let w := field bs 8 1
  let h := field bs 9 1
  let ss := sections bs
  let has := fun t => ss.any fun x => x.ty == t
  let tot := field bs 16 8
  field bs 0 4 != 0x4C4E4D49 || decide (4 ≤ field bs 7 1) || w * h == 0 || decide (24 < w * h) || field bs 10 1 == 0 ||
  decide (16 < field bs 10 1) || field bs 11 1 != 0 || decide (n < 4) || decide (11 < n) || tot != bs.length ||
  field bs 24 4 % 4096 != 0 || decide (33554432 < field bs 24 4) || field bs 28 4 % 32 != 0 || decide (4194304 < field bs 28 4) ||
  decide (1024 < field bs 32 2) || field bs 34 30 != 0 || decide (bs.length < 64 + 16 * n) ||
  (List.range n).any (fun i => field bs (66 + 16 * i) 2 != 0) ||
  ss.any (fun x => x.ty == 0 || decide (11 < x.ty) || x.off % 64 != 0 || decide (x.off < 64 + 16 * n) || decide (tot < x.off + x.len)) ||
  !disjoint ss || !has 1 || !has 2 || !has 7 || !has 11 || (has 8 != (field bs 7 1 / 2 % 2 == 1)) ||
  (match sectionOf bs 11 with
    | some x => x.len != 4672 || x.off + x.len != tot || field (sectionBytes bs 11) 4627 45 != 0 || ss.any fun y => decide (x.off < y.off)
    | none => true)

/-! ### The image as its records say (R319) -/

structure IStage where
  entry : Nat
  queue : Nat
  min : Nat
  max : Nat
  depth : Nat
  deriving DecidableEq, Repr

structure IQueue where
  x : Nat
  y : Nat
  isTask : Bool
  spillGlobal : Bool
  cap : Nat
  deriving DecidableEq, Repr

structure IPort where
  stage : Nat
  port : Nat
  queue : Nat
  pop : Bool
  deriving DecidableEq, Repr

structure IPattern where
  x : Nat
  y : Nat
  slot : Nat
  desc : BitVec 512
  deriving DecidableEq, Repr

structure IRegion where
  stage : Nat
  rights : Nat
  len : Nat
  deriving DecidableEq, Repr

/-- Contents: of a region, or of a memory tile (`tile`). -/
structure IData where
  tile : Bool
  region : Nat
  x : Nat
  y : Nat
  off : Nat
  bytes : List Byte
  deriving DecidableEq, Repr

/-- The records of an image. -/
structure Image where
  w : Nat
  h : Nat
  seam : Bool
  dbwin : Nat
  cellwin : Nat
  nsem : Nat
  stages : List IStage
  queues : List IQueue
  ports : List IPort
  patterns : List IPattern
  regions : List IRegion
  requires : List (Nat × Nat)
  code : List Byte
  handler : Option (List Byte)
  data : List IData
  deriving DecidableEq, Repr

/-- Bytes of a DATA record: its header, and its contents padded to 8. -/
def dataSize (bs : List Byte) : Nat := 16 + (field bs 8 4 + 7) / 8 * 8

/-- The DATA records of a section; none where the last is cut short. -/
def dataRecords : Nat → List Byte → Option (List (List Byte))
  | 0, bs => if bs.isEmpty then some [] else none
  | fuel + 1, bs =>
    if bs.isEmpty then some []
    else
      let n := dataSize bs
      if bs.length < 16 ∨ bs.length < n then none else (dataRecords fuel (bs.drop n)).map fun l => bs.take n :: l

/-- A record whose zero fields or ranges are wrong, by its section's type (R319). -/
def badRecord (ty : Nat) (r : List Byte) : Bool :=
  match ty with
  | 1 => decide (16384 ≤ field r 0 2) || decide (192 < field r 4 1) || decide (8 < field r 5 1) || field r 6 10 != 0
  | 2 => decide (4 ≤ field r 2 1) || field r 3 1 != 0 || field r 8 8 != 0
  | 3 => decide (62 < field r 1 1) || decide (2 ≤ field r 3 1)
  | 4 => decide (16 ≤ field r 2 1) || field r 3 5 != 0
  | 5 => field r 1 1 == 0 || decide (4 ≤ field r 1 1) || field r 2 2 != 0
  | 6 => decide (2 ≤ field r 0 1) || (field r 0 1 == 0 && decide (16 ≤ field r 1 1)) || (field r 0 1 == 1 && decide (8 ≤ field r 1 1))
  | 9 => decide (2 ≤ field r 0 1) || (field r 0 1 == 1 && (field r 1 1 != 0 || field r 4 4 != 0)) ||
      (field r 0 1 == 0 && (field r 2 1 != 0 || field r 3 1 != 0)) || field r 12 4 != 0
  | _ => false

/-- Bytes of a record of each fixed section. -/
def recordSize (ty : Nat) : Nat :=
  match ty with
  | 1 => 16 | 2 => 16 | 3 => 4 | 4 => 72 | 5 => 8 | 6 => 2 | _ => 4

/-- Some section's length is no whole number of records, or some record is malformed. -/
def badRecords (bs : List Byte) : Bool :=
  ([1, 2, 3, 4, 5, 6, 7, 8].any fun ty =>
    (sectionBytes bs ty).length % recordSize ty != 0 || (records (recordSize ty) (sectionBytes bs ty)).any (badRecord ty)) ||
  (match dataRecords (sectionBytes bs 9).length (sectionBytes bs 9) with
    | none => true
    | some rs => rs.any (badRecord 9))

def toData (r : List Byte) : IData :=
  { tile := field r 0 1 == 1, region := field r 1 1, x := field r 2 1, y := field r 3 1, off := field r 4 4,
    bytes := (r.drop 16).take (field r 8 4) }

/-- The records of a well-formed container. -/
def imageOf (bs : List Byte) : Image :=
  let recs := fun ty => records (recordSize ty) (sectionBytes bs ty)
  { w := field bs 8 1, h := field bs 9 1, seam := field bs 7 1 % 2 == 1, dbwin := field bs 24 4, cellwin := field bs 28 4,
    nsem := field bs 32 2,
    stages := (recs 1).map fun r => { entry := field r 0 2, queue := field r 2 1, min := field r 3 1, max := field r 4 1, depth := field r 5 1 },
    queues := (recs 2).map fun r => { x := field r 0 1, y := field r 1 1, isTask := field r 2 1 % 2 == 1,
                                      spillGlobal := field r 2 1 / 2 == 1, cap := field r 4 4 },
    ports := (recs 3).map fun r => { stage := field r 0 1, port := field r 1 1, queue := field r 2 1, pop := field r 3 1 == 1 },
    patterns := (recs 4).map fun r => { x := field r 0 1, y := field r 1 1, slot := field r 2 1, desc := recOfBytes (r.drop 8) },
    regions := (recs 5).map fun r => { stage := field r 0 1, rights := field r 1 1, len := field r 4 4 },
    requires := (recs 6).map fun r => (field r 0 1, field r 1 1),
    code := sectionBytes bs 7,
    handler := if (sectionOf bs 8).isSome then some (sectionBytes bs 8) else none,
    data := ((dataRecords (sectionBytes bs 9).length (sectionBytes bs 9)).getD []).map toData }

/-! ### The rules of the records (R23, R31, R144, R145) -/

/-- Storage of a queue in its memory tile (R145). -/
def IQueue.bytes (q : IQueue) : Nat := (if q.isTask then 64 else 8) * q.cap + 64

/-- A memory tile of the rectangle (R9, R23). -/
def Image.isTile (m : Image) (x y : Nat) : Bool := decide (x < 4 * m.w) && decide (y < 4 * m.h) && (x + y) % 2 == 1

/-- Where the queue storage of a tile begins (R145). -/
def Image.storage (m : Image) (x y : Nat) : Nat := ((m.queues.filter fun q => q.x == x && q.y == y).map (·.bytes)).sum
def Image.qbase (m : Image) (x y : Nat) : Nat := 0x200000 - m.storage x y

/-- The instructions of each block of a code section: blocks are packed from its first word (R34). A word that is no header is
taken as a block of its own and left to the fetch (log 83). -/
def blocksOf : Nat → List (BitVec 32) → List (List (BitVec 32))
  | 0, _ => []
  | _, [] => []
  | n + 1, w :: ws =>
    if w.extractLsb' 28 4 = 0xE#4 then
      let k := (w.extractLsb' 0 6).toNat + 1
      ws.take k :: blocksOf n (ws.drop k)
    else blocksOf n ws

/-- The word of an exit instruction. R31 does not say whether an exit word that R61 refuses counts as the exit of its block: here one
with a nonzero unused field does not, and one with PR 0b11 does (log 83). -/
def isExitWord (w : BitVec 32) : Bool :=
  match decodeRow w with
  | some i => isExit i
  | none => false

/-- R31, field not in format: a target on an instruction that takes none. -/
def extraTarget (w : BitVec 32) : Bool :=
  match decodeLoose w with
  | .ok (_, vs) => vs.contains 6
  | .error _ => false

/-- A word of a format without PR: CONST, CONSTH or GET (R55, R58). -/
def withoutPr (w : BitVec 32) : Bool :=
  let op := (w.extractLsb' 25 7).toNat
  op == 0x30 || op == 0x31 || op == 0x32

/-- R31, field not in format: a target of a word names the predicate of a slot whose format has none. -/
def extraPredicate (b : List (BitVec 32)) (w : BitVec 32) : Bool :=
  match decodeLoose w with
  | .ok (i, _) => (targetsOf i).any fun t => match target t with
      | .predicate m => (b[m]?.map withoutPr).getD false
      | _ => false
  | .error _ => false

/-- The bits above the immediate of a word's format S instruction that belong to its imm10 field and must be zero (R207, R263, R279,
R282, R300): the number of imm10 bits that the immediate has. -/
def immediateBits (op xop : Nat) (w : BitVec 32) : Option Nat :=
  match op, xop with
  | 0x72, 1 => some 2
  | 0x78, 0 => some 7
  | 0x78, 2 => some 3
  | 0x78, 3 => if w.getLsbD 9 then some 4 else none
  | 0x79, 0 => some 3
  | 0x79, 1 => some 3
  | 0x7A, 0 => some 5
  | 0x7B, 0 => some 8
  | 0x7B, 1 => some 8
  | 0x7C, 0 => some 4
  | 0x7C, 2 => some 8
  | 0x7E, 1 => some 5
  | _, _ => none

/-- R31, immediate range: a shift count or a bit position above 63 or a width above 64 in its 14-bit field, a stage above
15 in QLEN or QRSV, an immediate of format S that passes its field of imm10, and an offset of −524,288 words in an exit, which the
assembler refuses (R73, R74, R80, R151). -/
def badImmediate (w : BitVec 32) : Bool :=
  let op := (w.extractLsb' 25 7).toNat
  let kind := (w.extractLsb' 22 3).toNat
  if op == 0x15 || op == 0x16 || op == 0x17 || op == 0x1F || op == 0x20 then w.extractLsb' 15 8 != 0#8
  else if op == 0x21 then w.getLsbD 21
  else if op == 0x22 then w.extractLsb' 21 2 != 0#2
  else if op == 0x5B || op == 0x5C then w.getLsbD 18 && w.extractLsb' 13 5 != 0#5
  else if op == 0x38 then (kind == 0 || kind == 2 || kind == 6) && w.extractLsb' 0 20 == 0x80000#20
  else
    match immediateBits op (w.extractLsb' 19 4).toNat w with
    | some n => decide (2 ^ n ≤ (w.extractLsb' 9 10).toNat)
    | none => false

/-- A code section with a block that R31 refuses: one without an exit, with a field that is not in the format, or with an immediate
outside its range. -/
def badCode (bs : List Byte) : Bool :=
  let ws := (records 4 bs).map fun w => BitVec.ofNat 32 (natOf w)
  (blocksOf ws.length ws).any fun b => !b.any isExitWord || b.any fun w => extraTarget w || extraPredicate b w || badImmediate w

/-- How often an element stands in a list. -/
def times {α : Type} (p : α → Bool) (l : List α) : Nat := (l.filter p).length

/-- A record that breaks R23, R144, R145 or a refusal of R31 other than Data overflow. -/
def Image.refused (m : Image) : Bool :=
  let ns := m.stages.length
  let nq := m.queues.length
  let isTask := fun i => (m.queues[i]?.map (·.isTask)).getD false
  m.stages.any (fun g => decide (nq ≤ g.queue) || !isTask g.queue || g.min == 0 || decide (g.max < g.min) || decide (8 * m.w * m.h < g.max)) ||
  decide (8 * m.w * m.h < (m.stages.map (·.min)).sum) ||
  m.queues.any (fun q => !m.isTile q.x q.y || q.cap == 0 || decide ((if q.isTask then 4096 else 32768) < q.cap) ||
    (q.spillGlobal && !q.isTask) || decide (0x200000 < m.storage q.x q.y)) ||
  m.ports.any (fun p => decide (ns ≤ p.stage) || decide (nq ≤ p.queue) || isTask p.queue ||
    decide (1 < times (fun q : IPort => q.stage == p.stage && q.port == p.port) m.ports) ||
    decide (1 < times (fun q : IPort => q.stage == p.stage && q.queue == p.queue && q.pop == p.pop) m.ports)) ||
  m.patterns.any (fun p => !m.isTile p.x p.y || decide (1 < times (fun q : IPattern => q.x == p.x && q.y == p.y && q.slot == p.slot) m.patterns)) ||
  m.regions.any (fun g => decide (ns ≤ g.stage) || decide (8 < times (fun q : IRegion => q.stage == g.stage) m.regions)) ||
  decide (4 * 15360 < m.code.length) || decide (4 * 1024 < (m.handler.getD []).length) ||
  badCode m.code || badCode (m.handler.getD []) ||
  m.data.any fun d => if d.tile then !m.isTile d.x d.y else decide (m.regions.length ≤ d.region)

/-- Contents past their region or tile, or in queue storage (R31 Data overflow, R321 CONTENT). -/
def Image.overflows (m : Image) : Bool :=
  m.data.any fun d =>
    if d.tile then decide (m.qbase d.x d.y < d.off + d.bytes.length)
    else decide ((m.regions[d.region]?.map (·.len)).getD 0 < d.off + d.bytes.length)

/-! ### Signature and checks (R320, R321 step 1) -/

/-- The public key that signs a world's images (R320). -/
def signerOf (s : State) (w : Nat) : Option (BitVec 20736) := if w = 0 then some Config.firmwareSigner else (worldAt s w).signKey

/-- R320: the signature over the bytes before its section verifies under the world's key. -/
def signed (s : State) (w : Nat) (bs : List Byte) (x : Section) : Bool :=
  match signerOf s w with
  | none => false
  | some k => Config.mldsaAccepts k (Config.sha3_512 (bs.take x.off)) ((bs.drop x.off).take 4627)

/-- The image at an address, or the status of R321 that refuses it. -/
def loadImage (s : State) (w : Nat) (a : W64) : Except Nat (List Byte × Image) :=
  match readWorld s w a 64 with
  | none => .error 1
  | some hd =>
    match readWorld s w a (field hd 16 8) with
    | none => .error 1
    | some bs =>
      match sectionOf bs 11 with
      | none => .error 1
      | some x =>
        if !signed s w bs x then .error 2
        else if field bs 4 2 ≠ 1 ∨ field bs 6 1 ≠ 1 then .error 3
        else if badContainer bs || badRecords bs || (imageOf bs).stages.length != field bs 10 1 || (imageOf bs).refused then .error 1
        else if (imageOf bs).overflows then .error 9
        else .ok (bs, imageOf bs)

end Sys2Proof.Machine
end

