-- ==== Sys2Proof/Machine/Placer.lean ====
section
/-!
DEFINITION. Sys2Proof/Machine/Placer.lean: placing an image (R144, R145, R321 to R323), releasing a rectangle (R346), and
compaction with its moves (R324 to R328).
-/
namespace Sys2Proof.Machine

/-! ### Anchors (R322) -/

/-- The page of a rank (R8, R322). -/
def pageOfRank (k : Nat) : Nat × Nat := (6 * (k / 48) + k % 6, 4 * (k / 24 % 2) + k % 24 / 6)

/-- The rank of a page. -/
def rankOf (c r : Nat) : Nat := 24 * pageDie c r + 6 * (r % 4) + c % 6

/-- The pages of a place. -/
def pagesAt (w h c r : Nat) : List (Nat × Nat) := (List.range h).flatMap fun j => (List.range w).map fun i => (c + i, r + j)

/-- The dies of a place, rising. -/
def diesAt (w h c r : Nat) : List Nat := (List.range 4).filter fun d => (pagesAt w h c r).any fun p => pageDie p.1 p.2 == d

/-- The rectangle whose move under way goes to a page (R324, R325). -/
def movingOnto (s : State) (x y : Nat) : Option Nat :=
  match s.pass.moving with
  | some (rid, c, r) => if (pagesAt (rectAt s rid).w (rectAt s rid).h c r).contains (x, y) then some rid else none
  | none => none

/-- A page is held by no rectangle but `own`: neither by one that stands on it nor by one that is moving to it (R13, R324). -/
def pageFree (s : State) (own : Option Nat) (x y : Nat) : Bool :=
  (match rectOfPage s x y with
    | none => true
    | some e => own == some e.1) &&
  (match movingOnto s x y with
    | none => true
    | some rid => own == some rid)

/-- R322 at one anchor; the pages of rectangle `own` count as free, and every page lies on a die of the set. R13 and R322 bar a
placement from a gated die; that a page of a DRAINING or POWERING die takes none either is the model's choice (DESIGN CHOICE,
log 82). -/
def anchorOk (s : State) (own : Option Nat) (w h : Nat) (seam : Bool) (set : BitVec 4) (c r : Nat) : Bool :=
  decide (c + w ≤ 12) && decide (r + h ≤ 8) &&
  (pagesAt w h c r).all (fun p =>
    pageFree s own p.1 p.2 &&
    (dieAt s (pageDie p.1 p.2)).gate == .up && set.getLsbD (pageDie p.1 p.2)) &&
  (seam || decide ((diesAt w h c r).length ≤ 1))

/-- What a rectangle asks of a physical die: die buffer, cells, semaphores (R321 step 4). -/
abbrev Need := Nat × Nat × Nat

def addNeed (a b : Need) : Need := (a.1 + b.1, a.2.1 + b.2.1, a.2.2 + b.2.2)

/-- What the logical dies of a rectangle ask of a physical die under a map. -/
def needOf (dies : Tab LDie) (m : Tab Nat) (p : Nat) : Need :=
  (dies.filter fun d => tget d.1 m d.1 == p).foldl (fun n d => addNeed n (d.2.dbwin + d.2.spillBytes, d.2.cellwin, d.2.nsem)) (0, 0, 0)

/-- The die map a new place gives: logical dies in rising number onto its dies in rising number, cycling (R323). -/
def newMap (r : Rect) (ps : List Nat) : Tab Nat :=
  (List.range r.dieMap.length).filterMap fun i => r.dieMap[i]?.map fun e => (e.1, ps[i % ps.length]?.getD 0)

/-- The greater of two needs, part by part. -/
def maxNeed (a b : Need) : Need := (max a.1 b.1, max a.2.1 b.2.1, max a.2.2 b.2.2)

/-- What a rectangle holds of a physical die; one that is moving holds there what either of its places asks (R324, R328). -/
def heldBy (s : State) (rid : Nat) (r : Rect) (p : Nat) : Need :=
  let here := needOf r.dies r.dieMap p
  match s.pass.moving with
  | some (x, c, y) => if x = rid then maxNeed here (needOf r.dies (newMap r (diesAt r.w r.h c y)) p) else here
  | none => here

/-- What every other rectangle holds of a physical die. -/
def heldOn (s : State) (own : Option Nat) (p : Nat) : Need :=
  s.rects.foldl (fun n e => if e.2.live && own != some e.1 then addNeed n (heldBy s e.1 e.2 p) else n) (0, 0, 0)

/-- R16, R321 step 4: the allocations fit on every die of a place. -/
def fits (s : State) (own : Option Nat) (dies : Tab LDie) (m : Tab Nat) (ps : List Nat) : Bool :=
  ps.all fun p =>
    let n := addNeed (needOf dies m p) (heldOn s own p)
    decide (n.1 ≤ 67108864) && decide (n.2.1 ≤ 16777216) && decide (n.2.2 ≤ 4096)

/-! ### The cores of the stages (R144) -/

/-- Step 1 of R144: the minimum of each stage. -/
def minimums : Nat → List IStage → List Nat
  | _, [] => []
  | i, g :: gs => List.replicate g.min i ++ minimums (i + 1) gs

/-- One round of step 2: each stage below its maximum gets one more core. -/
def oneRound (gs : List IStage) (got : List Nat) : List Nat :=
  (List.range gs.length).filter fun i => decide (times (· == i) got < (gs[i]?.map (·.max)).getD 0)

/-- Step 2 of R144, round after round. -/
def rounds : Nat → List IStage → List Nat → List Nat
  | 0, _, got => got
  | n + 1, gs, got => rounds n gs (got ++ oneRound gs got)

/-- The stage of each core of a rectangle of n cores; none is the reserve. -/
def stageOfCore (gs : List IStage) (n c : Nat) : Option Nat := ((rounds n gs (minimums 0 gs)).take n)[c]?

/-! ### Writing global memory (R321 step 7) -/

/-- Write bytes at a world's global memory, granule by granule; the state with what was written, and whether all of it
was. -/
def writeSpan (s : State) (w : Nat) : Nat → Nat → List Byte → State × Bool
  | 0, _, bs => (s, bs.isEmpty)
  | fuel + 1, a, bs =>
    if bs.isEmpty then (s, true)
    else
      match extentAt s w a with
      | none => (s, false)
      | some (_, e) =>
        let m := min bs.length (0x200000 - a % 0x200000)
        let p := physical e a
        if !e.wr || !served s w p m || badIn s p.key m then (s, false)
        else writeSpan (bumpRange (writeKeys s p.key (bs.take m)) p m) w fuel (a + m) (bs.drop m)

/-! ### Placing (R321) -/

/-- The table of bases: the REGION records, then the global spill areas. -/
def basesOf (s : State) (w : Nat) (m : Image) (table : W64) : Option (List Nat) :=
  let n := m.regions.length + (m.queues.filter fun q => q.isTask && q.spillGlobal).length
  (readWorld s w table (8 * n)).map fun bs => (List.range n).map fun i => field bs (8 * i) 8

/-- R321 step 2: a base lies in space 0x00 and its area inside the extents with the rights. -/
def baseOk (s : State) (w base len : Nat) (rd wr : Bool) : Bool := decide (base < 2 ^ 56) && rangeCovered s w base len rd wr

/-- The index of a global spill queue among them. -/
def spillIndex (m : Image) (i : Nat) : Nat := ((m.queues.take i).filter fun q => q.isTask && q.spillGlobal).length

/-- The status step 2 of R321 refuses with. -/
def placeCause (s : State) (w : Nat) (m : Image) (bases : List Nat) : Option Nat :=
  let gs := m.queues.filter fun q => q.isTask && q.spillGlobal
  let nr := m.regions.length
  if 8 ≤ (s.rects.filter fun e => e.2.live && worldOf e.1 == w).length then some 5
  else if m.requires.any fun q => if q.1 = 0 then (tfind (worldAt s w).keys q.2).isNone else !boundTo s q.2 w then some 6
  else if (List.range nr).any (fun i => match m.regions[i]? with
      | some g => !baseOk s w (bases[i]?.getD 0) g.len (g.rights % 2 == 1) (g.rights / 2 == 1)
      | none => false) ||
    (List.range gs.length).any (fun i => match gs[i]? with
      | some q => !baseOk s w (bases[nr + i]?.getD 0) (512 * q.cap) true true || bases[nr + i]?.getD 0 % 64 != 0
      | none => false) then some 8
  else none

/-- The first anchor of R322. -/
def firstAnchor (s : State) (m : Image) : Option (Nat × Nat) :=
  ((List.range 96).map pageOfRank).find? fun p => anchorOk s none m.w m.h m.seam 15 p.1 p.2

/-- The logical dies of a new rectangle with what each holds (R321 step 4, R323). -/
def newDies (m : Image) (c r : Nat) : Tab LDie :=
  (diesAt m.w m.h c r).map fun d =>
    (d, { dbwin := m.dbwin, cellwin := m.cellwin, nsem := m.nsem,
          spillBytes := ((m.queues.filter fun q => q.isTask && !q.spillGlobal && pageDie (c + q.x / 4) (r + q.y / 4) == d).map fun q => 512 * q.cap).sum })

/-- The core state the loader writes (R321 step 5). -/
def newCore (m : Image) (c : Nat) : Core :=
  let st := stageOfCore m.stages (8 * m.w * m.h) c
  { stage := st,
    csr := { hvec := 0x8000000000003C00, depthmax := ((st.bind fun i => m.stages[i]?).map (·.depth)).getD 0 } }

/-- The memory tiles the loader writes (R321 step 6). -/
def newTiles (m : Image) : Tab MTile :=
  ((List.range (16 * m.w * m.h)).filter fun t => m.isTile (t % (4 * m.w)) (t / (4 * m.w))).map fun t =>
    let x := t % (4 * m.w)
    let y := t / (4 * m.w)
    (t, { qbase := m.qbase x y,
          slots := (m.patterns.filter fun p => p.x == x && p.y == y).foldl (fun l p => tset l p.slot { desc := p.desc, st := .loaded }) [] })

/-- The rectangle an image makes at an anchor. -/
def newRect (s : State) (m : Image) (bases : List Nat) (c r : Nat) (digest : BitVec 512) (bint h bl cl : Nat) : Rect :=
  let nr := m.regions.length
  { live := true, w := m.w, h := m.h, ax := c, ay := r, age := s.nextId, seamOk := m.seam,
    dieMap := (diesAt m.w m.h c r).map fun d => (d, d),
    blimit := if bl = 0 then 50 else bl, climit := if cl = 0 then 1000 else cl, digest := digest,
    stages := (List.range m.stages.length).filterMap fun i => m.stages[i]?.map fun g =>
      (i, { entry := g.entry, queue := g.queue, min := g.min, max := g.max, depth := g.depth,
            ports := (m.ports.filter fun p => p.stage == i).map fun p => { port := p.port, queue := p.queue, pop := p.pop },
            regions := ((List.range nr).filterMap fun j => m.regions[j]?.bind fun x =>
              if x.stage = i then some { base := bases[j]?.getD 0, len := x.len, rd := x.rights % 2 == 1, wr := x.rights / 2 == 1 } else none) }),
    queues := (List.range m.queues.length).filterMap fun i => m.queues[i]?.map fun q =>
      (i, { isTask := q.isTask, tile := q.y * 4 * m.w + q.x, cap := q.cap, spillGlobal := q.spillGlobal,
            spillBase := if q.spillGlobal then bases[nr + spillIndex m i]?.getD 0 else 0 }),
    cores := (List.range (8 * m.w * m.h)).map fun k => (k, newCore m k),
    tiles := newTiles m, dies := newDies m c r,
    bal := { interval := 8 * (bint + 1), h := if h = 0 then 256 else h } }

/-- CODE and the handler in every core's instruction store (R321 step 5). -/
def writeStores (s : State) (rid : Nat) (m : Image) : State :=
  let handler := match m.handler with
    | some bs => bs
    | none => Config.defaultHandler.flatMap fun w => bytesOf 4 w.toNat
  (List.range (8 * m.w * m.h)).foldl (fun s c =>
    writeKeys (writeKeys s (Place.key (.ist rid c 0)) m.code) (Place.key (.ist rid c 61440)) handler) s

/-- Contents of memory tiles (R321 step 6). -/
def writeTiles (s : State) (rid : Nat) (m : Image) : State :=
  m.data.foldl (fun s d => if d.tile then writeKeys s (Place.key (.mt rid (d.y * 4 * m.w + d.x) d.off)) d.bytes else s) s

/-- Contents of regions; false where a write is refused (R321 step 7). -/
def writeRegions (s : State) (w : Nat) (m : Image) (bases : List Nat) : State × Bool :=
  m.data.foldl (fun x d => if d.tile || !x.2 then x
    else writeSpan x.1 w (d.bytes.length / 0x200000 + 2) (bases[d.region]?.getD 0 + d.off) d.bytes) (s, true)

/-- R321 from step 2: the state and the result word. -/
def placeImage (s : State) (w rid : Nat) (pkt : List Byte) : State × Nat :=
  match loadImage s w (BitVec.ofNat 64 (field pkt 0 8)) with
  | .error e => (s, e)
  | .ok (bs, m) =>
    match basesOf s w m (BitVec.ofNat 64 (field pkt 16 8)) with
    | none => (s, 8)
    | some bases =>
      match placeCause s w m bases with
      | some e => (s, e)
      | none =>
        match firstAnchor s m with
        | none => (s, 4)
        | some (c, r) =>
          let ds := diesAt m.w m.h c r
          if !fits s none (newDies m c r) (ds.map fun d => (d, d)) ds then (s, 7)
          else if m.patterns.any fun p => badDescriptor p.desc then (s, 9)
          else
            match writeRegions s w m bases with
            | (s, false) => (s, 8)
            | (s, true) =>
              let digest := Config.sha3_512 (bs.take (((sectionOf bs 11).map (·.off)).getD 0))
              let r' := newRect s m bases c r digest (field pkt 33 1) (field pkt 34 2) (field pkt 36 2) (field pkt 38 2)
              let s := (fresh (setRect (scrubRect s rid) rid r')).2
              (writeTiles (writeStores s rid m) rid m, c * 256 + r * 65536)

/-- PLACE_IMAGE (R321, R346); a PLACE of an OP from 6 to 15 gives BADRECT. -/
def execPlaceImage (world : Nat) (s : State) : Result :=
  .next (servePlace s world (fun op => op == 0 || decide (6 ≤ op)) fun bs rid s =>
    let p := placeImage s world rid bs
    placeResult p.1 world (pktRes bs) p.2 (pktIrq bs))

/-! ### Compaction (R324) -/

/-- R324: all pages of a rectangle lie on dies of the set. -/
def eligible (r : Rect) (set : BitVec 4) : Bool := (diesAt r.w r.h r.ax r.ay).all fun d => set.getLsbD d

/-- The anchor a rectangle moves to: the lowest that qualifies, when its rank is lower (R324). -/
def moveTarget (s : State) (rid : Nat) (set : BitVec 4) : Option (Nat × Nat) :=
  let r := rectAt s rid
  (((List.range (rankOf r.ax r.ay)).map pageOfRank).find? fun p =>
    anchorOk s (some rid) r.w r.h r.seamOk set p.1 p.2 &&
    fits s (some rid) r.dies (newMap r (diesAt r.w r.h p.1 p.2)) (diesAt r.w r.h p.1 p.2))

/-- Go on with a pass: the next rectangle that moves stops, or the pass is done (R324, R325). A rectangle is stopped only while every
clock runs; else the pass waits, and goes on when the last PLL has locked (R350, log 63). -/
def nextMove : Nat → State → State
  | 0, s => s
  | fuel + 1, s =>
    match s.pass.moving, s.pass.todo with
    | none, rid :: rest =>
      if !clocksRun s then s else
      let s := { s with pass := { s.pass with todo := rest } }
      if (rectAt s rid).live ∧ eligible (rectAt s rid) s.pass.dies then
        match moveTarget s rid s.pass.dies with
        | some (c, r) =>
          let s := { s with pass := { s.pass with moving := some (rid, c, r) } }
          if (rectAt s rid).freeze = .running then abandonAll (modRect s rid fun r => { r with freeze := .stopping }) rid else s
        | none => nextMove fuel s
      else nextMove fuel s
    | none, [] => { s with host := { s.host with compDone := true } }
    | some _, _ => s

/-- Insert by age. -/
def insertAge (s : State) (rid : Nat) : List Nat → List Nat
  | [] => [rid]
  | x :: l => if (rectAt s rid).age < (rectAt s x).age then rid :: x :: l else x :: insertAge s rid l

/-- Live rectangles, oldest first. -/
def byAge (s : State) : List Nat := s.rects.foldl (fun l e => if e.2.live then insertAge s e.1 l else l) []

/-- A pass over the rectangles in order of first placement (R324); one under way goes on first. -/
def startPass (s : State) (set : Nat) : State :=
  if s.pass.moving.isSome || !s.pass.todo.isEmpty then s
  else
    let s := { s with pass := { todo := byAge s, dies := BitVec.ofNat 4 set },
                      host := { s.host with compMoved := 0, compAband := 0, compDone := false } }
    nextMove (s.pass.todo.length + 1) s

/-- COMPACT: a write of the die set (R324, R351). -/
def execCompact (set : Nat) (s : State) : Result := .next (startPass s set)

/-! ### A move (R325 to R328) -/

/-- A tile of the package lies in a rectangle (R13). -/
def holdsTile (r : Rect) (x y : Int) : Bool :=
  decide (4 * r.ax ≤ x) && decide (x < 4 * (r.ax + r.w)) && decide (4 * r.ay ≤ y) && decide (y < 4 * (r.ay + r.h))

/-- A flit of the rectangle is on a link: one of its commands', or one that one of its tiles sent or is to take (R325). -/
def flitsOut (s : State) (rid : Nat) : Bool :=
  let r := rectAt s rid
  s.links.any fun l => l.2.flits.any fun f =>
    f.world == worldOf rid && (match f.owner with
      | some o => o.1 == rid
      | none => holdsTile r f.srcX f.srcY || holdsTile r f.destX f.destY)

/-- The cut condition (R325). -/
def cutReached (s : State) (rid : Nat) : Bool :=
  ((rectAt s rid).cores.all fun k => meetsCut s rid k.1 && arrayQuiet k.2) && !flitsOut s rid

/-- A monitor of the rectangle goes to its logical die's new physical die: its place there, or the lowest free one; where
none is free the monitor is given up (log 15). -/
def moveMonitor (s : State) (n : Nat) (m : Tab Nat) (d : Nat) : State :=
  let q := tget d m d
  let mon := { tget {} s.monitors n with ldie := some d }
  if q = n / 32 then { s with monitors := tset s.monitors n mon }
  else
    let a := tget 0 s.monAlloc n
    let s := { s with monAlloc := tset s.monAlloc n 0, monitors := tdel s.monitors n }
    match ((List.range 32).map fun k => 32 * q + k).find? fun x => !(tget 0 s.monAlloc x).getLsbD 7 with
    | some x => { s with monAlloc := tset s.monAlloc x a, monitors := tset s.monitors x mon }
    | none => s

/-- Every monitor of a rectangle with its logical die. -/
def allMonitors (s : State) (rid : Nat) : List (Nat × Nat) :=
  ((List.range 128).filter fun n => monFor s rid n).map fun n => (n, monDie s rid n)

/-- The next rectangle of a pass, after a move of one has ended. -/
def passOn (s : State) (moved : Bool) : State :=
  let h := s.host
  let h := if moved then { h with compMoved := min 255 (h.compMoved + 1) } else { h with compAband := min 255 (h.compAband + 1) }
  nextMove (s.pass.todo.length + 1) { s with pass := { s.pass with moving := none }, host := h }

/-- MOVE_CUT_REACHED: with the cut condition met and every clock running the engines save, the rectangle is copied to its new place, its dies are
mapped again, and it resumes unless someone wants it stopped (R325 to R328). -/
def execMoveCutReached (rid : Nat) (s : State) : Result :=
  .next (match s.pass.moving with
    | some (x, c, r) =>
      if x ≠ rid ∨ !cutReached s rid ∨ !clocksRun s then s
      else
        let s := if (rectAt s rid).freeze = .frozen then s
          else modRect (saveEngines s rid) rid fun r => { r with freeze := .frozen }
        let old := rectAt s rid
        let m := newMap old (diesAt old.w old.h c r)
        let s := (allMonitors s rid).foldl (fun s n => moveMonitor s n.1 m n.2) s
        let s := modRect s rid fun q => { q with ax := c, ay := r, dieMap := m }
        let s := { s with pass := { s.pass with moving := none } }
        let s := if wantsStop s rid then endFreeze s rid 0 else resumeRect s rid
        passOn s true
    | none => s)

/-- CUT_LIMIT_EXPIRY: the move is abandoned and the rectangle resumes where it stands (R325); it waits for every clock (R350). -/
def execCutLimitExpiry (rid : Nat) (s : State) : Result :=
  .next (match s.pass.moving with
    | some (x, _, _) =>
      if x ≠ rid ∨ cutReached s rid ∨ !clocksRun s then s
      else
        let s := { s with pass := { s.pass with moving := none } }
        let s := if wantsStop s rid then settleStop (abandonAll s rid) rid else tryResume s rid
        passOn s false
    | none => s)

/-- PLACE_RELEASE (R346); the placer goes on with a pass that a released rectangle held up. -/
def execPlaceRelease (world : Nat) (s : State) : Result :=
  .next (servePlace s world (fun op => op == 1) fun bs rid s =>
    let held := isMoving s rid
    let s := placeResult (releaseRect s rid) world (pktRes bs) 0 (pktIrq bs)
    if held then nextMove (s.pass.todo.length + 1) s else s)

end Sys2Proof.Machine
end

