-- ==== Sys2Proof/Machine/Context.lean ====
section
/-!
DEFINITION. Sys2Proof/Machine/Context.lean: context images (R310 to R313) with their seal (R335), and the PLACE commands Save and
Restore (R346).
-/
namespace Sys2Proof.Machine

/-! ### What an image holds of a rectangle -/

/-- First key and number of bytes of a kind of place of a rectangle: scratchpads, memory tiles, windows. -/
def kindRange (rid kind : Nat) : Nat × Nat :=
  match kind with
  | 0 => (Place.key (.scr rid 0 0), 256 * 2 ^ 18)
  | 1 => (Place.key (.mt rid 0 0), 512 * 2 ^ 21)
  | _ => (Place.key (.db rid 0 0), 4 * 2 ^ 26)

/-- The bytes of a rectangle, by kind and place within it. -/
def rectCells (s : State) (rid : Nat) : List (Nat × Nat × Byte) :=
  [0, 1, 2].flatMap fun k =>
    let g := kindRange rid k
    (s.mem.filter fun c => decide (g.1 ≤ c.1) && decide (c.1 < g.1 + g.2)).map fun c => (k, c.1 - g.1, c.2)

/-- Write bytes of a rectangle by kind and place. -/
def putCells (s : State) (rid : Nat) (cs : List (Nat × Nat × Byte)) : State :=
  cs.foldl (fun s c => let g := kindRange rid (c.1 % 3); writeKey s (g.1 + c.2.1 % g.2) c.2.2) s

/-- A snapshot of a rectangle. -/
def snapshot (s : State) (rid : Nat) : Snapshot :=
  let r := rectAt s rid
  { rect := r, cells := rectCells s rid,
    mons := r.dies.map fun d => (d.1, (monitorsOf s rid d.1).map fun n => tget {} s.monitors n) }

/-! ### Sections (R310, R311) -/

/-- A section: ID, version, LIVE, INST and body. -/
structure CSection where
  id : Nat
  ver : Nat
  live : Bool
  inst : Nat
  body : List Byte
  deriving DecidableEq, Repr

def CSection.header (x : CSection) : List Byte :=
  bytesOf 2 x.id ++ bytesOf 1 x.ver ++ bytesOf 1 (if x.live then 1 else 0) ++ bytesOf 4 x.inst ++ bytesOf 8 x.body.length

/-- INST of a tile and of a die (R310). -/
def tileInst (x y : Nat) : Nat := 256 * x + y
def dieInst (d : Nat) : Nat := 65536 * d

/-- The compute tiles, memory tiles and dies of a rectangle as INST values. -/
def coreInsts (r : Rect) : List Nat := (List.range (coreCount r)).map fun c => tileInst (coreX r c) (coreY r c)
def tileInsts (r : Rect) : List Nat :=
  ((List.range (16 * r.w * r.h)).filter fun t => (tileX r t + tileY r t) % 2 == 1).map fun t => tileInst (tileX r t) (tileY r t)
def dieInsts (r : Rect) : List Nat := r.dies.map fun d => dieInst d.1

/-- The INST values of the sections of an ID (R311). -/
def instsOf (r : Rect) (id : Nat) : List Nat :=
  if id ≤ 5 ∨ id = 9 then coreInsts r else if id = 6 then tileInsts r else if id = 8 then [0] else dieInsts r

/-- The core of an INST. -/
def coreOfInst (r : Rect) (i : Nat) : Nat := ((coreXY r (i / 256 : Nat) (i % 256 : Nat)).getD 0)

/-- Bytes of the body of a section (R311). -/
def bodyLen (s : State) (rid id inst : Nat) : Nat :=
  let r := rectAt s rid
  let d := tget {} r.dies (inst / 65536)
  if id = 2 then 262144 else if id = 9 then 16 else if id = 10 then 8 * (monitorsOf s rid (inst / 65536)).length
  else 8 * Config.bodyWords id d.dbwin d.cellwin d.nsem

/-- The body of a section of a rectangle. -/
def bodyOf (s : State) (rid id inst n : Nat) : List Byte :=
  let r := rectAt s rid
  let c := coreOfInst r inst
  if id = 2 then readKeys s (Place.key (.scr rid c 0)) 262144
  else if id = 9 then bytesOf 8 (tget 0 (coreOf r c).csr.wpa 0).toNat ++ bytesOf 8 (tget 0 (coreOf r c).csr.wpa 1).toNat
  else if id = 10 then (monitorsOf s rid (inst / 65536)).flatMap fun m => bytesOf 8 (tget {} s.monitors m).sum.toNat
  else (List.range (bodyLen s rid id inst)).map fun i => Config.bodyByte (s.free + n) i

/-- The IDs a revision writes (R311). -/
def idsOf (b0 : Bool) : List Nat := [1, 2, 3, 4, 5, 6, 7, 8] ++ (if b0 then [9, 10] else [])

/-- The sections of a rectangle's image; a feature section is INIT where its fields hold their reset values. -/
def sectionsOf (s : State) (rid : Nat) : List CSection :=
  let ps := (idsOf (s.rev == .b0)).flatMap fun id => (instsOf (rectAt s rid) id).map fun i => (id, i)
  (List.range ps.length).filterMap fun n => ps[n]?.map fun p =>
    let body := bodyOf s rid p.1 p.2 n
    { id := p.1, ver := 1, live := decide (p.1 ≤ 8) || body.any fun b => b != 0, inst := p.2, body := body }

/-- The Revision ID field of the PCIe configuration header of every function: 0x00 on A0, 0x10 on B0 (R2). -/
def revisionId (s : State) : BitVec 8 := if s.rev = .b0 then 0x10 else 0

/-- The 64-byte header (R310); SREV is the revision as R2 reports it. -/
def imageHeader (s : State) (w width height nsec tot : Nat) : List Byte :=
  bytesOf 4 0x49435842 ++ bytesOf 2 1 ++ [revisionId s] ++ bytesOf 1 0 ++ bytesOf 4 (if s.rev = .b0 then 7 else 1) ++
  bytesOf 4 nsec ++ bytesOf 8 tot ++ bytesOf 1 (w % 64) ++ bytesOf 1 width ++ bytesOf 1 height ++ bytesOf 37 0

/-! ### The seal (R329, R335) -/

/-- R329: a world is protected. World 0 never is. -/
def isProtected (s : State) (w : Nat) : Bool :=
  let q := worldAt s w
  w != 0 && (q.st == .frozen || ((q.st == .locked || q.st == .run) && q.session))

/-- The bytes of an image: a protected world's bodies are ciphertext, and a final section carries IV and tag. -/
def imageBytes (s : State) (rid : Nat) (xs : List CSection) (key : Option (BitVec 256)) : List Byte :=
  let r := rectAt s rid
  let len := (xs.map fun x => 16 + x.body.length).sum
  match key with
  | none => imageHeader s (worldOf rid) r.w r.h xs.length (64 + len) ++ xs.flatMap fun x => x.header ++ x.body
  | some k =>
    let hd := imageHeader s (worldOf rid) r.w r.h (xs.length + 1) (64 + len + 48)
    let last := bytesOf 2 0xFFFF ++ bytesOf 1 1 ++ bytesOf 1 1 ++ bytesOf 4 0 ++ bytesOf 8 32
    let iv := (bytesOf 12 (Config.sealIv s.free).toNat)
    let c := gcmSeal k iv (hd ++ (xs.flatMap fun x => x.header) ++ last) (xs.flatMap (·.body))
    let put := fun (acc : List Byte × List Byte) (x : CSection) => (acc.1 ++ x.header ++ acc.2.take x.body.length, acc.2.drop x.body.length)
    (xs.foldl put (hd, c.1)).1 ++ last ++ iv ++ bytesOf 4 0 ++ c.2

/-- PLACE_SAVE (R310, R335, R346): the result where the rectangle is not frozen, the world has no key to seal with, or the
destination cannot be written, is not stated. -/
def execPlaceSave (world : Nat) (s : State) : Result :=
  .next (servePlace s world (fun op => op == 4) fun bs rid s =>
    let a := BitVec.ofNat 64 (field bs 0 8)
    let n := s.free
    let s := { s with free := s.free + 1 }
    let prot := isProtected s world
    let key := (worldAt s world).ctxKey
    let fail := fun (s : State) => placeResult s world (pktRes bs) (Config.openResult n % 2 ^ 32) (pktIrq bs)
    if (rectAt s rid).freeze ≠ .frozen ∨ (prot && key.isNone) = true ∨ selector a ≠ 0 then fail s
    else
      let xs := sectionsOf s rid
      let img := imageBytes s rid xs (if prot then key else none)
      let shot := snapshot s rid
      let s := { s with free := s.free + xs.length, saved := s.saved ++ [{ bytes := xs.flatMap fun x => x.header ++ x.body, shot := shot }] }
      match writeSpan s world (img.length / 0x200000 + 2) a.toNat img with
      | (s, true) => placeResult s world (pktRes bs) 0 (pktIrq bs)
      | (s, false) => fail s)

/-! ### Restore (R312, R313) -/

/-- The sections of an image from byte i on; none where they do not end where the image ends. -/
def parseSections : Nat → List Byte → Option (List (List Byte × List Byte))
  | 0, bs => if bs.isEmpty then some [] else none
  | n + 1, bs =>
    let len := field bs 8 8
    if bs.length < 16 + len then none
    else (parseSections n (bs.drop (16 + len))).map fun l => (bs.take 16, (bs.drop 16).take len) :: l

/-- The container is wrong (R313 code 1). -/
def badImage (bs : List Byte) (xs : List (List Byte × List Byte)) : Bool :=
  field bs 0 4 != 0x49435842 || field bs 4 2 != 1 || field bs 7 1 != 0 || decide (8 ≤ field bs 8 4) || field bs 16 8 != bs.length ||
  decide (64 ≤ field bs 24 1) || field bs 27 37 != 0 || xs.any fun x => decide (2 ≤ field x.1 3 1)

/-- A section as its header says. -/
def toCSection (x : List Byte × List Byte) : CSection :=
  { id := field x.1 0 2, ver := field x.1 2 1, live := field x.1 3 1 == 1, inst := field x.1 4 4, body := x.2 }

/-- FEAT of an image names the feature of a section: WATCH and MONX have bits, the other sections are BASE (R310, R311). -/
def featured (feat id : Nat) : Bool := if id = 9 then feat / 2 % 2 == 1 else if id = 10 then feat / 4 % 2 == 1 else true

/-- The first section of the rectangle that an image lacks (R313 code 2): those of BASE, and those of the features that its FEAT
names, which their source always writes (R311). -/
def missing (r : Rect) (feat : Nat) (xs : List CSection) : Option Nat :=
  ([1, 2, 3, 4, 5, 6, 7, 8, 9, 10].filter (featured feat)).find? fun id => (instsOf r id).any fun i => !xs.any fun x => x.id == id && x.inst == i

/-- Status of a section of an image: a feature the device lacks, or an unknown ID, version, place or length (R312, R313). -/
def sectionStatus (s : State) (rid : Nat) (x : CSection) : Option (Nat × Nat) :=
  let feature := x.id == 9 || x.id == 10
  if feature ∧ s.rev ≠ .b0 then (if x.live then some (3, x.id) else none)
  else if x.id = 0 ∨ 10 < x.id ∨ x.ver ≠ 1 ∨ !(instsOf (rectAt s rid) x.id).contains x.inst ∨
    x.body.length ≠ bodyLen s rid x.id x.inst then some (4, x.id)
  else none

/-- The plain bodies of an image for its world: sealed under the context key where the world is protected, unsealed where it
is not (R335); none is INTEGRITY. -/
def openImage (s : State) (w : Nat) (bs : List Byte) (xs : List (List Byte × List Byte)) : Option (List CSection) :=
  let sealed := xs.getLast?.map fun x => field x.1 0 2 == 0xFFFF
  let parts := xs.dropLast
  if isProtected s w then
    match sealed, (worldAt s w).ctxKey, xs.getLast? with
    | some true, some k, some l =>
      let iv := l.2.take 12
      let tag := (l.2.drop 16).take 16
      let o := gcmOpen k iv (bs.take 64 ++ xs.flatMap (·.1)) (parts.flatMap (·.2)) tag
      if l.2.length ≠ 32 ∨ field l.2 12 4 ≠ 0 ∨ !o.2 then none
      else some ((parts.foldl (fun (acc : List CSection × List Byte) x =>
        (acc.1 ++ [{ toCSection x with body := acc.2.take x.2.length }], acc.2.drop x.2.length)) ([], o.1)).1)
    | _, _, _ => none
  else if sealed = some true then none else some (xs.map toCSection)

/-- What an image holds: what this machine saved with these bytes, else what the bytes mean elsewhere. -/
def shotOf (s : State) (xs : List CSection) : Snapshot :=
  let bytes := xs.flatMap fun x => x.header ++ x.body
  match s.saved.find? fun x => x.bytes == bytes with
  | some x => x.shot
  | none => Config.foreignShot bytes

/-- The body of the LIVE feature section of an image for an ID and a place; without it the reset values are used (R311, R312). -/
def liveBody (xs : List CSection) (id inst : Nat) : List Byte :=
  ((xs.find? fun x => x.id == id && x.inst == inst && x.live).map (·.body)).getD []

/-- WPA0 and WPA1 of a core as an image's WATCH section gives them; A0 has none (R303, R311, R312). -/
def savedWatch (b0 : Bool) (r : Rect) (xs : List CSection) (c : Nat) : Tab W64 :=
  if !b0 then [] else
    let bs := liveBody xs 9 (tileInst (coreX r c) (coreY r c))
    (List.range 2).foldl (fun (t : Tab W64) i =>
      let v := BitVec.ofNat 64 (field bs (8 * i) 8) &&& 0xE0FFFFFFFFFFFFF8
      if v = 0 then t else tset t i v) []

/-- SUM of the i-th monitor of a die as an image's MONX section gives it; A0 has none (R306, R311, R312). -/
def savedSum (b0 : Bool) (xs : List CSection) (d i : Nat) : W64 :=
  if b0 then BitVec.ofNat 64 (field (liveBody xs 10 (dieInst d)) (8 * i) 8) else 0

/-- CSRs with every reserved bit at 0, whatever an image holds there (R5, R84, R150, R173, R292, R302). -/
def legalCsrs (q : Csrs) : Csrs :=
  { q with fpflags := flagsWord q.fpflags.toNat, cdepth := q.cdepth % 128, depth := q.depth % 16, depthmax := q.depthmax % 16,
           cause := q.cause % 512, cause2 := q.cause2 % 512, fblk := q.fblk % 16384, fslot := q.fslot % 128,
           hvec := q.hvec &&& 0x8000000000003FFF, bpa := q.bpa.map fun e => (e.1, e.2 &&& 0x8000000000003FFF) }

/-- An exit of a link record with an address of 14 bits (R35). -/
def legalExit : Exit → Exit
  | .br t => .br (t % 16384)
  | .call t => .call (t % 16384)
  | .ret t => .ret (t % 16384)
  | .park t sem thresh mask => .park (t % 16384) sem thresh mask
  | .resume t => .resume (t &&& 0x3FFF)
  | e => e

/-- A core as an image can leave it: it stands between blocks, each of which it fetches again at the resume (R308), and no reserved bit that a read shows is set (R5, R150, R215). -/
def legalCore (k : Core) : Core :=
  { k with csr := legalCsrs k.csr, stage := k.stage.map (· % 16), newStage := k.newStage.map fun n => n.map (· % 16),
           links := k.links.map fun l => { l with exit := l.exit.map legalExit, cdepth := l.cdepth % 128 },
           causes := k.causes.map fun p => { p with cause := p.cause % 512 }, tok := k.tok.map fun t => (t.1, t.2 % 1024),
           arr := { k.arr with stat1 := k.arr.stat1 &&& 0x000FFFFFFFFFFFFF },
           phase := match k.phase with
             | .fetch h => .fetch (h % 16384)
             | .ready b => .fetch (b.h % 16384)
             | .run b => .fetch (b.h % 16384)
             | .parking t sem thresh mask => .parking (t % 16384) sem thresh mask
             | p => p }

/-- A slot of a memory tile whose board record has its zero field (R268). -/
def legalSlot (p : PSlot) : PSlot := { p with board := p.board &&& 0xFF00FFFFFFFFFFFF }

/-- A rectangle with the state of an image: what the loader gave it stays, and the watchpoint registers are those of the
image's WATCH sections (R312). -/
def mergeRect (b0 : Bool) (xs : List CSection) (r q : Rect) : Rect :=
  { r with
    stages := r.stages.map fun g => (g.1, { g.2 with rerun := (tget {} q.stages g.1).rerun }),
    queues := r.queues.map fun e =>
      let x := tget {} q.queues e.1
      (e.1, { e.2 with vals := x.vals, recs := x.recs, spill := x.spill, spilled := x.spilled, resv := x.resv }),
    cores := r.cores.map fun k =>
      let x := tget {} q.cores k.1
      let x := legalCore { x with copyq := x.copyq.map fun (c : CopyCmd) => { c with pins := [] } }
      (k.1, { x with csr := { x.csr with wpa := savedWatch b0 r xs k.1 } }),
    tiles := r.tiles.map fun t =>
      let x := tget {} q.tiles t.1
      (t.1, { x with qbase := t.2.qbase, slots := x.slots.map fun p => (p.1, legalSlot p.2) }),
    dies := r.dies.map fun d =>
      let x := tget {} q.dies d.1
      (d.1, { d.2 with sems := x.sems, cells := x.cells.map fun e => (e.1, e.2 &&& BitVec.ofNat 256 (2 ^ 211 - 1)), conts := x.conts }),
    dom := q.dom, bal := q.bal, fences := q.fences }

/-- The monitors of a rectangle take what an image holds of them, in order, die by die (R312). -/
def putMonitors (s : State) (rid : Nat) (xs : List CSection) (ms : List (Nat × List Monitor)) : State :=
  ms.foldl (fun s d =>
    let ns := monitorsOf s rid d.1
    (List.range ns.length).foldl (fun s i => match ns[i]?, d.2[i]? with
      | some n, some m =>
        let x : Monitor := { m with ldie := (tget {} s.monitors n).ldie, sum := savedSum (s.rev == .b0) xs d.1 i }
        { s with monitors := tset s.monitors n x }
      | _, _ => s) s) s

/-- Write an image's state into a frozen rectangle; the scratchpads are those of its SCRATCH sections, and a feature that its FEAT
does not name is at reset (R312). -/
def writeShot (s : State) (rid feat : Nat) (xs : List CSection) : State :=
  let shot := shotOf s xs
  let xs := xs.filter fun x => featured feat x.id
  let clear := [0, 1, 2].foldl (fun s k => scrub s (kindRange rid k).1 ((kindRange rid k).1 + (kindRange rid k).2)) s
  let s := putCells clear rid shot.cells
  let s := xs.foldl (fun s x =>
    if x.id = 2 then writeKeys s (Place.key (.scr rid (coreOfInst (rectAt s rid) x.inst) 0)) x.body else s) s
  putMonitors (modRect s rid fun r => mergeRect (s.rev == .b0) xs r shot.rect) rid xs shot.mons

/-- The status word of a restore, with the state it leaves (R312, R313): all of it or none of it. -/
def restore (s : State) (w rid : Nat) (a : W64) : State × Nat :=
  match (readWorld s w a 64).bind fun hd => readWorld s w a (field hd 16 8) with
  | none => (s, 1)
  | some bs =>
    match parseSections (field bs 12 4) (bs.drop 64) with
    | none => (s, 1)
    | some xs =>
      let r := rectAt s rid
      let sealed := (xs.getLast?.map fun x => field x.1 0 2) == some 0xFFFF
      let cs := (if sealed then xs.dropLast else xs).map toCSection
      if badImage bs xs then (s, 1)
      else if field bs 24 1 ≠ w ∨ field bs 25 1 ≠ r.w ∨ field bs 26 1 ≠ r.h then (s, 2)
      else
        match missing r (field bs 8 4) cs with
        | some id => (s, 2 + 65536 * id)
        | none =>
          match cs.findSome? (sectionStatus s rid) with
          | some e => (s, e.1 + 65536 * e.2)
          | none =>
            match openImage s w bs xs with
            | none => (s, 5)
            | some ys => (writeShot s rid (field bs 8 4) ys, 0)

/-- PLACE_RESTORE: a refused restore posts 0x164 with its status (R299, R312, R313); one that restores changes semaphores, and the
BARRIERs of the rectangle see it (R345). -/
def execPlaceRestore (world : Nat) (s : State) : Result :=
  .next (servePlace s world (fun op => op == 5) fun bs rid s =>
    if (rectAt s rid).freeze ≠ .frozen then
      placeResult { s with free := s.free + 1 } world (pktRes bs) (Config.openResult s.free) (pktIrq bs)
    else
      let x := restore s world rid (BitVec.ofNat 64 (field bs 0 8))
      let s := if x.2 = 0 then checkBarriers x.1 rid else post x.1 world { cause := 0x164, kind := 7, status := x.2 }
      placeResult s world (pktRes bs) x.2 (pktIrq bs))

end Sys2Proof.Machine
end

