-- ==== Sys2Proof/Machine/Leases.lean ====
section
/-!
DEFINITION. Sys2Proof/Machine/Leases.lean: the residency controller: lease extents and channel range tables (R100, R333, R377),
migration (R102 to R104), and the release of memory (R337).
-/
namespace Sys2Proof.Machine

/-! ### Granules (R16, R17, R377) -/

/-- Granules of tier 2 that a form has: the module's 1,024 GB; of a package what the system attaches and of bare dies what
the integrator provides, up to what is addressed (R1, R17, R20). -/
def tier2Size (f : Form) : Nat :=
  match f with
  | .module => Config.tier2Granules
  | .package => min Config.attachedGranules Config.tier2Granules
  | .bareDies => min Config.integratorGranules Config.tier2Granules

/-- Every granule of a run exists in its tier. -/
def granulesExist (s : State) (tier first n : Nat) : Bool :=
  let last := first + n - 1
  match tier with
  | 0 => first / 32768 == last / 32768 && decide (last / 32768 < 12) && decide (last % 32768 < Config.stackGranules)
  | 1 => decide (2 ^ 19 ≤ first) && decide (last < 2 ^ 19 + tier2Size s.form)
  | 2 => decide (last < 2 ^ 36)
  | _ => false

/-- The stack of a run of granules stands on a die that is UP: one that is leaving, gated or powering keeps none (R352). -/
def stackUp (s : State) (tier first : Nat) : Bool := tier != 0 || (dieAt s (first / 32768 / 3)).gate == .up

/-- The range tables that check a run of granules (R333, R377). -/
def channelsOf (tier first n : Nat) : List Nat :=
  match tier with
  | 0 => (List.range (min n 32)).map fun i => channelOf (first + i)
  | 1 => [1000]
  | _ => []

/-- A range-table entry and a run share a granule. -/
def rangeMeets (e : RangeEnt) (first n : Nat) : Bool := decide (e.first < first + n) && decide (first ≤ e.last)

/-- The entries of the tables of a run that meet it. -/
def entriesOn (s : State) (tier first n : Nat) : List RangeEnt :=
  (channelsOf tier first n).flatMap fun c => (tget [] s.ranges c).filter fun e => rangeMeets e first n

/-- Some table of a run is full (R333: 512 entries). -/
def tableFull (s : State) (tier first n : Nat) : Bool :=
  (channelsOf tier first n).any fun c => decide (512 ≤ (tget [] s.ranges c).length)

/-- Change one range table. -/
def modRange (s : State) (c : Nat) (f : List RangeEnt → List RangeEnt) : State :=
  { s with ranges := tset s.ranges c (f (tget [] s.ranges c)) }

/-- Grant a run to a world: an entry in each of its tables (R333). -/
def grantRange (s : State) (w tier first n : Nat) : State :=
  let e : RangeEnt := { world := w, prot := isProtected s w, first := first, last := first + n - 1 }
  (channelsOf tier first n).foldl (fun s c => modRange s c fun l => l ++ [e]) s

/-- Take a run of a world out of its tables. -/
def dropRange (s : State) (w tier first n : Nat) : State :=
  (channelsOf tier first n).foldl (fun s c => modRange s c fun l =>
    l.filter fun e => !(e.world == w && e.first == first && e.last == first + n - 1)) s

/-- The range of keys of a run. -/
def runKey (tier first : Nat) : Nat := Place.key (.glob tier (first * 0x200000))

/-- Write zeros over a run of HBM4E or tier-2 granules (R337, R339). -/
def scrubRun (s : State) (tier first n : Nat) : State :=
  if tier = 2 then s else scrub s (runKey tier first) (runKey tier (first + n))

/-! ### Removing extents (R100, R337) -/

/-- A region lies in part in an extent. -/
def regionIn (e : Extent) (g : Region) : Bool := meets g.base g.len (e.vbase * 0x200000) (e.len * 0x200000)

/-- The records a rectangle still has tasks of: running, calling an inline child, finished, parked, outstanding. -/
def openTasks (r : Rect) : List (BitVec 512) :=
  (r.cores.flatMap fun k => (match k.2.task with | some t => [t.rcd] | none => []) ++ (k.2.links.take k.2.csr.depth).map (·.task.rcd) ++
    k.2.fin.map (·.rcd)) ++
  (r.dies.flatMap fun d => d.2.conts.map fun k => k.task.rcd) ++ r.dom.out.map (·.rcd)

/-- A commit-buffer entry targets an extent. -/
def entryIn (e : Extent) (x : Entry) : Bool :=
  (match x.kind with | .spawn _ => false | _ => true) && selector x.addr == 0 &&
  meets (x.addr.toNat % 2 ^ 56) (entryLen x) (e.vbase * 0x200000) (e.len * 0x200000)

/-- R100: nothing of the world uses an extent any more. -/
def unused (s : State) (e : Extent) : Bool :=
  e.pins == 0 && s.rects.all fun q =>
    worldOf q.1 != e.world ||
    ((openTasks q.2).all (fun rcd => !(taskRegions s q.1 rcd).any (regionIn e)) &&
     q.2.cores.all fun k => (k.2.entries ++ (k.2.drain ++ k.2.replay).map (·.entry)).all fun x => !entryIn e x)

/-- Take the granules of an extent out of the range tables. An extent that points at granules granted to another holds no
entry of its own, and gives none up (R333). -/
def dropGrant (s : State) (e : Extent) : State :=
  if e.granted then dropRange s e.world e.tier e.pbase e.len else s

/-- Granules that a release gave up are scrubbed and reported free (R337). -/
def cleanGranules (s : State) (e : Extent) : State :=
  if e.clean && e.granted then emit (scrubRun s e.tier e.pbase e.len) (.freed e.tier e.pbase e.len) else s

/-- Remove an extent: its range entries go, its granules are scrubbed and reported where a release asked for them (R337). -/
def removeExtent (s : State) (n : Nat) (e : Extent) : State :=
  let s := match e.mig with
    | some m => dropRange s e.world m.tier m.base e.len
    | none => s
  dropGrant { cleanGranules s e with extents := tdel s.extents n } e

/-- Remove every extent that is to leave and is no longer used. -/
def removeLeaving (s : State) : State :=
  s.extents.foldl (fun s x => if x.2.leaving && unused s x.2 then removeExtent s x.1 x.2 else s) s

/-- The extent of a world that begins at a virtual granule. -/
def extentOf (s : State) (w vbase : Nat) : Option (Nat × Extent) :=
  s.extents.find? fun x => x.2.world == w && x.2.vbase == vbase

/-- The extent's own range entry is protected: only its owner gives it up (R333). -/
def protEntry (s : State) (e : Extent) : Bool :=
  e.granted && (entriesOn s e.tier e.pbase e.len).any fun x => x.world == e.world && x.prot

/-- The supervisor may not remove an extent: its world is protected, so only release and accept removes it (R337), or its range
entry is (R333). -/
def guarded (s : State) (e : Extent) : Bool := isProtected s e.world || protEntry s e

/-! ### Migration (R102, R103) -/

/-- Write parked entries of a core whose extent's window has closed, in order (R103). -/
def performParked (rid c : Nat) : Nat → State → State
  | 0, s => s
  | n + 1, s =>
    match findIx (fun (d : Draining) => !inWindow s (whoEntry rid c d) d.entry.addr) (coreAt s rid c).replay with
    | none => s
    | some (k, _) =>
      match execDrainEntryPerform rid c k s with
      | .next s' => performParked rid c n s'
      | _ => s

/-- Parked entries of every core perform where they can. -/
def releaseParked (s : State) : State :=
  s.rects.foldl (fun s r => r.2.cores.foldl (fun s k => performParked r.1 k.1 k.2.replay.length s) s) s

/-- The counters of an extent's granules (R102). -/
def versionsOf (s : State) (e : Extent) : List (BitVec 32) :=
  (List.range e.len).map fun i => tget 0 s.versions (versionKey e.tier (e.pbase + i))

/-- A run would overlap a range-table entry that its owner's protection keeps (R333). -/
def protOn (s : State) (tier first n : Nat) : Bool := (entriesOn s tier first n).any (·.prot)

/-- Start a migration of an extent to free granules that exist: the controller moves granules of the extent's world alone
(R102, R333). -/
def startMigration (s : State) (n tier base : Nat) : State :=
  match tfind s.extents n with
  | none => s
  | some e =>
    if !e.granted || e.mig.isSome || e.leaving || !granulesExist s tier base e.len || !stackUp s tier base || !(entriesOn s tier base e.len).isEmpty ||
        tableFull s tier base e.len then s
    else
      let e' := { e with mig := some { tier := tier, base := base, versions := versionsOf s e, window := false } }
      grantRange { s with extents := tset s.extents n e' } e.world tier base e.len

/-- MIGRATION_START (R102); it waits for every clock, as all that writes the range tables does (R350, log 63). -/
def execMigrationStart (ext tier base : Nat) (s : State) : Result := .next (if clocksRun s then startMigration s ext tier base else s)

/-- SWITCH_OVER_WINDOW: the copy has ended and the window opens (R102). -/
def execSwitchOverWindow (ext : Nat) (s : State) : Result :=
  .next (match tfind s.extents ext with
    | some e =>
      match e.mig with
      | some m => { s with extents := tset s.extents ext { e with mig := some { m with window := true } } }
      | none => s
    | none => s)

/-- The bytes of a run as they stand go to another run; an uncorrectable error and poison go with them. -/
def copyRun (s : State) (src dst n : Nat) : State :=
  let cells := s.mem.filter fun c => decide (src ≤ c.1) && decide (c.1 < src + n)
  let bad := s.bad.filter fun k => decide (src ≤ k) && decide (k < src + n)
  let poison := s.poison.filter fun k => decide (src ≤ k) && decide (k < src + n)
  let s := cells.foldl (fun s c => writeKey s (c.1 - src + dst) c.2) (scrub s dst (dst + n))
  { s with bad := s.bad ++ bad.map (fun k => k - src + dst), poison := s.poison ++ poison.map fun k => k - src + dst }

/-- An extent without its migration. -/
def endMigration (s : State) (ext : Nat) (e : Extent) (m : Migr) (commit : Bool) : State :=
  if commit then
    let s := copyRun s (runKey e.tier e.pbase) (runKey m.tier m.base) (e.len * 0x200000)
    let e' := { e with tier := m.tier, pbase := m.base, mig := none }
    dropGrant { s with extents := tset s.extents ext e' } e
  else dropRange { s with extents := tset s.extents ext { e with mig := none } } e.world m.tier m.base e.len

/-- The clocks of the stacks that a migration copies between run (R350). -/
def stacksRun (s : State) (e : Extent) (m : Migr) : Bool :=
  (e.tier != 0 || clockRuns s (e.pbase / 32768 / 3)) && (m.tier != 0 || clockRuns s (m.base / 32768 / 3))

/-- MIGRATION_COMMIT: the commit instant of an open window: with every counter unchanged and no pin the extent moves, else
the move is abandoned; parked writes perform (R102, R103, R104). -/
def execMigrationCommit (ext : Nat) (s : State) : Result :=
  .next (match tfind s.extents ext with
    | some e =>
      match e.mig with
      | some m =>
        if m.window && stacksRun s e m then releaseParked (endMigration s ext e m (e.pins == 0 && versionsOf s e == m.versions)) else s
      | none => s
    | none => s)

/-- MIGRATION_TIMEOUT: a copy that lasts more than 1 ms is abandoned (R102); it waits for every clock (R350, log 63). -/
def execMigrationTimeout (ext : Nat) (s : State) : Result :=
  .next (match tfind s.extents ext with
    | some e =>
      match e.mig with
      | some m => if m.window || !clocksRun s then s else releaseParked (endMigration s ext e m false)
      | none => s
    | none => s)

/-! ### Requests of the supervisor (R100, R333) -/

/-- A request that the controller refuses: the supervisor learns only the refusal (R333). -/
def refuseRequest (s : State) (world vbase : Nat) : State := emit s (.refused world vbase)

/-- An extent of a world as the supervisor asks for it: disjoint from the world's others; its granules are granted where
they are free, and never where an entry meets them. The grant of granules that would overlap a protected entry is refused; the extent
that points at them is written all the same, and every access through it is refused at the channel (R100, R333, log 55). -/
def addExtent (s : State) (w tier rights vbase pbase len : Nat) : State :=
  let e : Extent := { world := w, tier := tier, rd := rights % 2 == 1, wr := rights / 2 % 2 == 1, pins := 0, vbase := vbase, pbase := pbase, len := len }
  let clash := s.extents.any fun x => x.2.world == w && meets vbase len x.2.vbase x.2.len
  if (worldAt s w).st = .disabled ∨ 64 ≤ w ∨ len = 0 ∨ 1048576 < len ∨ 2 ^ 35 < vbase + len ∨ clash ∨ 16384 ≤ s.extents.length ∨
      !granulesExist s tier pbase len ∨ !stackUp s tier pbase ∨ tableFull s tier pbase len then s
  else
    let f := fresh s
    let own := (entriesOn s tier pbase len).isEmpty
    let s := { f.2 with extents := tset f.2.extents f.1 { e with granted := own } }
    if own then grantRange s w tier pbase len else if protOn s tier pbase len then refuseRequest s w vbase else s

/-- LEASE_EXTENT_REQUEST: 0 adds an extent, 1 removes one, 2 moves one, and every request first removes what is to leave.
A request that would remove an extent of a protected world, or move or overlap a protected entry, is refused (R100, R333, R337). It
waits for every clock (R350, log 63). -/
def execLeaseExtentRequest (op world tier rights vbase pbase len : Nat) (s : State) : Result :=
  .next (if !clocksRun s then s else
    let s := removeLeaving s
    match op with
    | 0 => addExtent s world tier rights vbase pbase len
    | 1 =>
      match extentOf s world vbase with
      | some (n, e) =>
        if guarded s e then refuseRequest s world vbase else removeLeaving { s with extents := tset s.extents n { e with leaving := true } }
      | none => s
    | 2 =>
      match extentOf s world vbase with
      | some (n, e) => if protEntry s e || protOn s tier pbase e.len then refuseRequest s world vbase else startMigration s n tier pbase
      | none => s
    | _ => s)

/-! ### Release and accept (R337, R341) -/

/-- Post a release request to a world: RELCNT, WSTAT bit 16 and the world's vector (R337). -/
def postRelease (s : State) (w : Nat) (n : BitVec 32) : State :=
  let q := worldAt s w
  let s := modWorld s w fun q => { q with relcnt := n, relpend := true, relheld := 0 }
  if q.eqvec.getLsbD 7 then emit s (.irq w (q.eqvec.toNat % 32)) else s

/-- Ask a world to release granules: a nonzero number is posted; a FROZEN world's is held (R337, R341, R351). -/
def askRelease (s : State) (world n : Nat) : State :=
  let v := BitVec.ofNat 32 n
  if world = 0 ∨ 64 ≤ world ∨ v = 0 ∨ (worldAt s world).st = .disabled then s
  else if (worldAt s world).st = .frozen then modWorld s world fun q => { q with relheld := v }
  else postRelease s world v

/-- RELREQ: a write asking a world to release granules (R337, R351). -/
def execRelreq (world n : Nat) (s : State) : Result := .next (askRelease s world n)

/-- ACCEPT: the listed extents that the world holds are to leave, and leave once nothing uses them (R334, R337). It waits for every
clock (R350, log 63). -/
def execAccept (world : Nat) (exts : List (Nat × Nat)) (s : State) : Result :=
  .next (
    let q := worldAt s world
    if !q.session || q.st == .disabled || !clocksRun s then s
    else
      let s := modWorld s world fun q => { q with relcnt := 0, relpend := false }
      removeLeaving { s with extents := s.extents.map fun x =>
        if x.2.world = world ∧ exts.contains (x.2.vbase, x.2.len) then (x.1, { x.2 with leaving := true, clean := true }) else x })

end Sys2Proof.Machine
end

