-- ==== Sys2Proof/Machine/Worlds.lean ====
section
/-!
DEFINITION. Sys2Proof/Machine/Worlds.lean: the states of a world and its destruction (R329, R339 to R341), sessions and
measurements (R336), keys (R334), the heartbeat (R338), resets, and what the Periscope reads and writes (R314).
-/
namespace Sys2Proof.Machine

/-! ### Destroying and clearing (R339, R340) -/

/-- The register page of a function at reset (R343). -/
def resetPage (q : World) : World :=
  { q with lqbase := 0, lqsize := 0, lqtail := 0, lqhead := 0, eqbase := 0, eqsize := 0, eqtail := 0, eqhead := 0, eqvec := 0, lost := 0 }

/-- A world with no rectangles, extents, keys or session, in a state. -/
def emptyWorld (q : World) (st : WState) : World :=
  { st := st, lqbase := q.lqbase, lqsize := q.lqsize, lqtail := q.lqtail, lqhead := q.lqtail, eqbase := q.eqbase, eqsize := q.eqsize,
    eqtail := q.eqtail, eqhead := q.eqhead, eqvec := q.eqvec, lost := q.lost }

/-- The rectangles of a world. -/
def rectsOf (s : State) (w : Nat) : List Nat := (s.rects.filter fun e => worldOf e.1 == w && e.2.live).map (·.1)

/-- R339 steps 1 to 5: stop, drain, zeroise, scrub, free. The world is left in a state. The granules scrubbed are those granted
to the world: one that an extent only points at is another's (R333). -/
def clearWorld (s : State) (w : Nat) (st : WState) : State :=
  let moving := match s.pass.moving with
    | some m => worldOf m.1 == w
    | none => false
  let s := modWorld s w fun q => { q with pkts := [], placing := none, keyResp := [] }
  let s := (rectsOf s w).foldl releaseRect s
  let s := { s with links := s.links.map fun l => (l.1, { l.2 with flits := l.2.flits.filter fun f => f.world != w }) }
  let s := modWorld s w fun q => emptyWorld q st
  let mine := s.extents.filter fun x => x.2.world == w && x.2.granted
  let s := mine.foldl (fun s x => scrubRun s x.2.tier x.2.pbase x.2.len) s
  let s := { s with extents := s.extents.filter (fun x => x.2.world != w),
                    ranges := s.ranges.map fun c => (c.1, c.2.filter fun e => e.world != w) }
  let s := unbindWorld s w
  if moving then nextMove (s.pass.todo.length + 1) s else s

/-- Destroy a protected world: cleared, and 0x161 goes to world 0 (R339). -/
def destroyWorld (s : State) (w : Nat) (st : WState) : State := postWorld (clearWorld s w st) 0 0x161 7

/-- The TDI of a world is in CONFIG_LOCKED or RUN (R329). -/
def tdiLocked (s : State) (w : Nat) : Bool :=
  w != 0 && (match (worldAt s w).st with
    | .locked => true
    | .run => true
    | .frozen => true
    | _ => false)

/-- A TDI leaves CONFIG_LOCKED or RUN unasked: 0x165, then the destruction (R329). -/
def leaveUnasked (s : State) (w : Nat) (st : WState) : State := destroyWorld (postWorld s w 0x165 7) w st

/-! ### States (R329) -/

/-- VF_ENABLE: the physical function enables a virtual one (R329). -/
def execVfEnable (world : Nat) (s : State) : Result :=
  .next (if 1 ≤ world ∧ world < 64 ∧ (worldAt s world).st = .disabled ∧ (worldAt s 0).st ≠ .disabled then modWorld s world fun _ => { st := .opened } else s)

/-- VF_DISABLE (R329). -/
def execVfDisable (world : Nat) (s : State) : Result :=
  .next (if world = 0 ∨ 64 ≤ world ∨ (worldAt s world).st = .disabled then s
    else
      let s := if tdiLocked s world then leaveUnasked s world .disabled else clearWorld s world .disabled
      modWorld s world resetPage)

/-- LOCK_INTERFACE_REQUEST: an OPEN world whose session authenticated its requester is LOCKED; its memory key is made
(R329, R335, R336). -/
def execLockInterfaceRequest (world : Nat) (s : State) : Result :=
  .next (
    let q := worldAt s world
    if world = 0 ∨ q.st ≠ .opened ∨ !q.session ∨ q.requester = 0 then s
    else modWorld { s with free := s.free + 1 } world fun q =>
      { q with st := .locked, lockKey := q.requester, memKey := some (Config.freshKey s.free) })

/-- START_INTERFACE_REQUEST: LOCKED to RUN; its context key is made (R329, R335). -/
def execStartInterfaceRequest (world : Nat) (s : State) : Result :=
  .next (if (worldAt s world).st ≠ .locked then s
    else modWorld { s with free := s.free + 1 } world fun q => { q with st := .run, ctxKey := some (Config.freshKey s.free) })

/-- STOP_INTERFACE_REQUEST: a LOCKED or RUN world is destroyed (R329). -/
def execStopInterfaceRequest (world : Nat) (s : State) : Result :=
  .next (if (worldAt s world).st = .locked ∨ (worldAt s world).st = .run then destroyWorld s world .opened else s)

/-- TDISP_ERROR: 0x165, then the destruction (R329). -/
def execTdispError (world : Nat) (s : State) : Result :=
  .next (if tdiLocked s world then leaveUnasked s world .opened else s)

/-- SESSION_LOSS: a LOCKED world is destroyed; another goes on without its session (R329, R338). -/
def execSessionLoss (world : Nat) (s : State) : Result :=
  .next (
    let q := worldAt s world
    if !q.session then s
    else if q.st = .locked then leaveUnasked s world .opened
    else modWorld s world fun q => { q with session := false, requester := 0, negotiated := false, renewed := false })

/-! ### Sessions and measurements (R336) -/

/-- An SPDM ERROR response. -/
def spdmError (s : State) (w : Nat) : State := emit s (.spdm w [0x7F])

/-- SPDM_NEGOTIATE_ALGORITHMS: the ExtAsym entry of ML-DSA-87 must be on offer; no BaseAsymSel bit, that one ExtAsymSel
entry, SHA3-512 (R336). -/
def execSpdmNegotiateAlgorithms (world : Nat) (offers : List (Nat × Nat)) (s : State) : Result :=
  .next (if (worldAt s world).st = .disabled then s
    else if offers.contains (0x03, 0x0087) then
      emit (modWorld s world fun q => { q with negotiated := true }) (.spdm world [0x63, 0, 1, 0x03, 0x0087, 0x20])
    else spdmError (modWorld s world fun q => { q with negotiated := false }) world)

/-- SPDM_KEY_EXCHANGE: a session, with the requester's public key where it authenticated itself (0 where not), and the
device's signed response; in a FROZEN world the key of the locking session renews it (R336, R338). -/
def execSpdmKeyExchange (world requester : Nat) (s : State) : Result :=
  .next (
    let q := worldAt s world
    if q.st = .disabled then s
    else if !q.negotiated then spdmError s world
    else emit (modWorld s world fun q =>
      { q with session := true, requester := requester, renewed := q.st == .frozen && requester == q.lockKey && requester != 0 })
      (.spdm world [0x64, Config.deviceSignature [0x64, world, requester]]))

/-- What the state holds of a measurement block (R336). -/
def measured (s : State) (w index : Nat) : List Nat :=
  let q := worldAt s w
  let bit := fun (b : Bool) => if b then 1 else 0
  if index = 4 then [(revisionId s).toNat, Config.fuses, bit q.unlocked, bit q.armed]
  else if index = 5 then [w, if tdiLocked s w then 1 else 0]
  else if index = 6 then
    (rectsOf s w).map (fun rid => (rectAt s rid).digest.toNat) ++
    [(List.range 16).foldl (fun n k => if (tfind q.keys k).isSome then n + 2 ^ k else n) 0, (q.signKey.map (·.toNat + 1)).getD 0]
  else []

/-- MEASUREMENT_REQUEST: the measurement of a block, signed by the device (R336). -/
def execMeasurementRequest (world index : Nat) (s : State) : Result :=
  .next (if (worldAt s world).st = .disabled then s
    else if index = 0 ∨ 6 < index then spdmError s world
    else
      let m := Config.measurement index (measured s world index)
      emit s (.spdm world [0x60, index, m, Config.deviceSignature [index, m]]))

/-! ### Keys (R334) -/

/-- A key request's response is sent once the operations that keep the old key have ended (R334). -/
def respondKey (s : State) (w code : Nat) : State :=
  let ops := (rectsOf s w).flatMap (keyedOps s)
  if ops.isEmpty then emit s (.spdm w [code]) else modWorld s w fun q => { q with keyResp := q.keyResp ++ [(code, ops)] }

/-- A key-slot request: over the world's session, or by the PF for an OPEN world; the PF's for another is refused (R334). -/
def keyRequest (s : State) (w slot : Nat) (viaPf : Bool) (code : Nat) (f : World → World) : State :=
  let q := worldAt s w
  if 64 ≤ w ∨ 16 ≤ slot ∨ q.st = .disabled then s
  else if viaPf then
    (if q.st = .opened then respondKey (modWorld s w f) w code else postWorld s 0 0x162 7)
  else if q.session then respondKey (modWorld s w f) w code
  else s

/-- KEY_SET (R334). -/
def execKeySet (world slot key viaPf : Nat) (s : State) : Result :=
  .next (keyRequest s world slot (viaPf != 0) 0x01 fun q => { q with keys := tset q.keys slot (BitVec.ofNat 256 key) })

/-- KEY_ERASE (R334). -/
def execKeyErase (world slot viaPf : Nat) (s : State) : Result :=
  .next (keyRequest s world slot (viaPf != 0) 0x02 fun q => { q with keys := tdel q.keys slot })

/-- SIGNKEY_SET (R334). -/
def execSignkeySet (world key : Nat) (s : State) : Result :=
  .next (if !(worldAt s world).session then s
    else emit (modWorld s world fun q => { q with signKey := some (BitVec.ofNat 20736 key) }) (.spdm world [0x03]))

/-! ### The heartbeat (R338) -/

/-- HB_CONFIG: PERIOD and GRACE of 1 to 60 s, from the next HEARTBEAT on (R338). -/
def execHbConfig (world period grace : Nat) (s : State) : Result :=
  .next (if !(worldAt s world).session ∨ period = 0 ∨ 60 < period ∨ grace = 0 ∨ 60 < grace then s
    else modWorld s world fun q => { q with newPeriod := period, newGrace := grace })

/-- HEARTBEAT: the settings of HB_CONFIG take effect; a FROZEN world whose session was renewed goes back to RUN, its
rectangles resume, for which it waits for every clock, and a held release request reaches it (R338, R341, R350). -/
def execHeartbeat (world : Nat) (s : State) : Result :=
  .next (
    let q := worldAt s world
    if !q.session || (q.st == .frozen && q.renewed && !clocksRun s) then s
    else
      let s := modWorld s world fun q => { q with period := q.newPeriod, grace := q.newGrace }
      if q.st = .frozen ∧ q.renewed then
        let s := modWorld s world fun q => { q with st := .run, renewed := false }
        let s := (rectsOf s world).foldl tryResume s
        if q.relheld = 0 then s else postRelease s world q.relheld
      else s)

/-- HEARTBEAT_TIMEOUT: 0x160 is posted, the world is FROZEN and its rectangles stop; a move of one completes (R328, R338). It waits for
every clock (R350, log 63). -/
def execHeartbeatTimeout (world : Nat) (s : State) : Result :=
  .next (if (worldAt s world).st ≠ .run ∨ !clocksRun s then s
    else
      let s := modWorld (postWorld s world 0x160 7) world fun q => { q with st := .frozen, renewed := false }
      (rectsOf s world).foldl startStop s)

/-- GRACE_EXPIRY: the world is destroyed (R338). -/
def execGraceExpiry (world : Nat) (s : State) : Result :=
  .next (if (worldAt s world).st = .frozen then destroyWorld s world .opened else s)

/-! ### Resets (R340, R341) -/

/-- A reset of one function: a world that is protected or whose TDI is locked is destroyed, another is cleared (R329, R340). -/
def resetFunction (s : State) (w : Nat) (st : WState) : State :=
  if isProtected s w || tdiLocked s w then destroyWorld s w st else clearWorld s w st

/-- FLR_VF: the reset of that function; its register page and what stands in its error queue stay (R340, R341, R374). -/
def execFlrVf (world : Nat) (s : State) : Result :=
  .next (if world = 0 ∨ 64 ≤ world ∨ (worldAt s world).st = .disabled then s else resetFunction s world .opened)

/-- The device's firmware has a signature that its root of trust accepts (R336). -/
def firmwareAccepted : Bool := Config.mldsaAccepts Config.rootKey (Config.sha3_512 Config.firmware) Config.firmwareSignature

/-- Every VF that is enabled is reset and disabled, then world 0 is cleared and stays enabled, but where the device has refused its
firmware (R336, log 88); their register pages are at reset (R340). -/
def resetAll (s : State) : State :=
  let vfs := (List.range 64).filter fun w => w != 0 && (worldAt s w).st != .disabled
  let reset := fun (s : State) w (st : WState) => modWorld (resetFunction s w st) w resetPage
  reset (vfs.foldl (fun s w => reset s w .disabled) s) 0 (if firmwareAccepted then .opened else .disabled)

/-- FLR_PF (R340). -/
def execFlrPf (s : State) : Result := .next (resetAll s)

/-- HOT_RESET: a PCIe hot reset or link down (R340). -/
def execHotReset (s : State) : Result := .next (resetAll s)

/-- PACKAGE_RESET: every part of the device at reset (R249, R351); memory beyond the dies keeps its bytes, and the model's own
counters and agenda go on. Firmware whose signature fails is refused: no function of the device answers (R336, log 88). -/
def execPackageReset (s : State) : Result :=
  .next { State.reset with cur := s.cur, agenda := s.agenda, free := s.free, nextId := s.nextId, rev := s.rev, form := s.form, outs := s.outs,
                           worlds := if firmwareAccepted then State.reset.worlds else [],
                           mem := s.mem.filter fun c => decide (c.1 < 2 ^ 70),
                           bad := s.bad.filter fun k => decide (k < 2 ^ 70),
                           poison := s.poison.filter fun k => decide (k < 2 ^ 70) }

/-! ### The Periscope (R302, R314, R355) -/

/-- PERISCOPE_UNLOCK: the world's session unlocks it (R314). -/
def execPeriscopeUnlock (world : Nat) (s : State) : Result :=
  .next (if (worldAt s world).session then modWorld s world fun q => { q with unlocked := true } else s)

/-- PERISCOPE_ARM_DEBUG (R314). -/
def execPeriscopeArmDebug (world on : Nat) (s : State) : Result :=
  .next (periscope s world fun s => modWorld s world fun q => { q with armed := on != 0 })

/-- A core stands in debug halt, or is halted by HALT or by escalation (R292, R314; log 58). -/
def periscopeSees (s : State) (rid c : Nat) : Bool :=
  debugHalted (coreAt s rid c) || (coreAt s rid c).csr.halted

/-- What the Periscope reads, by space: 0 a word of the instruction store, 1 a CSR, 2 a breakpoint register, 3 a watchpoint
register, 4 an item of a monitor, whose word stands in address bits 9 to 0 with the item above it. -/
def periscopeValue (s : State) (rid c space addr : Nat) : Nat :=
  let q := (coreAt s rid c).csr
  match space with
  | 0 => (storeWord s rid c (addr % 16384)).toNat
  | 1 => (csrValue s rid c addr).toNat
  | 2 => (tget 0 q.bpa addr).toNat
  | 3 => (tget 0 q.wpa addr).toNat
  | _ =>
    match monitorAt s rid (BitVec.ofNat 64 (addr % 1024)) with
    | some n => ((monItem (s.rev == .b0) (tget {} s.monitors n) (addr / 1024)).map (·.toNat)).getD 0
    | none => 0

/-- PERISCOPE_READ (R314). -/
def execPeriscopeRead (rid core space addr : Nat) (s : State) : Result :=
  .next (periscopeRect s rid fun s =>
    if !periscopeSees s rid core then s
    else
      let s := if space = 4 then (match monitorAt s rid (BitVec.ofNat 64 (addr % 1024)) with
        | some n => sampleMonitor s rid n
        | none => s) else s
      emit s (.periscope [periscopeValue s rid core space addr]))

/-- PERISCOPE_WRITE: fields that are read-only stay as they are (R5, R302, R314). -/
def execPeriscopeWrite (rid core space addr value : Nat) (s : State) : Result :=
  .next (periscopeRect s rid fun s =>
    let v := BitVec.ofNat 64 value
    if !periscopeSees s rid core then s
    else
      match space with
      | 0 => if addr < 16384 then writeNat s (Place.key (.ist rid core (4 * addr))) 4 value else s
      | 1 => writeCsr s rid core addr v
      | 2 => if addr < 4 then modCsr s rid core fun q => { q with bpa := tset q.bpa addr (v &&& 0x8000000000003FFF) } else s
      | 3 =>
        if addr < 2 ∧ s.rev = .b0 then modCsr s rid core fun q => { q with wpa := tset q.wpa addr (v &&& 0xE0FFFFFFFFFFFFF8) } else s
      | _ =>
        match monitorAt s rid (BitVec.ofNat 64 (addr % 1024)) with
        | some n =>
          if badMonitor (bytesOf 64 value) then s
          else { s with monitors := tset s.monitors n (configured (tget {} s.monitors n) (bytesOf 64 value)) }
        | none => s)

end Sys2Proof.Machine
end

