-- ==== Sys2Proof/Machine/Host.lean ====
section
/-!
DEFINITION. Sys2Proof/Machine/Host.lean: the host's register pages and the launch queue's notify (R343, R347, R351), operating
points, gating, the power arbiters and the thermal throttle (R350 to R354), and what a read of a register page answers.
-/
namespace Sys2Proof.Machine

/-- A function is enabled, so its register page answers (R329, R343). -/
def pageLive (s : State) (fn : Nat) : Bool := decide (fn < 64) && (worldAt s fn).st != .disabled

/-! ### Notify (R347) -/

/-- The new tail of a launch queue; one more than the queue size ahead of LQHEAD is ignored and posted. -/
def notifyTail (s : State) (w tail : Nat) : State :=
  let t := BitVec.ofNat 32 tail
  let q := worldAt s w
  if queueSize q.lqsize < (t - q.lqhead).toNat then post s w { cause := 0x0A3, kind := 4 }
  else modWorld s w fun q => { q with lqtail := t }

/-- NOTIFY (R343, R347). -/
def execNotify (world tail : Nat) (s : State) : Result := .next (if pageLive s world then notifyTail s world tail else s)

/-! ### Operating points and gating (R350, R352) -/

/-- A write of DIEOP: a change stops the die's clock until the PLL has locked again; a gated die has no clock. -/
def setDieOp (s : State) (d op : Nat) : State :=
  if 4 ≤ d ∨ (dieAt s d).op = op % 16 then s
  else modDie s d fun x => { x with op := op % 16, relock := x.gate != .gated }

/-- DIE_OP_CHANGE (R350, R351). -/
def execDieOpChange (die op : Nat) (s : State) : Result := .next (setDieOp s die op)

/-- PLL_RELOCK_DONE: the clock resumes; once every clock runs, a pass that waited for it goes on (R324, R350). -/
def execPllRelockDone (die : Nat) (s : State) : Result :=
  .next (if 4 ≤ die then s
    else
      let s := modDie s die fun x => { x with relock := false }
      if s.pass.moving.isNone && !s.pass.todo.isEmpty then nextMove (s.pass.todo.length + 1) s else s)

/-- A rectangle holds a page of a die. -/
def holdsPage (s : State) (d : Nat) : Bool := s.rects.any fun r => r.2.live && (diesAt r.2.w r.2.h r.2.ax r.2.ay).contains d

/-- The move under way goes to a die; its old place is one that `holdsPage` finds (R328, R352). -/
def moveTouches (s : State) (d : Nat) : Bool :=
  match s.pass.moving with
  | some (rid, c, r) => (diesAt (rectAt s rid).w (rectAt s rid).h c r).contains d
  | none => false

/-- A layer of a binding has its HOME on a die, as its layer table now reads. -/
def bindsHome (s : State) (d : Nat) (b : Binding) : Bool :=
  (List.range b.nl).any fun i =>
    match feederRead s b.world 1 (addrPlus b.table (Int.ofNat (16 * i))) 16 with
    | .ok bs => (match layerEntry bs with
        | some e => e.2.2 == d
        | none => false)
    | .error _ => false

/-- A bound lane has a layer whose HOME is the die (R352). -/
def laneHome (s : State) (d : Nat) : Bool :=
  s.lanes.any fun l => match l.2.bound with
    | some b => bindsHome s d b
    | none => false

/-- What keeps a die from being gated: a page that a rectangle holds, a move that touches it, or a HOME of a bound lane (R352). -/
def gateBarred (s : State) (d : Nat) : Bool := holdsPage s d || moveTouches s d || laneHome s d

/-- A gate request: refused, or the die enters DRAINING (R352). -/
def gateRequest (s : State) (d : Nat) : State :=
  if 4 ≤ d ∨ (dieAt s d).gate ≠ .up then s
  else if gateBarred s d then modDie s d fun x => { x with gateRefused := true }
  else modDie s d fun x => { x with gate := .draining }

/-- DIE_GATE (R352). -/
def execDieGate (die : Nat) (s : State) : Result := .next (gateRequest s die)

/-- An extent has granules in the HBM4E stacks of a die, or is migrating onto them (R16, R17, R102). -/
def granulesOn (s : State) (d : Nat) : Bool :=
  s.extents.any fun e => e.2.granted &&
    ((e.2.tier == 0 && e.2.pbase / 32768 / 3 == d) ||
     (match e.2.mig with
      | some m => m.tier == 0 && m.base / 32768 / 3 == d
      | none => false))

/-- A gated die keeps no state: its stacks' bytes and counters, its station, its monitors, its arbiter. What the I/O die holds of
it stays: its operating point, its gate, its counters since package reset (R351, R352). -/
def gateDie (s : State) (d : Nat) : State :=
  let s := scrub s (runKey 0 (98304 * d)) (runKey 0 (98304 * (d + 1)))
  let s := modDie s d fun x => { op := x.op, gate := .gated, gateRefused := x.gateRefused, pwrReq := x.pwrReq, cyc := x.cyc, drops := x.drops }
  { s with lanes := s.lanes.map fun l => (l.1, { l.2 with stations := tdel l.2.stations d }),
           monitors := s.monitors.filter fun m => m.1 / 32 != d,
           versions := s.versions.filter fun v => v.1 / 98304 != d }

/-- DIE_GATE_DRAIN_DONE: with every granule off the die it is GATED. `ok` 0 is a drain for which no room was found, which ends refused;
so does one whose die a lane bound since the request has as a HOME (R352). It waits while the die relocks (R350, log 63). -/
def execDieGateDrainDone (die ok : Nat) (s : State) : Result :=
  .next (if 4 ≤ die ∨ (dieAt s die).gate ≠ .draining ∨ !clockRuns s die then s
    else if ok = 0 ∨ gateBarred s die then modDie s die fun x => { x with gate := .up, gateRefused := true }
    else if granulesOn s die then s
    else gateDie s die)

/-- An ungate request: a gated die begins to power up (R352). -/
def ungateRequest (s : State) (d : Nat) : State :=
  if 4 ≤ d ∨ (dieAt s d).gate ≠ .gated then s else modDie s d fun x => { x with gate := .powering }

/-- DIE_UNGATE (R352). -/
def execDieUngate (die : Nat) (s : State) : Result := .next (ungateRequest s die)

/-- DIE_POWERED_UP: the die is UP; its windows, semaphores and cells belong to rectangles placed later, which find them
zero, and its monitors are zeroed (R352). It waits while the die relocks (R350, log 63). -/
def execDiePoweredUp (die : Nat) (s : State) : Result :=
  .next (if 4 ≤ die ∨ (dieAt s die).gate ≠ .powering ∨ !clockRuns s die then s
    else { modDie s die fun x => { x with gate := .up } with monitors := s.monitors.filter fun m => m.1 / 32 != die })

/-! ### Power and heat (R353, R354) -/

/-- PWRFLOOR at the present operating points and gating (R351). -/
def powerFloor (s : State) : Nat := Config.powerFloor ((List.range 4).map fun d => ((dieAt s d).op, (dieAt s d).gate == .gated)) % 65536

/-- The cap in force: a value below PWRFLOOR is taken as PWRFLOOR (R351). -/
def powerCap (s : State) : Nat := max s.host.pwrcap (powerFloor s)

/-- A die's tile limit after a comparison of power and cap (R353). -/
def nextLimit (now cap l : Nat) : Nat :=
  if cap < now then l - (l + 7) / 8
  else if 100 * now < 95 * cap then l + (192 - l + 15) / 16
  else l

/-- POWER_ARBITER_TICK: the package power of the last 10 µs is compared with the cap, and the arbiter of every die that has power
adjusts its limit (R352, R353); the tick waits for every clock (R350, log 63). -/
def execPowerArbiterTick (watts : Nat) (s : State) : Result :=
  .next (if !clocksRun s then s else
    let now := min watts 65535
    let s := { s with host := { s.host with pwrnow := now } }
    (List.range 4).foldl (fun s d => modDie s d fun x =>
      if x.gate = .up ∨ x.gate = .draining then { x with limit := nextLimit now (powerCap s) x.limit } else x) s)

/-- THERMAL_THROTTLE_ENTER: THERM records it and the physical function's vector is raised (R354); it waits while the die relocks (R350). -/
def execThermalThrottleEnter (die : Nat) (s : State) : Result :=
  .next (if 4 ≤ die ∨ (dieAt s die).gate ≠ .up ∧ (dieAt s die).gate ≠ .draining ∨ (dieAt s die).throttle ∨ !clockRuns s die then s
    else
      let s := modDie s die fun x => { x with throttle := true }
      let s := { s with host := { s.host with therm := s.host.therm ||| BitVec.ofNat 4 (2 ^ die) } }
      let v := (worldAt s 0).eqvec
      if v.getLsbD 7 then emit s (.irq 0 (v.toNat % 32)) else s)

/-- THERMAL_THROTTLE_EXIT (R354); it waits while the die relocks (R350). -/
def execThermalThrottleExit (die : Nat) (s : State) : Result :=
  .next (if 4 ≤ die ∨ !clockRuns s die then s else modDie s die fun x => { x with throttle := false })

/-! ### Writes of the register pages (R343, R351) -/

/-- A write of one of a function's own registers. LQBASE and EQBASE are 4 KiB aligned: a write drops their low 12 bits, which the
spec gives neither an error nor a meaning (DESIGN CHOICE, log 81). -/
def writePage (s : State) (fn off : Nat) (v : W64) : State :=
  let q := worldAt s fn
  let aligned := BitVec.ofNat 64 (v.toNat / 4096 * 4096)
  let lq := q.lqhead == q.lqtail
  let eq := q.eqhead == q.eqtail
  match off with
  | 0x000 => if lq then modWorld s fn fun q => { q with lqbase := aligned } else s
  | 0x008 => if lq then modWorld s fn fun q => { q with lqsize := v.toNat % 32 } else s
  | 0x010 => notifyTail s fn v.toNat
  | 0x020 => if eq then modWorld s fn fun q => { q with eqbase := aligned } else s
  | 0x028 => if eq then modWorld s fn fun q => { q with eqsize := v.toNat % 32 } else s
  | 0x038 => modWorld s fn fun q => { q with eqhead := BitVec.ofNat 32 v.toNat }
  | 0x048 => modWorld s fn fun q => { q with eqvec := BitVec.ofNat 8 v.toNat &&& 0x9F }
  | _ => s

/-- A write of DIEPWR: bits 1 and 0 are held, bit 8 clears the refusal, then the request is taken (R351, R352). -/
def writeDiePwr (s : State) (d : Nat) (v : W64) : State :=
  let s := if d < 4 then modDie s d fun x => { x with pwrReq := v.toNat % 4 } else s
  let s := if v.getLsbD 8 then modDie s d fun x => { x with gateRefused := false } else s
  if v.toNat % 4 = 1 then gateRequest s d else if v.toNat % 4 = 2 then ungateRequest s d else s

/-- A write of MONALLOC: a monitor given to a rectangle serves the logical die its die then is (R306, R351). -/
def writeMonAlloc (s : State) (n : Nat) (v : W64) : State :=
  { s with monAlloc := tset s.monAlloc n (BitVec.ofNat 11 v.toNat &&& 0x7BF),
           monitors := tmod {} s.monitors n fun m => { m with ldie := none } }

/-- A write of a power or housekeeping register of the physical function (R351). -/
def writePf (s : State) (off : Nat) (v : W64) : State :=
  if off = 0x800 then { s with host := { s.host with pwrcap := v.toNat % 65536 } }
  else if 0x820 ≤ off ∧ off < 0x840 then setDieOp s ((off - 0x820) / 8) v.toNat
  else if 0x840 ≤ off ∧ off < 0x860 then writeDiePwr s ((off - 0x840) / 8) v
  else if off = 0x860 then { s with host := { s.host with therm := s.host.therm &&& ~~~(BitVec.ofNat 4 v.toNat) } }
  else if off = 0x880 then startPass s (v.toNat % 16)
  else if 0x900 ≤ off ∧ off < 0xD00 then writeMonAlloc s ((off - 0x900) / 8) v
  else if 0x1000 ≤ off ∧ off < 0x1200 then askRelease s ((off - 0x1000) / 8) v.toNat
  else s

/-- REGISTER_WRITE: an aligned write of 8 bytes to a register page; a read-only or reserved register, and a VF's offset above
its own rows, ignore it (R343, R351). -/
def execRegisterWrite (world off value : Nat) (s : State) : Result :=
  .next (
    let v := BitVec.ofNat 64 value
    if !pageLive s world || off % 8 != 0 then s
    else if off < 0x800 then writePage s world off v
    else if world = 0 then writePf s off v
    else s)

/-! ### Reads of the register pages (R343, R351, R355)

A read changes nothing and no row of the opcode table stands for it; `pageRead` is what it answers. -/

/-- The code of a world's state in WSTAT (R343). -/
def wstateCode : WState → Nat
  | .disabled => 0
  | .opened => 1
  | .locked => 2
  | .run => 3
  | .frozen => 4

/-- WSTAT (R343). -/
def wstat (s : State) (fn : Nat) : Nat :=
  wstateCode (worldAt s fn).st + 256 * ((List.range 8).foldl (fun a k => a + (if (rectAt s (8 * fn + k)).live then 2 ^ k else 0)) 0) +
  (if (worldAt s fn).relpend then 65536 else 0)

/-- The code of a die's gate state in DIEPWR (R351). -/
def gateCode : GateSt → Nat
  | .up => 0
  | .draining => 1
  | .gated => 2
  | .powering => 3

/-- A read of one of a function's own registers (R343). -/
def readPage (s : State) (fn off : Nat) : Nat :=
  let q := worldAt s fn
  match off with
  | 0x000 => q.lqbase.toNat
  | 0x008 => q.lqsize
  | 0x018 => q.lqhead.toNat
  | 0x020 => q.eqbase.toNat
  | 0x028 => q.eqsize
  | 0x030 => q.eqtail.toNat
  | 0x038 => q.eqhead.toNat
  | 0x040 => wstat s fn
  | 0x048 => q.eqvec.toNat
  | 0x050 => q.relcnt.toNat
  | _ => 0

/-- The rectangle that MONALLOC gives a monitor (R351). -/
def monRect (s : State) (n : Nat) : Nat := 8 * ((tget 0 s.monAlloc n).toNat % 64) + (tget 0 s.monAlloc n).toNat / 256 % 8

/-- A read of a register of the physical function at 0x800 onward; a monitor answers with the samples it has taken by then: links 0 to 3 are the seams of the pairs, 4 to 7 the dies' I/O
links, 8 to 15 the peer ports (R351, R355). -/
def readPf (s : State) (off : Nat) : Nat :=
  let at_ := fun (base : Nat) => (off - base) / 8
  if off = 0x800 then s.host.pwrcap
  else if off = 0x808 then powerFloor s
  else if off = 0x810 then s.host.pwrnow
  else if 0x820 ≤ off ∧ off < 0x840 then (dieAt s (at_ 0x820)).op
  else if 0x840 ≤ off ∧ off < 0x860 then
    (dieAt s (at_ 0x840)).pwrReq + 16 * gateCode (dieAt s (at_ 0x840)).gate + (if (dieAt s (at_ 0x840)).gateRefused then 256 else 0)
  else if off = 0x860 then s.host.therm.toNat
  else if off = 0x888 then s.host.compMoved + 256 * s.host.compAband + (if s.host.compDone then 65536 else 0)
  else if 0x900 ≤ off ∧ off < 0xD00 then (tget 0 s.monAlloc (at_ 0x900)).toNat
  else if 0xD00 ≤ off ∧ off < 0xD20 then (dieAt s (at_ 0xD00)).drops.toNat
  else if 0xD20 ≤ off ∧ off < 0xD40 then (linkAt s (at_ 0xD20)).retrains + 65536 * (linkAt s (4 + at_ 0xD20)).retrains
  else if 0xD40 ≤ off ∧ off < 0xD80 then (linkAt s (8 + at_ 0xD40)).retrains
  else if 0xD80 ≤ off ∧ off < 0xE80 then (laneStat (tget {} (laneAt s (at_ 0xD80 % 8)).stations (at_ 0xD80 / 8))).toNat
  else if 0x1000 ≤ off ∧ off < 0x1200 then (let q := worldAt s (at_ 0x1000); (if q.relpend then q.relcnt else q.relheld).toNat)
  else if 0x2000 ≤ off ∧ off < 0xA000 then
    let n := (off - 0x2000) / 256
    ((monItem (s.rev == .b0) (tget {} (sampleMonitor s (monRect s n) n).monitors n) (off % 256 / 8)).map (·.toNat)).getD 0
  else 0

/-- What an aligned read of 8 bytes at an offset of a function's register page answers (R343). -/
def pageRead (s : State) (fn off : Nat) : Nat :=
  if !pageLive s fn then 0 else if off < 0x800 then readPage s fn off else if fn = 0 then readPf s off else 0

end Sys2Proof.Machine
end

