-- ==== Sys2Proof/Machine/Vector.lean ====
section
/-!
DEFINITION. Sys2Proof/Machine/Vector.lean: the vector instructions (R181 to R193).
-/
namespace Sys2Proof.Machine

/-! ### Registers and lanes (R181, R182) -/

/-- A vector register of the core that issues. -/
def readV (s : State) (v : Nat) : Vec := tget 0 (coreAt s s.cur.rid s.cur.core).v v
/-- Write a vector register at once; the write binds the block (R182). -/
def writeV (s : State) (v : Nat) (x : Vec) : State :=
  bind (modCore s s.cur.rid s.cur.core fun k => { k with v := tset k.v v x }) s.cur.rid s.cur.core

/-- lane (R33). -/
def lane (v : Vec) (i w : Nat) : Nat := v.toNat / 2 ^ (i * w) % 2 ^ w
def laneCount (w : Nat) : Nat := 1024 / w
def lanes (v : Vec) (w : Nat) : List Nat := (List.range (laneCount w)).map fun i => lane v i w
/-- A register of lanes of width w, lane 0 lowest. -/
def ofLanes (w : Nat) (l : List Nat) : Vec := BitVec.ofNat 1024 (l.foldr (fun x acc => acc * 2 ^ w + x % 2 ^ w) 0)
/-- The flags that lanes raise. -/
def joinAll (l : List (Nat × Fl)) : Fl := l.foldl (fun f r => f.join r.2) {}

/-- Write lanes and raise their flags. -/
def writeLanes (s : State) (d w : Nat) (l : List (Nat × Fl)) : Act :=
  .done (raise (writeV s d (ofLanes w (l.map (·.1)))) (joinAll l))

/-- Lane-by-lane instructions of one source, of two, of two and the old vd (R185). -/
def lanes1 (s : State) (d a : BitVec 5) (y : BitVec 4) (f : Nat → Nat × Fl) : Act :=
  writeLanes s d.toNat (widthOf y) ((lanes (readV s a.toNat) (widthOf y)).map f)
def lanes2 (s : State) (d a b : BitVec 5) (y : BitVec 4) (f : Nat → Nat → Nat × Fl) : Act :=
  writeLanes s d.toNat (widthOf y)
    (List.zipWith f (lanes (readV s a.toNat) (widthOf y)) (lanes (readV s b.toNat) (widthOf y)))
def lanes3 (s : State) (d a b : BitVec 5) (y : BitVec 4) (f : Nat → Nat → Nat → Nat × Fl) : Act :=
  let w := widthOf y
  writeLanes s d.toNat w ((List.range (laneCount w)).map fun i =>
    f (lane (readV s a.toNat) i w) (lane (readV s b.toNat) i w) (lane (readV s d.toNat) i w))

/-- A lane that raises no flag. -/
def plain (x : Nat) : Nat × Fl := (x, {})

/-! ### Lane functions -/

/-- Round an exact result once (R172, R185). -/
def finish (y : BitVec 4) (m : Mode) (r : Val × Fl) : Nat × Fl :=
  let e := encodeVal (fmtOf y) m r.1
  (e.1, r.2.join e.2)

def fpLane (y : BitVec 4) (x : Nat) : Val := valueOf (fmtOf y) x

/-- x × y + d, the product exact (R185). -/
def fmaVal (m : Mode) (x y d : Val) : Val × Fl :=
  let p := mulVal x y
  let q := addVal m p.1 d
  (q.1, p.2.join q.2)
/-- d - x × y (R185). -/
def fmsVal (m : Mode) (x y d : Val) : Val × Fl :=
  let p := mulVal x y
  let q := addVal m d p.1.neg
  (q.1, p.2.join q.2)

/-- VMIN and VMAX of a lane (R186). -/
def minLane (greater : Bool) (y : BitVec 4) (a b : Nat) : Nat :=
  if isFloat y then minBits (fmtOf y) greater a b
  else
    let less := decide (intOf y a < intOf y b)
    if greater then (if less then b else a) else (if less then a else b)

/-- VABS of a lane (R186). -/
def absLane (y : BitVec 4) (a : Nat) : Nat :=
  let w := widthOf y
  if isFloat y then (if isNan (fpLane y a) then (fmtOf y).canon else a % 2 ^ (w - 1))
  else wrap w ((intOf y a).natAbs : Int)
/-- VNEG of a lane (R186). -/
def negLane (y : BitVec 4) (a : Nat) : Nat :=
  let w := widthOf y
  if isFloat y then (if isNan (fpLane y a) then (fmtOf y).canon else (a + 2 ^ (w - 1)) % 2 ^ w)
  else wrap w (-(intOf y a))

/-- The relation of VCMP (R188). -/
def cmpLane (c : BitVec 2) (y : BitVec 4) (a b : Nat) : Bool :=
  if isFloat y then
    let x := fpLane y a
    let z := fpLane y b
    if isNan x || isNan z then c == 1#2
    else
      match c.toNat with
      | 0 => eqVal x z
      | 1 => !eqVal x z
      | 2 => ltVal x z
      | _ => ltVal x z || eqVal x z
  else
    match c.toNat with
    | 0 => intOf y a == intOf y b
    | 1 => intOf y a != intOf y b
    | 2 => decide (intOf y a < intOf y b)
    | _ => decide (intOf y a ≤ intOf y b)

/-- All ones or zero (R188). -/
def maskLane (w : Nat) (c : Bool) : Nat := if c then 2 ^ w - 1 else 0

/-- VCVT (R187): the elements both widths hold; the rest of vd is zero. -/
def convert (src dst : BitVec 4) (m : Mode) (v : Vec) : List (Nat × Fl) :=
  (List.range (1024 / max (widthOf src) (widthOf dst))).map fun i => cvtOne src dst m (lane v i (widthOf src))

/-- One block of 64 codes (R190). -/
def quantBlock (n : Bool) (sc : Vec) (x : Nat → Nat) : List (Nat × Fl) :=
  (List.range 64).map fun j =>
    match stepOf (lane sc 0 32) (lane sc 1 32) with
    | none => (if n then 7 else 0, flNV)
    | some (m, e) => quantise n (valueOf fp32 (x j)) m e

/-- One block decoded (R190). -/
def dequantBlock (n : Bool) (sc : Vec) (c : Nat → Nat) : List (Nat × Fl) :=
  (List.range 64).map fun j =>
    match stepOf (lane sc 0 32) (lane sc 1 32) with
    | none => (fp32.canon, flNV)
    | some _ => roundRne fp32 (q4Value n (c j) (lane sc 0 32) (lane sc 1 32))

/-- Replace bits [256 p + 255 : 256 p] of a register (R190). -/
def putBlock (v : Vec) (p : Nat) (codes : List Nat) : Vec :=
  let blk : Vec := BitVec.ofNat 1024 (codes.foldr (fun x acc => acc * 16 + x % 16) 0)
  (v &&& ~~~ (BitVec.ofNat 1024 (2 ^ 256 - 1) <<< (256 * p))) ||| (blk <<< (256 * p))

/-- A node of the tree of VRED (R191). -/
def redNode (y : BitVec 4) (o : BitVec 2) (m : Mode) (a b : Nat) : Nat × Fl :=
  if o = 0#2 then
    (if isFloat y then finish y m (addVal m (fpLane y a) (fpLane y b)) else plain ((a + b) % 2 ^ widthOf y))
  else plain (minLane (o == 2#2) y a b)

/-- One level of the tree. -/
def redLevel (y : BitVec 4) (o : BitVec 2) (m : Mode) : List Nat → List (Nat × Fl)
  | a :: b :: l => redNode y o m a b :: redLevel y o m l
  | l => l.map plain

/-- The tree of VRED (R191): 128 lanes have seven levels. -/
def redTree (y : BitVec 4) (o : BitVec 2) (m : Mode) : Nat → List Nat → Nat × Fl
  | 0, l => (l.headD 0, {})
  | n + 1, l =>
    if l.length ≤ 1 then (l.headD 0, {})
    else
      let t := redLevel y o m l
      let r := redTree y o m n (t.map (·.1))
      (r.1, (joinAll t).join r.2)

/-- A lane extended to 64 bits by its type (R175, R192). -/
def extendLane (y : BitVec 4) (x : Nat) : W64 := if isSigned y then BitVec.ofInt 64 (intOf y x) else BitVec.ofNat 64 x

/-! ### Instructions -/

/-- VADD (R185). -/
def execVadd (p : BitVec 2) (d : BitVec 5) (a : BitVec 5) (b : BitVec 5) (r : BitVec 2) (y : BitVec 4) (s : State) : Result :=
  issue (.vadd p d a b r y) (fun _ _ s => lanes2 s d a b y fun u w => finish y (modeOf r) (addVal (modeOf r) (fpLane y u) (fpLane y w))) s

/-- VSUB (R185). -/
def execVsub (p : BitVec 2) (d : BitVec 5) (a : BitVec 5) (b : BitVec 5) (r : BitVec 2) (y : BitVec 4) (s : State) : Result :=
  issue (.vsub p d a b r y) (fun _ _ s => lanes2 s d a b y fun u w => finish y (modeOf r) (addVal (modeOf r) (fpLane y u) (fpLane y w).neg)) s

/-- VMUL (R185). -/
def execVmul (p : BitVec 2) (d : BitVec 5) (a : BitVec 5) (b : BitVec 5) (r : BitVec 2) (y : BitVec 4) (s : State) : Result :=
  issue (.vmul p d a b r y) (fun _ _ s => lanes2 s d a b y fun u w => finish y (modeOf r) (mulVal (fpLane y u) (fpLane y w))) s

/-- VDIV (R185). -/
def execVdiv (p : BitVec 2) (d : BitVec 5) (a : BitVec 5) (b : BitVec 5) (r : BitVec 2) (y : BitVec 4) (s : State) : Result :=
  issue (.vdiv p d a b r y) (fun _ _ s => lanes2 s d a b y fun u w => finish y (modeOf r) (divVal (fpLane y u) (fpLane y w))) s

/-- VFMA (R185). -/
def execVfma (p : BitVec 2) (d : BitVec 5) (a : BitVec 5) (b : BitVec 5) (r : BitVec 2) (y : BitVec 4) (s : State) : Result :=
  issue (.vfma p d a b r y) (fun _ _ s => lanes3 s d a b y fun u w x => finish y (modeOf r) (fmaVal (modeOf r) (fpLane y u) (fpLane y w) (fpLane y x))) s

/-- VFMS (R185). -/
def execVfms (p : BitVec 2) (d : BitVec 5) (a : BitVec 5) (b : BitVec 5) (r : BitVec 2) (y : BitVec 4) (s : State) : Result :=
  issue (.vfms p d a b r y) (fun _ _ s => lanes3 s d a b y fun u w x => finish y (modeOf r) (fmsVal (modeOf r) (fpLane y u) (fpLane y w) (fpLane y x))) s

/-- VMIN (R186). -/
def execVmin (p : BitVec 2) (d : BitVec 5) (a : BitVec 5) (b : BitVec 5) (y : BitVec 4) (s : State) : Result :=
  issue (.vmin p d a b y) (fun _ _ s => lanes2 s d a b y fun u w => plain (minLane false y u w)) s

/-- VMAX (R186). -/
def execVmax (p : BitVec 2) (d : BitVec 5) (a : BitVec 5) (b : BitVec 5) (y : BitVec 4) (s : State) : Result :=
  issue (.vmax p d a b y) (fun _ _ s => lanes2 s d a b y fun u w => plain (minLane true y u w)) s

/-- VABS (R186). -/
def execVabs (p : BitVec 2) (d : BitVec 5) (a : BitVec 5) (y : BitVec 4) (s : State) : Result :=
  issue (.vabs p d a y) (fun _ _ s => lanes1 s d a y fun u => plain (absLane y u)) s

/-- VNEG (R186). -/
def execVneg (p : BitVec 2) (d : BitVec 5) (a : BitVec 5) (y : BitVec 4) (s : State) : Result :=
  issue (.vneg p d a y) (fun _ _ s => lanes1 s d a y fun u => plain (negLane y u)) s

/-- VSQRT (R183). -/
def execVsqrt (p : BitVec 2) (d : BitVec 5) (a : BitVec 5) (r : BitVec 2) (y : BitVec 4) (s : State) : Result :=
  issue (.vsqrt p d a r y) (fun _ _ s => lanes1 s d a y fun u => finish y (modeOf r) (sqrtVal (fpLane y u))) s

/-- VRCP (R183). -/
def execVrcp (p : BitVec 2) (d : BitVec 5) (a : BitVec 5) (r : BitVec 2) (y : BitVec 4) (s : State) : Result :=
  issue (.vrcp p d a r y) (fun _ _ s => lanes1 s d a y fun u => finish y (modeOf r) (rcpVal (fpLane y u))) s

/-- VRSQ (R183). -/
def execVrsq (p : BitVec 2) (d : BitVec 5) (a : BitVec 5) (r : BitVec 2) (y : BitVec 4) (s : State) : Result :=
  issue (.vrsq p d a r y) (fun _ _ s => lanes1 s d a y fun u => finish y (modeOf r) (rsqVal (fpLane y u))) s

/-- VEXP2 (R183). -/
def execVexp2 (p : BitVec 2) (d : BitVec 5) (a : BitVec 5) (r : BitVec 2) (y : BitVec 4) (s : State) : Result :=
  issue (.vexp2 p d a r y) (fun _ _ s => lanes1 s d a y fun u => finish y (modeOf r) (exp2Val (fpLane y u))) s

/-- VLOG2 (R183). -/
def execVlog2 (p : BitVec 2) (d : BitVec 5) (a : BitVec 5) (r : BitVec 2) (y : BitVec 4) (s : State) : Result :=
  issue (.vlog2 p d a r y) (fun _ _ s => lanes1 s d a y fun u => finish y (modeOf r) (log2Val (fpLane y u))) s

/-- VCMP (R188). -/
def execVcmp (p : BitVec 2) (d : BitVec 5) (a : BitVec 5) (b : BitVec 5) (c : BitVec 2) (y : BitVec 4) (s : State) : Result :=
  issue (.vcmp p d a b c y) (fun _ _ s => lanes2 s d a b y fun u w => plain (maskLane (widthOf y) (cmpLane c y u w))) s

/-- VSEL (R185). -/
def execVsel (p : BitVec 2) (d : BitVec 5) (a : BitVec 5) (b : BitVec 5) (y : BitVec 4) (s : State) : Result :=
  issue (.vsel p d a b y) (fun _ _ s => lanes3 s d a b y fun u w x => plain (if x ≠ 0 then u else w)) s

/-- VAND (R185). -/
def execVand (p : BitVec 2) (d : BitVec 5) (a : BitVec 5) (b : BitVec 5) (y : BitVec 4) (s : State) : Result :=
  issue (.vand p d a b y) (fun _ _ s => .done (writeV s d.toNat (readV s a.toNat &&& readV s b.toNat))) s

/-- VOR (R185). -/
def execVor (p : BitVec 2) (d : BitVec 5) (a : BitVec 5) (b : BitVec 5) (y : BitVec 4) (s : State) : Result :=
  issue (.vor p d a b y) (fun _ _ s => .done (writeV s d.toNat (readV s a.toNat ||| readV s b.toNat))) s

/-- VXOR (R185). -/
def execVxor (p : BitVec 2) (d : BitVec 5) (a : BitVec 5) (b : BitVec 5) (y : BitVec 4) (s : State) : Result :=
  issue (.vxor p d a b y) (fun _ _ s => .done (writeV s d.toNat (readV s a.toNat ^^^ readV s b.toNat))) s

/-- VNOT (R185). -/
def execVnot (p : BitVec 2) (d : BitVec 5) (a : BitVec 5) (y : BitVec 4) (s : State) : Result :=
  issue (.vnot p d a y) (fun _ _ s => .done (writeV s d.toNat (~~~ (readV s a.toNat)))) s

/-- VSHL (R189). -/
def execVshl (p : BitVec 2) (d : BitVec 5) (a : BitVec 5) (b : BitVec 5) (y : BitVec 4) (s : State) : Result :=
  issue (.vshl p d a b y) (fun _ _ s => lanes2 s d a b y fun u w => plain (u * 2 ^ (w % widthOf y) % 2 ^ widthOf y)) s

/-- VSHR (R189). -/
def execVshr (p : BitVec 2) (d : BitVec 5) (a : BitVec 5) (b : BitVec 5) (y : BitVec 4) (s : State) : Result :=
  issue (.vshr p d a b y) (fun _ _ s => lanes2 s d a b y fun u w => plain (u / 2 ^ (w % widthOf y))) s

/-- VSAR (R189). -/
def execVsar (p : BitVec 2) (d : BitVec 5) (a : BitVec 5) (b : BitVec 5) (y : BitVec 4) (s : State) : Result :=
  issue (.vsar p d a b y) (fun _ _ s => lanes2 s d a b y fun u w => plain (wrap (widthOf y) (sext (widthOf y) u / (2 ^ (w % widthOf y) : Nat)))) s

/-- VIADD (R185). -/
def execViadd (p : BitVec 2) (d : BitVec 5) (a : BitVec 5) (b : BitVec 5) (y : BitVec 4) (s : State) : Result :=
  issue (.viadd p d a b y) (fun _ _ s => lanes2 s d a b y fun u w => plain ((u + w) % 2 ^ widthOf y)) s

/-- VISUB (R185). -/
def execVisub (p : BitVec 2) (d : BitVec 5) (a : BitVec 5) (b : BitVec 5) (y : BitVec 4) (s : State) : Result :=
  issue (.visub p d a b y) (fun _ _ s => lanes2 s d a b y fun u w => plain (wrap (widthOf y) ((u : Int) - (w : Int)))) s

/-- VIMUL (R185). -/
def execVimul (p : BitVec 2) (d : BitVec 5) (a : BitVec 5) (b : BitVec 5) (y : BitVec 4) (s : State) : Result :=
  issue (.vimul p d a b y) (fun _ _ s => lanes2 s d a b y fun u w => plain (u * w % 2 ^ widthOf y)) s

/-- VCVT (R187). -/
def execVcvt (p : BitVec 2) (d : BitVec 5) (a : BitVec 5) (g : BitVec 4) (r : BitVec 2) (y : BitVec 4) (s : State) : Result :=
  issue (.vcvt p d a g r y) (fun _ _ s => writeLanes s d.toNat (widthOf y) (convert g y (modeOf r) (readV s a.toNat))) s

/-- VQNT (R190): lanes 0 to 31 are those of va, lanes 32 to 63 those of va + 1. -/
def execVqnt (p : BitVec 2) (d : BitVec 5) (a : BitVec 5) (b : BitVec 5) (n : BitVec 2) (y : BitVec 4) (s : State) : Result :=
  issue (.vqnt p d a b n y) (fun _ _ s => 
    let x := fun j => lane (readV s (a.toNat + j / 32)) (j % 32) 32
    let l := quantBlock (y == 13#4) (readV s b.toNat) x
    .done (raise (writeV s d.toNat (putBlock (readV s d.toNat) n.toNat (l.map (·.1)))) (joinAll l))) s

/-- VDQNT (R190). -/
def execVdqnt (p : BitVec 2) (d : BitVec 5) (a : BitVec 5) (b : BitVec 5) (n : BitVec 2) (y : BitVec 4) (s : State) : Result :=
  issue (.vdqnt p d a b n y) (fun _ _ s => 
    let l := dequantBlock (y == 13#4) (readV s b.toNat) fun j => lane (readV s a.toNat) (64 * n.toNat + j) 4
    let s := writeV s d.toNat (ofLanes 32 ((l.take 32).map (·.1)))
    .done (raise (writeV s (d.toNat + 1) (ofLanes 32 ((l.drop 32).map (·.1)))) (joinAll l))) s

/-- VRED (R191). -/
def execVred (p : BitVec 2) (y : BitVec 4) (a : BitVec 5) (r : BitVec 2) (o : BitVec 2) (t : BitVec 9) (s : State) : Result :=
  issue (.vred p y a r o t) (fun _ _ s => 
    let q := redTree y o (modeOf r) 7 (lanes (readV s a.toNat) (widthOf y))
    .send (raise s q.2) (extendLane y q.1)) s

/-- VBCAST (R192). -/
def execVbcast (p : BitVec 2) (d : BitVec 5) (a : BitVec 5) (m : BitVec 2) (y : BitVec 4) (s : State) : Result :=
  issue (.vbcast p d a m y) (fun x _ s => 
    let w := widthOf y
    if m.toNat = 0 then .done (writeV s d.toNat (ofLanes w (List.replicate (laneCount w) x.toNat)))
    else if laneCount w ≤ x.toNat then .trap 0x040 0
    else .done (writeV s d.toNat (ofLanes w (List.replicate (laneCount w) (lane (readV s a.toNat) x.toNat w))))) s

/-- VSHUF (R192). -/
def execVshuf (p : BitVec 2) (d : BitVec 5) (a : BitVec 5) (b : BitVec 5) (y : BitVec 4) (s : State) : Result :=
  issue (.vshuf p d a b y) (fun _ _ s => 
    let w := widthOf y
    .done (writeV s d.toNat (ofLanes w ((lanes (readV s b.toNat) w).map fun j =>
      if j < laneCount w then lane (readV s a.toNat) j w else 0)))) s

/-- VEXT (R192). -/
def execVext (p : BitVec 2) (y : BitVec 4) (a : BitVec 5) (t : BitVec 9) (s : State) : Result :=
  issue (.vext p y a t) (fun x _ s => 
    let w := widthOf y
    if laneCount w ≤ x.toNat then .trap 0x040 0
    else .send s (extendLane y (lane (readV s a.toNat) x.toNat w))) s

/-- VINS (R192). -/
def execVins (p : BitVec 2) (d : BitVec 5) (y : BitVec 4) (s : State) : Result :=
  issue (.vins p d y) (fun x z s => 
    let w := widthOf y
    if laneCount w ≤ x.toNat then .trap 0x040 0
    else .done (writeV s d.toNat (ofLanes w ((List.range (laneCount w)).map fun i =>
      if i = x.toNat then z.toNat else lane (readV s d.toNat) i w)))) s

/-- VMOV (R192). -/
def execVmov (p : BitVec 2) (d : BitVec 5) (a : BitVec 5) (s : State) : Result :=
  issue (.vmov p d a) (fun _ _ s => .done (writeV s d.toNat (readV s a.toNat))) s

/-- VZERO (R192). -/
def execVzero (p : BitVec 2) (d : BitVec 5) (s : State) : Result :=
  issue (.vzero p d) (fun _ _ s => .done (writeV s d.toNat 0)) s

end Sys2Proof.Machine
end

