-- ==== Sys2Proof/Machine/Dispatch.lean ====
section
/-!
DEFINITION. Sys2Proof/Machine/Dispatch.lean: the meaning of every instruction and event, one arm each.
-/
namespace Sys2Proof.Machine

/-- One instruction or event of the machine: an instruction row acts in the slot the cursor names. -/
def exec (i : Instr) (s : State) : Host.Outcome State Fault Refusal :=
  match i with
  | .add p t u => Sys2Proof.Machine.execAdd p t u s
  | .sub p t u => Sys2Proof.Machine.execSub p t u s
  | .mul p t u => Sys2Proof.Machine.execMul p t u s
  | .mulh p t u => Sys2Proof.Machine.execMulh p t u s
  | .mulhz p t u => Sys2Proof.Machine.execMulhz p t u s
  | .div p t u => Sys2Proof.Machine.execDiv p t u s
  | .divz p t u => Sys2Proof.Machine.execDivz p t u s
  | .rem p t u => Sys2Proof.Machine.execRem p t u s
  | .remz p t u => Sys2Proof.Machine.execRemz p t u s
  | .and p t u => Sys2Proof.Machine.execAnd p t u s
  | .or p t u => Sys2Proof.Machine.execOr p t u s
  | .xor p t u => Sys2Proof.Machine.execXor p t u s
  | .andn p t u => Sys2Proof.Machine.execAndn p t u s
  | .orn p t u => Sys2Proof.Machine.execOrn p t u s
  | .shl p t u => Sys2Proof.Machine.execShl p t u s
  | .shr p t u => Sys2Proof.Machine.execShr p t u s
  | .sar p t u => Sys2Proof.Machine.execSar p t u s
  | .ror p t u => Sys2Proof.Machine.execRor p t u s
  | .min p t u => Sys2Proof.Machine.execMin p t u s
  | .max p t u => Sys2Proof.Machine.execMax p t u s
  | .minz p t u => Sys2Proof.Machine.execMinz p t u s
  | .maxz p t u => Sys2Proof.Machine.execMaxz p t u s
  | .mov p t u => Sys2Proof.Machine.execMov p t u s
  | .clz p t u => Sys2Proof.Machine.execClz p t u s
  | .ctz p t u => Sys2Proof.Machine.execCtz p t u s
  | .popc p t u => Sys2Proof.Machine.execPopc p t u s
  | .brev p t u => Sys2Proof.Machine.execBrev p t u s
  | .ceq p t u => Sys2Proof.Machine.execCeq p t u s
  | .cne p t u => Sys2Proof.Machine.execCne p t u s
  | .clt p t u => Sys2Proof.Machine.execClt p t u s
  | .cle p t u => Sys2Proof.Machine.execCle p t u s
  | .cltz p t u => Sys2Proof.Machine.execCltz p t u s
  | .clez p t u => Sys2Proof.Machine.execClez p t u s
  | .addi p i0 t => Sys2Proof.Machine.execAddi p i0 t s
  | .muli p i0 t => Sys2Proof.Machine.execMuli p i0 t s
  | .andi p i0 t => Sys2Proof.Machine.execAndi p i0 t s
  | .ori p i0 t => Sys2Proof.Machine.execOri p i0 t s
  | .xori p i0 t => Sys2Proof.Machine.execXori p i0 t s
  | .shli p k t => Sys2Proof.Machine.execShli p k t s
  | .shri p k t => Sys2Proof.Machine.execShri p k t s
  | .sari p k t => Sys2Proof.Machine.execSari p k t s
  | .ceqi p i0 t => Sys2Proof.Machine.execCeqi p i0 t s
  | .cnei p i0 t => Sys2Proof.Machine.execCnei p i0 t s
  | .clti p i0 t => Sys2Proof.Machine.execClti p i0 t s
  | .clei p i0 t => Sys2Proof.Machine.execClei p i0 t s
  | .cltzi p i0 t => Sys2Proof.Machine.execCltzi p i0 t s
  | .clezi p i0 t => Sys2Proof.Machine.execClezi p i0 t s
  | .lea p s0 o t => Sys2Proof.Machine.execLea p s0 o t s
  | .sext p n t => Sys2Proof.Machine.execSext p n t s
  | .zext p n t => Sys2Proof.Machine.execZext p n t s
  | .extr p s0 o l t => Sys2Proof.Machine.execExtr p s0 o l t s
  | .ins p o l t => Sys2Proof.Machine.execIns p o l t s
  | .constI t i0 => Sys2Proof.Machine.execConstI t i0 s
  | .consth t i0 => Sys2Proof.Machine.execConsth t i0 s
  | .get r u t => Sys2Proof.Machine.execGet r u t s
  | .null p t u => Sys2Proof.Machine.execNull p t u s
  | .br p o => Sys2Proof.Machine.execBr p o s
  | .bri p => Sys2Proof.Machine.execBri p s
  | .call p o => Sys2Proof.Machine.execCall p o s
  | .calli p => Sys2Proof.Machine.execCalli p s
  | .ret p => Sys2Proof.Machine.execRet p s
  | .tend p => Sys2Proof.Machine.execTend p s
  | .park p o => Sys2Proof.Machine.execPark p o s
  | .tabort p => Sys2Proof.Machine.execTabort p s
  | .ld p y d t => Sys2Proof.Machine.execLd p y d t s
  | .st p y d => Sys2Proof.Machine.execSt p y d s
  | .ldv p v d => Sys2Proof.Machine.execLdv p v d s
  | .stv p v d => Sys2Proof.Machine.execStv p v d s
  | .ldvs p y v => Sys2Proof.Machine.execLdvs p y v s
  | .stvs p y v => Sys2Proof.Machine.execStvs p y v s
  | .vgather p z s0 k => Sys2Proof.Machine.execVgather p z s0 k s
  | .vscatter p z s0 k => Sys2Proof.Machine.execVscatter p z s0 k s
  | .cmt p => Sys2Proof.Machine.execCmt p s
  | .seal p => Sys2Proof.Machine.execSeal p s
  | .fenceAcq p s0 => Sys2Proof.Machine.execFenceAcq p s0 s
  | .fenceRel p s0 => Sys2Proof.Machine.execFenceRel p s0 s
  | .fenceSc p s0 => Sys2Proof.Machine.execFenceSc p s0 s
  | .lprobe p t => Sys2Proof.Machine.execLprobe p t s
  | .amo p o w t => Sys2Proof.Machine.execAmo p o w t s
  | .cas p w t => Sys2Proof.Machine.execCas p w t s
  | .red p o w => Sys2Proof.Machine.execRed p o w s
  | .redf p y => Sys2Proof.Machine.execRedf p y s
  | .cellinit p => Sys2Proof.Machine.execCellinit p s
  | .cellrd p t => Sys2Proof.Machine.execCellrd p t s
  | .spawn p t => Sys2Proof.Machine.execSpawn p t s
  | .dqpush p t => Sys2Proof.Machine.execDqpush p t s
  | .dqpop p t => Sys2Proof.Machine.execDqpop p t s
  | .qlen p k q t => Sys2Proof.Machine.execQlen p k q t s
  | .qrsv p k q t => Sys2Proof.Machine.execQrsv p k q t s
  | .semadd p t => Sys2Proof.Machine.execSemadd p t s
  | .semset p => Sys2Proof.Machine.execSemset p s
  | .semrd p t => Sys2Proof.Machine.execSemrd p t s
  | .vadd p d a b r y => Sys2Proof.Machine.execVadd p d a b r y s
  | .vsub p d a b r y => Sys2Proof.Machine.execVsub p d a b r y s
  | .vmul p d a b r y => Sys2Proof.Machine.execVmul p d a b r y s
  | .vdiv p d a b r y => Sys2Proof.Machine.execVdiv p d a b r y s
  | .vfma p d a b r y => Sys2Proof.Machine.execVfma p d a b r y s
  | .vfms p d a b r y => Sys2Proof.Machine.execVfms p d a b r y s
  | .vmin p d a b y => Sys2Proof.Machine.execVmin p d a b y s
  | .vmax p d a b y => Sys2Proof.Machine.execVmax p d a b y s
  | .vabs p d a y => Sys2Proof.Machine.execVabs p d a y s
  | .vneg p d a y => Sys2Proof.Machine.execVneg p d a y s
  | .vsqrt p d a r y => Sys2Proof.Machine.execVsqrt p d a r y s
  | .vrcp p d a r y => Sys2Proof.Machine.execVrcp p d a r y s
  | .vrsq p d a r y => Sys2Proof.Machine.execVrsq p d a r y s
  | .vexp2 p d a r y => Sys2Proof.Machine.execVexp2 p d a r y s
  | .vlog2 p d a r y => Sys2Proof.Machine.execVlog2 p d a r y s
  | .vcmp p d a b c y => Sys2Proof.Machine.execVcmp p d a b c y s
  | .vsel p d a b y => Sys2Proof.Machine.execVsel p d a b y s
  | .vand p d a b y => Sys2Proof.Machine.execVand p d a b y s
  | .vor p d a b y => Sys2Proof.Machine.execVor p d a b y s
  | .vxor p d a b y => Sys2Proof.Machine.execVxor p d a b y s
  | .vnot p d a y => Sys2Proof.Machine.execVnot p d a y s
  | .vshl p d a b y => Sys2Proof.Machine.execVshl p d a b y s
  | .vshr p d a b y => Sys2Proof.Machine.execVshr p d a b y s
  | .vsar p d a b y => Sys2Proof.Machine.execVsar p d a b y s
  | .viadd p d a b y => Sys2Proof.Machine.execViadd p d a b y s
  | .visub p d a b y => Sys2Proof.Machine.execVisub p d a b y s
  | .vimul p d a b y => Sys2Proof.Machine.execVimul p d a b y s
  | .vcvt p d a s0 r y => Sys2Proof.Machine.execVcvt p d a s0 r y s
  | .vqnt p d a b n y => Sys2Proof.Machine.execVqnt p d a b n y s
  | .vdqnt p d a b n y => Sys2Proof.Machine.execVdqnt p d a b n y s
  | .vred p y a r o t => Sys2Proof.Machine.execVred p y a r o t s
  | .vbcast p d a m y => Sys2Proof.Machine.execVbcast p d a m y s
  | .vshuf p d a b y => Sys2Proof.Machine.execVshuf p d a b y s
  | .vext p y a t => Sys2Proof.Machine.execVext p y a t s
  | .vins p d y => Sys2Proof.Machine.execVins p d y s
  | .vmov p d a => Sys2Proof.Machine.execVmov p d a s
  | .vzero p d => Sys2Proof.Machine.execVzero p d s
  | .mmac p s0 k => Sys2Proof.Machine.execMmac p s0 k s
  | .minit p s0 k => Sys2Proof.Machine.execMinit p s0 k s
  | .mdrain p s0 k => Sys2Proof.Machine.execMdrain p s0 k s
  | .mbudget p => Sys2Proof.Machine.execMbudget p s
  | .mstat p e t => Sys2Proof.Machine.execMstat p e t s
  | .mgang p s0 k => Sys2Proof.Machine.execMgang p s0 k s
  | .mgrant p s0 k => Sys2Proof.Machine.execMgrant p s0 k s
  | .spat p s0 k => Sys2Proof.Machine.execSpat p s0 k s
  | .sstart p s0 k => Sys2Proof.Machine.execSstart p s0 k s
  | .sacc p s0 k => Sys2Proof.Machine.execSacc p s0 k s
  | .sstop p s0 k => Sys2Proof.Machine.execSstop p s0 k s
  | .sprog p t => Sys2Proof.Machine.execSprog p t s
  | .copy p l k => Sys2Proof.Machine.execCopy p l k s
  | .copyD p s0 k => Sys2Proof.Machine.execCopyD p s0 k s
  | .copyQf p s0 k => Sys2Proof.Machine.execCopyQf p s0 k s
  | .copym p s0 k => Sys2Proof.Machine.execCopym p s0 k s
  | .tmove p s0 k => Sys2Proof.Machine.execTmove p s0 k s
  | .tokrd p a k t => Sys2Proof.Machine.execTokrd p a k t s
  | .rboard p l s0 k => Sys2Proof.Machine.execRboard p l s0 k s
  | .rdrop p s0 k => Sys2Proof.Machine.execRdrop p s0 k s
  | .rwhere p l t => Sys2Proof.Machine.execRwhere p l t s
  | .rstat p t => Sys2Proof.Machine.execRstat p t s
  | .rstatLane p l t => Sys2Proof.Machine.execRstatLane p l t s
  | .rbind p l => Sys2Proof.Machine.execRbind p l s
  | .rpace p l => Sys2Proof.Machine.execRpace p l s
  | .xfence p m t => Sys2Proof.Machine.execXfence p m t s
  | .xwait p => Sys2Proof.Machine.execXwait p s
  | .xsem p s0 k => Sys2Proof.Machine.execXsem p s0 k s
  | .collReduce p m s0 k => Sys2Proof.Machine.execCollReduce p m s0 k s
  | .collBcast p m s0 k => Sys2Proof.Machine.execCollBcast p m s0 k s
  | .trap p n => Sys2Proof.Machine.execTrap p n s
  | .eretDiscard p r => Sys2Proof.Machine.execEretDiscard p r s
  | .eretRetry p => Sys2Proof.Machine.execEretRetry p s
  | .eretResume p => Sys2Proof.Machine.execEretResume p s
  | .brk p g => Sys2Proof.Machine.execBrk p g s
  | .halt p => Sys2Proof.Machine.execHalt p s
  | .csrr p c t => Sys2Proof.Machine.execCsrr p c t s
  | .csrw p c => Sys2Proof.Machine.execCsrw p c s
  | .time p s0 t => Sys2Proof.Machine.execTime p s0 t s
  | .moncfg p => Sys2Proof.Machine.execMoncfg p s
  | .monrd p i0 t => Sys2Proof.Machine.execMonrd p i0 t s
  | .blockFetch rid core => Sys2Proof.Machine.execBlockFetch rid core s
  | .blockStart rid core => Sys2Proof.Machine.execBlockStart rid core s
  | .divideResult rid core => Sys2Proof.Machine.execDivideResult rid core s
  | .portPushPerform rid core k => Sys2Proof.Machine.execPortPushPerform rid core k s
  | .blockComplete rid core => Sys2Proof.Machine.execBlockComplete rid core s
  | .leaseLookupResult rid core k => Sys2Proof.Machine.execLeaseLookupResult rid core k s
  | .loadDataReturn rid core k => Sys2Proof.Machine.execLoadDataReturn rid core k s
  | .writeAck rid core k => Sys2Proof.Machine.execWriteAck rid core k s
  | .drainEntryPerform rid core k => Sys2Proof.Machine.execDrainEntryPerform rid core k s
  | .orderedCommit rid uid => Sys2Proof.Machine.execOrderedCommit rid uid s
  | .corePick rid core => Sys2Proof.Machine.execCorePick rid core s
  | .taskLaunch rid core => Sys2Proof.Machine.execTaskLaunch rid core s
  | .migrationStart ext tier base => Sys2Proof.Machine.execMigrationStart ext tier base s
  | .migrationCommit ext => Sys2Proof.Machine.execMigrationCommit ext s
  | .migrationTimeout ext => Sys2Proof.Machine.execMigrationTimeout ext s
  | .copyComplete rid core => Sys2Proof.Machine.execCopyComplete rid core s
  | .copyChunk rid core => Sys2Proof.Machine.execCopyChunk rid core s
  | .gatherElement rid core => Sys2Proof.Machine.execGatherElement rid core s
  | .tmoveRow rid core => Sys2Proof.Machine.execTmoveRow rid core s
  | .copymMmacPlace rid core => Sys2Proof.Machine.execCopymMmacPlace rid core s
  | .queueFenceComplete rid core uid => Sys2Proof.Machine.execQueueFenceComplete rid core uid s
  | .streamStart rid tile port n => Sys2Proof.Machine.execStreamStart rid tile port n s
  | .spatSlotWrite rid tile port => Sys2Proof.Machine.execSpatSlotWrite rid tile port s
  | .sstartComplete rid tile port => Sys2Proof.Machine.execSstartComplete rid tile port s
  | .acceptComplete rid tile port => Sys2Proof.Machine.execAcceptComplete rid tile port s
  | .sstopHead rid tile port => Sys2Proof.Machine.execSstopHead rid tile port s
  | .mmacHead rid core => Sys2Proof.Machine.execMmacHead rid core s
  | .matrixLeaveGrant rid core die => Sys2Proof.Machine.execMatrixLeaveGrant rid core die s
  | .matrixAttemptStart rid core => Sys2Proof.Machine.execMatrixAttemptStart rid core s
  | .decryptTagCheck rid core => Sys2Proof.Machine.execDecryptTagCheck rid core s
  | .matrixAttemptEnd rid core => Sys2Proof.Machine.execMatrixAttemptEnd rid core s
  | .minitExecute rid core => Sys2Proof.Machine.execMinitExecute rid core s
  | .mdrainExecute rid core => Sys2Proof.Machine.execMdrainExecute rid core s
  | .mdrainComplete rid core => Sys2Proof.Machine.execMdrainComplete rid core s
  | .chainValueArrive rid core => Sys2Proof.Machine.execChainValueArrive rid core s
  | .mgangJoin rid core => Sys2Proof.Machine.execMgangJoin rid core s
  | .mgrantGranted rid core die => Sys2Proof.Machine.execMgrantGranted rid core die s
  | .grantBalanceLapse rid core k => Sys2Proof.Machine.execGrantBalanceLapse rid core k s
  | .powerArbiterTick watts => Sys2Proof.Machine.execPowerArbiterTick watts s
  | .balancerSample rid => Sys2Proof.Machine.execBalancerSample rid s
  | .balancerIntervalEnd rid => Sys2Proof.Machine.execBalancerIntervalEnd rid s
  | .feederInject lane => Sys2Proof.Machine.execFeederInject lane s
  | .haloSlotPass lane die ok => Sys2Proof.Machine.execHaloSlotPass lane die ok s
  | .boardArm rid core k => Sys2Proof.Machine.execBoardArm rid core k s
  | .captureWrite rid core k => Sys2Proof.Machine.execCaptureWrite rid core k s
  | .boardComplete rid core k => Sys2Proof.Machine.execBoardComplete rid core k s
  | .rdropHead rid core => Sys2Proof.Machine.execRdropHead rid core s
  | .flitReceive link ok => Sys2Proof.Machine.execFlitReceive link ok s
  | .flitCrcReplay link => Sys2Proof.Machine.execFlitCrcReplay link s
  | .linkRetrain link => Sys2Proof.Machine.execLinkRetrain link s
  | .xsemAddPerform rid core => Sys2Proof.Machine.execXsemAddPerform rid core s
  | .collExecute rid core => Sys2Proof.Machine.execCollExecute rid core s
  | .notify world tail => Sys2Proof.Machine.execNotify world tail s
  | .registerWrite world off value => Sys2Proof.Machine.execRegisterWrite world off value s
  | .pktTask world => Sys2Proof.Machine.execPktTask world s
  | .placeImage world => Sys2Proof.Machine.execPlaceImage world s
  | .placeRelease world => Sys2Proof.Machine.execPlaceRelease world s
  | .placeFreeze world => Sys2Proof.Machine.execPlaceFreeze world s
  | .placeResume world => Sys2Proof.Machine.execPlaceResume world s
  | .placeSave world => Sys2Proof.Machine.execPlaceSave world s
  | .placeRestore world => Sys2Proof.Machine.execPlaceRestore world s
  | .boundBlockLimit rid => Sys2Proof.Machine.execBoundBlockLimit rid s
  | .pktBarrier world => Sys2Proof.Machine.execPktBarrier world s
  | .pktCopy world => Sys2Proof.Machine.execPktCopy world s
  | .hostCopyComplete world k n => Sys2Proof.Machine.execHostCopyComplete world k n s
  | .pktSignal world => Sys2Proof.Machine.execPktSignal world s
  | .compact set => Sys2Proof.Machine.execCompact set s
  | .moveCutReached rid => Sys2Proof.Machine.execMoveCutReached rid s
  | .cutLimitExpiry rid => Sys2Proof.Machine.execCutLimitExpiry rid s
  | .dieOpChange die op => Sys2Proof.Machine.execDieOpChange die op s
  | .pllRelockDone die => Sys2Proof.Machine.execPllRelockDone die s
  | .dieGate die => Sys2Proof.Machine.execDieGate die s
  | .dieGateDrainDone die ok => Sys2Proof.Machine.execDieGateDrainDone die ok s
  | .dieUngate die => Sys2Proof.Machine.execDieUngate die s
  | .diePoweredUp die => Sys2Proof.Machine.execDiePoweredUp die s
  | .thermalThrottleEnter die => Sys2Proof.Machine.execThermalThrottleEnter die s
  | .thermalThrottleExit die => Sys2Proof.Machine.execThermalThrottleExit die s
  | .relreq world n => Sys2Proof.Machine.execRelreq world n s
  | .keySet world slot key viaPf => Sys2Proof.Machine.execKeySet world slot key viaPf s
  | .keyErase world slot viaPf => Sys2Proof.Machine.execKeyErase world slot viaPf s
  | .signkeySet world key => Sys2Proof.Machine.execSignkeySet world key s
  | .hbConfig world period grace => Sys2Proof.Machine.execHbConfig world period grace s
  | .heartbeat world => Sys2Proof.Machine.execHeartbeat world s
  | .accept world exts => Sys2Proof.Machine.execAccept world exts s
  | .heartbeatTimeout world => Sys2Proof.Machine.execHeartbeatTimeout world s
  | .graceExpiry world => Sys2Proof.Machine.execGraceExpiry world s
  | .spdmNegotiateAlgorithms world offers => Sys2Proof.Machine.execSpdmNegotiateAlgorithms world offers s
  | .spdmKeyExchange world requester => Sys2Proof.Machine.execSpdmKeyExchange world requester s
  | .sessionLoss world => Sys2Proof.Machine.execSessionLoss world s
  | .lockInterfaceRequest world => Sys2Proof.Machine.execLockInterfaceRequest world s
  | .startInterfaceRequest world => Sys2Proof.Machine.execStartInterfaceRequest world s
  | .stopInterfaceRequest world => Sys2Proof.Machine.execStopInterfaceRequest world s
  | .tdispError world => Sys2Proof.Machine.execTdispError world s
  | .vfEnable world => Sys2Proof.Machine.execVfEnable world s
  | .vfDisable world => Sys2Proof.Machine.execVfDisable world s
  | .flrVf world => Sys2Proof.Machine.execFlrVf world s
  | .flrPf => Sys2Proof.Machine.execFlrPf s
  | .hotReset => Sys2Proof.Machine.execHotReset s
  | .packageReset => Sys2Proof.Machine.execPackageReset s
  | .periscopeArmDebug world on => Sys2Proof.Machine.execPeriscopeArmDebug world on s
  | .periscopeHalt rid => Sys2Proof.Machine.execPeriscopeHalt rid s
  | .periscopeResume rid => Sys2Proof.Machine.execPeriscopeResume rid s
  | .periscopeStep rid core => Sys2Proof.Machine.execPeriscopeStep rid core s
  | .periscopeRead rid core space addr => Sys2Proof.Machine.execPeriscopeRead rid core space addr s
  | .periscopeWrite rid core space addr value => Sys2Proof.Machine.execPeriscopeWrite rid core space addr value s
  | .switchOverWindow ext => Sys2Proof.Machine.execSwitchOverWindow ext s
  | .leaseExtentRequest op world tier rights vbase pbase len => Sys2Proof.Machine.execLeaseExtentRequest op world tier rights vbase pbase len s
  | .linkRetrainDone link => Sys2Proof.Machine.execLinkRetrainDone link s
  | .periscopeUnlock world => Sys2Proof.Machine.execPeriscopeUnlock world s
  | .measurementRequest world index => Sys2Proof.Machine.execMeasurementRequest world index s

end Sys2Proof.Machine
end

