-- ==== Sys2Proof/Machine/Moves.lean ====
section
/-!
DEFINITION. Sys2Proof/Machine/Moves.lean: the moves of a core, which a step makes: the issue of a slot, and with an empty
agenda what the core does next.
-/
namespace Sys2Proof.Machine

/-- Whether a slot can be issued now: its quash is decided, or it is ready and R48, R67 and R182 let it go. -/
def issuable (k : Core) (b : BlockRun) (sequenced : Bool) (slot : Nat) : Bool :=
  let w := wordOf b slot
  isSequencedWord w == sequenced &&
  (quashing b slot || (!resolved b slot &&
    (match decodeRow w with
      | none => true
      | some i =>
        match readiness i b slot with
        | .waiting => false
        | .quashed => true
        | .ready _ _ => mayIssue k b i slot && !(isDivide i && b.divide.isSome))))

/-- The word of a slot is decoded and its instruction issued. A word that is none raises its cause of R61; no block whose fetch
R60 allowed holds one. -/
def issueOne (s : State) (rid c : Nat) (b : BlockRun) (slot : Nat) : Host.Outcome State Fault Refusal :=
  match decode (wordOf b slot) with
  | .ok i => exec i { s with cur := { rid := rid, core := c, slot := slot } }
  | .error e => .next (trapSlot s rid c e 0 (some slot))

/-- The block of a core has ended, or is to end once an instruction that has issued has performed in full: an issue does either only
by a fault (R52). -/
def endedBlock (o : Host.Outcome State Fault Refusal) (rid c : Nat) : Bool :=
  match o with
  | .next s => (match runOf s rid c with
    | some b => b.fault.isSome
    | none => true)
  | _ => false

/-- The slots that issue in the present cycle: the dataflow slots whose turn it is and the lowest sequenced one (R48). -/
def cycleSlots (k : Core) (b : BlockRun) : List Nat :=
  (match b.pair with
    | some p => [p]
    | none => ((List.range b.n).filter (flowReady b)).take 2) ++ ((List.range b.n).find? (issuable k b true)).toList

/-- Issue a slot in its place of the present cycle, whatever the slots before it do. -/
def issueInCycle (s : State) (rid c : Nat) (b : BlockRun) (slot : Nat) : Host.Outcome State Fault Refusal :=
  if isSequencedWord (wordOf b slot) then issueOne s rid c b slot
  else issueOne (modRun s rid c fun b => { b with pair := some slot }) rid c { b with pair := some slot } slot

/-- The slot that the fault of an issue names: the fault is only noted, as if an instruction of another slot had still to perform
in full, and read off. -/
def faultSlot (s : State) (rid c : Nat) (b : BlockRun) (slot : Nat) : Option Nat :=
  let s := modRun s rid c fun b => { b with slots := b.slots ++ [.waiting], part := b.part ++ [b.slots.length] }
  match issueInCycle s rid c b slot with
  | .next s => ((runOf s rid c).bind (·.fault)).bind (·.2.2)
  | _ => none

/-- R52: of the slots that issue in one cycle and fault as they do, the one whose fault names the lowest slot. -/
def lowerFault (s : State) (rid c : Nat) (b : BlockRun) (slot : Nat) : Option Nat :=
  ((cycleSlots (coreAt s rid c) b).filter fun k => k != slot && endedBlock (issueInCycle s rid c b k) rid c).foldl (fun m k =>
    if (faultSlot s rid c b k).getD 64 < (faultSlot s rid c b (m.getD slot)).getD 64 then some k else m) none

/-- A core issues the instruction of a slot of its running block, or delivers its product where that is due (R49). -/
def issueSlot (s : State) (rid c slot : Nat) : Host.Outcome State Fault Refusal :=
  match runOf s rid c with
  | none => .next s
  | some b =>
    let o := issueOne s rid c b slot
    if b.fault.isNone && !resolved b slot && endedBlock o rid c then
      match lowerFault s rid c b slot with
      | some k => issueInCycle s rid c b k
      | none => o
    else o

/-- The lowest slot that can be issued. -/
def nextSlot (k : Core) (b : BlockRun) (sequenced : Bool) : Option Nat :=
  (List.range b.n).find? (issuable k b sequenced)

/-- The slot whose product lands next; none in a block that waits to end by a fault (R49, R52). -/
def nextProduct (b : BlockRun) : Option Nat := if b.fault.isSome then none else b.products.head?.map (·.slot)

/-- A delivered push that can be performed now. -/
def nextPush (s : State) (rid c : Nat) (b : BlockRun) : Option Nat :=
  (List.range b.pushes.length).find? fun ix =>
    match b.pushes[ix]? with
    | some p =>
      (match p.st with | .ready _ => true | _ => false) && !pushHeld s rid c b p &&
      (match portBind s rid c p.port with
        | some pb => pb.pop || roomFor (queueAt s rid pb.queue) (coreUid s rid c)
        | none => true)
    | none => false

/-- The move of a core that runs a block: what is due before any slot, a dataflow slot, a product, what its memory side owes, a
sequenced slot, the end of the block. -/
def blockMove (s : State) (rid c : Nat) (b : BlockRun) : Host.Outcome State Fault Refusal :=
  if b.divide.isSome then exec (.divideResult rid c) s
  else if !b.lookups.isEmpty then exec (.leaseLookupResult rid c 0) s
  else if !b.loads.isEmpty then exec (.loadDataReturn rid c 0) s
  else
    match nextPush s rid c b with
    | some ix => exec (.portPushPerform rid c ix) s
    | none =>
      match nextSlot (coreAt s rid c) b false with
      | some k => issueSlot s rid c k
      | none =>
        match nextProduct b with
        | some k => issueSlot s rid c k
        | none =>
          if !(coreAt s rid c).drain.isEmpty then exec (.drainEntryPerform rid c 0) s
          else if !(coreAt s rid c).acks.isEmpty then exec (.writeAck rid c 0) s
          else
            match nextSlot (coreAt s rid c) b true with
            | some k => issueSlot s rid c k
            | none => exec (.blockComplete rid c) s

/-- The move of a core: a vector load that outlived its block (R52), else by what it is doing. -/
def coreMove (s : State) (rid c : Nat) : Host.Outcome State Fault Refusal :=
  if !(coreAt s rid c).vloads.isEmpty then exec (.loadDataReturn rid c 0) s
  else
    match (coreAt s rid c).phase with
    | .idle => exec (.corePick rid c) s
    | .launching => exec (.taskLaunch rid c) s
    | .fetch _ => exec (.blockFetch rid c) s
    | .ready _ => exec (.blockStart rid c) s
    | .run b => blockMove s rid c b
    | .parking _ _ _ _ => exec (.blockComplete rid c) s

/-- A block of one slot that waits for nothing more: its operands are complete with 0, its predicate with the value its
word asks for. -/
def oneSlot (w : BitVec 32) : BlockRun :=
  { h := 0, n := 1, hdr := 0xE0000000, words := [w], slots := [.waiting],
    ops := [(opKey 0 0, { left := 0, val := some 0 }), (opKey 0 1, { left := 0, val := some 0 }),
            (opKey 0 2, { left := 0, val := some (if w.extractLsb' 23 2 = 1#2 then 1 else 0) })] }

end Sys2Proof.Machine
end

