-- ==== Sys2Proof/Machine/Step.lean ====
section
/-!
DEFINITION. Sys2Proof/Machine/Step.lean: one step of the machine. The agenda, plain data of the state, says which event or
which slot comes next; where it is empty the core the cursor names makes a move of its own.
-/
namespace Sys2Proof.Machine

/-- One step: the head of the agenda, or a move of the core the cursor names. -/
def step (s : State) : Host.Outcome State Fault Refusal :=
  match s.agenda with
  | .event i :: rest => exec i { s with agenda := rest }
  | .issue rid c k :: rest => issueSlot { s with agenda := rest } rid c k
  | [] => coreMove s s.cur.rid s.cur.core

/-- The state with an instruction where step issues its next one: slot 0 of a fetched one-slot block at address 0 of core 0 of a
live one-page rectangle of world 0, which runs a task (log 11). -/
def State.withFetchWord (s : State) (nbits w : Nat) : State :=
  let word := BitVec.ofNat 32 (w % 2 ^ nbits)
  let s := writeNat (writeNat s (Place.key (.ist 0 0 0)) 4 0xE0000000) (Place.key (.ist 0 0 4)) 4 word.toNat
  let s := modRect s 0 fun r => { r with live := true, freeze := .running }
  let s := modCore s 0 0 fun k =>
    { k with task := some {}, stage := some 0, phase := .run (oneSlot word), csr := { k.csr with halted := false, dbg := false } }
  { s with agenda := [], cur := {} }

end Sys2Proof.Machine
end

