-- ==== Sys2Proof/WellFormed.lean ====
section
/-!
DEFINITION. Sys2Proof/WellFormed.lean: the instructions that a word may stand for: a row with a word whose fields meet
every check of R61.
-/
namespace Sys2Proof

/-- An instruction row all of whose fields R61 allows. An event row has no word, so it is not one. -/
def Instr.wellFormed (i : Instr) : Bool := i.isWord && i.details.isEmpty

end Sys2Proof
end

