-- ==== Sys2Proof/Certificates/Slice0/Obligations.lean ====
section
/-!
DEFINITION. Sys2Proof/Certificates/Slice0/Obligations.lean: the statements for the provers.
-/
open Sys2Proof Sys2Proof.Machine

namespace Sys2Proof.Claims

/-! ### What the statements share -/

/-- The running block of the core the cursor names. -/
def here (s : State) : Option BlockRun := runOf s s.cur.rid s.cur.core

/-- The instruction i stands in the slot the cursor names, that slot waits, its predicate agrees, its operands are complete
with l and r (0 for one it does not take), and R48, R113 and R182 let it issue now. -/
def Ready (i : Instr) (l r : W64) (s : State) : Prop :=
  coreActs s s.cur.rid s.cur.core = true ∧ lowest i.details = none ∧
  ∃ b, here s = some b ∧ resolved b s.cur.slot = false ∧ readiness i b s.cur.slot = .ready l r ∧
    mayIssue (coreAt s s.cur.rid s.cur.core) b i s.cur.slot = true

/-- The slot of the cursor has fired in s'. -/
def fired (s s' : State) : State := setSlot s' s.cur.rid s.cur.core s.cur.slot .fired

/-- In s', the slot of the cursor has fired and delivers v, or nulls, to the targets of i (R33, R40). -/
def answer (i : Instr) (v : Option W64) (s s' : State) : State :=
  deliverAll (fired s s') s.cur.rid s.cur.core s.cur.slot v (targetsOf i)

/-- The slot of the cursor raises a cause with an address (R52). -/
def raises (s : State) (cause : Nat) (a : W64) : State := trapSlot s s.cur.rid s.cur.core cause a (some s.cur.slot)

/-- Change the running block of the cursor's core. -/
def modHere (s : State) (f : BlockRun → BlockRun) : State := modRun s s.cur.rid s.cur.core f

/-- The core of the cursor. -/
def coreHere (s : State) : Core := coreAt s s.cur.rid s.cur.core

/-! ### Scalar values (R65 to R75) -/

/-- The value an instruction of R65 delivers from its operands, as its table gives it. -/
def binaryValue : Instr → W64 → W64 → Option W64
  | .add _ _ _, a, b => some (BitVec.ofInt 64 (a.toInt + b.toInt))
  | .sub _ _ _, a, b => some (BitVec.ofInt 64 (a.toInt - b.toInt))
  | .and _ _ _, a, b => some (a &&& b)
  | .or _ _ _, a, b => some (a ||| b)
  | .xor _ _ _, a, b => some (a ^^^ b)
  | .andn _ _ _, a, b => some (a &&& ~~~b)
  | .orn _ _ _, a, b => some (a ||| ~~~b)
  | .shl _ _ _, a, b => some (BitVec.ofNat 64 (a.toNat * 2 ^ (b.toNat % 64)))
  | .shr _ _ _, a, b => some (BitVec.ofNat 64 (a.toNat / 2 ^ (b.toNat % 64)))
  | .sar _ _ _, a, b => some (BitVec.ofInt 64 (a.toInt / 2 ^ (b.toNat % 64)))
  | .ror _ _ _, a, b => some (a.rotateRight (b.toNat % 64))
  | .min _ _ _, a, b => some (if a.slt b then a else b)
  | .max _ _ _, a, b => some (if a.slt b then b else a)
  | .minz _ _ _, a, b => some (if a.ult b then a else b)
  | .maxz _ _ _, a, b => some (if a.ult b then b else a)
  | _, _, _ => none

/-- The product of a multiply (R65, R69). -/
def productValue : Instr → W64 → W64 → Option W64
  | .mul _ _ _, a, b => some (BitVec.ofInt 64 (a.toInt * b.toInt))
  | .mulh _ _ _, a, b => some (BitVec.ofInt 64 (a.toInt * b.toInt / 2 ^ 64))
  | .mulhz _ _ _, a, b => some (BitVec.ofNat 64 (a.toNat * b.toNat / 2 ^ 64))
  | .muli _ i _, a, _ => some (BitVec.ofInt 64 (a.toInt * i.toInt))
  | _, _, _ => none

/-- The result of a divide (R66). -/
def divideValue : Instr → W64 → W64 → Option W64
  | .div _ _ _, a, b => some (if b = 0 then -1 else BitVec.ofInt 64 (a.toInt.tdiv b.toInt))
  | .divz _ _ _, a, b => some (if b = 0 then -1 else BitVec.ofNat 64 (a.toNat / b.toNat))
  | .rem _ _ _, a, b => some (if b = 0 then a else BitVec.ofInt 64 (a.toInt.tmod b.toInt))
  | .remz _ _ _, a, b => some (if b = 0 then a else BitVec.ofNat 64 (a.toNat % b.toNat))
  | _, _, _ => none

/-- A relation as a result (R70). -/
def flag (p : Prop) [Decidable p] : W64 := if p then 1 else 0

/-- The value a compare delivers (R70): its second operand is b or its immediate. -/
def compareValue : Instr → W64 → W64 → Option W64
  | .ceq _ _ _, a, b => some (flag (a = b))
  | .cne _ _ _, a, b => some (flag (a ≠ b))
  | .clt _ _ _, a, b => some (flag (a.toInt < b.toInt))
  | .cle _ _ _, a, b => some (flag (a.toInt ≤ b.toInt))
  | .cltz _ _ _, a, b => some (flag (a.toNat < b.toNat))
  | .clez _ _ _, a, b => some (flag (a.toNat ≤ b.toNat))
  | .ceqi _ i _, a, _ => some (flag (a.toInt = i.toInt))
  | .cnei _ i _, a, _ => some (flag (a.toInt ≠ i.toInt))
  | .clti _ i _, a, _ => some (flag (a.toInt < i.toInt))
  | .clei _ i _, a, _ => some (flag (a.toInt ≤ i.toInt))
  | .cltzi _ i _, a, _ => some (flag (a.toNat < i.toNat))
  | .clezi _ i _, a, _ => some (flag (a.toNat ≤ i.toNat))
  | _, _, _ => none

/-- The value an immediate operation delivers (R69): the immediate is signed, a shift count is not. -/
def immediateValue : Instr → W64 → Option W64
  | .addi _ i _, a => some (BitVec.ofInt 64 (a.toInt + i.toInt))
  | .andi _ i _, a => some (a &&& BitVec.ofInt 64 i.toInt)
  | .ori _ i _, a => some (a ||| BitVec.ofInt 64 i.toInt)
  | .xori _ i _, a => some (a ^^^ BitVec.ofInt 64 i.toInt)
  | .shli _ k _, a => some (BitVec.ofNat 64 (a.toNat * 2 ^ k.toNat))
  | .shri _ k _, a => some (BitVec.ofNat 64 (a.toNat / 2 ^ k.toNat))
  | .sari _ k _, a => some (BitVec.ofInt 64 (a.toInt / 2 ^ k.toNat))
  | _, _ => none

/-- A number of leading zeros, trailing zeros, ones of a 64-bit value, and its bits in reverse, said by their properties
(R33, R68). -/
def unarySays : Instr → W64 → W64 → Prop
  | .mov _ _ _, a, v => v = a
  | .clz _ _ _, a, v => v.toNat ≤ 64 ∧ a.toNat < 2 ^ (64 - v.toNat) ∧ (v.toNat < 64 → 2 ^ (63 - v.toNat) ≤ a.toNat)
  | .ctz _ _ _, a, v => v.toNat ≤ 64 ∧ a.toNat % 2 ^ v.toNat = 0 ∧ (v.toNat < 64 → a.getLsbD v.toNat = true)
  | .popc _ _ _, a, v => v.toNat = ((List.range 64).filter fun k => a.getLsbD k).length
  | .brev _ _ _, a, v => ∀ k, k < 64 → v.getLsbD k = a.getLsbD (63 - k)
  | _, _, _ => False

/-- The value an address, bit-field or constant instruction delivers (R71 to R75). -/
def fieldValue : Instr → W64 → W64 → Option W64
  | .lea _ k o _, a, b => some (a.extractLsb' 56 8 ++ BitVec.ofInt 56 ((a.extractLsb' 0 56).toNat + b.toInt * 2 ^ k.toNat + o.toInt))
  | .sext _ n _, a, _ => some (((a <<< (63 - n.toNat)).sshiftRight (63 - n.toNat)))
  | .zext _ n _, a, _ => some (BitVec.ofNat 64 (a.toNat % 2 ^ (n.toNat + 1)))
  | .extr _ x o n _, a, _ => some (if x = 1 then (((a >>> o.toNat) <<< (63 - n.toNat)).sshiftRight (63 - n.toNat))
      else BitVec.ofNat 64 (a.toNat / 2 ^ o.toNat % 2 ^ (n.toNat + 1)))
  | .constI _ i, _, _ => some (BitVec.ofInt 64 i.toInt)
  | .consth _ i, a, _ => some (BitVec.ofNat 64 (a.toNat * 65536 + i.toNat))
  | _, _, _ => none

/-- Bit k of the value INS delivers (R74). -/
def insertedBit (a b : W64) (o n : BitVec 6) (k : Nat) : Bool :=
  if o.toNat ≤ k ∧ k ≤ o.toNat + n.toNat then b.getLsbD (k - o.toNat) else a.getLsbD k

/-- An instruction that only computes: it reads its operands and delivers a value (R65, R68 to R75). -/
def computes (i : Instr) (l r : W64) : Option W64 :=
  binaryValue i l r <|> productValue i l r <|> compareValue i l r <|> immediateValue i l <|> fieldValue i l r

/-- The instructions that only compute a value which R68 and R74 describe bit by bit. -/
def describes : Instr → Bool
  | .mov _ _ _ | .clz _ _ _ | .ctz _ _ _ | .popc _ _ _ | .brev _ _ _ | .ins _ _ _ _ => true
  | _ => false

end Sys2Proof.Claims

open Sys2Proof.Claims

/-- R49, R65, R69: each two-operand instruction that can issue delivers the value of its row to both of its targets, but for the
multiplies: MUL, MULH, MULHZ and MULI that can issue leave their product on its way, and a later step that names the slot of the oldest
one delivers it to the targets of its slot, in one cycle with that of the multiply that issued as the second of its cycle; one behind
it waits. When that step comes is the agenda's (log 40). -/
def Sys2Proof.Claims.BinaryResults : Prop :=
  (∀ i l r v s, binaryValue i l r = some v → Ready i l r s → exec i s = .next (answer i (some v) s s)) ∧
  (∀ i l r v s, productValue i l r = some v → Ready i l r s → ∃ mate, exec i s = .next (fired s (modHere s fun b =>
    { b with products := b.products ++ [{ slot := s.cur.slot, val := v, mate := mate }] }))) ∧
  (∀ i l r v s b p ps, productValue i l r = some v → coreActs s s.cur.rid s.cur.core = true → here s = some b → b.fault = none →
    b.products = p :: ps → p.slot = s.cur.slot → resolved b p.slot = true →
    (((ps.head?).all fun q => p.mate != some q.slot) = true →
      exec i s = .next (deliverAll (modHere s fun b => { b with products := ps }) s.cur.rid s.cur.core p.slot (some p.val) (slotTargets b p.slot))) ∧
    (∀ q qs, ps = q :: qs → p.mate = some q.slot →
      exec i s = .next (deliverCycle (modHere s fun b => { b with products := qs }) s.cur.rid s.cur.core
        ((slotTargets b p.slot).map (fun t => (p.slot, some p.val, t)) ++ (slotTargets b q.slot).map fun t => (q.slot, some q.val, t))))) ∧
  (∀ i l r v s b, productValue i l r = some v → here s = some b → resolved b s.cur.slot = true → quashing b s.cur.slot = false →
    ((landing b.products).any fun p => p.slot == s.cur.slot) = false → exec i s = .next s)

/-- R66, R67: a divide that can issue while the core's divider is free takes the divider with its result, a divide that
finds the divider taken waits with nothing changed, and DIVIDE_RESULT delivers the result to the targets of the slot and
frees the divider. -/
def Obligations.DivideResults : Prop :=
  (∀ i l r v s b, divideValue i l r = some v → Ready i l r s → here s = some b → b.divide = none →
    exec i s = .next (fired s (modHere s fun b => { b with divide := some (s.cur.slot, v) }))) ∧
  (∀ i l r v s b, divideValue i l r = some v → Ready i l r s → here s = some b → b.divide.isSome = true → exec i s = .next s) ∧
  (∀ s rid c b slot v, runOf s rid c = some b → b.divide = some (slot, v) → coreActs s rid c = true →
    exec (.divideResult rid c) s =
      .next (deliverAll (modRun s rid c fun b => { b with divide := none }) rid c slot (some v) (slotTargets b slot)))

/-- R68: MOV, CLZ, CTZ, POPC and BREV deliver the value that their row describes. -/
def Sys2Proof.Claims.UnaryResults : Prop :=
  ∀ i l r s, (∃ v, unarySays i l v) → Ready i l r s → ∃ v, unarySays i l v ∧ exec i s = .next (answer i (some v) s s)

/-- R69: each immediate operation but MULI, which BinaryResults covers, delivers the value of its row. -/
def Sys2Proof.Claims.ImmediateOps : Prop :=
  ∀ i l r v s, immediateValue i l = some v → Ready i l r s → exec i s = .next (answer i (some v) s s)

/-- R70: a compare delivers 1 when its relation holds and 0 when it does not. -/
def Sys2Proof.Claims.CompareResults : Prop :=
  ∀ i l r v s, compareValue i l r = some v → Ready i l r s → exec i s = .next (answer i (some v) s s)

/-- R71 to R75: LEA keeps the selector and wraps the offset; SEXT, ZEXT and EXTR extend a field; INS replaces one; CONST and
CONSTH build a constant. -/
def Sys2Proof.Claims.FieldResults : Prop :=
  (∀ i l r v s, fieldValue i l r = some v → Ready i l r s → exec i s = .next (answer i (some v) s s)) ∧
  (∀ p o n t l r s, Ready (.ins p o n t) l r s → ∃ v : W64, (∀ k, k < 64 → v.getLsbD k = insertedBit l r o n k) ∧
    exec (.ins p o n t) s = .next (answer (.ins p o n t) (some v) s s))

/-- R76, R77: a GET of a register delivers what the register held before the block, a GET of a bound port the oldest value of
its queue, which leaves the queue; a NULL delivers nulls. -/
def Obligations.GetAndNull : Prop :=
  (∀ n u t l r s, n.toNat < 64 → Ready (.get n u t) l r s →
    exec (.get n u t) s = .next (answer (.get n u t) (some (tget 0 (coreHere s).g n.toNat)) s s)) ∧
  (∀ n u t l r s pb v vs, 64 ≤ n.toNat → Ready (.get n u t) l r s → portBind s s.cur.rid s.cur.core (n.toNat - 64) = some pb →
    pb.pop = true → taskSafe s s.cur.rid s.cur.core = true → (queueAt s s.cur.rid pb.queue).vals = v :: vs →
    exec (.get n u t) s = .next (answer (.get n u t) (some v) s
      (bind (modQueue s s.cur.rid pb.queue fun q => { q with vals := vs }) s.cur.rid s.cur.core))) ∧
  (∀ p t u l r s, Ready (.null p t u) l r s → exec (.null p t u) s = .next (answer (.null p t u) none s s))

/-- R38 to R42, R47: an instruction that only computes (R65, R68 to R75) changes nothing but the running block of its core, when none of its
targets is a port, an operand that holds a value, or a register that the block has already written: its slot has fired, another
slot may have its quash decided, and every byte of memory, every register, every flag and everything else stays. -/
def Obligations.ComputeFrame : Prop :=
  ∀ i l r s b, ((computes i l r).isSome ∨ describes i) → Ready i l r s → here s = some b →
    (∀ t ∈ targetsOf i, match target t with
      | .left n => (operand b n 0).val = none
      | .right n => (operand b n 1).val = none
      | .predicate n => (operand b n 2).val = none
      | .reg n => tfind b.regs n = none
      | .port _ => False
      | _ => True) →
    (∀ t u, targetsOf i = [t, u] → t = u → t = 0x1FF#9) →
    ∃ b', exec i s = .next (modHere s fun _ => b') ∧ b'.slots[s.cur.slot]? = some .fired ∧
      (∀ k, k ≠ s.cur.slot → b'.slots[k]? = b.slots[k]? ∨ (b.slots[k]? = some .waiting ∧ b'.slots[k]? = some .quashing)) ∧
      b'.exit = b.exit ∧ b'.bound = b.bound ∧ b'.flags = b.flags ∧
      (∀ a, readKey (modHere s fun _ => b') a = readKey s a) ∧
      (∀ rid c, (coreAt (modHere s fun _ => b') rid c).g = (coreAt s rid c).g ∧
        (coreAt (modHere s fun _ => b') rid c).v = (coreAt s rid c).v ∧
        (coreAt (modHere s fun _ => b') rid c).csr = (coreAt s rid c).csr ∧
        (coreAt (modHere s fun _ => b') rid c).arr = (coreAt s rid c).arr)


namespace Sys2Proof.Claims

/-! ### Control, traps and the life of a block -/

/-- A block address that an exit may name in a mode: 0 to 16,383, in task mode below 15,360 (R34, R35). -/
def allowedTarget (handler : Bool) (t : Int) : Prop := 0 ≤ t ∧ t < (if handler then 16384 else 15360)

/-- The choice an exit records and the condition on which it does so (R80 to R89, R295, R297, R303); `b` is its block. -/
def chooses : Instr → W64 → W64 → State → BlockRun → Exit → Prop
  | .br _ o, _, _, s, b, e => allowedTarget (coreHere s).csr.hmode (b.h + o.toInt) ∧ e = .br (b.h + o.toInt).toNat
  | .bri _, l, _, s, _, e => allowedTarget (coreHere s).csr.hmode l.toNat ∧ e = .br l.toNat
  | .call _ o, _, _, s, b, e =>
    (coreHere s).csr.hmode = false ∧ allowedTarget false (b.h + o.toInt) ∧ e = .call (b.h + o.toInt).toNat
  | .calli _, l, _, s, _, e => (coreHere s).csr.hmode = false ∧ allowedTarget false l.toNat ∧ e = .call l.toNat
  | .ret _, _, _, s, _, e =>
    (coreHere s).csr.hmode = false ∧ 0 < (coreHere s).csr.cdepth ∧
    allowedTarget false (readNat s (frameKey s.cur.rid s.cur.core ((coreHere s).csr.cdepth - 1)) 8) ∧
    e = .ret (readNat s (frameKey s.cur.rid s.cur.core ((coreHere s).csr.cdepth - 1)) 8)
  | .tend _, _, _, s, _, e => (coreHere s).csr.hmode = false ∧ e = .tend
  | .park _ o, l, r, s, b, e =>
    (coreHere s).csr.hmode = false ∧ popcN 32 r.toNat ≤ 16 ∧ (coreHere s).csr.cdepth = 0 ∧ (coreHere s).csr.depth = 0 ∧
    checkSem s s.cur.rid s.cur.core l = .ok () ∧ (coreHere s).contUsed.length < 32 ∧ allowedTarget false (b.h + o.toInt) ∧
    e = .park (b.h + o.toInt).toNat l (r.extractLsb' 32 32) (r.extractLsb' 0 32)
  | .tabort _, l, _, s, _, e => (coreHere s).csr.hmode = false ∧ e = .tabort (l.extractLsb' 0 16)
  | .eretDiscard _ x, l, _, s, _, e => (coreHere s).csr.hmode = true ∧ e = .discard (if x = 1 then some l else none)
  | .eretRetry _, _, _, s, _, e => (coreHere s).csr.hmode = true ∧ allowedTarget false (coreHere s).csr.fblk ∧ e = .retry
  | .eretResume _, l, _, s, _, e => (coreHere s).csr.hmode = true ∧ allowedTarget false l.toNat ∧ e = .resume l
  | .halt _, _, _, s, _, e => (coreHere s).csr.hmode = true ∧ e = .halt
  | _, _, _, _, _, _ => False

/-- The core runs in its rectangle: nothing there is stopping, and it is not in debug halt or halted (R302, R308). -/
def goesOn (s : State) (rid c : Nat) : Prop :=
  coreActs s rid c = true ∧ (rectAt s rid).freeze = .running ∧ inDebug s rid = false

/-- What a block that completes leaves before its exit is applied: its register writes where the exit keeps them, and its
flags ORed into FPFLAGS (R51, R83, R174). -/
def committed (s : State) (rid c : Nat) (b : BlockRun) (keep : Bool) : State :=
  let s := modCore s rid c fun k => { k with stepping := false, stepped := k.stepping || k.stepped }
  commitFlags (if keep then commitRegs s rid c b else s) rid c b

/-- The state of a core whose running block b a fault of the cursor's slot has ended: its own commit-buffer lines are dropped, its
vector loads that have issued go on, but for one of that slot, and the core stands at the block's header (R52). -/
def ended (s : State) (b : BlockRun) : State :=
  modCore (keepLoads (dropBlock s s.cur.rid s.cur.core b.id) s.cur.rid s.cur.core b (some s.cur.slot)) s.cur.rid s.cur.core fun k =>
    { k with phase := .fetch b.h }

/-- No fault of a block waits and no other slot of it stands half done: a fault of the cursor's slot is taken at once (R52, log 86). -/
def takesNow (s : State) (b : BlockRun) : Prop := b.fault = none ∧ halfDone b (some s.cur.slot) = false

/-- A block that has settled with no fault waiting and no inline child, on a core that acts (R50, R153). -/
def Settled (s : State) (rid c : Nat) (b : BlockRun) : Prop :=
  runOf s rid c = some b ∧ coreActs s rid c = true ∧ (rectAt s rid).freeze = .running ∧ blockSettled b = true ∧ b.fault = none ∧
  b.inl = none

/-- The core has no task and picks next, in task mode at depth 0 with no frame (R157, R295). -/
def isIdle (k : Core) : Prop :=
  k.task = none ∧ k.phase = .idle ∧ k.csr.depth = 0 ∧ k.csr.cdepth = 0 ∧ k.csr.hmode = false ∧ k.csr.cread = false

/-- The entries of a core's commit buffer that are not a task's (R110). -/
def othersEntries (k : Core) (uid : Nat) : List Entry := k.entries.filter fun e => e.task != uid

/-- The iteration vector of the task of the cursor's core (R292). -/
def iterHere (s : State) : Nat := ((coreHere s).task.map fun t => recIdx t.rcd).getD 0

/-- A record of the task of the cursor's core, with the fields that R299 gives a discard and an escalation. -/
def recordHere (s : State) (kind cause cause2 faddr fblk fslot fiter : Nat) : ErrRec :=
  { cause := cause, cause2 := cause2, kind := kind, stage := (coreHere s).stage.getD 0, core := s.cur.core, faddr := faddr,
    fblk := fblk, fslot := fslot, fiter := fiter, ts := recTs ((coreHere s).task.getD {}).rcd }

/-- A world's error queue is enabled and has room (R299, R343). -/
def takesRecord (s : State) (w : Nat) : Prop :=
  6 ≤ (worldAt s w).eqsize ∧ (worldAt s w).eqsize ≤ 16 ∧
  ((worldAt s w).eqtail - (worldAt s w).eqhead).toNat ≠ 2 ^ (worldAt s w).eqsize

/-- Where the next record of a world's error queue stands, in host memory (R299, R343). -/
def nextRecord (s : State) (w : Nat) : Nat :=
  Place.key (.glob 2 ((worldAt s w).eqbase.toNat + 64 * ((worldAt s w).eqtail.toNat % 2 ^ (worldAt s w).eqsize)))

/-- The state a trap of a slot in task mode leaves before its handler is entered or its task discarded (R52, R293). -/
def trapped (s : State) (b : BlockRun) (cause : Nat) (a : W64) : State :=
  modCsr (ended s b) s.cur.rid s.cur.core fun q =>
    { q with cause := cause, cause2 := 0, faddr := a, fblk := b.h, fslot := s.cur.slot % 64,
             fiter := BitVec.ofNat 64 (iterHere s) }

/-- A cause that is no debug event in a rectangle that is not stopping (R302, R309). -/
def plainTrap (s : State) (cause : Nat) : Prop :=
  debugHalts s s.cur.rid cause = false ∧ (rectAt s s.cur.rid).freeze = .running

/-- The task t of a core is parked (R89, R90): its entries go to the drain, a free slot holds the record of its continuation with the
registers g that its mask names, the semaphore's unit holds the continuation, and the core is free. -/
def Parks (s : State) (rid c : Nat) (t : Task) (g : Tab W64) (target : Nat) (l : W64) (thresh mask : BitVec 32) : Prop :=
  let k := coreAt s rid c
  ∃ u n slot, exec (.blockComplete rid c) s = .next u ∧ isIdle (coreAt u rid c) ∧
    (coreAt u rid c).entries = othersEntries k t.uid ∧
    (coreAt u rid c).drain = k.drain ++ (k.entries.filter fun e => e.task == t.uid).map (fun e => { entry := e, rcd := t.rcd, commit := n }) ∧
    slot < 32 ∧ slot ∉ k.contUsed ∧ (coreAt u rid c).contUsed = k.contUsed ++ [slot] ∧
    (∃ q ∈ (ldieAt u rid (addrDie l)).conts, q.core = c ∧ q.slot = slot ∧ q.stage = t.stage ∧ q.idx = addrSem l ∧
      q.thresh = thresh ∧ q.task = t) ∧
    readNat u (contKey rid c slot) 2 = target % 65536 ∧ readNat u (contKey rid c slot + 2) 1 = t.stage % 16 ∧
    readNat u (contKey rid c slot + 4) 4 = mask.toNat ∧ readNat u (contKey rid c slot + 8) 8 = recTs t.rcd ∧
    readNat u (contKey rid c slot + 16) 8 = recIdx t.rcd ∧ readNat u (contKey rid c slot + 24) 4 = thresh.toNat ∧
    readNat u (contKey rid c slot + 28) 2 = (addrSem l + 4096 * addrDie l) % 65536 ∧
    ∀ j i, j < 16 → ((List.range 32).filter fun i => mask.getLsbD i)[j]? = some i →
      readNat u (contKey rid c slot + 32 + 8 * j) 8 = (tget 0 g i).toNat

/-- A free slot of a core's scratchpad can take a continuation, and those that a semaphore's unit holds name slots (R89). -/
def roomToPark (s : State) (rid c : Nat) (l : W64) : Prop :=
  (∃ i, i < 32 ∧ i ∉ (coreAt s rid c).contUsed) ∧ ∀ q ∈ (ldieAt s rid (addrDie l)).conts, q.slot < 32

/-- What R89 asks of a PARK before its continuation slot and its resume block. -/
def mayPark (l r : W64) (s : State) : Prop :=
  (coreHere s).csr.hmode = false ∧ popcN 32 r.toNat ≤ 16 ∧ (coreHere s).csr.cdepth = 0 ∧ (coreHere s).csr.depth = 0 ∧
  checkSem s s.cur.rid s.cur.core l = .ok ()

/-- The cause of a target t in a mode (R35). -/
def badTargetCause (handler : Bool) (t : Int) (cause : Nat) : Prop :=
  ((t < 0 ∨ 16383 < t) ∧ cause = 0x00B) ∨ (handler = false ∧ 15360 ≤ t ∧ t ≤ 16383 ∧ cause = 0x00C)

/-- The target of an exit of R82, R86, R89 or R298 fails R35 with a cause. -/
def targetFails : Instr → W64 → W64 → State → BlockRun → Nat → Prop
  | .br _ o, _, _, s, b, e => badTargetCause (coreHere s).csr.hmode (b.h + o.toInt) e
  | .bri _, l, _, s, _, e => badTargetCause (coreHere s).csr.hmode l.toNat e
  | .call _ o, _, _, s, b, e => (coreHere s).csr.hmode = false ∧ badTargetCause false (b.h + o.toInt) e
  | .calli _, l, _, s, _, e => (coreHere s).csr.hmode = false ∧ badTargetCause false l.toNat e
  | .ret _, _, _, s, _, e =>
    (coreHere s).csr.hmode = false ∧ 0 < (coreHere s).csr.cdepth ∧
    badTargetCause false (readNat s (frameKey s.cur.rid s.cur.core ((coreHere s).csr.cdepth - 1)) 8) e
  | .park _ o, l, r, s, b, e => mayPark l r s ∧ (coreHere s).contUsed.length < 32 ∧ badTargetCause false (b.h + o.toInt) e
  | .eretRetry _, _, _, s, _, e => (coreHere s).csr.hmode = true ∧ badTargetCause false (coreHere s).csr.fblk e
  | .eretResume _, l, _, s, _, e => (coreHere s).csr.hmode = true ∧ badTargetCause false l.toNat e
  | _, _, _, _, _, _ => False

end Sys2Proof.Claims

/-- R80 to R89, R297, R298, R303: an exit that may fire and is the block's first records its choice and changes nothing else;
one that fires second raises 0x008 (R62). -/
def Obligations.ExitsChoose : Prop :=
  ∀ i l r s b e, chooses i l r s b e → Ready i l r s → here s = some b →
    (b.exit = none → exec i s = .next (fired s (modHere s fun b => { b with exit := some e, exitSlot := s.cur.slot }))) ∧
    (b.exit ≠ none → exec i s = .next (raises s 0x008 0))

/-- R35, R82, R86, R89, R298: an exit target outside words 0 to 16,383 raises 0x00B, and in task mode one from 15,360 up raises 0x00C:
BR, BRI, CALL, CALLI, the frame that RET pops, the resume block of PARK, and the target of ERET resume and retry, which is one of task
mode. A RET at CDEPTH 0 raises 0x051; a PARK with more than 16 live registers 0x052, at a depth or with a frame 0x053, and with 32
continuations in use 0x0A6. All of this holds of a second exit of its block too, which raises these causes before 0x008: that order,
and the order of PARK's last checks, is the model's choice (logs 73 and 23). -/
def Sys2Proof.Claims.ExitTargetFaults : Prop :=
  ∀ l r s b, here s = some b →
    (∀ i cause, Ready i l r s → targetFails i l r s b cause → exec i s = .next (raises s cause 0)) ∧
    (∀ p, Ready (.ret p) l r s → (coreHere s).csr.hmode = false → (coreHere s).csr.cdepth = 0 →
      exec (.ret p) s = .next (raises s 0x051 0)) ∧
    (∀ p o, Ready (.park p o) l r s → (coreHere s).csr.hmode = false → 16 < popcN 32 r.toNat →
      exec (.park p o) s = .next (raises s 0x052 0)) ∧
    (∀ p o, Ready (.park p o) l r s → (coreHere s).csr.hmode = false → popcN 32 r.toNat ≤ 16 →
      ((coreHere s).csr.cdepth ≠ 0 ∨ (coreHere s).csr.depth ≠ 0) → exec (.park p o) s = .next (raises s 0x053 0)) ∧
    (∀ p o, Ready (.park p o) l r s → mayPark l r s → 32 ≤ (coreHere s).contUsed.length →
      exec (.park p o) s = .next (raises s 0x0A6 0)) ∧
    (∀ p o, Ready (.br p o) l r s → (b.h + o.toInt < 0 ∨ 16383 < b.h + o.toInt) → exec (.br p o) s = .next (raises s 0x00B 0)) ∧
    (∀ p o, Ready (.br p o) l r s → (coreHere s).csr.hmode = false → 15360 ≤ b.h + o.toInt → b.h + o.toInt ≤ 16383 →
      exec (.br p o) s = .next (raises s 0x00C 0)) ∧
    (∀ p, Ready (.bri p) l r s → 16383 < l.toNat → exec (.bri p) s = .next (raises s 0x00B 0)) ∧
    (∀ p, Ready (.bri p) l r s → (coreHere s).csr.hmode = false → 15360 ≤ l.toNat → l.toNat ≤ 16383 →
      exec (.bri p) s = .next (raises s 0x00C 0))

/-- R295, R297, R303: the exits of task mode raise 0x146 in handler mode, and ERET and HALT raise 0x140 in task mode; a second exit of
a block raises them before 0x008, which is the model's choice (log 73). -/
def Sys2Proof.Claims.ExitModeFaults : Prop :=
  ∀ l r s,
    ((coreHere s).csr.hmode = true →
      (∀ p o, Ready (.call p o) l r s → exec (.call p o) s = .next (raises s 0x146 0)) ∧
      (∀ p, Ready (.calli p) l r s → exec (.calli p) s = .next (raises s 0x146 0)) ∧
      (∀ p, Ready (.ret p) l r s → exec (.ret p) s = .next (raises s 0x146 0)) ∧
      (∀ p, Ready (.tend p) l r s → exec (.tend p) s = .next (raises s 0x146 0)) ∧
      (∀ p o, Ready (.park p o) l r s → exec (.park p o) s = .next (raises s 0x146 0)) ∧
      (∀ p, Ready (.tabort p) l r s → exec (.tabort p) s = .next (raises s 0x146 0))) ∧
    ((coreHere s).csr.hmode = false →
      (∀ p x, Ready (.eretDiscard p x) l r s → exec (.eretDiscard p x) s = .next (raises s 0x140 0)) ∧
      (∀ p, Ready (.eretRetry p) l r s → exec (.eretRetry p) s = .next (raises s 0x140 0)) ∧
      (∀ p, Ready (.eretResume p) l r s → exec (.eretResume p) s = .next (raises s 0x140 0)) ∧
      (∀ p, Ready (.halt p) l r s → exec (.halt p) s = .next (raises s 0x140 0)))

/-- R301: TRAP raises cause 0x150 + n at its slot and has no other effect; in handler mode that cause is a fault under R296. -/
def Obligations.TrapRaises : Prop :=
  (∀ p n l r s, Ready (.trap p n) l r s → exec (.trap p n) s = .next (raises s (0x150 + n.toNat) 0)) ∧
  (∀ p n l r s b, Ready (.trap p n) l r s → here s = some b → takesNow s b → (coreHere s).csr.hmode = true →
    exec (.trap p n) s = .next (handlerFault (ended s b) s.cur.rid s.cur.core (0x150 + n.toNat)))

/-- R302: BRK raises 0x143 at its slot, with FADDR its tag. -/
def Sys2Proof.Claims.BrkRaises : Prop :=
  ∀ p g l r s, Ready (.brk p g) l r s → exec (.brk p g) s = .next (raises s 0x143 (g.setWidth 64))

/-- R52, R293, R294: a cause raised in task mode, while no fault of the block waits for an instruction that has issued, with HVEC.EN = 1 writes CAUSE, FADDR, FBLK, FSLOT and FITER, clears CAUSE2,
drops the block's own commit-buffer lines, saves g0 to g63, FPFLAGS, CDEPTH and DEPTH in the save area, sets HMODE, clears CREAD
and goes to HVEC.BLK; every byte outside the save area, every register and every flag stays. -/
def Obligations.TrapEntersHandler : Prop :=
  ∀ s b cause a, Memory.wf s = true → here s = some b → takesNow s b → (coreHere s).csr.hmode = false → plainTrap s cause →
    (coreHere s).csr.hvec.getLsbD 63 = true →
    15360 ≤ (coreHere s).csr.hvec.toNat % 16384 →
    let t := raises s cause a
    let k := coreAt t s.cur.rid s.cur.core
    let base := Place.key (.scr s.cur.rid s.cur.core 0x3F000)
    k.csr.cause = cause ∧ k.csr.cause2 = 0 ∧ k.csr.faddr = a ∧ k.csr.fblk = b.h ∧ k.csr.fslot = s.cur.slot % 64 ∧
    k.csr.fiter = BitVec.ofNat 64 (iterHere s) ∧
    k.csr.hmode = true ∧ k.csr.cread = false ∧ k.phase = .fetch ((coreHere s).csr.hvec.toNat % 16384) ∧
    k.entries = (coreHere s).entries.filter (fun e => e.blk != b.id) ∧
    (∀ i, i < 64 → readNat t (base + 8 * i) 8 = (tget 0 (coreHere s).g i).toNat) ∧
    readNat t (base + 0x200) 8 = (coreHere s).csr.fpflags.toNat ∧
    readNat t (base + 0x208) 8 = ((coreHere s).csr.cdepth % 128 + 256 * (coreHere s).csr.depth) % 2 ^ 64 ∧
    (∀ x, x < base ∨ base + 0x210 ≤ x → readKey t x = readKey s x) ∧
    k.g = (coreHere s).g ∧ k.v = (coreHere s).v ∧ k.tok = (coreHere s).tok ∧ k.arr = (coreHere s).arr ∧
    k.csr.fpflags = (coreHere s).csr.fpflags ∧ k.csr.cdepth = (coreHere s).csr.cdepth ∧ k.csr.depth = (coreHere s).csr.depth

/-- R299: a record that its world's error queue takes stands at the next entry of that queue with every field at its place, STATUS and
the twelve zero bytes at its end among them; no other
byte of memory changes, the queue is one longer and nothing is counted as lost. One that finds the queue disabled or full is dropped
and counted, and no byte of memory changes. -/
def Sys2Proof.Claims.RecordsPosted : Prop :=
  ∀ s w e, Memory.wf s = true →
    (takesRecord s w →
      let t := post s w e
      let k := nextRecord s w
      readNat t k 2 = e.cause % 512 ∧ readNat t (k + 2) 2 = e.cause2 % 512 ∧ readNat t (k + 4) 1 = e.kind % 256 ∧
      readNat t (k + 5) 1 = e.stage % 16 ∧ readNat t (k + 6) 2 = e.core % 65536 ∧ readNat t (k + 8) 8 = e.faddr % 2 ^ 64 ∧
      readNat t (k + 16) 2 = e.fblk % 16384 ∧ readNat t (k + 18) 1 = e.fslot % 256 ∧
      readNat t (k + 19) 1 = (if (worldAt s w).lost = 0 then 0 else 1) ∧ readNat t (k + 20) 2 = e.code % 65536 ∧
      readNat t (k + 22) 2 = min (worldAt s w).lost 65535 ∧ readNat t (k + 24) 8 = e.fiter % 2 ^ 64 ∧
      readNat t (k + 32) 8 = e.ts % 2 ^ 64 ∧ readNat t (k + 40) 8 = t.ns.toNat ∧ readNat t (k + 48) 4 = e.status % 2 ^ 32 ∧
      readNat t (k + 52) 12 = 0 ∧
      (∀ x, x < k ∨ k + 64 ≤ x → readKey t x = readKey s x) ∧
      (worldAt t w).eqtail = (worldAt s w).eqtail + 1 ∧ (worldAt t w).lost = 0) ∧
    (¬ takesRecord s w → (∀ x, readKey (post s w e) x = readKey s x) ∧ (worldAt (post s w e) w).lost = (worldAt s w).lost + 1)

/-- R293 step 2, R298, R299: with HVEC.EN = 0 the task is discarded at once; a record of kind 0 with the cause, the address, the
block and the slot goes to the error queue of its world. -/
def Sys2Proof.Claims.TrapDiscards : Prop :=
  ∀ s b cause a, here s = some b → takesNow s b → (coreHere s).csr.hmode = false → plainTrap s cause →
    (coreHere s).csr.hvec.getLsbD 63 = false →
    cause < 384 →
    raises s cause a = discardTask (post
      (modCsr (trapped s b cause a) s.cur.rid s.cur.core fun q => { q with hmode := false, cread := false })
      (worldOf s.cur.rid) (recordHere s 0 cause 0 a.toNat b.h (s.cur.slot % 64) (iterHere s % 2 ^ 64))) s.cur.rid s.cur.core

/-- R296, R298, R299: a fault in handler mode before CAUSE was read sets CAUSE2 and halts the core, which keeps its registers, CAUSE
and FADDR; a record of kind 5 with CAUSE and CAUSE2 goes to the error queue of its world, and for a world other than 0 a copy with
FADDR 0 to that of world 0. After CAUSE was read, the task is discarded; a record of kind 0 with CAUSE and with the new cause as
CAUSE2 goes to the error queue. -/
def Sys2Proof.Claims.HandlerFaults : Prop :=
  ∀ s b cause a, here s = some b → takesNow s b → (coreHere s).csr.hmode = true →
    let q := (coreHere s).csr
    let w := worldOf s.cur.rid
    let late := modCsr (ended s b) s.cur.rid s.cur.core fun q => { q with cause2 := cause }
    let rec5 := recordHere s 5 q.cause cause q.faddr.toNat q.fblk q.fslot q.fiter.toNat
    (q.cread = false →
      let one := post late w rec5
      let all := if w = 0 then one else post one 0 { rec5 with faddr := 0 }
      (∀ x, readKey (raises s cause a) x = readKey all x) ∧ (raises s cause a).worlds = all.worlds) ∧
    (q.cread = true → q.cause < 384 →
      raises s cause a = discardTask (post (modCsr late s.cur.rid s.cur.core fun q => { q with hmode := false, cread := false }) w
        (recordHere s 0 q.cause cause q.faddr.toNat q.fblk q.fslot q.fiter.toNat)) s.cur.rid s.cur.core) ∧
    ((coreHere s).csr.cread = false →
      let k := coreAt (raises s cause a) s.cur.rid s.cur.core
      k.csr.halted = true ∧ k.csr.cause2 = cause ∧ k.csr.cause = (coreHere s).csr.cause ∧ k.csr.faddr = (coreHere s).csr.faddr ∧
      k.csr.fblk = (coreHere s).csr.fblk ∧ k.g = (coreHere s).g ∧ k.v = (coreHere s).v) ∧
    ((coreHere s).csr.cread = true →
      let k := coreAt (raises s cause a) s.cur.rid s.cur.core
      k.csr.cause2 = cause ∧ k.csr.hmode = false ∧ k.task = none ∧ k.phase = .idle)

/-- R294, R298: a completed block with ERET retry restores g0 to g63, FPFLAGS (its flags [5:0] and its count [31:16]; the other bits
are reserved, R173), CDEPTH and DEPTH from the save area, clears HMODE and CREAD and goes to FBLK; one with ERET resume goes to its
target; the block's own register writes do not survive and no byte of memory changes. -/
def Obligations.EretReturns : Prop :=
  ∀ s rid c b e target, Settled s rid c b → b.exit = some e →
    (e = .retry ∧ target = (coreAt s rid c).csr.fblk ∨ ∃ v : W64, e = .resume v ∧ target = v.toNat) →
    ∃ t, exec (.blockComplete rid c) s = .next t ∧
      (∀ i, i < 64 → tget 0 (coreAt t rid c).g i = BitVec.ofNat 64 (readNat s (Place.key (.scr rid c 0x3F000) + 8 * i) 8)) ∧
      (coreAt t rid c).csr.hmode = false ∧ (coreAt t rid c).csr.cread = false ∧ (coreAt t rid c).phase = .fetch target ∧
      (coreAt t rid c).csr.fpflags = BitVec.ofNat 64 (readNat s (Place.key (.scr rid c 0x3F200)) 8) &&& 0xFFFF003F ∧
      (coreAt t rid c).csr.cdepth = readNat s (Place.key (.scr rid c 0x3F208)) 8 % 128 ∧
      (coreAt t rid c).csr.depth = readNat s (Place.key (.scr rid c 0x3F208)) 8 / 256 % 16 ∧
      (∀ x, readKey t x = readKey s x)

/-- R51, R83, R85, R86, R174: a settled block whose exit is BR, CALL or RET completes: its register writes land, its flags are
ORed into FPFLAGS, and the core goes to the target; CALL first writes the address after the block at the frame of depth CDEPTH
and raises CDEPTH, RET lowers it. A CALL at CDEPTH 64 raises 0x050 at the exit's slot, as here one above 64 does, which R84 and R85 do
not speak of (DESIGN CHOICE, log 96). A block without an exit raises 0x007, which names no slot (DEDUCED, log 21). -/
def Sys2Proof.Claims.BlocksComplete : Prop :=
  ∀ s rid c b target, Settled s rid c b →
    (b.exit = some (.br target) →
      exec (.blockComplete rid c) s = .next (modCore (committed s rid c b true) rid c fun k => { k with phase := .fetch target })) ∧
    (b.exit = some (.ret target) →
      exec (.blockComplete rid c) s = .next (modCore (committed s rid c b true) rid c fun k =>
        { k with phase := .fetch target, csr := { k.csr with cdepth := k.csr.cdepth - 1 } })) ∧
    (b.exit = some (.call target) → (coreAt s rid c).csr.cdepth < 64 →
      exec (.blockComplete rid c) s = .next (modCore
        (writeNat (committed s rid c b true) (frameKey rid c (coreAt s rid c).csr.cdepth) 8 (b.h + b.n + 1)) rid c fun k =>
        { k with phase := .fetch target, csr := { k.csr with cdepth := (coreAt s rid c).csr.cdepth + 1 } })) ∧
    (b.exit = some (.call target) → 64 ≤ (coreAt s rid c).csr.cdepth →
      exec (.blockComplete rid c) s = .next (settleStop (takeTrap s rid c 0x050 0 b.h (some b.exitSlot)) rid)) ∧
    (b.exit = none → exec (.blockComplete rid c) s = .next (settleStop (takeTrap s rid c 0x007 0 b.h none) rid))

/-- R83, R87, R88, R89, R90, R158, R165, R298, R299, R303: a settled block whose exit is TEND, PARK, TABORT, ERET discard or HALT completes.
TEND of an unordered task commits its buffer and frees the core; that of an ordered one in the domain keeps its slot among the finished
and leaves its entries for its turn. TABORT and ERET discard drop the task's entries, take it out of the domain, or, while entries that it
committed still drain, leave it there as a task that commits (log 94, DEDUCED), free the core and post
a record: of kind 1 with the code for TABORT, whose CAUSE, FADDR, FBLK and FSLOT are the model's choice (log 77), and of kind 0 for a
discard, with CAUSE or what the operand gives, which from 384 up is 0x148 with that number in FADDR. None of the three lets the block's
register writes land. PARK lets them land, and where its task is not safe or the clock of its semaphore's unit stands still (R350, log 63)
it waits so, its block complete (log 112); then it commits, writes the record of its continuation in a free slot (the model takes the
lowest, log 87), registers it with its semaphore and frees the core. HALT lets the block's writes land, drops the entries, halts the core and posts
nothing. TEND of an inline child (R87, R153) commits its entries and gives the parent the core, g0 to g63 from its frame, its task, its
CDEPTH and its depth; the core goes to the target that the parent's block chose, and a TEND of an unordered parent at depth 0 frees it. -/
def Sys2Proof.Claims.ExitsApply : Prop :=
  (∀ s rid c b t, Memory.wf s = true → Settled s rid c b → (coreAt s rid c).task = some t → (coreAt s rid c).causes = [] →
    let k := coreAt s rid c
    let mine := k.entries.filter fun e => e.task == t.uid
    let left := fun (u : State) =>
      (taskDrains (rectAt s rid) t.uid = [] → ∀ o ∈ (rectAt u rid).dom.out, o.uid ≠ t.uid) ∧
      (taskDrains (rectAt s rid) t.uid ≠ [] → ∀ o ∈ (rectAt u rid).dom.out, o.uid = t.uid → o.finished = true ∧ o.committing = true)
    let posts := fun (u : State) (e : ErrRec) =>
      u.worlds = (post s (worldOf rid) e).worlds ∧ ∀ x, readKey u x = readKey (post s (worldOf rid) e) x
    (b.exit = some .tend → k.csr.depth = 0 → (∀ o ∈ (rectAt s rid).dom.out, o.uid ≠ t.uid) →
      ∃ u n, exec (.blockComplete rid c) s = .next u ∧ isIdle (coreAt u rid c) ∧ (coreAt u rid c).g = k.g ∧
        (coreAt u rid c).entries = othersEntries k t.uid ∧
        (coreAt u rid c).drain = k.drain ++ mine.map (fun e => { entry := e, rcd := t.rcd, commit := n }) ∧
        u.worlds = s.worlds ∧ (∀ x, readKey u x = readKey s x)) ∧
    (b.exit = some .tend → k.csr.depth = 0 → (∃ o ∈ (rectAt s rid).dom.out, o.uid = t.uid) →
      ∃ u, exec (.blockComplete rid c) s = .next u ∧ isIdle (coreAt u rid c) ∧ (coreAt u rid c).g = k.g ∧
        (coreAt u rid c).fin = k.fin ++ [t] ∧ (coreAt u rid c).entries = k.entries ∧ (coreAt u rid c).drain = k.drain ∧
        (∀ o ∈ (rectAt u rid).dom.out, o.uid = t.uid → o.finished = true ∧ o.core = c)) ∧
    (∀ code, b.exit = some (.tabort code) → taskSafe s rid c = true →
      ∃ u, exec (.blockComplete rid c) s = .next u ∧ isIdle (coreAt u rid c) ∧ (coreAt u rid c).g = k.g ∧
        (coreAt u rid c).entries = othersEntries k t.uid ∧ (coreAt u rid c).drain = k.drain ∧ left u ∧
        posts u { cause := 0, kind := 1, stage := t.stage, core := c, code := code.toNat, fiter := recIdx t.rcd, ts := recTs t.rcd }) ∧
    (∀ x, b.exit = some (.discard x) →
      let cause := match x with | some v => v.toNat % 512 | none => k.csr.cause
      ∃ u, exec (.blockComplete rid c) s = .next u ∧ isIdle (coreAt u rid c) ∧ (coreAt u rid c).g = k.g ∧
        (coreAt u rid c).entries = othersEntries k t.uid ∧ (coreAt u rid c).drain = k.drain ∧ left u ∧
        posts u { cause := if 384 ≤ cause then 0x148 else cause, cause2 := k.csr.cause2, kind := 0, stage := k.stage.getD 0, core := c,
                  faddr := if 384 ≤ cause then cause else k.csr.faddr.toNat, fblk := k.csr.fblk, fslot := k.csr.fslot,
                  fiter := k.csr.fiter.toNat, ts := recTs t.rcd }) ∧
    (b.exit = some .halt →
      ∃ u, exec (.blockComplete rid c) s = .next u ∧ (coreAt u rid c).csr.halted = true ∧ (coreAt u rid c).phase = .idle ∧
        (coreAt u rid c).g = (coreAt (commitRegs s rid c b) rid c).g ∧ (coreAt u rid c).task = some t ∧
        (coreAt u rid c).entries = othersEntries k t.uid ∧ left u ∧ u.worlds = s.worlds ∧ (∀ x, readKey u x = readKey s x)) ∧
    (∀ target l thresh mask, b.exit = some (.park target l thresh mask) →
      (taskSafe s rid c = true → semRuns s rid (addrDie l) = true → roomToPark s rid c l →
        Parks s rid c t (coreAt (commitRegs s rid c b) rid c).g target l thresh mask) ∧
      (taskSafe s rid c = false ∨ semRuns s rid (addrDie l) = false →
        exec (.blockComplete rid c) s = .next (modCore (committed s rid c b true) rid c fun k =>
          { k with phase := .parking target l thresh mask })))) ∧
  (∀ s rid c t target l thresh mask, Memory.wf s = true → coreActs s rid c = true → (rectAt s rid).freeze = .running →
    (coreAt s rid c).phase = .parking target l thresh mask → (coreAt s rid c).task = some t → (coreAt s rid c).causes = [] →
    (taskSafe s rid c = true → semRuns s rid (addrDie l) = true → roomToPark s rid c l →
      Parks s rid c t (coreAt s rid c).g target l thresh mask) ∧
    (taskSafe s rid c = false ∨ semRuns s rid (addrDie l) = false → exec (.blockComplete rid c) s = .next s)) ∧
  (∀ s rid c b t d l, Memory.wf s = true → Settled s rid c b → (coreAt s rid c).task = some t → b.exit = some .tend →
    (coreAt s rid c).csr.depth = d + 1 → (coreAt s rid c).links[d]? = some l →
    let k := coreAt s rid c
    let base := Place.key (.scr rid c (0x3DE00 + 512 * d))
    (∀ target, l.exit = some (.br target) →
      ∃ u n, exec (.blockComplete rid c) s = .next u ∧ (coreAt u rid c).phase = .fetch target ∧
        (coreAt u rid c).task = some l.task ∧ (coreAt u rid c).csr.depth = d ∧ (coreAt u rid c).csr.cdepth = l.cdepth ∧
        (∀ i, i < 64 → tget 0 (coreAt u rid c).g i = BitVec.ofNat 64 (readNat s (base + 8 * i) 8)) ∧
        (coreAt u rid c).entries = othersEntries k t.uid ∧
        (coreAt u rid c).drain = k.drain ++ (k.entries.filter fun e => e.task == t.uid).map (fun e => { entry := e, rcd := t.rcd, commit := n }) ∧
        u.worlds = s.worlds ∧ (∀ x, readKey u x = readKey s x)) ∧
    (l.exit = some .tend → d = 0 → k.causes = [] → (∀ o ∈ (rectAt s rid).dom.out, o.uid ≠ l.task.uid) →
      ∃ u, exec (.blockComplete rid c) s = .next u ∧ isIdle (coreAt u rid c) ∧
        (coreAt u rid c).entries = othersEntries { k with entries := othersEntries k t.uid } l.task.uid ∧
        u.worlds = s.worlds ∧ (∀ x, readKey u x = readKey s x)))

/-- R37, R45, R60: a core fetches the block it is to run; a block that passes every check becomes ready under a number of its
own, and one that fails a check raises that cause at the block, with nothing performed. -/
def Sys2Proof.Claims.BlockFetches : Prop :=
  ∀ s rid c h, goesOn s rid c → (coreAt s rid c).phase = .fetch h →
    (∀ b, fetchBlock s rid c h = .ok b →
      exec (.blockFetch rid c) s = .next (modCore { s with nextId := s.nextId + 1 } rid c fun k =>
        { k with phase := .ready { b with id := s.nextId } })) ∧
    (∀ e slot, fetchBlock s rid c h = .error (e, slot) →
      exec (.blockFetch rid c) s = .next (takeTrap s rid c e 0 h slot))

/-- R43, R44, R117, R302: a ready block whose waits are met, whose ports hold a value for each of its GETs, for whose task no engine
cause waits and at whose address no breakpoint is set starts: BPSKIP is cleared, FPFLAGS as they stand are what the block sees, and
every GET fires at once, those of a port binding the block; one without GETs only starts. A cause that waits is taken at the block
with FSLOT.NONE, and a breakpoint raises 0x144 there: that a cause comes before a breakpoint is the model's choice (log 72). Of several causes that wait the oldest is taken, and only in task mode: that too is the model's reading (log 25). -/
def Sys2Proof.Claims.BlockStarts : Prop :=
  ∀ s rid c b, goesOn s rid c → (coreAt s rid c).phase = .ready b →
    mayStart s rid c b.hdr (!(portGets (blockInstrs b)).isEmpty) = true → portsFilled s rid c (portGets (blockInstrs b)) = true →
    let started := modCore s rid c fun k =>
      { k with phase := .run { b with fp0 := k.csr.fpflags, bound := !(portGets (blockInstrs b)).isEmpty },
               csr := { k.csr with bpskip := false } }
    ((coreAt s rid c).causes = [] → breakpointAt (coreAt s rid c) b.h = false →
      (getFault s rid c (blockInstrs b) = none → exec (.blockStart rid c) s = .next (fireGets started rid c (blockInstrs b))) ∧
      ((∀ i ∈ blockInstrs b, ∀ r u t, i ≠ .get r u t) → exec (.blockStart rid c) s = .next started)) ∧
    ((coreAt s rid c).causes = [] → breakpointAt (coreAt s rid c) b.h = true →
      exec (.blockStart rid c) s = .next (takeTrap s rid c 0x144 0 b.h none)) ∧
    (∀ p ps, (coreAt s rid c).csr.hmode = false → (coreAt s rid c).causes = p :: ps →
      exec (.blockStart rid c) s = .next (takeTrap (modCore s rid c fun k => { k with causes := ps }) rid c p.cause p.faddr b.h none))

/-- R149, R153, R157: a free core of a stage resumes a satisfied continuation of its own, else takes the record at the bottom of its
deque, else, with nothing nearer, the oldest record of the stage's queue. TASK_LAUNCH starts a task's entry block with A1 to A4 in g1
to g4, every other register, FPFLAGS, CDEPTH and DEPTH zero, and an inline child's with the registers its start gave it. The queue's
clock runs (R350); that a monitor of the queue's occupancy is sampled at the pop is the model's reading (log 84). -/
def Obligations.CorePicksAndLaunches : Prop :=
  (∀ s rid c st rcd q, goesOn s rid c → isFree (coreAt s rid c) = true → c < coreCount (rectAt s rid) →
    (coreAt s rid c).newStage = none → (coreAt s rid c).stage = some st → (coreAt s rid c).fin = [] →
    ownCont s rid c st = none → (coreAt s rid c).deque = [] → (stageAt s rid st).rerun = [] →
    (∃ x, ((queueAt s rid (inputQueue s rid st)).spill = [] ∧ x = 0 ∨
        oldestSpill s (worldOf rid) (queueAt s rid (inputQueue s rid st)) = .ok x) ∧
      popRecord (queueAt s rid (inputQueue s rid st)) x = some (rcd, q)) →
    recOrdered rcd = false → queueRuns s rid (inputQueue s rid st) = true →
    exec (.corePick rid c) s = .next (beginTask
      { modQueue (noteOccupancy s rid (inputQueue s rid st)) rid (inputQueue s rid st) (fun _ => q) with nextId := s.nextId + 1 }
      rid c st s.nextId 0 rcd)) ∧
  (∀ s rid c st, goesOn s rid c → isFree (coreAt s rid c) = true → c < coreCount (rectAt s rid) →
    (coreAt s rid c).newStage = none → (coreAt s rid c).stage = some st → (coreAt s rid c).fin = [] →
    queueRuns s rid (inputQueue s rid st) = true →
    (∀ d k, ownCont s rid c st = some (d, k) → exec (.corePick rid c) s = .next (resumeCont s rid c d k)) ∧
    (∀ rcd ds, ownCont s rid c st = none → (coreAt s rid c).deque = ds ++ [rcd] → recOrdered rcd = false →
      exec (.corePick rid c) s = .next (beginTask
        { modCore s rid c (fun k => { k with deque := ds }) with nextId := s.nextId + 1 } rid c st s.nextId 0 rcd))) ∧
  (∀ s rid c t, goesOn s rid c → (coreAt s rid c).task = some t → (coreAt s rid c).phase = .launching →
    (taskRegions s rid t.rcd).all (fun g => resident s (worldOf rid) g) = true → (coreAt s rid c).csr.depth ≠ 0 →
    exec (.taskLaunch rid c) s = .next (modCore s rid c fun k => { k with phase := .fetch (recEntry t.rcd) })) ∧
  (∀ s rid c t, goesOn s rid c → (coreAt s rid c).task = some t → (coreAt s rid c).phase = .launching →
    (taskRegions s rid t.rcd).all (fun g => resident s (worldOf rid) g) = true → (coreAt s rid c).csr.depth = 0 →
    ∃ u, exec (.taskLaunch rid c) s = .next u ∧ (coreAt u rid c).phase = .fetch (recEntry t.rcd) ∧
      (∀ j, j < 64 → tget 0 (coreAt u rid c).g j = if 1 ≤ j ∧ j ≤ 4 then BitVec.ofNat 64 (recArg t.rcd j) else 0) ∧
      (∀ j, tget 0 (coreAt u rid c).v j = 0) ∧
      (coreAt u rid c).csr.fpflags = 0 ∧ (coreAt u rid c).csr.cdepth = 0 ∧ (coreAt u rid c).csr.depth = 0 ∧
      (∀ x, readKey u x = readKey s x))


namespace Sys2Proof.Claims

/-! ### Loads, stores and the commit buffer -/

/-- The task of the cursor's core as the party of an access. -/
def actor (s : State) : Who := whoTask s s.cur.rid s.cur.core

/-- The running task writes. -/
def actorUid (s : State) : Nat := coreUid s s.cur.rid s.cur.core

/-- The parts of a load, its destination, and the spaces and alignment that its checks name (R112 to R114). -/
def loadOf : Instr → W64 → W64 → Option (List (W64 × Nat) × LoadDst)
  | .ld _ y d t, a, _ =>
    some ([(addrPlus a d.toInt, widthOf y / 8)], .scalar (widthOf y / 8) (decide (4 ≤ y.toNat) && decide (y.toNat ≤ 7)) t)
  | .ldv _ v d, a, _ => some ([(addrPlus a (128 * d.toInt), 128)], .vector v.toNat)
  | .ldvs _ y v, a, b =>
    some ((List.range (1024 / widthOf y)).map fun k => (addrPlus a (Int.ofNat k * b.toInt), widthOf y / 8), .vector v.toNat)
  | _, _, _ => none

/-- The pieces of a store: address and bytes, lowest byte first (R112 to R114). -/
def storeOf : Instr → W64 → W64 → State → Option (List (W64 × List Byte))
  | .st _ y d, a, b, _ => some [(addrPlus a d.toInt, bytesOf (widthOf y / 8) b.toNat)]
  | .stv _ v d, a, _, s => some [(addrPlus a (128 * d.toInt), bytesOf 128 (tget 0 (coreHere s).v v.toNat).toNat)]
  | .stvs _ y v, a, b, s =>
    some ((List.range (1024 / widthOf y)).map fun k => (addrPlus a (Int.ofNat k * b.toInt),
      bytesOf (widthOf y / 8) ((tget 0 (coreHere s).v v.toNat).toNat / 2 ^ (widthOf y * k))))
  | _, _, _, _ => none

/-- Every part passes the checks made at the core, aligned to its size (R97). -/
def allPass (s : State) (allow : List Nat) (parts : List (W64 × Nat)) : Prop :=
  ∀ p ∈ parts, checkLocal s (actor s) p.1 p.2 p.2 allow = .ok ()

/-- No cause of an engine waits at a core of the rectangle: a task that a write aborts posts none (R117, R160). -/
def quiet (s : State) (rid : Nat) : Prop := ∀ c, (coreAt s rid c).causes = []

/-- A commit-buffer entry that the running block of s makes under the next number (R105). -/
def newEntry (s : State) (t : Task) (b : BlockRun) (a : W64) (k : EntKind) : Entry :=
  { id := s.nextId, task := t.uid, blk := b.id, addr := a, kind := k }

/-- The lookup that an access of parts waits for: those of global memory (R101). -/
def withLookup (s : State) (acc : Acc) (parts : List (W64 × Nat)) : State :=
  if (parts.filter fun p => selector p.1 == 0) = [] then s
  else modHere s fun b => { b with lookups := b.lookups ++
    [{ slot := s.cur.slot, parts := parts.filter fun p => selector p.1 == 0, acc := acc }] }

/-- Bytes that parts have together. -/
def partsLength (ps : List (W64 × Nat)) : Nat := (ps.map (·.2)).sum

/-- Every part can be read where it lies: a channel serves it, and its data is whole (R98). -/
def readsWell (s : State) (who : Who) (ps : List (W64 × Nat)) : Prop :=
  ∀ p ∈ ps, 0 < p.2 ∧ readError s (worldOf who.rid) (homeOf s who p.1) p.2 = none

/-- The bytes that arrive for a load: part after part, the bytes it knew at its issue and those at the part's home elsewhere. -/
def arrivesAs (s : State) (who : Who) (l : Load) (bs : List Byte) : Prop :=
  bs.length = partsLength l.parts ∧
  ∀ i a n, l.parts[i]? = some (a, n) → ∀ j, j < n →
    bs[partsLength (l.parts.take i) + j]? =
      some ((l.own[partsLength (l.parts.take i) + j]?.getD none).getD (readKey s ((homeOf s who a).key + j)))

/-- A buffered line entry of the running task and block that bytes at ea go into: the newest entry of their line, when it is a store's
of the same block (R105). -/
def mergesInto (t : Task) (b : BlockRun) (ea : W64) (e : Entry) (ys : List Entry) : Prop :=
  e.task = t.uid ∧ e.blk = b.id ∧ lineAddr e.addr = lineAddr ea ∧
  ∀ y ∈ ys, y.task = t.uid → lineAddr y.addr = lineAddr ea → ∃ r, y.kind = .spawn r

/-- No entry takes bytes at ea in: they need an entry of their own (R105). -/
def mergesNowhere (t : Task) (b : BlockRun) (ea : W64) (es : List Entry) : Prop :=
  ∀ xs e ys m d, es = xs ++ e :: ys → e.kind = .line m d → ¬ mergesInto t b ea e ys

/-- The entry e with bytes at ea written over its own (R105). -/
def merged (e : Entry) (m0 : BitVec 64) (d0 : BitVec 512) (ea : W64) (bs : List Byte) : Entry :=
  let m := lineMask (ea.toNat % 64) bs.length
  { e with kind := .line (m0 ||| m) ((d0 &&& ~~~ (bitMask m)) ||| lineData (ea.toNat % 64) bs) }

end Sys2Proof.Claims

/-- R101, R107, R111 to R114: a load that passes its checks waits for its data with the bytes known so far: in the core's own
scratchpad or instruction store those that stand there now, elsewhere those that the task's own stores hold; in global memory it
also waits for its lookup; nothing else changes. -/
def Sys2Proof.Claims.LoadsIssue : Prop :=
  ∀ i l r s parts dst, loadOf i l r = some (parts, dst) → Ready i l r s → allPass s [0, 0xF0, 0xF1, 0xF2, 0xF5] parts →
    ((∀ p ∈ parts, selector p.1 ≠ 0xF0 ∧ selector p.1 ≠ 0xF5) →
      exec i s = .next (fired s (withLookup (modHere s fun b => { b with loads := b.loads ++
        [{ slot := s.cur.slot, parts := parts, dst := dst,
           own := parts.flatMap fun p => ownBytes s s.cur.rid s.cur.core p.1 p.2 }] }) .read parts))) ∧
    ((∀ p ∈ parts, selector p.1 = 0xF0 ∨ selector p.1 = 0xF5) →
      (∀ p ∈ parts, readError s (worldOf s.cur.rid) (homeOf s (actor s) p.1) p.2 = none) →
      exec i s = .next (fired s (modHere s fun b => { b with loads := b.loads ++
        [{ slot := s.cur.slot, parts := parts, dst := dst,
           own := parts.flatMap fun p => (readKeys s (homeOf s (actor s) p.1).key p.2).map some }] })))

/-- R107, R111 to R114: the data of a load that no earlier load of its bytes and no lookup of its slot holds is, byte by byte of every
part, the task's own where its stores hold one and the byte at the part's home elsewhere; a scalar load delivers it zero- or
sign-extended, a vector load writes its register and binds the block, and an ordered task that is not safe has the lines that it reads
noted (R136). A load of several parts is an LDVS. A vector load whose block a fault has ended writes its register all the same (R52,
R113), in a core that has halted since too, after the earlier ones of its bytes; where its own lookup fails or its data cannot be read it leaves the register as it was,
which is the model's reading (log entry 75). The sample a part gives the monitors as HBM4E answers it is log entry 84 (R306 counts
latencies and does not say where one is taken). -/
def Sys2Proof.Claims.LoadReturns : Prop :=
  (∀ s rid c b k l, runOf s rid c = some b → coreActs s rid c = true → b.loads[k]? = some l →
    loadBehind s (whoTask s rid c) ((coreAt s rid c).vloads ++ b.loads.take k) l = false → (∀ q ∈ b.lookups, q.slot ≠ l.slot) →
    l.own.length = partsLength l.parts → readsWell s (whoTask s rid c) l.parts →
    ∃ bs : List Byte, arrivesAs s (whoTask s rid c) l bs ∧
      let u := modRun (noteParts s (whoTask s rid c) (coreUid s rid c) l.parts) rid c fun b => { b with loads := dropAt b.loads k }
      (∀ n sg t, l.dst = .scalar n sg t →
        exec (.loadDataReturn rid c ((coreAt s rid c).vloads.length + k)) s = .next (deliver u rid c l.slot
          (some (if sg then BitVec.ofInt 64 (sext (8 * n) (natOf bs)) else BitVec.ofNat 64 (natOf bs))) t)) ∧
      (∀ v, l.dst = .vector v →
        exec (.loadDataReturn rid c ((coreAt s rid c).vloads.length + k)) s = .next (bind
          (modCore u rid c fun q => { q with v := tset q.v v (BitVec.ofNat 1024 (natOf bs)) }) rid c))) ∧
  (∀ s s1 rid c k l v, coreLives s rid c = true → (coreAt s rid c).vloads[k]? = some l → l.dst = .vector v →
    loadBehind s (whoTask s rid c) ((coreAt s rid c).vloads.take k) l = false →
    s1 = modCore s rid c (fun q => { q with vloads := dropAt q.vloads k }) →
    ((l.unchecked = false ∨ firstCause s1 (whoTask s rid c) .read l.parts = none) → l.own.length = partsLength l.parts →
      readsWell s (whoTask s rid c) l.parts →
      ∃ bs : List Byte, arrivesAs s (whoTask s rid c) l bs ∧
        exec (.loadDataReturn rid c k) s = .next (modCore (noteParts s1 (whoTask s rid c) (coreUid s rid c) l.parts) rid c fun q =>
          { q with v := tset q.v v (BitVec.ofNat 1024 (natOf bs)) })) ∧
    (l.unchecked = true → firstCause s1 (whoTask s rid c) .read l.parts ≠ none →
      exec (.loadDataReturn rid c k) s = .next s1))

/-- R106, R107, R112 to R114: a store in the core's scratchpad that passes its checks and that no access of a lower slot holds
performs at once: its bytes stand there, piece after piece, and the block is bound. -/
def Sys2Proof.Claims.ScratchStores : Prop :=
  ∀ i l r s ps b t, storeOf i l r s = some ps → Ready i l r s → here s = some b → (coreHere s).task = some t →
    allPass s [0, 0xF0, 0xF1, 0xF2] (ps.map fun p => (p.1, p.2.length)) → (∀ p ∈ ps, selector p.1 = 0xF0) →
    lookupsBelow b s.cur.slot = false →
    exec i s = .next (fired s (bind (ps.foldl (fun s p =>
      writeKeys s (Place.key (.scr s.cur.rid s.cur.core (addrOff p.1))) p.2) s) s.cur.rid s.cur.core))

/-- The frame of ST and STV in the scratchpad: the stored bytes read as the source's, every other byte of memory reads as
before, and no register, flag, CSR, accumulator, token or commit-buffer entry changes. -/
def Sys2Proof.Claims.ScratchStoreFrame : Prop :=
  ∀ i l r s ea bs b t, storeOf i l r s = some [(ea, bs)] → Memory.wf s = true → Ready i l r s → here s = some b →
    (coreHere s).task = some t → allPass s [0, 0xF0, 0xF1, 0xF2] [(ea, bs.length)] → selector ea = 0xF0 → lookupsBelow b s.cur.slot = false →
    ∃ u, exec i s = .next u ∧
      (∀ j, j < bs.length → some (readKey u (Place.key (.scr s.cur.rid s.cur.core (addrOff ea)) + j)) = bs[j]?) ∧
      (∀ x, x < Place.key (.scr s.cur.rid s.cur.core (addrOff ea)) ∨
        Place.key (.scr s.cur.rid s.cur.core (addrOff ea)) + bs.length ≤ x → readKey u x = readKey s x) ∧
      (∀ rid c, (coreAt u rid c).g = (coreAt s rid c).g ∧ (coreAt u rid c).v = (coreAt s rid c).v ∧
        (coreAt u rid c).tok = (coreAt s rid c).tok ∧ (coreAt u rid c).csr = (coreAt s rid c).csr ∧
        (coreAt u rid c).arr = (coreAt s rid c).arr ∧ (coreAt u rid c).entries = (coreAt s rid c).entries) ∧
      u.worlds = s.worlds ∧ u.dies = s.dies ∧ u.lanes = s.lanes ∧ u.versions = s.versions

/-- R101, R105, R107, R109, R112 to R114: stores outside the scratchpad. (1) An ST, STV or STVS that finds room leaves memory as it is,
and every byte that it stores is then the task's own, the last element that covers a byte winning; in global memory it waits for its
lookup. (2) Bytes of at most 8 in one piece go into the newest entry of their 64-byte line where a store of the same block made it, and
(3) else take a new entry. (4) With all 256 entries in use such a store first commits the task's entries and has its task write through
from then on, once the task is safe and no lookup of a lower slot is open, and until then changes nothing; that the entries which drain
count among the 256 is the model's reading (DEDUCED, log 29). (5) A task that writes
through performs such a store at memory at once, where it is served, and waits for its acknowledgement. -/
def Sys2Proof.Claims.BufferedStores : Prop :=
  (∀ i l r s ps b t, storeOf i l r s = some ps → Ready i l r s → here s = some b → (coreHere s).task = some t → t.wt = false →
    allPass s [0, 0xF0, 0xF1, 0xF2] (ps.map fun p => (p.1, p.2.length)) → (∃ p ∈ ps, selector p.1 ≠ 0xF0) →
    entriesUsed (coreHere s) + (ps.flatMap fun p => splitLines 4 p.1 p.2).length ≤ 256 →
    ∃ u, exec i s = .next (fired s (withLookup u .write (ps.map fun p => (p.1, p.2.length)))) ∧
      (∀ x, readKey u x = readKey s x) ∧ (coreAt u s.cur.rid s.cur.core).g = (coreHere s).g ∧
      (coreAt u s.cur.rid s.cur.core).v = (coreHere s).v ∧ (coreAt u s.cur.rid s.cur.core).csr = (coreHere s).csr ∧
      (coreAt u s.cur.rid s.cur.core).drain = (coreHere s).drain ∧
      (∀ (k : Nat) a bs (j : Nat), ps[k]? = some (a, bs) → j < bs.length →
        (∀ (k' : Nat) a' bs', k < k' → ps[k']? = some (a', bs') → meets (addrPlus a j).toNat 1 a'.toNat bs'.length = false) →
        ownBytes u s.cur.rid s.cur.core (addrPlus a j) 1 = [bs[j]?])) ∧
  (∀ i l r s ea bs b t xs e ys m0 d0, storeOf i l r s = some [(ea, bs)] → Ready i l r s → here s = some b →
    (coreHere s).task = some t → t.wt = false → allPass s [0, 0xF0, 0xF1, 0xF2] [(ea, bs.length)] → selector ea ≠ 0xF0 →
    bs.length ≤ 8 → (coreHere s).entries = xs ++ e :: ys → mergesInto t b ea e ys → e.kind = .line m0 d0 →
    exec i s = .next (fired s (withLookup (modCore s s.cur.rid s.cur.core fun k =>
      { k with entries := xs ++ merged e m0 d0 ea bs :: ys }) .write [(ea, bs.length)]))) ∧
  (∀ i l r s ea bs b t, storeOf i l r s = some [(ea, bs)] → Ready i l r s → here s = some b →
    (coreHere s).task = some t → t.wt = false → allPass s [0, 0xF0, 0xF1, 0xF2] [(ea, bs.length)] → selector ea ≠ 0xF0 →
    bs.length ≤ 8 → mergesNowhere t b ea (coreHere s).entries →
    (entriesUsed (coreHere s) < 256 →
      exec i s = .next (fired s (withLookup (modCore { s with nextId := s.nextId + 1 } s.cur.rid s.cur.core fun k =>
        { k with entries := k.entries ++ [newEntry s t b (lineAddr ea)
          (.line (lineMask (ea.toNat % 64) bs.length) (lineData (ea.toNat % 64) bs))] }) .write [(ea, bs.length)]))) ∧
    (256 ≤ entriesUsed (coreHere s) →
      (immediateHeld s s.cur.rid s.cur.core = true → exec i s = .next s) ∧
      (immediateHeld s s.cur.rid s.cur.core = false →
        exec i s = .next (modCore (commitPart s) s.cur.rid s.cur.core fun k => { k with task := some { t with wt := true } })))) ∧
  (∀ i l r s ea bs b t, storeOf i l r s = some [(ea, bs)] → Ready i l r s → here s = some b →
    (coreHere s).task = some t → t.wt = true → allPass s [0, 0xF0, 0xF1, 0xF2] [(ea, bs.length)] → selector ea ≠ 0xF0 →
    lookupsBelow b s.cur.slot = false → firstCause s (actor s) .write [(ea, bs.length)] = none →
    writeHeld s (actor s) ea bs.length = false → drainingLine s (actor s) ea bs.length = false →
    loadMeets s (actor s) ea bs.length = false →
    served s (worldOf s.cur.rid) (homeOf s (actor s) ea) bs.length = true →
    exec i s = .next (fired s (bind (addAck (performWrite s (actor s) t.uid ea bs) (actor s) t.uid ea) s.cur.rid s.cur.core)))

/-- R107: what an ST of the running task stores it reads: after an ST outside the scratchpad, each byte of the access is the task's
own byte and is the byte stored, whatever the buffer held before; no byte of memory changes. -/
def Obligations.StoreIsSeen : Prop :=
  ∀ p y d l r s b t, Ready (.st p y d) l r s → here s = some b → (coreHere s).task = some t → t.wt = false →
    allPass s [0, 0xF0, 0xF1, 0xF2] [(addrPlus l d.toInt, widthOf y / 8)] → selector (addrPlus l d.toInt) ≠ 0xF0 →
    entriesUsed (coreHere s) < 256 →
    ∃ u, exec (.st p y d) s = .next u ∧
      ownBytes u s.cur.rid s.cur.core (addrPlus l d.toInt) (widthOf y / 8) =
        (List.range (widthOf y / 8)).map (fun j => some (r.extractLsb' (8 * j) 8)) ∧
      (∀ x, readKey u x = readKey s x) ∧
      (coreAt u s.cur.rid s.cur.core).g = (coreHere s).g ∧ (coreAt u s.cur.rid s.cur.core).csr = (coreHere s).csr

/-- R101: a lookup that finds every part allowed leaves only the list of lookups; one that finds a cause raises it at the slot of its
access with that part's address. The exception waits while an access of the block has performed in part (log entry 75). -/
def Sys2Proof.Claims.LookupAnswers : Prop :=
  ∀ s rid c b k l, runOf s rid c = some b → coreActs s rid c = true → b.lookups[k]? = some l →
    (firstCause s (whoTask s rid c) l.acc l.parts = none →
      exec (.leaseLookupResult rid c k) s = .next (modRun s rid c fun b => { b with lookups := dropAt b.lookups k })) ∧
    (∀ e a, firstCause s (whoTask s rid c) l.acc l.parts = some (e, a) →
      exec (.leaseLookupResult rid c k) s = .next (trapSlot s rid c e a (some l.slot)))

/-- R108, R118: CMT completes: the entries of its task go to the drain in order under one commit number, no other entry does, and
the block is bound. R121: an acquire fence completes once every load before it has delivered. R120, R121, R133: a release fence and an
SC fence first commit, then complete once every write of the task has performed and is acknowledged: under system scope by its target,
below it also by the link that takes it; an SC fence waits for the loads before it too. -/
def Sys2Proof.Claims.CommitAndFences : Prop :=
  (∀ p l r s t, Ready (.cmt p) l r s → immediateHeld s s.cur.rid s.cur.core = false → (coreHere s).task = some t →
    exec (.cmt p) s = .next (fired s (bind (modCore { s with nextId := s.nextId + 1 } s.cur.rid s.cur.core fun k =>
      { k with drain := k.drain ++ ((k.entries.filter fun e => e.task == t.uid).map fun e => { entry := e, rcd := t.rcd, commit := s.nextId }),
               entries := k.entries.filter fun e => e.task != t.uid }) s.cur.rid s.cur.core))) ∧
  (∀ p e l r s, Ready (.fenceAcq p e) l r s → loadsDelivered s = true → exec (.fenceAcq p e) s = .next (fired s s)) ∧
  (∀ p e l r s, Ready (.fenceRel p e) l r s → immediateHeld s s.cur.rid s.cur.core = false →
    (partDone s = false → exec (.fenceRel p e) s = .next (commitPart s)) ∧
    (partDone s = true → releaseDone s (e == 4) = true → exec (.fenceRel p e) s = .next (fired s s))) ∧
  (∀ p e l r s, Ready (.fenceSc p e) l r s → immediateHeld s s.cur.rid s.cur.core = false →
    (partDone s = false → exec (.fenceSc p e) s = .next (commitPart s)) ∧
    (partDone s = true → releaseDone s (e == 4) = true → loadsDelivered s = true → exec (.fenceSc p e) s = .next (fired s s)))

/-- R119: SEAL commits first; once every write of its task is acknowledged at system scope it completes: it writes 8 bytes at memory,
and no other byte, and the version counter of a granule of global memory goes up. -/
def Sys2Proof.Claims.SealWrites : Prop :=
  ∀ p l r s, Memory.wf s = true → quiet s s.cur.rid → Ready (.seal p) l r s → immediateHeld s s.cur.rid s.cur.core = false →
    (partDone s = false → translate s (actor s) l 8 8 .write [0, 0xF1, 0xF2] = .ok () →
      watched s s.cur.rid s.cur.core l 8 .write = false → exec (.seal p) s = .next (commitPart s)) ∧
    (partDone s = true → releaseDone s true = true → writeHeld s (actor s) l 8 = false →
      drainingLine s (actor s) l 8 = false → loadMeets s (actor s) l 8 = false →
      served s (worldOf s.cur.rid) (homeOf s (actor s) l) 8 = true →
      ∃ u, exec (.seal p) s = .next u ∧ readNat u (homeOf s (actor s) l).key 8 = r.toNat ∧
        (∀ x, x < (homeOf s (actor s) l).key ∨ (homeOf s (actor s) l).key + 8 ≤ x → readKey u x = readKey s x) ∧
        (∀ t x, homeOf s (actor s) l = .glob t x → x % 8 = 0 →
          tget 0 u.versions (versionKey t (x / 0x200000)) = tget 0 s.versions (versionKey t (x / 0x200000)) + 1))


namespace Sys2Proof.Claims

/-! ### The probe, atomics, reductions and cells -/

/-- The word an atomic of n bytes leaves, from the old word and the operand, by code (R122). -/
def atomicResult (code n old v : Nat) : Nat :=
  let m := 2 ^ (8 * n)
  let x := v % m
  let signed := fun (u : Nat) => if u < m / 2 then (u : Int) else (u : Int) - m
  match code with
  | 0 => (old + x) % m
  | 1 => old &&& x
  | 2 => old ||| x
  | 3 => old ^^^ x
  | 4 => x
  | 5 => if signed old < signed x then old else x
  | 6 => if signed old < signed x then x else old
  | 7 => if old < x then old else x
  | 8 => if old < x then x else old
  | _ => 0

/-- Nothing holds or refuses an atomic of n bytes at an address now (R53, R97, R98, R101, R103, R108, R302, R350). -/
def atomicFree (s : State) (a : W64) (n : Nat) : Prop :=
  translate s (actor s) a n n .atomic [0, 0xF0, 0xF1, 0xF2] = .ok () ∧ watched s s.cur.rid s.cur.core a n .atomic = false ∧
  ownHolds s s.cur.rid s.cur.core a n = false ∧ writeHeld s (actor s) a n = false ∧
  drainingLine s (actor s) a n = false ∧ loadMeets s (actor s) a n = false ∧
  readError s (worldOf s.cur.rid) (homeOf s (actor s) a) n = none

/-- The key of the first byte of an access of the cursor's task. -/
def place (s : State) (a : W64) : Nat := (homeOf s (actor s) a).key

/-- The word of n bytes at memory. -/
def wordAt (s : State) (a : W64) (n : Nat) : Nat := readNat s (place s a) n

/-- In u the n bytes at an address hold v, and every other byte of memory is as in s. -/
def onlyWrites (s u : State) (a : W64) (n v : Nat) : Prop :=
  readNat u (place s a) n = v % 256 ^ n ∧ ∀ x, x < place s a ∨ place s a + n ≤ x → readKey u x = readKey s x

/-- The bytes of the word an atomic with width bit w names (R122). -/
def wordBytes (w : BitVec 1) : Nat := if w = 1 then 8 else 4

/-- The cell that a space-0xF4 address of the cursor's rectangle names (R125). -/
def cellNow (s : State) (a : W64) : BitVec 256 := tget 0 (ldieAt s s.cur.rid (addrDie a)).cells (addrOff a / 32)

end Sys2Proof.Claims

/-- R129: bits 0 to 2 of an LPROBE say whether its address names a space with its zero bits clear, whether a load and whether a
store of a byte would be allowed; in space 0x00 bit 3 says that a region of the task covers the byte, bits 5:4 are the tier, bit 6
says that the extent migrates, bit 7 that it is pinned, and bits 63:32 are its granule's version counter; it never traps. -/
def Obligations.ProbeWord : Prop :=
  ∀ p t l r s, Ready (.lprobe p t) l r s → ∃ v : W64, exec (.lprobe p t) s = .next (answer (.lprobe p t) (some v) s s) ∧
    v.getLsbD 0 = (isSpace (selector l) && zeroBitsOk l) ∧
    (v.getLsbD 1 = true ↔ translate s (actor s) l 1 1 .read [0, 0xF0, 0xF1, 0xF2, 0xF5] = .ok ()) ∧
    (v.getLsbD 2 = true ↔ translate s (actor s) l 1 1 .write [0, 0xF0, 0xF1, 0xF2] = .ok ()) ∧
    (selector l ≠ 0 → v.toNat < 8) ∧
    (∀ n e, selector l = 0 → extentAt s (worldOf s.cur.rid) (l.toNat % 2 ^ 56) = some (n, e) →
      (v.getLsbD 3 = true ↔ ∃ t, (coreHere s).task = some t ∧ ∃ g ∈ taskRegions s s.cur.rid t.rcd,
        g.base ≤ l.toNat % 2 ^ 56 ∧ l.toNat % 2 ^ 56 < g.base + g.len) ∧
      v.toNat / 16 % 4 = e.tier % 4 ∧ v.getLsbD 6 = e.mig.isSome ∧ (v.getLsbD 7 = true ↔ e.pins ≠ 0) ∧
      v.toNat / 256 % 2 ^ 24 = 0 ∧ v.toNat / 2 ^ 32 = (versionAt s (worldOf s.cur.rid) (l.toNat % 2 ^ 56)).toNat)

/-- R106, R122: an AMO that nothing holds delivers the old word, zero-extended, and leaves the word its row gives; it binds the
block, and no other byte of memory changes. What holds it is a held store to its own bytes; one of its task to other bytes of its line,
even of its 8-byte unit, does not, which is the model's choice beside R132 and F1 of R143 (DESIGN CHOICE, log 97). -/
def Sys2Proof.Claims.AmoResults : Prop :=
  ∀ p o w t l r s, Memory.wf s = true → quiet s s.cur.rid → Ready (.amo p o w t) l r s → immediateHeld s s.cur.rid s.cur.core = false →
    atomicFree s l (wordBytes w) →
    ∃ u, exec (.amo p o w t) s = .next (answer (.amo p o w t) (some (BitVec.ofNat 64 (wordAt s l (wordBytes w)))) s u) ∧
      onlyWrites s u l (wordBytes w) (atomicResult o.toNat (wordBytes w) (wordAt s l (wordBytes w)) r.toNat) ∧
      ∀ b, runOf u s.cur.rid s.cur.core = some b → b.bound = true

/-- R123: a CAS that nothing holds delivers the old word; it writes its new word where the old word equals the expected one, and
nothing elsewhere. A store of its task to other bytes of its line that the buffer holds does not hold it (DESIGN CHOICE, log 97). The narrow form takes both from its operand; the wide form reads the pair from the scratchpad. -/
def Sys2Proof.Claims.CasResults : Prop :=
  (∀ p t l r s, Memory.wf s = true → quiet s s.cur.rid → Ready (.cas p 0 t) l r s → immediateHeld s s.cur.rid s.cur.core = false → atomicFree s l 4 →
    ∃ u, exec (.cas p 0 t) s = .next (answer (.cas p 0 t) (some (BitVec.ofNat 64 (wordAt s l 4))) s u) ∧
      onlyWrites s u l 4 (if wordAt s l 4 = r.toNat / 2 ^ 32 then r.toNat % 2 ^ 32 else wordAt s l 4)) ∧
  (∀ p t l r s, Memory.wf s = true → quiet s s.cur.rid → Ready (.cas p 1 t) l r s → immediateHeld s s.cur.rid s.cur.core = false → atomicFree s l 8 →
    checkLocal s (actor s) r 16 16 [0xF0] = .ok () → readError s (worldOf s.cur.rid) (homeOf s (actor s) r) 16 = none →
    ∃ u, exec (.cas p 1 t) s = .next (answer (.cas p 1 t) (some (BitVec.ofNat 64 (wordAt s l 8))) s u) ∧
      onlyWrites s u l 8 (if wordAt s l 8 = wordAt s r 16 % 2 ^ 64 then wordAt s r 16 / 2 ^ 64 else wordAt s l 8))

/-- R105, R124: a RED in the scratchpad that nothing holds performs at once; elsewhere, before an overflow, it takes one entry of the
commit buffer and no byte of memory changes. -/
def Sys2Proof.Claims.RedResults : Prop :=
  (∀ p o w l r s b, Memory.wf s = true → Ready (.red p o w) l r s → here s = some b → lookupsBelow b s.cur.slot = false →
    selector l = 0xF0 → checkLocal s (actor s) l (wordBytes w) (wordBytes w) [0, 0xF0, 0xF1, 0xF2] = .ok () → atomicFree s l (wordBytes w) →
    ∃ u, exec (.red p o w) s = .next (fired s u) ∧
      onlyWrites s u l (wordBytes w) (atomicResult o.toNat (wordBytes w) (wordAt s l (wordBytes w)) r.toNat)) ∧
  (∀ p o w l r s b t, Ready (.red p o w) l r s → here s = some b → (coreHere s).task = some t → t.wt = false →
    selector l ≠ 0xF0 → checkLocal s (actor s) l (wordBytes w) (wordBytes w) [0, 0xF0, 0xF1, 0xF2] = .ok () →
    entriesUsed (coreHere s) < 256 →
    exec (.red p o w) s = .next (fired s (withLookup (modCore { s with nextId := s.nextId + 1 } s.cur.rid s.cur.core fun k =>
      { k with entries := k.entries ++ [newEntry s t b l (.red o (w == 1) r)] }) .atomic [(l, wordBytes w)])))

/-- R105, R126 to R128: REDF and CELLINIT of a cell in range take one entry of the commit buffer; CELLRD delivers the canonical NaN of a
cell with INVALID set, and else the cell's value W × 2^L rounded once to FP32, to nearest even; a cell whose data is bad raises
0x081 or 0x082 (R98). -/
def Sys2Proof.Claims.CellResults : Prop :=
  (∀ p y l r s b t, Ready (.redf p y) l r s → here s = some b → (coreHere s).task = some t → t.wt = false →
    checkLocal s (actor s) l 32 32 [0xF4] = .ok () → entriesUsed (coreHere s) < 256 →
    exec (.redf p y) s = .next (fired s (modCore { s with nextId := s.nextId + 1 } s.cur.rid s.cur.core fun k =>
      { k with entries := k.entries ++ [newEntry s t b l (.redf (y == 9#4) r)] }))) ∧
  (∀ p l r s b t, Ready (.cellinit p) l r s → here s = some b → (coreHere s).task = some t → t.wt = false →
    checkLocal s (actor s) l 32 32 [0xF4] = .ok () → -160 ≤ r.toInt → r.toInt ≤ 127 → entriesUsed (coreHere s) < 256 →
    exec (.cellinit p) s = .next (fired s (modCore { s with nextId := s.nextId + 1 } s.cur.rid s.cur.core fun k =>
      { k with entries := k.entries ++ [newEntry s t b l (.cellinit r)] }))) ∧
  (∀ p t l r s e, Ready (.cellrd p t) l r s → checkLocal s (actor s) l 32 32 [0xF4] = .ok () →
    dataError s (cellKey s.cur.rid (addrDie l) (addrOff l / 32)) 1 = some e → exec (.cellrd p t) s = .next (raises s e l)) ∧
  (∀ p t l r s, Ready (.cellrd p t) l r s → checkLocal s (actor s) l 32 32 [0xF4] = .ok () →
    dataError s (cellKey s.cur.rid (addrDie l) (addrOff l / 32)) 1 = none →
    ((cellNow s l).getLsbD 209 = true →
      exec (.cellrd p t) s = .next (answer (.cellrd p t) (some 0x7FC00000) s
        (noteRead (raise s {}) (actor s) (actorUid s) l))) ∧
    ((cellNow s l).getLsbD 209 = false →
      ∃ v f, encodeVal fp32 .rne (.num (decide (((cellNow s l).extractLsb' 0 192).toInt < 0))
          ((cellNow s l).extractLsb' 0 192).toInt.natAbs ((cellNow s l).extractLsb' 192 16).toInt false) = (v, f) ∧
        exec (.cellrd p t) s = .next (answer (.cellrd p t) (some (BitVec.ofNat 64 v)) s
          (noteRead (raise s f) (actor s) (actorUid s) l))))

/-- R125, R126, R127: a drained CELLINIT leaves the cell with W = 0, its L and no flag. A drained REDF keeps L. A NaN or an infinity
sets INVALID and nothing else; a finite value x adds the floor of x to the grid 2^L to W, modulo 2^192: INEXACT is then set where x does
not lie on the grid, RANGE where its magnitude is at least 2^(L + 190), and a flag that was set stays. A cell whose data is bad or
poisoned takes no REDF (R98). -/
def Sys2Proof.Claims.CellDrains : Prop :=
  ∀ s rid c d ds, coreUnit s rid c = true → (coreAt s rid c).replay = [] → (coreAt s rid c).drain = d :: ds →
    entryBehind s rid c [] d = false → selector d.entry.addr = 0xF4 → targetRuns s (whoEntry rid c d) d.entry.addr = true →
    loadMeets s (whoEntry rid c d) d.entry.addr 32 = false →
    (∀ x, d.entry.kind = .cellinit x → -160 ≤ x.toInt → x.toInt ≤ 127 →
      ∃ u, exec (.drainEntryPerform rid c 0) s = .next u ∧
        ((cellAtAddr u rid d.entry.addr).extractLsb' 0 192).toInt = 0 ∧
        ((cellAtAddr u rid d.entry.addr).extractLsb' 192 16).toInt = x.toInt ∧
        (cellAtAddr u rid d.entry.addr).extractLsb' 208 3 = 0) ∧
    (∀ half v, d.entry.kind = .redf half v →
      dataError s (cellKey rid (addrDie d.entry.addr) (addrOff d.entry.addr / 32)) 1 = none →
      let old := cellAtAddr s rid d.entry.addr
      let lsb := (old.extractLsb' 192 16).toInt
      ∃ u, exec (.drainEntryPerform rid c 0) s = .next u ∧
        ((cellAtAddr u rid d.entry.addr).extractLsb' 192 16) = old.extractLsb' 192 16 ∧
        ((contribution half v = .nan ∨ ∃ n, contribution half v = .inf n) →
          (cellAtAddr u rid d.entry.addr).extractLsb' 0 192 = old.extractLsb' 0 192 ∧
          (cellAtAddr u rid d.entry.addr).extractLsb' 208 3 = old.extractLsb' 208 3 ||| 2) ∧
        (∀ n m e x, contribution half v = .num n m e x →
          let num : Int := (if n then -1 else 1) * (m * 2 ^ (e - lsb).toNat : Nat)
          let den : Nat := 2 ^ (lsb - e).toNat
          (cellAtAddr u rid d.entry.addr).extractLsb' 0 192 = old.extractLsb' 0 192 + BitVec.ofInt 192 (num.fdiv den) ∧
          ((cellAtAddr u rid d.entry.addr).getLsbD 208 = true ↔ old.getLsbD 208 = true ∨ ¬ (den : Int) ∣ num) ∧
          (cellAtAddr u rid d.entry.addr).getLsbD 209 = old.getLsbD 209 ∧
          ((cellAtAddr u rid d.entry.addr).getLsbD 210 = true ↔ old.getLsbD 210 = true ∨ 2 ^ 190 * den ≤ num.natAbs))) ∧
    (∀ half v, d.entry.kind = .redf half v →
      dataError s (cellKey rid (addrDie d.entry.addr) (addrOff d.entry.addr / 32)) 1 ≠ none →
      ∃ u, exec (.drainEntryPerform rid c 0) s = .next u ∧ cellAtAddr u rid d.entry.addr = cellAtAddr s rid d.entry.addr)

/-- R108, R132, R133: the oldest entry of a drain with no replay queue, before which no older entry of its task to its line drains on
another core, and which no window, retained range or stopped clock and no load of its task on its 8-byte units that has not returned (R107, R132) holds, performs
at memory: a line writes the bytes its mask names and no
other, a reduction the word its row gives; the entry leaves the drain and its write waits to be acknowledged. -/
def Sys2Proof.Claims.DrainPerforms : Prop :=
  ∀ s rid c d ds, Memory.wf s = true → quiet s rid → coreUnit s rid c = true → (coreAt s rid c).replay = [] → (coreAt s rid c).drain = d :: ds →
    entryBehind s rid c [] d = false →
    let who := whoEntry rid c d
    let key := (homeOf s who d.entry.addr).key
    (∀ m x, d.entry.kind = .line m x → writeHeld s who d.entry.addr 64 = false → loadMeets s (whoEntry rid c d) d.entry.addr 64 = false →
      served s (worldOf rid) (homeOf s who d.entry.addr) 64 = true →
      ∃ u, exec (.drainEntryPerform rid c 0) s = .next u ∧
        (∀ j, j < 64 → readKey u (key + j) = if m.getLsbD j then x.extractLsb' (8 * j) 8 else readKey s (key + j)) ∧
        (∀ y, y < key ∨ key + 64 ≤ y → readKey u y = readKey s y) ∧
        (∃ w ∈ (coreAt u rid c).acks, w.id = d.entry.id ∧ w.task = d.entry.task)) ∧
    (∀ o wide v, d.entry.kind = .red o wide v → writeHeld s who d.entry.addr (if wide then 8 else 4) = false →
      loadMeets s (whoEntry rid c d) d.entry.addr (if wide then 8 else 4) = false →
      readError s (worldOf rid) (homeOf s who d.entry.addr) (if wide then 8 else 4) = none → o.toNat ≤ 8 →
      ∃ u, exec (.drainEntryPerform rid c 0) s = .next u ∧
        readNat u key (if wide then 8 else 4) =
          atomicResult o.toNat (if wide then 8 else 4) (readNat s key (if wide then 8 else 4)) v.toNat ∧
        (∀ y, y < key ∨ key + (if wide then 8 else 4) ≤ y → readKey u y = readKey s y))

/-- R121, R133, R280: the acknowledgement of a write takes it from every fence record that counts it and from every command that waits
for it, on every core of its rectangle. The link acknowledges a write to host memory first, which stays on its core's list as placed;
the acknowledgement of its target takes any write from that list. Nothing else of a core changes and no byte of memory. That fence
records and XSEM commands go by the first of the two is log entry 78 (DEDUCED). While the clock of the core's die stands still nothing
changes (R350, log entry 63). -/
def Sys2Proof.Claims.AcknowledgementReleases : Prop :=
  (∀ s rid c k, clockRuns s (coreDie (rectAt s rid) c) = false → exec (.writeAck rid c k) s = .next s) ∧
  ∀ s rid c k w, clockRuns s (coreDie (rectAt s rid) c) = true → (coreAt s rid c).acks[k]? = some w →
    ∃ u, exec (.writeAck rid c k) s = .next u ∧
      (∀ q, coreAt u rid q = { coreAt s rid q with
        acks := if q = c then (if w.host = true ∧ w.placed = false then modAt (coreAt s rid c).acks k fun x => { x with placed := true }
          else (coreAt s rid c).acks.filter fun x => x.id ≠ w.id) else (coreAt s rid q).acks,
        fences := (coreAt s rid q).fences.map (fun f => (f.1, { f.2 with waits := f.2.waits.filter fun x => x.2 ≠ w.id })),
        xdieq := (coreAt s rid q).xdieq.map (fun x => { x with waits := x.waits.filter fun y => y ≠ w.id }) }) ∧
      (∀ q d, q ≠ rid → coreAt u q d = coreAt s q d) ∧ (∀ x, readKey u x = readKey s x)


namespace Sys2Proof.Claims

/-! ### Tasks, queues and semaphores -/

/-- The task that the cursor's core runs is `t` in block `b`, and `rcd` is the record at address `a`, which passes its check
(R148, R151). -/
def spawning (s : State) (a : W64) (b : BlockRun) (t : Task) (rcd : BitVec 512) : Prop :=
  here s = some b ∧ (coreHere s).task = some t ∧ readRecord s a = .ok rcd ∧ checkRecord s s.cur.rid rcd = none

/-- The input queue of a record's stage, by number (R145). -/
def queueFor (s : State) (rcd : BitVec 512) : Nat := (stageAt s s.cur.rid (recStage rcd)).queue

/-- A queue that took a record of a task, using up one of its reservations (R163). -/
def withRecord (q : Queue) (uid : Nat) (rcd : BitVec 512) : Queue :=
  { q with recs := q.recs ++ [rcd], resv := if 0 < reservedBy q uid then useResv q.resv uid else q.resv }

/-- A semaphore address that passes its check, by die and index (R164). -/
def semFree (s : State) (a : W64) : Prop :=
  checkLocal s (actor s) a 4 4 [0xF3] = .ok () ∧ immediateHeld s s.cur.rid s.cur.core = false

/-- In u the semaphore an address of s names holds v and every other semaphore is as in s. -/
def onlySem (s u : State) (a : W64) (v : BitVec 32) : Prop :=
  semAt u s.cur.rid (addrDie a) (addrSem a) = v ∧
  ∀ rid d i, (rid, d, i) ≠ (s.cur.rid, addrDie a, addrSem a) → semAt u rid d i = semAt s rid d i

end Sys2Proof.Claims

/-- R152, R154: SPAWN by an unordered task pushes its record and delivers 0 where the queue has room and nothing is spilled; else it
runs an unordered record inline and delivers 1 where DEPTH is below DEPTHMAX and the block has no inline child; else it spills the
record and delivers 2, or, where the channel refuses that write (R98, R333), raises 0x080 and queues nothing, which is the model's choice
(log 122). An ordered task that has not overflowed defers its record in the commit buffer and delivers 3. The read of the
record is a load of the task (R136), after those of its bytes (R111), and an immediate SPAWN or DQPUSH waits for what its task has
committed to the record's line (R108). A push waits for the clock of its queue and for what holds a write to its spill area (R103, R350,
log entry 63). That a queue is sampled as it changes is the model's reading of the samples that R306 takes every 2^PERIOD cycles (log
entry 84, DEDUCED). -/
def Sys2Proof.Claims.SpawnResults : Prop :=
  ∀ p x l r s b t rcd, Ready (.spawn p x) l r s → spawning s l b t rcd →
    let q := queueAt s s.cur.rid (queueFor s rcd)
    let s' := noteRecord s l
    (recOrdered t.rcd = false → immediateHeld s s.cur.rid s.cur.core = false → recordDrains s l = false →
      pushWaits s s.cur.rid (queueFor s rcd) t.uid = false → q.spill = [] → roomFor q t.uid = true →
      exec (.spawn p x) s = .next (answer (.spawn p x) (some 0) s
        (bind (modQueue (noteOccupancy s' s.cur.rid (queueFor s rcd)) s.cur.rid (queueFor s rcd) fun q => withRecord q t.uid rcd)
          s.cur.rid s.cur.core))) ∧
    (recOrdered t.rcd = false → immediateHeld s s.cur.rid s.cur.core = false → recordDrains s l = false → q.spill = [] → roomFor q t.uid = false →
      recOrdered rcd = false → (coreHere s).csr.depth < (coreHere s).csr.depthmax → b.inl = none →
      exec (.spawn p x) s = .next (answer (.spawn p x) (some 1) s (modHere s' fun b => { b with inl := some rcd, bound := true }))) ∧
    (recOrdered t.rcd = false → immediateHeld s s.cur.rid s.cur.core = false → recordDrains s l = false →
      pushWaits s s.cur.rid (queueFor s rcd) t.uid = false → q.spill.length < 8 * q.cap →
      (q.spill ≠ [] ∨ roomFor q t.uid = false ∧
        (recOrdered rcd = true ∨ (coreHere s).csr.depthmax ≤ (coreHere s).csr.depth ∨ b.inl ≠ none)) →
      (∀ y, spillPut s' (worldOf s.cur.rid) q rcd = some y →
        exec (.spawn p x) s = .next (answer (.spawn p x) (some 2) s
          (bind (modQueue (noteOccupancy y s.cur.rid (queueFor s rcd)) s.cur.rid (queueFor s rcd)
            fun q => { q with spill := q.spill ++ [rcd], spilled := q.spilled + 1 }) s.cur.rid s.cur.core))) ∧
      (spillPut s' (worldOf s.cur.rid) q rcd = none →
        exec (.spawn p x) s = .next (raises s 0x080 (BitVec.ofNat 64 (spillAddr q q.spilled))))) ∧
    (recOrdered t.rcd = true → t.wt = false → (recOrdered rcd = true → recTs t.rcd ≤ recTs rcd) →
      entriesUsed (coreHere s) < 256 →
      exec (.spawn p x) s = .next (answer (.spawn p x) (some 3) s
        (modCore { s' with nextId := s.nextId + 1 } s.cur.rid s.cur.core fun k =>
          { k with entries := k.entries ++ [newEntry s t b 0 (.spawn rcd)] })))

/-- R155: DQPUSH of a record of the core's own stage puts it at the bottom of a deque of fewer than 32 records and delivers 1, and
delivers 0 for a full deque; DQPOP in the scratchpad writes the record at the bottom at its address and delivers 1, and delivers 0
for an empty deque. -/
def Sys2Proof.Claims.DequeResults : Prop :=
  (∀ p x l r s b t rcd, Ready (.dqpush p x) l r s → spawning s l b t rcd → immediateHeld s s.cur.rid s.cur.core = false →
    recordDrains s l = false →
    (coreHere s).stage = some (recStage rcd) →
    ((coreHere s).deque.length < 32 → exec (.dqpush p x) s = .next (answer (.dqpush p x) (some 1) s
      (bind (modCore s s.cur.rid s.cur.core fun k => { k with deque := k.deque ++ [rcd] }) s.cur.rid s.cur.core))) ∧
    (32 ≤ (coreHere s).deque.length →
      exec (.dqpush p x) s = .next (answer (.dqpush p x) (some 0) s (bind s s.cur.rid s.cur.core)))) ∧
  (∀ p x l r s b t, Memory.wf s = true → Ready (.dqpop p x) l r s → here s = some b → (coreHere s).task = some t →
    immediateHeld s s.cur.rid s.cur.core = false → selector l = 0xF0 → checkLocal s (actor s) l 64 64 [0xF0, 0xF1] = .ok () →
    ((coreHere s).deque = [] → exec (.dqpop p x) s = .next (answer (.dqpop p x) (some 0) s (bind s s.cur.rid s.cur.core))) ∧
    (∀ rs rcd, (coreHere s).deque = rs ++ [rcd] →
      ∃ u, exec (.dqpop p x) s = .next (answer (.dqpop p x) (some 1) s u) ∧ onlyWrites s u l 64 rcd.toNat ∧
        (coreAt u s.cur.rid s.cur.core).deque = rs))

/-- R162, R163: QLEN delivers the entries held and reserved in its low half and the spill count in its high half; QRSV of 1 to 64
entries reserves them and delivers 1 where they fit, nothing is spilled and its task holds no more than 64, and else delivers 0. -/
def Sys2Proof.Claims.QueueReservations : Prop :=
  (∀ p k q x l r s n, Ready (.qlen p k q x) l r s → namedQueue s k q false = .ok n →
    exec (.qlen p k q x) s = .next (answer (.qlen p k q x) (some (BitVec.ofNat 64
      ((held (queueAt s s.cur.rid n) + reserved (queueAt s s.cur.rid n)) % 2 ^ 32 +
        2 ^ 32 * (queueAt s s.cur.rid n).spill.length))) s s)) ∧
  (∀ p k q x l r s n, Ready (.qrsv p k q x) l r s → namedQueue s k q true = .ok n → immediateHeld s s.cur.rid s.cur.core = false →
    queueRuns s s.cur.rid n = true → 1 ≤ l.toNat → l.toNat ≤ 64 →
    let y := queueAt s s.cur.rid n
    let fits := held y + reserved y + l.toNat ≤ y.cap ∧ y.spill = [] ∧
      ((rectAt s s.cur.rid).queues.map fun e => reservedBy e.2 (actorUid s)).sum + l.toNat ≤ 64
    (fits → exec (.qrsv p k q x) s = .next (answer (.qrsv p k q x) (some 1) s
      (bind (modQueue s s.cur.rid n fun z => { z with resv := z.resv ++ [(actorUid s, l.toNat)] }) s.cur.rid s.cur.core))) ∧
    (¬fits → exec (.qrsv p k q x) s = .next (answer (.qrsv p k q x) (some 0) s (bind s s.cur.rid s.cur.core))))

/-- R164: SEMADD delivers the old value sign-extended and adds its operand, modulo 2^32; SEMSET stores the low half of its operand;
SEMRD delivers the value. No other semaphore changes. A change waits for the writes of its core that a window holds (R103, R143) and for
the clock of the semaphore's die (R350, log entry 63). -/
def Sys2Proof.Claims.SemaphoresChange : Prop :=
  (∀ p x l r s, Ready (.semadd p x) l r s → semFree s l → replayEmpty s s.cur.rid s.cur.core = true →
    semRuns s s.cur.rid (addrDie l) = true →
    ∃ u, exec (.semadd p x) s = .next (answer (.semadd p x)
        (some (BitVec.ofInt 64 (semAt s s.cur.rid (addrDie l) (addrSem l)).toInt)) s u) ∧
      onlySem s u l (semAt s s.cur.rid (addrDie l) (addrSem l) + r.extractLsb' 0 32)) ∧
  (∀ p l r s, Ready (.semset p) l r s → semFree s l → replayEmpty s s.cur.rid s.cur.core = true →
    semRuns s s.cur.rid (addrDie l) = true →
    ∃ u, exec (.semset p) s = .next (fired s u) ∧ onlySem s u l (r.extractLsb' 0 32)) ∧
  (∀ p x l r s, Ready (.semrd p x) l r s → semFree s l →
    exec (.semrd p x) s = .next (answer (.semrd p x)
      (some (BitVec.ofInt 64 (semAt s s.cur.rid (addrDie l) (addrSem l)).toInt)) s (bind s s.cur.rid s.cur.core)))

/-- R90: after a SEMSET every continuation registered with that semaphore whose threshold its new value reaches, compared as signed,
is satisfied, and no satisfied continuation is lost. -/
def Sys2Proof.Claims.SemaphoreSatisfies : Prop :=
  ∀ p l r s, Ready (.semset p) l r s → semFree s l → replayEmpty s s.cur.rid s.cur.core = true →
    semRuns s s.cur.rid (addrDie l) = true →
    ∃ u, exec (.semset p) s = .next u ∧
      (∀ k ∈ (ldieAt u s.cur.rid (addrDie l)).conts, k.idx = addrSem l → k.thresh.toInt ≤ (r.extractLsb' 0 32).toInt → k.satisfied = true) ∧
      (∀ k ∈ (ldieAt s s.cur.rid (addrDie l)).conts, k.satisfied = true →
        ∃ q ∈ (ldieAt u s.cur.rid (addrDie l)).conts, q.core = k.core ∧ q.slot = k.slot ∧ q.idx = k.idx ∧ q.satisfied = true)

/-- R42: a push that its block has delivered, that no lower push, lookup or fence of the block holds and whose task is safe goes to
the tail of its queue when the queue has room and its clock runs (R350), and binds the block. -/
def Sys2Proof.Claims.PushesPerform : Prop :=
  ∀ s rid c k b slot port v pb, runOf s rid c = some b → coreActs s rid c = true →
    b.pushes[k]? = some { slot := slot, port := port, st := .ready v } →
    (∀ q ∈ b.pushes, q.port = port → q.slot < slot → q.st = .past) → (∀ q ∈ b.lookups, slot ≤ q.slot) →
    fencePending b slot = false → taskSafe s rid c = true → portBind s rid c port = some pb → pb.pop = false →
    queueRuns s rid pb.queue = true → roomFor (queueAt s rid pb.queue) (coreUid s rid c) = true →
    ∃ u, exec (.portPushPerform rid c k) s = .next u ∧
      (queueAt u rid pb.queue).vals = (queueAt s rid pb.queue).vals ++ [v] ∧
      (∀ n, n ≠ pb.queue → queueAt u rid n = queueAt s rid n) ∧
      runOf u rid c = some { b with bound := true, pushes := modAt b.pushes k fun _ => ⟨slot, port, .past⟩ } ∧
      (∀ x, readKey u x = readKey s x)

/-- R89, R108, R158: a finished safe ordered record, the first of its TS to finish, hands its entries to the drain of the core that ended
it, under one commit number; once none of the entries of its task is left to perform on any core it leaves the domain. The clocks of the
arbiter and of that core run (R350, log 63). -/
def Sys2Proof.Claims.OrderedCommits : Prop :=
  ∀ s rid uid o, (rectAt s rid).dom.out.find? (fun o => o.uid == uid) = some o → o.finished = true →
    (∀ p ∈ (rectAt s rid).dom.out, o.ts ≤ p.ts) →
    (∀ p ∈ (rectAt s rid).dom.out, p.finished = true → p.ts = o.ts → o.order ≤ p.order) →
    arbiterRuns s rid = true → clockRuns s (coreDie (rectAt s rid) o.core) = true →
    (o.committing = false → ∃ u, exec (.orderedCommit rid uid) s = .next u ∧
      (coreAt u rid o.core).drain = (coreAt s rid o.core).drain ++
        ((coreAt s rid o.core).entries.filter fun e => e.task = uid).map (fun e => { entry := e, rcd := o.rcd, commit := s.nextId }) ∧
      (coreAt u rid o.core).entries = (coreAt s rid o.core).entries.filter (fun e => e.task ≠ uid)) ∧
    (o.committing = true → taskDrains (rectAt s rid) uid = [] →
      ∃ u, exec (.orderedCommit rid uid) s = .next u ∧
        (rectAt u rid).dom.out = (rectAt s rid).dom.out.filter (fun p => p.uid ≠ uid) ∧
        (coreAt u rid o.core).fin = (coreAt s rid o.core).fin.filter (fun t => t.uid ≠ uid))

/-- R166 to R168: the balancer takes a sample of every stage, at most eight in an interval; the end of an interval of eight samples
clears them, cancels a move not yet made and chooses at most one core for a stage that has room for it and whose P is as high as any
stage's with room. The arbiter's clock runs (R350, log 63). -/
def Sys2Proof.Claims.BalancerChooses : Prop :=
  (∀ s rid, (rectAt s rid).live = true → arbiterRuns s rid = true → (rectAt s rid).bal.samples.length < 8 →
    exec (.balancerSample rid) s = .next (modRect s rid fun r =>
      { r with bal := { r.bal with samples := r.bal.samples ++ [r.stages.map fun g => occupancy r g.1] } })) ∧
  (∀ s rid, (rectAt s rid).live = true → arbiterRuns s rid = true → (rectAt s rid).bal.samples.length = 8 →
    ∃ u, exec (.balancerIntervalEnd rid) s = .next u ∧ (rectAt u rid).bal.samples = [] ∧
      (rectAt u rid).bal.move = balanceMove (rectAt s rid) ∧
      ∀ c, (coreAt u rid c).newStage = match balanceMove (rectAt s rid) with
        | some (d, st) => if c = d then some (some st) else none
        | none => none) ∧
  (∀ r c st, balanceMove r = some (c, st) →
    ∃ p, (st, p) ∈ pressures r ∧ (stageCores r (some st)).length < (tget {} r.stages st).max ∧
      ∀ q ∈ pressures r, (stageCores r (some q.1)).length < (tget {} r.stages q.1).max → q.2 ≤ p)

namespace Sys2Proof.Claims

/-! ### CSRs, time and monitors -/

/-- Bits of a CSR, lowest first. -/
def bitsToNat : List Bool → Nat
  | [] => 0
  | b :: l => b.toNat + 2 * bitsToNat l

/-- What each CSR reads as to a block that runs (R150, R173, R219, R292), FPFLAGS and CAUSE apart: HSTAT.DBG is 0 there, since the core is in
no debug halt (R302). -/
def csrReads (s : State) (n : Nat) : Option W64 :=
  let k := coreHere s
  let q := k.csr
  let t := k.task.getD {}
  if n = 0x001 then some (BitVec.ofNat 64 (recTs t.rcd))
  else if n = 0x002 then some (BitVec.ofNat 64 (recIdx t.rcd))
  else if n = 0x003 then some (BitVec.ofNat 64 (k.stage.getD 0))
  else if n = 0x004 then some (BitVec.ofNat 64 q.depth)
  else if n = 0x005 then some (BitVec.ofNat 64 q.depthmax)
  else if n = 0x006 then some (BitVec.ofNat 64 (bitsToNat [recOrdered t.rcd, recSpec t.rcd, taskSafe s s.cur.rid s.cur.core,
    decide (q.depth ≠ 0), t.wt] + 256 * min t.rerun 255))
  else if n = 0x007 then some (BitVec.ofNat 64 q.cdepth)
  else if 0x010 ≤ n ∧ n ≤ 0x012 then some ((tget 0 q.mrepl (n - 0x010)).setWidth 64)
  else if q.hmode = false then none
  else if n = 0x021 then some (BitVec.ofNat 64 q.cause2)
  else if n = 0x022 then some q.faddr
  else if n = 0x023 then some (BitVec.ofNat 64 q.fblk)
  else if n = 0x024 then some (BitVec.ofNat 64 q.fslot)
  else if n = 0x025 then some q.fiter
  else if n = 0x026 then some (BitVec.ofNat 64 (bitsToNat [q.hmode, q.cread, q.halted, false, q.tpend, q.bpskip]))
  else if n = 0x027 then some q.hvec
  else if 0x030 ≤ n ∧ n ≤ 0x033 then some (tget 0 q.bpa (n - 0x030))
  else if 0x034 ≤ n ∧ n ≤ 0x035 ∧ s.rev = .b0 then some (tget 0 q.wpa (n - 0x034))
  else none

/-- The numbers of the CSRs of a revision (R304). -/
def isCsr (rev : Rev) (n : Nat) : Bool :=
  n ≤ 7 || (0x010 ≤ n && n ≤ 0x012) || (0x020 ≤ n && n ≤ 0x027) || (0x030 ≤ n && n ≤ 0x033) ||
  (rev == .b0 && 0x034 ≤ n && n ≤ 0x035)

/-- What a CSRW leaves in the CSR, its reserved bits zero (R173, R219, R292). -/
def csrWritten (n : Nat) (v : W64) (q : Csrs) : Csrs :=
  if n = 0x000 then { q with fpflags := v &&& 0xFFFF003F }
  else if n = 0x027 then { q with hvec := v &&& 0x8000000000003FFF }
  else { q with mrepl := tset q.mrepl (n - 0x010) (v.extractLsb' 0 32) }

/-- The CSRs that can be written: FPFLAGS and MREPL in either mode, HVEC in handler mode (R304). -/
def isWritable (handler : Bool) (n : Nat) : Bool := n = 0 || (0x010 ≤ n && n ≤ 0x012) || (handler && n = 0x027)

end Sys2Proof.Claims

/-- R174, R304: CSRR delivers the CSR it names; FPFLAGS as it stood at block start; reading CAUSE sets CREAD. -/
def Sys2Proof.Claims.CsrReads : Prop :=
  ∀ p c x l r s b, Ready (.csrr p c x) l r s → here s = some b →
    (c = 0 → exec (.csrr p c x) s = .next (answer (.csrr p c x) (some b.fp0) s s)) ∧
    (c = 0x020 → (coreHere s).csr.hmode = true → exec (.csrr p c x) s = .next (answer (.csrr p c x)
      (some (BitVec.ofNat 64 (coreHere s).csr.cause)) s
      (modCore s s.cur.rid s.cur.core fun k => { k with csr := { k.csr with cread := true } }))) ∧
    (∀ v, csrReads s c.toNat = some v → exec (.csrr p c x) s = .next (answer (.csrr p c x) (some v) s s))

/-- R173, R219, R292, R304: CSRW in task mode is held with its block; in handler mode it writes at once, its reserved bits zero, and
binds the block. -/
def Sys2Proof.Claims.CsrWrites : Prop :=
  ∀ p c l r s, Ready (.csrw p c) l r s → isWritable (coreHere s).csr.hmode c.toNat = true →
    ((coreHere s).csr.hmode = false →
      exec (.csrw p c) s = .next (fired s (modHere s fun b => { b with csrw := tset b.csrw c.toNat l }))) ∧
    ((coreHere s).csr.hmode = true → immediateHeld s s.cur.rid s.cur.core = false →
      exec (.csrw p c) s = .next (fired s (bind (modCore s s.cur.rid s.cur.core fun k =>
        { k with csr := csrWritten c.toNat l k.csr }) s.cur.rid s.cur.core)))

/-- R304: a CSR the revision has not raises 0x141; one that the mode does not let read or write raises 0x142: the trap and debug CSRs
outside handler mode, and a write of a CSR that is read only. -/
def Sys2Proof.Claims.CsrFaults : Prop :=
  ∀ s l r,
    (∀ p c x, Ready (.csrr p c x) l r s → isCsr s.rev c.toNat = false → exec (.csrr p c x) s = .next (raises s 0x141 0)) ∧
    (∀ p c, Ready (.csrw p c) l r s → isCsr s.rev c.toNat = false → exec (.csrw p c) s = .next (raises s 0x141 0)) ∧
    (∀ p c x, Ready (.csrr p c x) l r s → isCsr s.rev c.toNat = true → 0x020 ≤ c.toNat → (coreHere s).csr.hmode = false →
      exec (.csrr p c x) s = .next (raises s 0x142 0)) ∧
    (∀ p c, Ready (.csrw p c) l r s → isCsr s.rev c.toNat = true → isWritable (coreHere s).csr.hmode c.toNat = false →
      exec (.csrw p c) s = .next (raises s 0x142 0))

/-- R305: TIME delivers the package nanoseconds or the cycle count of the core's die, each advanced by an amount that the spec does not
give (log 9); the count a task reads does not stand below the one it read last, on whichever die that was. -/
def Sys2Proof.Claims.TimeReads : Prop :=
  (∀ p x l r s, Ready (.time p 0 x) l r s → exec (.time p 0 x) s =
    .next (answer (.time p 0 x) (some (s.ns + BitVec.ofNat 64 (Config.elapsed s.free))) s
      { s with ns := s.ns + BitVec.ofNat 64 (Config.elapsed s.free), free := s.free + 1 })) ∧
  (∀ p x l r s, Ready (.time p 1 x) l r s → let d := coreDie (rectAt s s.cur.rid) s.cur.core
    let last := ((coreHere s).task.getD {}).cyc
    let from_ := if (dieAt s d).cyc.toNat < last.toNat then last else (dieAt s d).cyc
    let v := from_ + BitVec.ofNat 64 (Config.cycles s.free)
    (from_.toNat + Config.cycles s.free < 2 ^ 64 → last.toNat ≤ v.toNat) ∧
    ∃ u, exec (.time p 1 x) s = .next (answer (.time p 1 x) (some v) s u) ∧ (dieAt u d).cyc = v ∧ u.mem = s.mem ∧
      coreAt u s.cur.rid s.cur.core = { coreHere s with task := (coreHere s).task.map fun t => { t with cyc := v } })

/-- R306, R307: MONCFG of a monitor of the rectangle whose die's clock runs (R350, log 63), with a legal descriptor in the scratchpad, sets its source, selector, period and 15
edges and clears its counts; MONRD of item 0 delivers MAX and MIN, of item 1 COUNT, of items 2 to 9 two bins each, on B0 of item 10
SUM: of a monitor that is off or counts events as they stand, of another after the samples that came since it was last looked at, whose
number and values the spec leaves to the run (log 9). An access of HBM4E (SRC 5) and the other events are counted as they come, one
sample each (log 84, DEDUCED). -/
def Sys2Proof.Claims.MonitorResults : Prop :=
  (∀ p l r s n, Ready (.moncfg p) l r s → immediateHeld s s.cur.rid s.cur.core = false → monitorAt s s.cur.rid l = some n →
    checkLocal s (actor s) r 64 64 [0xF0] = .ok () → readError s (worldOf s.cur.rid) (homeOf s (actor s) r) 64 = none →
    badMonitor (readKeys s (place s r) 64) = false → clockRuns s (n / 32) = true →
    ∃ u, exec (.moncfg p) s = .next (fired s u) ∧
      (let m := tget {} u.monitors n
       m.src = (readKey s (place s r)).toNat ∧ m.sel = (readKey s (place s r + 1)).toNat ∧
       m.period = (readKey s (place s r + 2)).toNat ∧ m.count = 0 ∧ m.sum = 0 ∧ m.max = 0 ∧ m.min = 0xFFFFFFFF ∧
       (∀ j, j < 15 → m.edges[j]? = some (BitVec.ofNat 32 (readNat s (place s r + 4 * (j + 1)) 4))) ∧
       (∀ j : Nat, m.bins[j]?.getD 0 = 0)) ∧
      (∀ j, j ≠ n → tget {} u.monitors j = tget {} s.monitors j)) ∧
  (∀ p i x l r s n, Ready (.monrd p i x) l r s → monitorAt s s.cur.rid l = some n → (i.toNat ≤ 9 ∨ i = 10 ∧ s.rev = .b0) →
    let shows := fun (m : Monitor) => if i = 0 then m.max ++ m.min else if i = 1 then 0#32 ++ m.count else if i = 10 then m.sum
      else (m.bins[2 * i.toNat - 3]?.getD 0) ++ (m.bins[2 * i.toNat - 4]?.getD 0)
    ((tget {} s.monitors n).src ∉ [1, 6, 7] →
      exec (.monrd p i x) s = .next (answer (.monrd p i x) (some (shows (tget {} s.monitors n))) s s)) ∧
    (∃ m, exec (.monrd p i x) s = .next (answer (.monrd p i x) (some (shows m)) s (sampleMonitor s s.cur.rid n)) ∧
      tget {} (sampleMonitor s s.cur.rid n).monitors n = m ∧ m.src = (tget {} s.monitors n).src))


namespace Sys2Proof.Claims

/-! ### Vectors -/

/-- Vector register n of the cursor's core. -/
def vreg (s : State) (n : Nat) : Vec := tget 0 (coreHere s).v n

/-- Lane j of a register read as lanes of w bits (R181). -/
def laneOf (v : Vec) (j w : Nat) : Nat := v.toNat / 2 ^ (j * w) % 2 ^ w

/-- A lane of an integer type as its number. -/
def laneInt (y : BitVec 4) (x : Nat) : Int :=
  if 4 ≤ y.toNat ∧ y.toNat ≤ 7 ∧ 2 ^ (widthOf y - 1) ≤ x then (x : Int) - 2 ^ widthOf y else x

/-- An exact result rounded once to the lane's format in mode r, with the flags of the operation and of the rounding (R172, R185). -/
def rounded (y : BitVec 4) (r : BitVec 2) (x : Val × Fl) : Nat × Fl :=
  ((encodeVal (fmtOf y) (modeOf r) x.1).1, x.2.join (encodeVal (fmtOf y) (modeOf r) x.1).2)

/-- A lane as an exact value. -/
def exact (y : BitVec 4) (x : Nat) : Val := valueOf (fmtOf y) x

/-- The relation c of VCMP between lanes (R188). -/
def related (c : BitVec 2) (y : BitVec 4) (a b : Nat) : Prop :=
  if isFloat y then
    (if isNan (exact y a) || isNan (exact y b) then c = 1
     else (c = 0 ∧ eqVal (exact y a) (exact y b)) ∨ (c = 1 ∧ ¬eqVal (exact y a) (exact y b)) ∨ (c = 2 ∧ ltVal (exact y a) (exact y b)) ∨
       (c = 3 ∧ (ltVal (exact y a) (exact y b) ∨ eqVal (exact y a) (exact y b))))
  else (c = 0 ∧ laneInt y a = laneInt y b) ∨ (c = 1 ∧ laneInt y a ≠ laneInt y b) ∨ (c = 2 ∧ laneInt y a < laneInt y b) ∨
    (c = 3 ∧ laneInt y a ≤ laneInt y b)

/-- What a lane-by-lane instruction writes to a lane of width w, from the lanes of va, of vb and of the old vd, with the flags it
raises: destination, sources, width, and the lane's result (R183 to R189). Results of integer lanes stand modulo 2^w. -/
inductive LaneRule : Instr → (d a b : Nat) → (w : Nat) → (Nat → Nat → Nat → Nat × Fl → Prop) → Prop
  | vadd p d a b r y : LaneRule (.vadd p d a b r y) d.toNat a.toNat b.toNat (widthOf y)
      fun x z _ o => o = rounded y r (addVal (modeOf r) (exact y x) (exact y z))
  | vsub p d a b r y : LaneRule (.vsub p d a b r y) d.toNat a.toNat b.toNat (widthOf y)
      fun x z _ o => o = rounded y r (addVal (modeOf r) (exact y x) (exact y z).neg)
  | vmul p d a b r y : LaneRule (.vmul p d a b r y) d.toNat a.toNat b.toNat (widthOf y)
      fun x z _ o => o = rounded y r (mulVal (exact y x) (exact y z))
  | vdiv p d a b r y : LaneRule (.vdiv p d a b r y) d.toNat a.toNat b.toNat (widthOf y)
      fun x z _ o => o = rounded y r (divVal (exact y x) (exact y z))
  | vfma p d a b r y : LaneRule (.vfma p d a b r y) d.toNat a.toNat b.toNat (widthOf y)
      fun x z t o => o = rounded y r (let m := mulVal (exact y x) (exact y z); let q := addVal (modeOf r) m.1 (exact y t); (q.1, m.2.join q.2))
  | vfms p d a b r y : LaneRule (.vfms p d a b r y) d.toNat a.toNat b.toNat (widthOf y)
      fun x z t o => o = rounded y r (let m := mulVal (exact y x) (exact y z); let q := addVal (modeOf r) (exact y t) m.1.neg; (q.1, m.2.join q.2))
  | vsqrt p d a r y : LaneRule (.vsqrt p d a r y) d.toNat a.toNat a.toNat (widthOf y) fun x _ _ o => o = rounded y r (sqrtVal (exact y x))
  | vrcp p d a r y : LaneRule (.vrcp p d a r y) d.toNat a.toNat a.toNat (widthOf y)
      fun x _ _ o => o = rounded y r (divVal (.num false 1 0 false) (exact y x))
  | vrsq p d a r y : LaneRule (.vrsq p d a r y) d.toNat a.toNat a.toNat (widthOf y) fun x _ _ o => o = rounded y r (rsqVal (exact y x))
  | vexp2 p d a r y : LaneRule (.vexp2 p d a r y) d.toNat a.toNat a.toNat (widthOf y) fun x _ _ o => o = rounded y r (exp2Val (exact y x))
  | vlog2 p d a r y : LaneRule (.vlog2 p d a r y) d.toNat a.toNat a.toNat (widthOf y) fun x _ _ o => o = rounded y r (log2Val (exact y x))
  | vmin p d a b y : LaneRule (.vmin p d a b y) d.toNat a.toNat b.toNat (widthOf y)
      fun x z _ o => o.2 = {} ∧ if isFloat y then o.1 = minBits (fmtOf y) false x z else o.1 = if laneInt y x < laneInt y z then x else z
  | vmax p d a b y : LaneRule (.vmax p d a b y) d.toNat a.toNat b.toNat (widthOf y)
      fun x z _ o => o.2 = {} ∧ if isFloat y then o.1 = minBits (fmtOf y) true x z else o.1 = if laneInt y x < laneInt y z then z else x
  | vabs p d a y : LaneRule (.vabs p d a y) d.toNat a.toNat a.toNat (widthOf y)
      fun x _ _ o => o.2 = {} ∧ if isFloat y then o.1 = (if isNan (exact y x) then (fmtOf y).canon else x % 2 ^ (widthOf y - 1))
        else (o.1 : Int) = (laneInt y x).natAbs % 2 ^ widthOf y
  | vneg p d a y : LaneRule (.vneg p d a y) d.toNat a.toNat a.toNat (widthOf y)
      fun x _ _ o => o.2 = {} ∧ if isFloat y then o.1 = (if isNan (exact y x) then (fmtOf y).canon else (x + 2 ^ (widthOf y - 1)) % 2 ^ widthOf y)
        else (o.1 : Int) = (-laneInt y x) % 2 ^ widthOf y
  | vcmp p d a b c y : LaneRule (.vcmp p d a b c y) d.toNat a.toNat b.toNat (widthOf y)
      fun x z _ o => o.2 = {} ∧ (related c y x z → o.1 = 2 ^ widthOf y - 1) ∧ (¬related c y x z → o.1 = 0)
  | vsel p d a b y : LaneRule (.vsel p d a b y) d.toNat a.toNat b.toNat (widthOf y) fun x z t o => o = (if t = 0 then z else x, {})
  | vand p d a b y : LaneRule (.vand p d a b y) d.toNat a.toNat b.toNat (widthOf y) fun x z _ o => o = (x &&& z, {})
  | vor p d a b y : LaneRule (.vor p d a b y) d.toNat a.toNat b.toNat (widthOf y) fun x z _ o => o = (x ||| z, {})
  | vxor p d a b y : LaneRule (.vxor p d a b y) d.toNat a.toNat b.toNat (widthOf y) fun x z _ o => o = (x ^^^ z, {})
  | vnot p d a y : LaneRule (.vnot p d a y) d.toNat a.toNat a.toNat (widthOf y) fun x _ _ o => o = (2 ^ widthOf y - 1 - x, {})
  | vshl p d a b y : LaneRule (.vshl p d a b y) d.toNat a.toNat b.toNat (widthOf y)
      fun x z _ o => o = (x * 2 ^ (z % widthOf y) % 2 ^ widthOf y, {})
  | vshr p d a b y : LaneRule (.vshr p d a b y) d.toNat a.toNat b.toNat (widthOf y) fun x z _ o => o = (x / 2 ^ (z % widthOf y), {})
  | vsar p d a b y : LaneRule (.vsar p d a b y) d.toNat a.toNat b.toNat (widthOf y)
      fun x z _ o => o.2 = {} ∧ (o.1 : Int) =
        ((if 2 ^ (widthOf y - 1) ≤ x then (x : Int) - 2 ^ widthOf y else x) / 2 ^ (z % widthOf y)) % 2 ^ widthOf y
  | viadd p d a b y : LaneRule (.viadd p d a b y) d.toNat a.toNat b.toNat (widthOf y) fun x z _ o => o = ((x + z) % 2 ^ widthOf y, {})
  | visub p d a b y : LaneRule (.visub p d a b y) d.toNat a.toNat b.toNat (widthOf y)
      fun x z _ o => o = ((x + 2 ^ widthOf y - z) % 2 ^ widthOf y, {})
  | vimul p d a b y : LaneRule (.vimul p d a b y) d.toNat a.toNat b.toNat (widthOf y) fun x z _ o => o = (x * z % 2 ^ widthOf y, {})

/-- A tree of pairs over 2^n lanes: the lower half, the upper half, then the node above both, with all flags raised (R191). -/
def treeOf (f : Nat → Nat → Nat × Fl) : Nat → List Nat → Nat × Fl
  | 0, l => (l.headD 0, {})
  | n + 1, l =>
    let a := treeOf f n (l.take (2 ^ n))
    let b := treeOf f n (l.drop (2 ^ n))
    ((f a.1 b.1).1, (a.2.join b.2).join (f a.1 b.1).2)

/-- A fraction num / den, with a positive den, rounded to an integer by a mode (R172). -/
def intRound (mode : Mode) (num den : Int) : Int :=
  match mode with
  | .rne => if 2 * (num % den) < den ∨ (2 * (num % den) = den ∧ num / den % 2 = 0) then num / den else num / den + 1
  | .rtz => num.tdiv den
  | .rdn => num / den
  | .rup => -(-num / den)

/-- The least and the greatest integer of an integer type. -/
def leastOf (y : BitVec 4) : Int := if 4 ≤ y.toNat ∧ y.toNat ≤ 7 then -2 ^ (widthOf y - 1) else 0
def greatestOf (y : BitVec 4) : Int := if 4 ≤ y.toNat ∧ y.toNat ≤ 7 then 2 ^ (widthOf y - 1) - 1 else 2 ^ widthOf y - 1

/-- What VCVT makes of an element x of type src, with the flags it raises: NV [0], NX [4], SAT [5] (R173, R187). To a floating-point
type the exact value is encoded once. To an integer type a NaN gives 0 with NV, an infinity the bound of its sign with NV and SAT, and a
finite value its integer, held in the type's range: one out of range sets SAT, and NV where the source is .f32, .bf16 or .f16; one that
was no integer sets NX. -/
def converted (src dst : BitVec 4) (mode : Mode) (x : Nat) (o : Nat × Fl) : Prop :=
  if isFloat dst then o = encodeVal (fmtOf dst) mode (laneValue src x)
  else match laneValue src x with
    | .nan => o = (0, { bits := 0x01, sat := 0 })
    | .inf neg => (o.1 : Int) = (if neg then leastOf dst else greatestOf dst) % 2 ^ widthOf dst ∧ o.2 = { bits := 0x21, sat := 1 }
    | .num neg m e _ =>
      let num : Int := (if neg then -1 else 1) * (m * 2 ^ e.toNat : Nat)
      let den : Int := (2 ^ (-e).toNat : Nat)
      let q := intRound mode num den
      let held := q < leastOf dst ∨ greatestOf dst < q
      (o.1 : Int) = max (leastOf dst) (min (greatestOf dst) q) % 2 ^ widthOf dst ∧ (held → o.2.sat = 1) ∧ (¬held → o.2.sat = 0) ∧
      (o.2.bits.getLsbD 0 = true ↔ held ∧ 8 ≤ src.toNat ∧ src.toNat ≤ 10) ∧ (o.2.bits.getLsbD 4 = true ↔ num % den ≠ 0) ∧
      (o.2.bits.getLsbD 5 = true ↔ held) ∧ o.2.bits.extractLsb' 1 3 = 0

/-- The code that VQNT gives a value, with its flags (R179, R190): NV [0], UF [3], NX [4], SAT [5]. `m` and `e` are the step m × 2^e. The
target is 8x / step, rounded to nearest even and held from -8 to 7, or 128x / step, to the level that lies nearest, of smaller magnitude
on a tie; a target past the codes saturates. -/
def quantised (n : Bool) (x : Val) (m : Nat) (e : Int) (o : Nat × Fl) : Prop :=
  match x with
  | .nan => o = (if n then 7 else 0, { bits := 0x01, sat := 0 })
  | .inf neg => o = (if n then (if neg then 0 else 15) else (if neg then 8 else 7), { bits := 0x30, sat := 1 })
  | .num neg k g _ =>
    let num : Int := (if neg then -1 else 1) * ((k * 2 ^ (g - min g e).toNat * (if n then 128 else 8) : Nat) : Int)
    let den : Int := (m * 2 ^ (e - min g e).toNat : Nat)
    let far := fun c : Nat => (num - level c * den).natAbs
    let r := max (-8) (min 7 (intRound .rne num den))
    let held := if n then num < -128 * den ∨ 128 * den < num else intRound .rne num den < -8 ∨ 7 < intRound .rne num den
    let lev := if n then level o.1 else r
    (if n then o.1 < 16 ∧ ∀ c, c < 16 → far o.1 < far c ∨ (far o.1 = far c ∧ (level o.1).natAbs ≤ (level c).natAbs)
     else (o.1 : Int) = r % 16) ∧
    (held → o.2.sat = 1) ∧ (¬held → o.2.sat = 0) ∧ (o.2.bits.getLsbD 5 = true ↔ held) ∧
    (o.2.bits.getLsbD 4 = true ↔ held ∨ lev * den ≠ num) ∧ (o.2.bits.getLsbD 3 = true ↔ k ≠ 0 ∧ lev = 0) ∧ o.2.bits.extractLsb' 0 3 = 0

/-- The flags that results raise together (R174). -/
def allFlags (l : List (Nat × Fl)) : Fl := l.foldl (fun f r => f.join r.2) {}

/-- u is s after a vector instruction that writes the registers `ds` only and raises the flags f: the block is bound and holds the
flags; every other vector register, every general register, every CSR, the matrix array and every byte of memory are as in s. -/
def vectorFrame (s u : State) (ds : List Nat) (f : Fl) : Prop :=
  (∀ n, n ∉ ds → vreg u n = vreg s n) ∧ (coreHere u).g = (coreHere s).g ∧ (coreHere u).csr = (coreHere s).csr ∧
  (coreHere u).arr = (coreHere s).arr ∧ (coreHere u).entries = (coreHere s).entries ∧ (∀ x, readKey u x = readKey s x) ∧
  ∀ b, here s = some b → ∃ b', here u = some b' ∧ b'.flags = b.flags ||| f.bits ∧ b'.satcnt = b.satcnt + f.sat ∧ b'.bound = true ∧
    b'.regs = b.regs ∧ b'.exit = b.exit ∧ b'.slots = modAt b.slots s.cur.slot fun _ => .fired

end Sys2Proof.Claims

/-- R181 to R189: a lane-by-lane instruction writes every lane of its destination by its row of R185, from its sources as they stood
before, and raises the flags of its lanes; nothing else changes. The results of VEXP2 and VLOG2 are those of exp2Val and log2Val, whose
256 working bits stand for the correctly rounded result that R183 asks for: log entry 12 (DEDUCED); that VLOG2 of 1 delivers +0 in every rounding mode is
the model's choice (DESIGN CHOICE, log 101). -/
def Obligations.LaneResults : Prop :=
  ∀ i d a b w rule l r s, LaneRule i d a b w rule → Ready i l r s →
    ∃ u, exec i s = .next u ∧ ∃ os : List (Nat × Fl), os.length = 1024 / w ∧ vectorFrame s u [d] (allFlags os) ∧
      ∀ j, j < 1024 / w → ∃ o, os[j]? = some o ∧ laneOf (vreg u d) j w = o.1 % 2 ^ w ∧
        rule (laneOf (vreg s a) j w) (laneOf (vreg s b) j w) (laneOf (vreg s d) j w) o

/-- R187: VCVT of any two types completes: it converts lane by lane the elements that both widths hold, each by its row, and clears the
rest of its destination; nothing else changes but the flags. That a saturated .f8 source raises no NV is log entry 30 (DEDUCED). -/
def Sys2Proof.Claims.ConvertsDo : Prop :=
  ∀ p d a g m y l r s, Ready (.vcvt p d a g m y) l r s →
    let n := 1024 / max (widthOf g) (widthOf y)
    ∃ u, exec (.vcvt p d a g m y) s = .next u ∧ ∃ os : List (Nat × Fl), os.length = n ∧ vectorFrame s u [d.toNat] (allFlags os) ∧
      (∀ j, j < n → ∃ o, os[j]? = some o ∧ laneOf (vreg u d.toNat) j (widthOf y) = o.1 % 2 ^ widthOf y ∧
        converted g y (modeOf m) (laneOf (vreg s a.toNat) j (widthOf g)) o) ∧
      (∀ j, n ≤ j → j < 1024 / widthOf y → laneOf (vreg u d.toNat) j (widthOf y) = 0)

/-- R179, R190: VQNT completes: it writes one block of 64 codes, each quantised by the step of its scale word, and no other bit of its
destination; VDQNT completes: it writes the 64 values of a block to a pair of registers, each rounded once. A step that is not positive
and finite gives the code of 0, or a NaN, with NV. -/
def Sys2Proof.Claims.QuantResults : Prop :=
  (∀ p d a b n y l r s, Ready (.vqnt p d a b n y) l r s →
    ∃ u, exec (.vqnt p d a b n y) s = .next u ∧ ∃ os : List (Nat × Fl), os.length = 64 ∧ vectorFrame s u [d.toNat] (allFlags os) ∧
      (∀ j, j < 64 → ∃ o, os[j]? = some o ∧ laneOf (vreg u d.toNat) (64 * n.toNat + j) 4 = o.1 % 16 ∧
        match stepOf (laneOf (vreg s b.toNat) 0 32) (laneOf (vreg s b.toNat) 1 32) with
        | none => o = (if y = 13 then 7 else 0, flNV)
        | some (m, e) => quantised (y == 13) (valueOf fp32 (laneOf (vreg s (a.toNat + j / 32)) (j % 32) 32)) m e o) ∧
      (∀ j, j < 256 → j / 64 ≠ n.toNat → laneOf (vreg u d.toNat) j 4 = laneOf (vreg s d.toNat) j 4)) ∧
  (∀ p d a b n y l r s, Ready (.vdqnt p d a b n y) l r s →
    ∃ u, exec (.vdqnt p d a b n y) s = .next u ∧ ∃ os : List (Nat × Fl), os.length = 64 ∧
      vectorFrame s u [d.toNat, d.toNat + 1] (allFlags os) ∧
      ∀ j, j < 64 → ∃ o, os[j]? = some o ∧ laneOf (vreg u (d.toNat + j / 32)) (j % 32) 32 = o.1 % 2 ^ 32 ∧
        match stepOf (laneOf (vreg s b.toNat) 0 32) (laneOf (vreg s b.toNat) 1 32) with
        | none => o = (0x7FC00000, flNV)
        | some _ => o = encodeVal fp32 .rne (q4Value (y == 13) (laneOf (vreg s a.toNat) (64 * n.toNat + j) 4)
            (laneOf (vreg s b.toNat) 0 32) (laneOf (vreg s b.toNat) 1 32)))

/-- R191: VRED of an integer type delivers the sum of its lanes modulo 2^w, their least or their greatest, extended by the type; it
raises no flag. -/
def Sys2Proof.Claims.ReduceIntegers : Prop :=
  ∀ p y a m o x l r s, Ready (.vred p y a m o x) l r s → isFloat y = false →
    ∃ v : Nat, exec (.vred p y a m o x) s = .next (answer (.vred p y a m o x)
        (some (BitVec.ofInt 64 (laneInt y v))) s (modHere s id)) ∧ v < 2 ^ widthOf y ∧
      (o = 0 → v = ((List.range (1024 / widthOf y)).map fun j => laneOf (vreg s a.toNat) j (widthOf y)).sum % 2 ^ widthOf y) ∧
      (o = 1 → (∃ j, j < 1024 / widthOf y ∧ v = laneOf (vreg s a.toNat) j (widthOf y)) ∧
        ∀ j, j < 1024 / widthOf y → laneInt y v ≤ laneInt y (laneOf (vreg s a.toNat) j (widthOf y))) ∧
      (o = 2 → (∃ j, j < 1024 / widthOf y ∧ v = laneOf (vreg s a.toNat) j (widthOf y)) ∧
        ∀ j, j < 1024 / widthOf y → laneInt y (laneOf (vreg s a.toNat) j (widthOf y)) ≤ laneInt y v)

/-- R191: VRED of a floating-point type delivers the value of the tree of its lanes, each sum rounded at its node, with the flags of
every node. -/
def Sys2Proof.Claims.ReduceFloats : Prop :=
  ∀ p y a m o x l r s, Ready (.vred p y a m o x) l r s → isFloat y = true →
    let q := treeOf (fun u v => if o = 0 then rounded y m (addVal (modeOf m) (exact y u) (exact y v))
        else (minBits (fmtOf y) (o == 2) u v, {})) (Nat.log2 (1024 / widthOf y))
      ((List.range (1024 / widthOf y)).map fun j => laneOf (vreg s a.toNat) j (widthOf y))
    exec (.vred p y a m o x) s = .next (answer (.vred p y a m o x) (some (BitVec.ofNat 64 q.1)) s
      (modHere s fun b => { b with flags := b.flags ||| q.2.bits, satcnt := b.satcnt + q.2.sat }))

/-- R192: VBCAST fills every lane with the low bits of its operand or with the lane it names; VSHUF takes the lane each index names,
0 for one out of range; VINS replaces one lane; VMOV copies and VZERO clears a register; VEXT delivers the lane it names. -/
def Sys2Proof.Claims.LaneMoves : Prop :=
  ∀ l r s,
    (∀ p d a y, Ready (.vbcast p d a 0 y) l r s → ∃ u, exec (.vbcast p d a 0 y) s = .next u ∧ vectorFrame s u [d.toNat] {} ∧
      ∀ j, j < 1024 / widthOf y → laneOf (vreg u d.toNat) j (widthOf y) = l.toNat % 2 ^ widthOf y) ∧
    (∀ p d a m y, m ≠ 0 → Ready (.vbcast p d a m y) l r s → l.toNat < 1024 / widthOf y →
      ∃ u, exec (.vbcast p d a m y) s = .next u ∧ vectorFrame s u [d.toNat] {} ∧
        ∀ j, j < 1024 / widthOf y → laneOf (vreg u d.toNat) j (widthOf y) = laneOf (vreg s a.toNat) l.toNat (widthOf y)) ∧
    (∀ p d a b y, Ready (.vshuf p d a b y) l r s → ∃ u, exec (.vshuf p d a b y) s = .next u ∧ vectorFrame s u [d.toNat] {} ∧
      ∀ j, j < 1024 / widthOf y → laneOf (vreg u d.toNat) j (widthOf y) =
        if laneOf (vreg s b.toNat) j (widthOf y) < 1024 / widthOf y
        then laneOf (vreg s a.toNat) (laneOf (vreg s b.toNat) j (widthOf y)) (widthOf y) else 0) ∧
    (∀ p d y, Ready (.vins p d y) l r s → l.toNat < 1024 / widthOf y → ∃ u, exec (.vins p d y) s = .next u ∧
      vectorFrame s u [d.toNat] {} ∧ ∀ j, j < 1024 / widthOf y → laneOf (vreg u d.toNat) j (widthOf y) =
        if j = l.toNat then r.toNat % 2 ^ widthOf y else laneOf (vreg s d.toNat) j (widthOf y)) ∧
    (∀ p d a, Ready (.vmov p d a) l r s → ∃ u, exec (.vmov p d a) s = .next u ∧ vectorFrame s u [d.toNat] {} ∧
      vreg u d.toNat = vreg s a.toNat) ∧
    (∀ p d, Ready (.vzero p d) l r s → ∃ u, exec (.vzero p d) s = .next u ∧ vectorFrame s u [d.toNat] {} ∧ vreg u d.toNat = 0) ∧
    (∀ p y a x, Ready (.vext p y a x) l r s → l.toNat < 1024 / widthOf y → exec (.vext p y a x) s =
      .next (answer (.vext p y a x) (some (BitVec.ofInt 64 (laneInt y (laneOf (vreg s a.toNat) l.toNat (widthOf y))))) s s))

/-- R192, R193: a lane index of the number of lanes or more raises 0x040 and nothing is written. -/
def Sys2Proof.Claims.LaneIndexFaults : Prop :=
  ∀ l r s, (∀ p d a m y, m ≠ 0 → Ready (.vbcast p d a m y) l r s → 1024 / widthOf y ≤ l.toNat →
      exec (.vbcast p d a m y) s = .next (raises s 0x040 0)) ∧
    (∀ p y a x, Ready (.vext p y a x) l r s → 1024 / widthOf y ≤ l.toNat → exec (.vext p y a x) s = .next (raises s 0x040 0)) ∧
    (∀ p d y, Ready (.vins p d y) l r s → 1024 / widthOf y ≤ l.toNat → exec (.vins p d y) s = .next (raises s 0x040 0))


namespace Sys2Proof.Claims

/-! ### Engine commands and the matrix array -/

/-- The header of an engine command that the running task issues now (R117, R232). -/
def cmdHdr (s : State) (tok : Nat) (sem : Option (Nat × Nat)) : Hdr :=
  { uid := s.nextId, core := s.cur.core, task := ((coreHere s).task.getD {}).uid, rcd := ((coreHere s).task.getD {}).rcd,
    tok := tok, sem := sem, conf := (actor s).conf }

/-- s after an engine command has counted on a token: the token is one higher and the block is bound (R232). -/
def counted (s : State) (tok : Nat) : State :=
  bind (modCore { s with nextId := s.nextId + 1 } s.cur.rid s.cur.core fun k => { k with tok := tset k.tok tok (tget 0 k.tok tok + 1) })
    s.cur.rid s.cur.core

/-- An engine command may perform: nothing holds an immediate operation, and its token stands below 1,023 (R53, R232). -/
def cmdFree (s : State) (tok : Nat) : Prop :=
  immediateHeld s s.cur.rid s.cur.core = false ∧ tget 0 (coreHere s).tok tok < 1023

/-- DIE and SEM of a packed word: with the SEM bit, a semaphore of the allocation; without it, zero bits (R208). -/
def semWord (s : State) (w : W64) (bit : BitVec 1) (sem : Option (Nat × Nat)) : Prop :=
  if bit = 1 then (w.extractLsb' 32 12).toNat < (ldieAt s s.cur.rid (w.extractLsb' 44 2).toNat).nsem ∧
      sem = some ((w.extractLsb' 44 2).toNat, (w.extractLsb' 32 12).toNat)
  else w.extractLsb' 32 14 = 0 ∧ sem = none

/-- The word an instruction of the matrix queue takes is in range, and the work it asks for (R208 to R211, R213, R216, R217). -/
inductive MatrixWord (s : State) : Instr → W64 → W64 → MWork → Nat → Option (Nat × Nat) → Prop
  | mmac p g k a b sem : semWord s a g sem → a.extractLsb' 46 18 = 0 → a.extractLsb' 24 8 = 0 →
      1 ≤ (a.extractLsb' 8 11).toNat → (a.extractLsb' 8 11).toNat ≤ 1024 → a.extractLsb' 20 2 ≤ a.extractLsb' 22 2 →
      (a.extractLsb' 20 2 = 3 ↔ a.extractLsb' 22 2 = 3) → sourcesExist s s.cur.rid s.cur.core = true →
      (coreHere s).arr.anchor = none → MatrixWord s (.mmac p g k) a b (.mmac a false) k.toNat sem
  | minit p g k a b sem : semWord s a g sem → a.extractLsb' 46 18 = 0 → a.extractLsb' 10 22 = 0 → (coreHere s).arr.anchor = none →
      MatrixWord s (.minit p g k) a b (.minit (a.extractLsb' 0 10)) k.toNat sem
  | mdrain p g k a b sem : semWord s a g sem → drainFieldsBad a = false →
      drainTilesExist s s.cur.rid s.cur.core (a.extractLsb' 0 2).toNat = true → (coreHere s).arr.anchor = none →
      MatrixWord s (.mdrain p g k) a b (.mdrain a (b.extractLsb' 0 32)) k.toNat sem
  | mgang p g k a b sem : semWord s a g sem → a.extractLsb' 46 18 = 0 → a.extractLsb' 6 26 = 0 → 1 ≤ (a.extractLsb' 0 3).toNat →
      (a.extractLsb' 0 3).toNat ≤ 6 → 1 ≤ (a.extractLsb' 3 3).toNat → (a.extractLsb' 3 3).toNat ≤ 3 →
      MatrixWord s (.mgang p g k) a b (.mgang a) k.toNat sem
  | mgrant p g k a b sem : semWord s a g sem → a.extractLsb' 46 18 = 0 → a.extractLsb' 20 12 = 0 → a.extractLsb' 0 20 ≠ 0 →
      MatrixWord s (.mgrant p g k) a b (.mgrant (a.extractLsb' 0 20).toNat) k.toNat sem

/-- The array whose queue the cursor's core uses: its anchor's (R216). -/
def arrayHere (s : State) : Nat := (coreHere s).arr.anchor.getD s.cur.core

/-- The command at the head of the matrix queue of an array that acts. -/
def headWork (s : State) (rid c : Nat) (q : MCmd) (qs : List MCmd) : Prop := arrayUnit s rid c = true ∧ (arrAt s rid c).q = q :: qs

/-- The command that completes may signal: no write of its core waits for a window, the clock of its core's die runs, and it names no
semaphore (R103, R139, R350). -/
def plainSignal (s : State) (rid : Nat) (h : Hdr) : Prop :=
  replayEmpty s rid h.core = true ∧ clockRuns s (coreDie (rectAt s rid) h.core) = true ∧ h.sem = none

/-- A queue whose first command does nothing on coming to the head (R214, R217). -/
def waitsAtHead (qs : List MCmd) : Prop := ∀ q ∈ qs.head?, (∀ b, q.work ≠ .mbudget b) ∧ ∀ x, q.work ≠ .mgrant x

/-- The core is no part of a gang and stands alone (R216). -/
def alone (s : State) (rid c : Nat) : Prop := (arrAt s rid c).gw = 0 ∧ (arrAt s rid c).gh = 0 ∧ (arrAt s rid c).anchor = none ∧
  memberAt (rectAt s rid) c 0 0 = some c

/-- The element of row i and column j of a drain (R212): the exact product acc · 2^(E-64) · ga · gb · fs rounded once, to nearest even,
to the drain's format, where acc is SUM held from -2^95 to 2^95 - 1; ga and gb are 1.0 under SCALE 1 and 3, fs is 1 under SCALE 0 and 1. -/
def drainElement (a : MArray) (w : W64) (f : BitVec 32) (i j : Nat) : Nat :=
  let fmt := fmtOf (w.extractLsb' 2 4)
  let cell := tget {} a.cells (64 * i + j)
  let scale := w.extractLsb' 6 2
  let one : Val := .num false 1 0 false
  let fs := if 2 ≤ scale.toNat then valueOf fp32 f.toNat else one
  let ga := if scale.toNat % 2 = 1 then one else valueOf fp32 (tget 0x3F800000 a.ga i).toNat
  let gb := if scale.toNat % 2 = 1 then one else valueOf fp32 (tget 0x3F800000 a.gb j).toNat
  let acc := max (-2 ^ 95) (min (2 ^ 95 - 1) cell.sum.toInt)
  if cell.invalid || (match fs with | .num _ _ _ _ => false | _ => true) then fmt.canon
  else (encodeVal fmt .rne (mulVal (mulVal (mulVal (.num (decide (acc < 0)) acc.natAbs (a.e.toInt - 64) false) ga).1 gb).1 fs).1).1

/-- u is s after the head command of a matrix queue has completed without a semaphore: the queue goes on and the token falls. -/
def completesHead (s u : State) (rid c : Nat) (q : MCmd) (qs : List MCmd) : Prop :=
  (arrAt u rid c).q = qs ∧ (arrAt u rid c).st = .idle ∧
  tget 0 (coreAt u rid q.hdr.core).tok q.hdr.tok = tget 0 (coreAt s rid q.hdr.core).tok q.hdr.tok - 1

end Sys2Proof.Claims

/-- R53, R207 to R211, R216, R217, R232: MMAC, MINIT, MDRAIN, MGANG and MGRANT whose word is in range enter the matrix queue of their
array, or of its anchor, count on their token and bind their block, an MGRANT that finds the queue empty making its request at once;
a full queue of 16 commands holds them, and so does an array of which a clock stands still (R350, log entry 63). -/
def Sys2Proof.Claims.MatrixQueues : Prop :=
  ∀ i l r s w tok sem, MatrixWord s i l r w tok sem → Ready i l r s → cmdFree s tok →
    (arrayUnit s s.cur.rid (arrayHere s) = true → (arrAt s s.cur.rid (arrayHere s)).q.length < 16 → (arrAt s s.cur.rid (arrayHere s)).q ≠ [] ∨ (∀ x, w ≠ .mgrant x) →
      exec i s = .next (fired s (modArr (counted s tok) s.cur.rid (arrayHere s) fun a =>
        { a with q := a.q ++ [{ hdr := cmdHdr s tok sem, work := w }] }))) ∧
    (∀ x, arrayUnit s s.cur.rid (arrayHere s) = true → (arrAt s s.cur.rid (arrayHere s)).q = [] → w = .mgrant x →
      exec i s = .next (fired s (startGrant (modArr (counted s tok) s.cur.rid (arrayHere s) fun a =>
        { a with q := [{ hdr := cmdHdr s tok sem, work := w }] }) s.cur.rid (arrayHere s) x))) ∧
    (16 ≤ (arrAt s s.cur.rid (arrayHere s)).q.length ∨ arrayUnit s s.cur.rid (arrayHere s) = false → exec i s = .next s)

/-- R214: MBUDGET, with its reserved bits zero, takes effect at once in an empty queue, and else enters the queue; it has no token. -/
def Sys2Proof.Claims.BudgetQueues : Prop :=
  ∀ p l r s, Ready (.mbudget p) l r s → immediateHeld s s.cur.rid s.cur.core = false → (coreHere s).arr.anchor = none →
    arrayUnit s s.cur.rid s.cur.core = true → l.extractLsb' 59 5 = 0 → r.extractLsb' 8 56 = 0 →
    let b : Budget := { satb := (l.extractLsb' 0 21).toNat, undb := (l.extractLsb' 21 21).toNat, canb := (l.extractLsb' 42 17).toNat,
                        strict := r.getLsbD 7, c := (r.extractLsb' 0 7).toNat }
    ((coreHere s).arr.q = [] → ∃ u, exec (.mbudget p) s = .next u ∧
      (coreAt u s.cur.rid s.cur.core).arr = { (coreHere s).arr with budget := b } ∧
      (coreAt u s.cur.rid s.cur.core).tok = (coreHere s).tok) ∧
    ((coreHere s).arr.q ≠ [] → (coreHere s).arr.q.length < 16 → ∃ u, exec (.mbudget p) s = .next u ∧
      (coreAt u s.cur.rid s.cur.core).arr =
        { (coreHere s).arr with q := (coreHere s).arr.q ++ [{ hdr := { core := s.cur.core }, work := .mbudget b }] } ∧
      (coreAt u s.cur.rid s.cur.core).tok = (coreHere s).tok)

/-- R215: MSTAT waits while a command of its core stands in its matrix queue, and else delivers the status of the last MMAC, of the
last drain, or the gang word. -/
def Sys2Proof.Claims.MatrixStatus : Prop :=
  ∀ p e x l r s, Ready (.mstat p e x) l r s →
    ((∃ q ∈ (arrAt s s.cur.rid (arrayHere s)).q, q.hdr.core = s.cur.core) → exec (.mstat p e x) s = .next s) ∧
    ((∀ q ∈ (arrAt s s.cur.rid (arrayHere s)).q, q.hdr.core ≠ s.cur.core) →
      exec (.mstat p e x) s = .next (answer (.mstat p e x) (some (
        if e = 0 then (arrAt s s.cur.rid (arrayHere s)).stat0
        else if e = 1 then (arrAt s s.cur.rid (arrayHere s)).stat1
        else BitVec.ofNat 64 ((arrAt s s.cur.rid (arrayHere s)).e.toNat + 2 ^ 10 * ((arrAt s s.cur.rid (arrayHere s)).gw % 8) +
          2 ^ 13 * ((arrAt s s.cur.rid (arrayHere s)).gh % 4) + 2 ^ 15 * (coreHere s).arr.anchor.isSome.toNat))) s s))

/-- R209, R139: MINIT at the head sets E of an array that stands alone, clears its cells and its latched factors, and completes. -/
def Sys2Proof.Claims.InitExecutes : Prop :=
  ∀ s rid c q qs e, headWork s rid c q qs → q.work = .minit e → alone s rid c → plainSignal s rid q.hdr → waitsAtHead qs →
    ∃ u, exec (.minitExecute rid c) s = .next u ∧ completesHead s u rid c q qs ∧ (arrAt u rid c).e = e ∧
      (arrAt u rid c).cells = [] ∧ (arrAt u rid c).ga = [] ∧ (arrAt u rid c).gb = [] ∧ (∀ x, readKey u x = readKey s x)

/-- R204, R217, R353: an MMAC that comes to the head of an array that stands alone, with no balance, asks the arbiter of its die
for one tile of leave. -/
def Sys2Proof.Claims.LeaveIsAsked : Prop :=
  ∀ s rid c q qs w v, headWork s rid c q qs → q.work = .mmac w v → (arrAt s rid c).st = .idle → alone s rid c →
    sourcesExist s rid c = true → (arrAt s rid q.hdr.core).anchor = none → balancePays s rid c w = false → coreDie (rectAt s rid) c < 4 →
    exec (.mmacHead rid c) s = .next (modCore (modDie s (coreDie (rectAt s rid) c) fun x =>
      { x with reqs := x.reqs ++ [{ rid := rid, core := c, tiles := 1, grant := false }] }) rid c fun k =>
      { k with arr := { k.arr with st := .leave [] false } })

/-- R204, R205, R223, R353: leave granted to the request at the head of its die's arbiter, with its slots free and its patterns fit to
start, starts the operation: leave is held, every slot it uses is held, its patterns run from byte 0, and the ladder stands at its
first step. Leave is granted only while the tiles in use stay within the die's limit. -/
def Sys2Proof.Claims.LeaveStartsOperation : Prop :=
  ∀ s rid c q qs w v d rs, headWork s rid c q qs → q.work = .mmac w v → (arrAt s rid c).st = .leave [] false → alone s rid c →
    d = coreDie (rectAt s rid) c → d < 4 → (dieAt s d).reqs = { rid := rid, core := c, tiles := 1, grant := false } :: rs →
    (tilesUsed s d + 1 ≤ (dieAt s d).limit →
      (∀ p ∈ operandSlots s rid c w, (slotAt s rid p.1 p.2).held = false) → sourceCause s rid c w = none →
      (arrAt s rid c).frozenStep = none → operandsDrain s rid c q w = false →
      ∃ u, exec (.matrixLeaveGrant rid c d) s = .next u ∧ (arrAt u rid c).st = .ready (w.extractLsb' 20 2).toNat ∧
        (dieAt u d).reqs = rs ∧
        (dieAt u d).leaves = (dieAt s d).leaves ++ [{ rid := rid, core := c, tiles := 1, grant := false }] ∧
        (∀ p ∈ operandSlots s rid c w, (slotAt u rid p.1 p.2).held = true) ∧
        (∀ x ∈ sourcesOf s rid c w, (slotAt u rid x.tile (if x.role = 0 then mwA w else mwB w)).st = .running ∧
          (slotAt u rid x.tile (if x.role = 0 then mwA w else mwB w)).index = 0)) ∧
    ((dieAt s d).limit < tilesUsed s d + 1 → exec (.matrixLeaveGrant rid c d) s = .next s)

/-- R197, R202, R334: an attempt whose operands read without error latches its keys and runs, its tags already good where no operand is
sealed; a tag check without an error lets it go on. -/
def Sys2Proof.Claims.AttemptStarts : Prop :=
  ∀ s rid c q qs w v, headWork s rid c q qs → q.work = .mmac w v → attemptErr w (readOperands s rid c w) = none →
    (∀ step, (arrAt s rid c).st = .ready step → ∃ u ok, exec (.matrixAttemptStart rid c) s = .next u ∧
      (arrAt u rid c).st = .run step ok ∧ (arrAt u rid c).keys = some (keysOf s rid c) ∧
      (ok = true ↔ ∀ x ∈ readOperands s rid c w, ∀ h, x.2.1.head = some h → hEnc h = false)) ∧
    (∀ step, (arrAt s rid c).st = .run step false → exec (.decryptTagCheck rid c) s = .next (modCore s rid c fun k =>
      { k with arr := { k.arr with st := .run step true } }))

/-- R201, R203, R204: an attempt of an array that stands alone, within its budgets, or past one at LMAX without STRICT, retires: SUM of
each covered cell becomes its PSUM, or SUM plus PSUM with ACC, INVALID and GRIDLOSS follow, the factors of its rows and columns are
latched, OVERBUDGET of the status says whether a budget was exceeded, and the command completes; one past a budget below LMAX is
squashed, no SUM changes, and the ladder goes one step up; past a budget at LMAX under STRICT it fails with 0x0E6. -/
def Sys2Proof.Claims.AttemptEnds : Prop :=
  ∀ s rid c q qs w v step, headWork s rid c q qs → q.work = .mmac w v → (arrAt s rid c).st = .run step true → alone s rid c →
    attemptErr w (readOperands s rid c w) = none → plainSignal s rid q.hdr → waitsAtHead qs →
    let os := readOperands s rid c w
    let rows := enteringRows os step 0
    let cols := enteringCols os 0
    let e := (arrAt s rid c).e.toInt
    let cells := attemptMember e (arrAt s rid c).cells rows cols
    let b := (arrAt s rid c).budget
    let past := b.satb < (rows.map (·.sat)).sum ∨ b.undb < (rows.map (·.und)).sum ∨
      b.canb < (cells.filter fun x => cancelled x.2 b.c).length
    (¬past ∨ (w.extractLsb' 22 2).toNat ≤ step ∧ b.strict = false → rows.length ≤ 64 → cols.length ≤ 64 →
      ∃ u, exec (.matrixAttemptEnd rid c) s = .next u ∧ completesHead s u rid c q qs ∧
      ((arrAt u rid c).stat0.getLsbD 61 = true ↔ past) ∧
      (∀ i x, rows[i]? = some x → tget 0 (arrAt u rid c).ga i = x.factor) ∧
      (∀ j y, cols[j]? = some y → tget 0 (arrAt u rid c).gb j = y.factor) ∧
      ∀ i j x y, rows[i]? = some x → cols[j]? = some y →
        let old := tget {} (arrAt s rid c).cells (64 * i + j)
        let new := tget {} (arrAt u rid c).cells (64 * i + j)
        new.sum = (if w.getLsbD 19 then old.sum else 0) + (attemptCell e old x y).psum ∧
        new.invalid = ((w.getLsbD 19 && old.invalid) || (attemptCell e old x y).pinv) ∧
        new.gridloss = ((w.getLsbD 19 && old.gridloss) || (attemptCell e old x y).ploss)) ∧
    (past → step < (w.extractLsb' 22 2).toNat → ∃ u, exec (.matrixAttemptEnd rid c) s = .next u ∧
      (arrAt u rid c).st = .ready (step + 1) ∧ (arrAt u rid c).q = q :: qs ∧
      ∀ k, (tget {} (arrAt u rid c).cells k).sum = (tget {} (arrAt s rid c).cells k).sum) ∧
    (past → (w.extractLsb' 22 2).toNat ≤ step → b.strict = true → ∃ u t, exec (.matrixAttemptEnd rid c) s = .next u ∧
      u = failCommand t rid q.hdr 0x0E6 0 ∧ (arrAt t rid c).q = qs ∧
      ∀ k, (tget {} (arrAt u rid c).cells k).sum = (tget {} (arrAt s rid c).cells k).sum)

/-- R201: PSUM of a cell is the sum, modulo 2^128, of the exact products floored to the grid 2^(E-64), and so does not depend on
their order; PLOSS says that a floor lost something, PINV that a factor or a value was invalid or a floored product reached 2^95. That a pair
with an invalid value adds nothing is the model's reading (DEDUCED, log 42): R199 and R201 say only that the cell is invalid. -/
def Sys2Proof.Claims.SumsAccumulate : Prop :=
  ∀ (e : Int) (c : MCell) (ps : List (Option (Int × Int) × Option (Int × Int))) (a b : Entering),
    a.vals = ps.map (·.1) → b.vals = ps.map (·.2) →
    let units : Option (Int × Int) × Option (Int × Int) → Int := fun p => match p with
      | (some x, some y) =>
        if 0 ≤ x.2 + y.2 - (e - 64) then x.1 * y.1 * 2 ^ (x.2 + y.2 - (e - 64)).toNat
        else x.1 * y.1 / 2 ^ (-(x.2 + y.2 - (e - 64))).toNat
      | _ => 0
    (attemptCell e c a b).psum = BitVec.ofInt 128 (ps.map units).sum ∧
    ((attemptCell e c a b).pinv = true ↔
      a.bad = true ∨ b.bad = true ∨ ∃ p ∈ ps, p.1 = none ∨ p.2 = none ∨ 2 ^ 95 ≤ (units p).natAbs) ∧
    ((attemptCell e c a b).ploss = true ↔ ∃ x y, (some x, some y) ∈ ps ∧ x.2 + y.2 < e - 64 ∧
      x.1 * y.1 % 2 ^ (-(x.2 + y.2 - (e - 64))).toNat ≠ 0)

/-- R211, R212: a drain of mode 0 or 1 of an array that stands alone writes its elements row by row at its offset of the tile beside it,
each formed by one rounding of the exact product of its cell's sum, its factors and its scale, and no other byte; the element of a cell
with INVALID set, and each under a scale that is not finite, is the canonical NaN; with KEEP = 0 the drained cells' SUM, INVALID and GRIDLOSS are cleared and no other cell changes, with
KEEP = 1 none does. The sign of a zero that is delivered is log entry 93 (R212 gives none); that a drain writes at an OFFSET of any
alignment is the model's choice, which R211 leaves open (DESIGN CHOICE, log 91). -/
def Sys2Proof.Claims.DrainWrites : Prop :=
  ∀ s rid c q qs w f t, Memory.wf s = true → quiet s rid → headWork s rid c q qs → q.work = .mdrain w f → (arrAt s rid c).st = .idle →
    alone s rid c → chainComing s rid c = false → drainTile (rectAt s rid) c (dwMode w) = some t → dwMode w < 2 →
    dwFmt w = 8 ∨ dwFmt w = 9 ∨ dwFmt w = 11 → dwOff w + dwRows w * dwCols w * dwSize w ≤ min (2 ^ 21) (tileAt s rid t).qbase →
    retainedAt s (.mt rid t (dwOff w)) (dwRows w * dwCols w * dwSize w) = false → clockRuns s (tileDie (rectAt s rid) t) = true → q.hdr.core = c →
    drainingLine s (whoCmd rid q.hdr) (tileAddr (rectAt s rid) c t (dwOff w)) (dwRows w * dwCols w * dwSize w) = false →
    let key := Place.key (.mt rid t (dwOff w))
    ∃ u, exec (.mdrainExecute rid c) s = .next u ∧ (arrAt u rid c).st = .drained ∧
      (∀ i j, i < dwRows w → j < dwCols w → readNat u (key + dwSize w * (i * dwCols w + j)) (dwSize w) =
        drainElement (arrAt s rid c) w f i j % 256 ^ dwSize w) ∧
      (∀ x, x < key ∨ key + dwRows w * dwCols w * dwSize w ≤ x → readKey u x = readKey s x) ∧
      (∀ i j, i < 64 → j < 64 → tget {} (arrAt u rid c).cells (64 * i + j) =
        if w.getLsbD 8 = false ∧ i < dwRows w ∧ j < dwCols w then
          { tget {} (arrAt s rid c).cells (64 * i + j) with sum := 0, invalid := false, gridloss := false }
        else tget {} (arrAt s rid c).cells (64 * i + j))

/-- R139, R211, R213: a drain whose writes have performed completes and signals; each step of a chain adds the next cell of the sender
into the receiver's, with its flags, and the last leaves a drain status of 0 and completes. That the last also clears SUM and the flags of
all 4,096 cells of the sender is log entry 43 (DEDUCED: R213 does not say it). -/
def Sys2Proof.Claims.DrainsComplete : Prop :=
  (∀ s rid c q qs, headWork s rid c q qs → (arrAt s rid c).st = .drained → plainSignal s rid q.hdr → waitsAtHead qs →
    ∃ u, exec (.mdrainComplete rid c) s = .next u ∧ completesHead s u rid c q qs) ∧
  (∀ s rid c q qs k left, (arrAt s rid c).q = q :: qs → (arrAt s rid c).st = .sending left → 1 ≤ left → left ≤ 4096 →
    chainTo (rectAt s rid) c = some k → k ≠ c → clockRuns s (coreDie (rectAt s rid) c) = true →
    clockRuns s (coreDie (rectAt s rid) k) = true → (∀ n, (arrAt s rid k).st ≠ .sending n) → plainSignal s rid q.hdr → waitsAtHead qs →
    ∃ u, exec (.chainValueArrive rid c) s = .next u ∧
      (let x := tget {} (arrAt s rid c).cells (4096 - left)
       let y := tget {} (arrAt s rid k).cells (4096 - left)
       let z := tget {} (arrAt u rid k).cells (4096 - left)
       z.sum = y.sum + x.sum ∧ z.invalid = (y.invalid || x.invalid) ∧ z.gridloss = (y.gridloss || x.gridloss)) ∧
      (1 < left → (arrAt u rid c).st = .sending (left - 1) ∧ (arrAt u rid c).q = q :: qs) ∧
      (left = 1 → completesHead s u rid c q qs ∧ (arrAt u rid c).stat1 = 0 ∧ ∀ n, (tget {} (arrAt u rid c).cells n).sum = 0 ∧
        (tget {} (arrAt u rid c).cells n).invalid = false ∧ (tget {} (arrAt u rid c).cells n).gridloss = false))

/-- R216: MGANG at the head of an array outside every gang, whose other members are compute tiles of the rectangle with empty
queues and in no gang, joins them: each takes E and the budgets of the anchor, with its cells cleared. That it waits for the queues of
the other members alone, and commands may stand behind it in the anchor's own, is the model's reading of R216 (DEDUCED, log 43). -/
def Sys2Proof.Claims.GangJoins : Prop :=
  ∀ s rid c q qs x, headWork s rid c q qs → q.work = .mgang x → alone s rid c → q.hdr.core = c → plainSignal s rid q.hdr →
    waitsAtHead qs → 1 < (x.extractLsb' 0 3).toNat * (x.extractLsb' 3 3).toNat →
    (∀ u v, u < (x.extractLsb' 0 3).toNat → v < (x.extractLsb' 3 3).toNat → ∃ m, memberAt (rectAt s rid) c u v = some m ∧
      (m ≠ c → (arrAt s rid m).q = [] ∧ (arrAt s rid m).anchor = none ∧ (arrAt s rid m).gw = 0)) →
    ∃ t, exec (.mgangJoin rid c) s = .next t ∧ completesHead s t rid c q qs ∧
      (arrAt t rid c).gw = (x.extractLsb' 0 3).toNat ∧ (arrAt t rid c).gh = (x.extractLsb' 3 3).toNat ∧
      ∀ u v m, u < (x.extractLsb' 0 3).toNat → v < (x.extractLsb' 3 3).toNat → memberAt (rectAt s rid) c u v = some m →
        (arrAt t rid m).cells = [] ∧ (arrAt t rid m).e = (arrAt s rid c).e ∧ (arrAt t rid m).budget = (arrAt s rid c).budget ∧ (m ≠ c → (arrAt t rid m).anchor = some c)

/-- R217, R353: an MGRANT of an array that stands alone, granted by its die's arbiter within the limit, adds a balance of its amount
on that die and completes; a balance that lapses, while the clock of its core's die runs (R350), is gone. -/
def Sys2Proof.Claims.GrantsBalance : Prop :=
  (∀ s rid c q qs x d rs n, headWork s rid c q qs → q.work = .mgrant x → alone s rid c → d = coreDie (rectAt s rid) c → d < 4 →
    (arrAt s rid c).grantDies = [] → (dieAt s d).reqs = { rid := rid, core := c, tiles := n, grant := true } :: rs →
    tilesUsed s d + n ≤ (dieAt s d).limit → plainSignal s rid q.hdr → waitsAtHead qs →
    ∃ u, exec (.mgrantGranted rid c d) s = .next u ∧ completesHead s u rid c q qs ∧ (dieAt u d).reqs = rs ∧
      (arrAt u rid c).balances = (arrAt s rid c).balances ++ [{ die := d, amount := x, left := x * microParts }]) ∧
  (∀ s rid c k, clockRuns s (coreDie (rectAt s rid) c) = true → exec (.grantBalanceLapse rid c k) s = .next (modCore s rid c fun q =>
    { q with arr := { q.arr with balances := dropAt q.arr.balances k } }))


namespace Sys2Proof.Claims

/-! ### Streams -/

/-- A stream word in range: its tile and its semaphore; port 0 to 3, or 0 where the instruction has no port (R233). -/
def StreamWord (s : State) (w : W64) (g : BitVec 1) (ported : Bool) (t : Nat) (sem : Option (Nat × Nat)) : Prop :=
  w.extractLsb' 46 18 = 0 ∧ w.extractLsb' 11 5 = 0 ∧ w.extractLsb' 0 4 = 0 ∧ semWord s w g sem ∧
  tileFrom (rectAt s s.cur.rid) s.cur.core (w.extractLsb' 24 8).toInt (w.extractLsb' 16 8).toInt = some t ∧
  if ported then (w.extractLsb' 8 3).toNat ≤ 3 else w.extractLsb' 8 3 = 0

/-- PORT and SLOT of a stream word. -/
def portOf (w : W64) : Nat := (w.extractLsb' 8 3).toNat
def slotOf (w : W64) : Nat := (w.extractLsb' 4 4).toNat

/-- The work that a stream instruction asks of the tile t, and the slot it uses (R235 to R237). -/
inductive StreamWork (s : State) : Instr → W64 → W64 → Nat → SWork → Nat → Option (Nat × Nat) → Prop
  | sstart p g k a b t dt sem : StreamWord s a g true t sem → b.extractLsb' 32 32 = 0 → b.extractLsb' 8 8 = 0 →
      b.extractLsb' 0 4 = 0 → tileXY (rectAt s s.cur.rid) (tileX (rectAt s s.cur.rid) t + (b.extractLsb' 24 8).toInt)
        (tileY (rectAt s s.cur.rid) t + (b.extractLsb' 16 8).toInt) = some dt →
      StreamWork s (.sstart p g k) a b t (.sstart (slotOf a) dt (slotOf b)) k.toNat sem
  | sacc p g k a b t sem : StreamWord s a g true t sem → StreamWork s (.sacc p g k) a b t (.sacc (slotOf a)) k.toNat sem
  | sstop p g k a b t sem : StreamWord s a g true t sem → StreamWork s (.sstop p g k) a b t (.sstop (slotOf a)) k.toNat sem

/-- The head of a stream queue of a tile that acts with the cores that its commands come from. -/
def streamHead (s : State) (rid tile p : Nat) (c : SCmd) (cs : List SCmd) : Prop :=
  portUnit s rid tile p = true ∧ portQ s rid tile p = c :: cs

/-- A command is the most recent one of a slot that is not empty: what becomes of it shows there (R238). -/
def shows (s : State) (rid tile k uid : Nat) : Prop := (slotAt s rid tile k).last = uid ∧ (slotAt s rid tile k).st ≠ .empty

/-- The token of a command in s. -/
def tokOf (s : State) (rid : Nat) (h : Hdr) : Nat := tget 0 (coreAt s rid h.core).tok h.tok

/-- u is s after the head of a stream queue has completed without a semaphore: the queue goes on, the token falls, the slot is free and
says so where no later command has come to use it. -/
def completesStream (s u : State) (rid tile p k : Nat) (c : SCmd) (cs : List SCmd) : Prop :=
  portQ u rid tile p = cs ∧ tokOf u rid c.hdr = tokOf s rid c.hdr - 1 ∧ (slotAt u rid tile k).held = false ∧
  (shows s rid tile k c.hdr.uid → (slotAt u rid tile k).st = .completed)

end Sys2Proof.Claims

/-- R222, R232, R233, R235 to R237: SSTART, SACC and SSTOP whose words are in range enter the stream queue of their port, count on their
token and bind the block; the slot of SSTART or SACC, unless it is empty, is then queued, at index 0, for its most recent command. The
queue has room, and its clock runs (R350). -/
def Sys2Proof.Claims.StreamCommandsQueue : Prop :=
  ∀ i l r s t w tok sem, StreamWork s i l r t w tok sem → Ready i l r s → cmdFree s tok → (portQ s s.cur.rid t (portOf l)).length < 8 →
    clockRuns s (tileDie (rectAt s s.cur.rid) t) = true →
    ∃ u, exec i s = .next (fired s u) ∧
      portQ u s.cur.rid t (portOf l) = portQ s s.cur.rid t (portOf l) ++ [{ hdr := cmdHdr s tok sem, work := w }] ∧
      (∀ n p, (n, p) ≠ (t, portOf l) → portQ u s.cur.rid n p = portQ s s.cur.rid n p) ∧
      tget 0 (coreAt u s.cur.rid s.cur.core).tok tok = tget 0 (coreHere s).tok tok + 1 ∧
      (∀ b, runOf u s.cur.rid s.cur.core = some b → b.bound = true) ∧
      ((∀ k, w ≠ .sstop k) → slotAt u s.cur.rid t (slotOf l) = { slotAt s s.cur.rid t (slotOf l) with
        st := if (slotAt s s.cur.rid t (slotOf l)).st = .empty then .empty else .queued, index := 0, last := s.nextId }) ∧
      (∀ x, readKey u x = readKey s x)

/-- R224, R234: SPAT of a slot that no command of its tile's queues needs and that is free writes it at once: a descriptor in range is
loaded at index 0 and the command completes; one out of range leaves the slot as it was and its cause 0x0C2 waits for the task. -/
def Sys2Proof.Claims.SpatWrites : Prop :=
  ∀ p g k l r s b tk t bs sem, Ready (.spat p g k) l r s → here s = some b → (coreHere s).task = some tk → (coreHere s).csr.halted = false →
    cmdFree s k.toNat → StreamWord s l g false t sem → readDescriptor s r 64 64 [0xF0, 0xF1] = .ok bs →
    latestUser s s.cur.rid t (slotOf l) = none → (slotAt s s.cur.rid t (slotOf l)).held = false →
    replayEmpty s s.cur.rid s.cur.core = true → clockRuns s (tileDie (rectAt s s.cur.rid) t) = true →
    (∀ x, sem = some x → semRuns s s.cur.rid x.1 = true) →
    ∃ u, exec (.spat p g k) s = .next (fired s u) ∧
      tget 0 (coreAt u s.cur.rid s.cur.core).tok k.toNat = tget 0 (coreHere s).tok k.toNat ∧
      (badDescriptor (recOfBytes bs) = false → slotAt u s.cur.rid t (slotOf l) =
        { slotAt s s.cur.rid t (slotOf l) with desc := recOfBytes bs, st := .loaded, index := 0, last := s.nextId }) ∧
      (badDescriptor (recOfBytes bs) = true → slotAt u s.cur.rid t (slotOf l) = slotAt s s.cur.rid t (slotOf l) ∧
        (coreAt u s.cur.rid s.cur.core).causes =
          (coreHere s).causes ++ [{ cause := 0x0C2, faddr := 0, task := tk.uid, rcd := tk.rcd }])

/-- R238: SPROG delivers STATE in bits 63:60 and INDEX in bits 31:0 of the slot it names. -/
def Sys2Proof.Claims.SlotProgress : Prop :=
  ∀ p x l r s t, Ready (.sprog p x) l r s → StreamWord s l 0 false t none → ∃ v : W64,
    exec (.sprog p x) s = .next (answer (.sprog p x) (some v) s s) ∧
    (v.extractLsb' 60 4).toNat = [SlotPh.empty, .loaded, .queued, .running, .completed, .cancelled, .failed, .frozen].idxOf
      (slotAt s s.cur.rid t (slotOf l)).st ∧
    v.extractLsb' 32 28 = 0 ∧ (v.extractLsb' 0 32).toNat = (slotAt s s.cur.rid t (slotOf l)).index % 2 ^ 32

/-- R223, R230, R238: a stream or accept at the head whose slot may start and whose slots are free starts: they are held, and its slot
shows it running at index 0, as its most recent command, also where a SPAT wrote the slot since it came; where a later command has queued
for the slot since, that one stays the most recent and the slot shows it (log entry 33, DEDUCED: R238 does not name the case). An SSTART
or SACC of an empty slot, none of whose slots a command holds, fails with 0x0C3, and the slot stays empty. -/
def Sys2Proof.Claims.StreamsStart : Prop :=
  ∀ s rid tile p n c cs k modes hdr, streamHead s rid tile p c cs → c.started = false →
    ((∃ dt dk, c.work = .sstart k dt dk) ∧ modes = [0, 1, 2] ∧ hdr = none ∨ c.work = .sacc k ∧ modes = [0, 2] ∧ hdr = some false) →
    (∀ j ∈ slotsOf s rid tile c.work, (slotAt s rid tile j).held = false) →
    (startCause s rid tile k modes hdr = none →
      ∃ u, exec (.streamStart rid tile p n) s = .next u ∧ portQ u rid tile p = { c with started := true } :: cs ∧
        (∀ j ∈ slotsOf s rid tile c.work, (slotAt u rid tile j).held = true) ∧
        (let x := slotAt s rid tile k
         let y := slotAt u rid tile k
         y.desc = x.desc ∧
         ((x.st = .queued → x.last = c.hdr.uid) → y.st = .running ∧ y.index = 0 ∧ y.last = c.hdr.uid) ∧
         (x.st = .queued → x.last ≠ c.hdr.uid → y.st = .queued ∧ y.index = x.index ∧ y.last = x.last))) ∧
    ((slotAt s rid tile k).st = .empty →
      ∃ t, exec (.streamStart rid tile p n) s = .next (failCommand t rid c.hdr 0x0C3 0) ∧ portQ t rid tile p = cs ∧
        (slotAt t rid tile k).st = .empty)

/-- R140, R235, R275: a running stream whose accept is armed sends its next n flits, or what is left, to its destination in order, where
each byte of its walk reads and none is on its way from a commit that it follows; its index is the bytes sent, while it is the most
recent command of its slot. -/
def Sys2Proof.Claims.StreamsSend : Prop :=
  ∀ s rid tile p n c cs k dt dk, streamHead s rid tile p c cs → c.started = true → c.work = .sstart k dt dk →
    armed s rid dt dk = true → clockRuns s (tileDie (rectAt s rid) dt) = true →
    let d := (slotAt s rid tile k).desc
    let m := min (64 * n) (streamLen d - c.sent)
    (∀ j, j < m → readWaits s rid tile c d (c.sent + j) = false ∧ ∃ w, streamByteAt s rid tile d c.taken (c.sent + j) = .ok w ∧
      ∀ off, w = .byAt off → dataError s (Place.key (.mt rid tile off)) 1 = none) →
    ∃ u, ∃ bs : List Byte, ∃ t, exec (.streamStart rid tile p n) s = .next u ∧ bs.length = m ∧
      tget [] (tileAt u rid dt).inbound dk = tget [] (tileAt s rid dt).inbound dk ++ asFlits c.hdr.uid c.sent bs ∧
      (∀ j w, streamByteAt s rid tile d c.taken (c.sent + j) = .ok w → j < m → bs[j]? = some (wbyte s rid tile w)) ∧
      portQ u rid tile p = { c with sent := c.sent + m, taken := t } :: cs ∧
      ((slotAt s rid tile k).last = c.hdr.uid → (slotAt u rid tile k).index = c.sent + m) ∧
      (∀ x, readKey u x = readKey s x)

/-- R236, R246: a running accept of a pattern that is no gather writes the flit at the front of what arrived for its slot, or what its
walk still takes of it, byte after byte at the next offsets of its walk: each offset then holds the last byte written to it, no other
byte of memory changes, and its index goes up by the bytes written, while it is the most recent command of its slot. -/
def Sys2Proof.Claims.AcceptsTake : Prop :=
  ∀ s rid tile p c cs k (off : Nat → Nat), Memory.wf s = true → quiet s rid → streamHead s rid tile p c cs → c.started = true →
    c.work = .sacc k →
    let d := (slotAt s rid tile k).desc
    let xs := tget [] (tileAt s rid tile).inbound k
    let m := min (flitOf xs).length (payloadLen d - c.sent)
    pMode d ≠ 2 →
    (∀ j, j < m → payloadByte s rid tile d c.taken (c.sent + j) = .ok (.byAt (off j)) ∧
      acceptWaits s rid tile c d (c.sent + j) = false ∧
      homeOf s (whoCmd rid c.hdr) (tileAddr (rectAt s rid) c.hdr.core tile (off j)) = .mt rid tile (off j)) →
    ∃ u, exec (.streamStart rid tile p 1) s = .next u ∧
      (∀ j, j < m → (∀ i, j < i → i < m → off i ≠ off j) → some (readKey u (Place.key (.mt rid tile (off j)))) = (xs[j]?.map (·.byte))) ∧
      (∀ y, (∀ j, j < m → y ≠ Place.key (.mt rid tile (off j))) → readKey u y = readKey s y) ∧
      tget [] (tileAt u rid tile).inbound k = xs.drop m ∧
      ((slotAt s rid tile k).last = c.hdr.uid → 0 < m → (slotAt u rid tile k).index = c.sent + m)

/-- R139, R235 to R237: a stream whose bytes have all been written, and an accept whose walk is filled, complete; an SSTOP with nothing
ahead of it completes. -/
def Sys2Proof.Claims.StreamsComplete : Prop :=
  ∀ s rid tile p c cs, streamHead s rid tile p c cs → plainSignal s rid c.hdr →
    (∀ k dt dk, c.work = .sstart k dt dk → c.started = true → c.sent = streamLen (slotAt s rid tile k).desc →
      c.accepted = streamLen (slotAt s rid tile k).desc →
      ∃ u, exec (.sstartComplete rid tile p) s = .next u ∧ completesStream s u rid tile p k c cs) ∧
    (∀ k, c.work = .sacc k → c.started = true → c.sent = payloadLen (slotAt s rid tile k).desc →
      ∃ u, exec (.acceptComplete rid tile p) s = .next u ∧ completesStream s u rid tile p k c cs) ∧
    (∀ k, c.work = .sstop k → ∃ u, exec (.sstopHead rid tile p) s = .next u ∧ portQ u rid tile p = cs ∧
      tokOf u rid c.hdr = tokOf s rid c.hdr - 1) ∧
    (∀ k d, c.work = .spat k d → (slotAt s rid tile k).held = false → badDescriptor d = false →
      ∃ u, exec (.spatSlotWrite rid tile p) s = .next u ∧ portQ u rid tile p = cs ∧ tokOf u rid c.hdr = tokOf s rid c.hdr - 1 ∧
        slotAt u rid tile k = { slotAt s rid tile k with desc := d, st := .loaded, index := 0, last := c.hdr.uid })

/-- R237: an SSTOP right behind a command of its slot whose last byte is not written cancels it: both leave the queue, and the slot is
free and says so where no later command has come to use it. -/
def Sys2Proof.Claims.StopCancels : Prop :=
  ∀ s rid tile p c d cs k, streamHead s rid tile p c (d :: cs) → ofSlot k c = true → d.work = .sstop k →
    allWritten s rid tile c = false → plainSignal s rid d.hdr →
    ∃ u, exec (.sstopHead rid tile p) s = .next u ∧ portQ u rid tile p = cs ∧
      (shows s rid tile k c.hdr.uid → (slotAt u rid tile k).st = .cancelled) ∧
      (c.started = true → (slotAt u rid tile k).held = false)

namespace Sys2Proof.Claims

/-! ### Copies -/

/-- n bytes of a descriptor from byte i up, as a number. -/
def bytesAt (bs : List Byte) (i n : Nat) : Nat := natOf ((bs.drop i).take n)

/-- An address in a descriptor. -/
def addrIn (bs : List Byte) (i : Nat) : W64 := BitVec.ofNat 64 (bytesAt bs i 8)

/-- The semaphore field of a descriptor: DIE in bits 13:12 and SEM below, of the allocation, or zero without the SEM bit (R240). -/
def semField (s : State) (v : Nat) (g : BitVec 1) (sem : Option (Nat × Nat)) : Prop :=
  if g = 1 then v < 2 ^ 14 ∧ v % 4096 < (ldieAt s s.cur.rid (v / 4096)).nsem ∧ sem = some (v / 4096, v % 4096)
  else v = 0 ∧ sem = none

/-- The semaphore of VGATHER and VSCATTER: an index on the logical die of the core (R115). -/
def gatherField (s : State) (v : Nat) (g : BitVec 1) (sem : Option (Nat × Nat)) : Prop :=
  let r := rectAt s s.cur.rid
  let d := logicalDie r (coreDie r s.cur.core)
  if g = 1 then v < (ldieAt s s.cur.rid d).nsem ∧ sem = some (d, v) else sem = none

/-- A descriptor of 32 bytes that reads without a cause. -/
def reads32 (s : State) (a : W64) (bs : List Byte) : Prop := readDescriptor s a 32 32 [0xF0, 0xF1] = .ok bs

/-- The work of an instruction of the copy queue whose operands and descriptor are in range (R115, R240, R242, R243). -/
inductive CopyWord (s : State) : Instr → W64 → W64 → CopyWork → Nat → Option (Nat × Nat) → Prop
  | copy p n k a b : CopyWord s (.copy p n k) a b (.copy a b (2 ^ n.toNat)) k.toNat none
  | copyD p g k a b bs sem : reads32 s a bs → bytesAt bs 16 4 ≠ 0 → bytesAt bs 22 10 = 0 → semField s (bytesAt bs 20 2) g sem →
      CopyWord s (.copyD p g k) a b (.copy (addrIn bs 0) (addrIn bs 8) (bytesAt bs 16 4)) k.toNat sem
  | copym p g k a b bs sem : reads32 s a bs → bytesAt bs 16 4 ≠ 0 → bytesAt bs 22 10 = 0 → bytesAt bs 20 2 = 0 →
      checkMmac s b g = .ok sem →
      CopyWord s (.copym p g k) a b (.copym (addrIn bs 0) (addrIn bs 8) (bytesAt bs 16 4) b) k.toNat sem
  | tmove p g k a b bs sem : reads32 s a bs → bytesAt bs 30 2 = 0 → semField s (bytesAt bs 28 2) g sem →
      CopyWord s (.tmove p g k) a b (.tmove (addrIn bs 0) (addrIn bs 8) (bytesAt bs 16 2 + 1) (bytesAt bs 18 2 + 1)
        (BitVec.ofNat 32 (bytesAt bs 20 4)).toInt (BitVec.ofNat 32 (bytesAt bs 24 4)).toInt) k.toNat sem
  | vgather p z g k a b bs sem : reads32 s a bs → 1 ≤ bytesAt bs 24 4 → bytesAt bs 24 4 ≤ 65536 → bytesAt bs 30 2 = 0 →
      gatherField s (bytesAt bs 28 2) g sem →
      CopyWord s (.vgather p z g k) a b (.gather (addrIn bs 0) (addrIn bs 8) (addrIn bs 16) (2 ^ z.toNat) (bytesAt bs 24 4)) k.toNat sem
  | vscatter p z g k a b bs sem : reads32 s a bs → 1 ≤ bytesAt bs 24 4 → bytesAt bs 24 4 ≤ 65536 → bytesAt bs 30 2 = 0 →
      gatherField s (bytesAt bs 28 2) g sem →
      CopyWord s (.vscatter p z g k) a b (.scatter (addrIn bs 0) (addrIn bs 8) (addrIn bs 16) (2 ^ z.toNat) (bytesAt bs 24 4)) k.toNat sem

/-- Copy commands in flight at the cursor's core, queue fences apart (R239). -/
def copiesHere (s : State) : Nat := ((coreHere s).copyq.filter fun q => q.work != .fence).length

/-- The head of the copy queue of a core whose engines act. -/
def copyHead (s : State) (rid c : Nat) (q : CopyCmd) (qs : List CopyCmd) : Prop :=
  coreUnit s rid c = true ∧ (coreAt s rid c).copyq = q :: qs

/-- The party of an engine command. -/
def mover (rid : Nat) (h : Hdr) : Who :=
  { rid := rid, core := h.core, handler := false, conf := h.conf, uid := h.task, rcd := h.rcd, cmd := some h.uid }

/-- Nothing holds or refuses the move of n bytes (R98, R103, R108, R205, R350). -/
def moveFree (s : State) (rid : Nat) (h : Hdr) (dst src : W64) (n : Nat) : Prop :=
  drainingLine s (mover rid h) src n = false ∧ drainingLine s (mover rid h) dst n = false ∧ writeHeld s (mover rid h) dst n = false ∧
  readError s (worldOf rid) (homeOf s (mover rid h) src) n = none ∧
  served s (worldOf rid) (homeOf s (mover rid h) dst) n = true

/-- In u the n bytes at dst read as those at src read in s, and every other byte as in s. -/
def moved (s u : State) (rid : Nat) (h : Hdr) (dst src : W64) (n : Nat) : Prop :=
  (∀ j, j < n → readKey u ((homeOf s (mover rid h) dst).key + j) = readKey s ((homeOf s (mover rid h) src).key + j)) ∧
  (∀ x, x < (homeOf s (mover rid h) dst).key ∨ (homeOf s (mover rid h) dst).key + n ≤ x → readKey u x = readKey s x)

end Sys2Proof.Claims

/-- R115, R232, R239 to R243: COPY, COPYM, TMOVE, VGATHER and VSCATTER whose descriptor is in range enter the copy queue of their core
with the work it names, count on their token and bind the block; a 65th command in flight waits. -/
def Sys2Proof.Claims.CopyCommandsQueue : Prop :=
  ∀ i l r s w tok sem, CopyWord s i l r w tok sem → Ready i l r s → cmdFree s tok →
    (copiesHere s < 64 → exec i s = .next (fired s (modCore (counted s tok) s.cur.rid s.cur.core fun k =>
      { k with copyq := k.copyq ++ [{ hdr := cmdHdr s tok sem, work := w }] }))) ∧
    (64 ≤ copiesHere s → exec i s = .next s)

/-- R138, R244: a queue fence enters each queue its word names, at its tail, and no other: the copy queue, the matrix queue of its array
or anchor, the ring and cross-die queues, and stream queues of one tile; it counts on its token and is listed. Once its entries stand at
the heads of all its queues it leaves them and completes, whichever queues they are; while one does not, nothing changes. An entry in the
copy queue waits for the MMAC of a COPYM before it (R138, R242), but not where the fence names the matrix queue too, which is the model's
choice (log 100). A queue whose
clock stands still takes no entry and gives none back (R350, log entry 63). -/
def Sys2Proof.Claims.QueueFences : Prop :=
  (∀ p g k l r s sem t, Ready (.copyQf p g k) l r s → cmdFree s k.toNat → semWord s l g sem → l.extractLsb' 46 18 = 0 →
    l.extractLsb' 12 4 = 0 → l.extractLsb' 4 2 = 0 → (l.extractLsb' 0 4 ≠ 0 ∨ l.extractLsb' 6 6 ≠ 0) →
    (l.extractLsb' 6 6 = 0 → l.extractLsb' 16 16 = 0) →
    (l.extractLsb' 6 6 ≠ 0 → clockRuns s (tileDie (rectAt s s.cur.rid) t) = true ∧
      tileFrom (rectAt s s.cur.rid) s.cur.core (l.extractLsb' 24 8).toInt (l.extractLsb' 16 8).toInt = some t) →
    (l.getLsbD 1 = true → arrayUnit s s.cur.rid (arrayHere s) = true ∧ (arrAt s s.cur.rid (arrayHere s)).q.length < 16) →
    (l.getLsbD 2 = true → (coreHere s).ringq.length < 16) →
    (∀ n, n < 6 → l.getLsbD (6 + n) = true → (portQ s s.cur.rid t n).length < 8) →
    ∃ u, exec (.copyQf p g k) s = .next (fired s u) ∧
      (coreAt u s.cur.rid s.cur.core).copyq = (coreHere s).copyq ++ (if l.getLsbD 0 then [{ hdr := cmdHdr s k.toNat sem, work := .fence }] else []) ∧
      (∀ c, arrAt u s.cur.rid c = if l.getLsbD 1 ∧ c = arrayHere s
        then { arrAt s s.cur.rid c with q := (arrAt s s.cur.rid c).q ++ [{ hdr := cmdHdr s k.toNat sem, work := .fence }] }
        else arrAt s s.cur.rid c) ∧
      (coreAt u s.cur.rid s.cur.core).ringq = (coreHere s).ringq ++ (if l.getLsbD 2 then [{ hdr := cmdHdr s k.toNat sem, work := .fence }] else []) ∧
      (coreAt u s.cur.rid s.cur.core).xdieq = (coreHere s).xdieq ++ (if l.getLsbD 3 then [{ hdr := cmdHdr s k.toNat sem, work := .fence }] else []) ∧
      (∀ n, portQ u s.cur.rid t n = portQ s s.cur.rid t n ++
        (if n < 6 ∧ l.getLsbD (6 + n) then [{ hdr := cmdHdr s k.toNat sem, work := .fence }] else [])) ∧
      (tfind (rectAt u s.cur.rid).fences s.nextId).isSome = true ∧
      tget 0 (coreAt u s.cur.rid s.cur.core).tok k.toNat = tget 0 (coreHere s).tok k.toNat + 1) ∧
  (∀ s rid c uid f, coreUnit s rid c = true → tfind (rectAt s rid).fences uid = some f → f.hdr.core = c → f.hdr.uid = uid →
    let stands := fun (h : Option Hdr) => ∃ x, h = some x ∧ x.uid = uid
    let reached := (f.copy = true → stands ((coreAt s rid c).copyq.head?.map (·.hdr)) ∧ (f.matrix = true ∨ copymOpen s rid c = false)) ∧
      (f.matrix = true → stands ((arrAt s rid f.arr).q.head?.map (·.hdr))) ∧
      (f.ring = true → stands ((coreAt s rid c).ringq.head?.map (·.hdr))) ∧
      (f.xdie = true → stands ((coreAt s rid c).xdieq.head?.map (·.hdr))) ∧
      ∀ p ∈ f.ports, stands ((portQ s rid f.tile p).head?.map (·.hdr))
    (¬reached → exec (.queueFenceComplete rid c uid) s = .next s) ∧
    (reached → fenceRuns s rid f = true → plainSignal s rid f.hdr →
      (f.matrix = true → waitsAtHead ((arrAt s rid f.arr).q.drop 1)) → f.ports.Nodup →
      ∃ u, exec (.queueFenceComplete rid c uid) s = .next u ∧
        (coreAt u rid c).copyq = (coreAt s rid c).copyq.drop (if f.copy then 1 else 0) ∧
        (arrAt u rid f.arr).q = (arrAt s rid f.arr).q.drop (if f.matrix then 1 else 0) ∧
        (coreAt u rid c).ringq = (coreAt s rid c).ringq.drop (if f.ring then 1 else 0) ∧
        (coreAt u rid c).xdieq = (coreAt s rid c).xdieq.drop (if f.xdie then 1 else 0) ∧
        (∀ p, portQ u rid f.tile p = (portQ s rid f.tile p).drop (if p ∈ f.ports then 1 else 0)) ∧
        tokOf u rid f.hdr = tokOf s rid f.hdr - 1))

/-- R245: TOKRD delivers the count of one token, or all eight, a byte each, saturated at 255. -/
def Sys2Proof.Claims.TokensRead : Prop :=
  ∀ p k x l r s, (Ready (.tokrd p 0 k x) l r s →
      exec (.tokrd p 0 k x) s = .next (answer (.tokrd p 0 k x) (some (BitVec.ofNat 64 (tget 0 (coreHere s).tok k.toNat))) s s)) ∧
    (Ready (.tokrd p 1 k x) l r s → ∃ v : W64, exec (.tokrd p 1 k x) s = .next (answer (.tokrd p 1 k x) (some v) s s) ∧
      ∀ j, j < 8 → (v.extractLsb' (8 * j) 8).toNat = min (tget 0 (coreHere s).tok j) 255)

/-- R104, R241, R242: a copy whose ends pass their checks starts without a byte moved: it pins each extent of global memory that an end
lies in, once, and waits while one has 511 pins; started, it moves its next 4 KiB, or what is left, as if
read whole before it is written, and no other byte changes; all moved, COPY completes, after the MMAC of a COPYM that entered its queue before it has retired (R138), and the MMAC of a COPYM goes to the tail of its
matrix queue, its token still counted. -/
def Sys2Proof.Claims.CopiesRun : Prop :=
  (∀ s rid c q qs dst src len, copyHead s rid c q qs → (q.work = .copy dst src len ∨ ∃ w, q.work = .copym dst src len w) →
    (q.started = false → q.pins = [] → checkEnds s rid q.hdr dst src len [0, 0xF0, 0xF1, 0xF2] = none →
      (selector dst ≠ 0 → selector src ≠ 0 →
        exec (.copyChunk rid c) s = .next (modCore s rid c fun k => { k with copyq := { q with started := true } :: qs })) ∧
      ((∀ n ∈ extentsOf s rid [src, dst], ∃ e, tfind s.extents n = some e ∧ e.pins < 511) →
        ∃ u pins, exec (.copyChunk rid c) s = .next u ∧ (coreAt u rid c).copyq = { q with started := true, pins := pins } :: qs ∧
          (∀ n, n ∈ pins ↔ n ∈ extentsOf s rid [src, dst]) ∧
          (∀ n, tfind u.extents n = if n ∈ extentsOf s rid [src, dst]
            then (tfind s.extents n).map fun e => { e with pins := e.pins + 1 } else tfind s.extents n) ∧
          ∀ x, readKey u x = readKey s x) ∧
      (∀ n e, n ∈ extentsOf s rid [src, dst] → tfind s.extents n = some e → 511 ≤ e.pins → exec (.copyChunk rid c) s = .next s)) ∧
    (Memory.wf s = true → quiet s rid → q.started = true → q.prog < len →
      moveFree s rid q.hdr (addrPlus dst (Int.ofNat q.prog)) (addrPlus src (Int.ofNat q.prog)) (min 4096 (len - q.prog)) →
      ∃ u, exec (.copyChunk rid c) s = .next u ∧
        moved s u rid q.hdr (addrPlus dst (Int.ofNat q.prog)) (addrPlus src (Int.ofNat q.prog)) (min 4096 (len - q.prog)) ∧
        (coreAt u rid c).copyq = { q with prog := q.prog + min 4096 (len - q.prog) } :: qs)) ∧
  (∀ s rid c q qs, copyHead s rid c q qs → q.started = true → copyTotal q.work = some q.prog → plainSignal s rid q.hdr →
    (copymOpen s rid c = false →
      ∃ u, exec (.copyComplete rid c) s = .next u ∧ (coreAt u rid c).copyq = qs ∧ tokOf u rid q.hdr = tokOf s rid q.hdr - 1) ∧
    (copymOpen s rid c = true → exec (.copyComplete rid c) s = .next s)) ∧
  (∀ s rid c q qs dst src len w, copyHead s rid c q qs → q.work = .copym dst src len w → q.started = true → q.prog = len →
    (arrAt s rid c).anchor = none → arrayUnit s rid c = true → (arrAt s rid c).q.length < 16 →
    ∃ u, exec (.copymMmacPlace rid c) s = .next u ∧ (coreAt u rid c).copyq = qs ∧
      (arrAt u rid c).q = (arrAt s rid c).q ++ [{ hdr := q.hdr, work := .mmac w true }] ∧ tokOf u rid q.hdr = tokOf s rid q.hdr)

/-- R116, R243: the next element of a VGATHER or VSCATTER moves between the place its index names and its own place; the next row of a
started TMOVE moves; no other byte of memory changes. The element's ends and its index lie outside global memory here, so that it
pins no extent. Elements and index words of any alignment move: log entry 35 (DEDUCED). -/
def Sys2Proof.Claims.ElementsMove : Prop :=
  (∀ s rid c q qs dst src idx n cnt, Memory.wf s = true → quiet s rid → copyHead s rid c q qs → q.prog < cnt →
    let ia := addrPlus idx (Int.ofNat (4 * q.prog))
    let j := readNat s (homeOf s (mover rid q.hdr) ia).key 4
    selector dst ≠ 0 → selector src ≠ 0 → selector idx ≠ 0 →
    translate s (mover rid q.hdr) ia 4 0 .read [0, 0xF0, 0xF1, 0xF2] = .ok () → drainingLine s (mover rid q.hdr) ia 4 = false →
    readError s (worldOf rid) (homeOf s (mover rid q.hdr) ia) 4 = none →
    (q.work = .gather dst src idx n cnt →
      checkEnds s rid q.hdr (addrPlus dst (Int.ofNat (n * q.prog))) (addrPlus src (Int.ofNat (n * j))) n [0, 0xF0, 0xF1, 0xF2] = none →
      moveFree s rid q.hdr (addrPlus dst (Int.ofNat (n * q.prog))) (addrPlus src (Int.ofNat (n * j))) n →
      ∃ u, exec (.gatherElement rid c) s = .next u ∧
        moved s u rid q.hdr (addrPlus dst (Int.ofNat (n * q.prog))) (addrPlus src (Int.ofNat (n * j))) n ∧
        (coreAt u rid c).copyq = { q with started := true, prog := q.prog + 1 } :: qs) ∧
    (q.work = .scatter dst src idx n cnt →
      checkEnds s rid q.hdr (addrPlus dst (Int.ofNat (n * j))) (addrPlus src (Int.ofNat (n * q.prog))) n [0, 0xF0, 0xF1, 0xF2] = none →
      moveFree s rid q.hdr (addrPlus dst (Int.ofNat (n * j))) (addrPlus src (Int.ofNat (n * q.prog))) n →
      ∃ u, exec (.gatherElement rid c) s = .next u ∧
        moved s u rid q.hdr (addrPlus dst (Int.ofNat (n * j))) (addrPlus src (Int.ofNat (n * q.prog))) n ∧
        (coreAt u rid c).copyq = { q with started := true, prog := q.prog + 1 } :: qs)) ∧
  (∀ s rid c q qs dst src rows rb dp sp, Memory.wf s = true → quiet s rid → copyHead s rid c q qs →
    q.work = .tmove dst src rows rb dp sp → q.started = true → q.prog < rows →
    moveFree s rid q.hdr (addrPlus dst (Int.ofNat q.prog * dp)) (addrPlus src (Int.ofNat q.prog * sp)) rb →
    ∃ u, exec (.tmoveRow rid c) s = .next u ∧
      moved s u rid q.hdr (addrPlus dst (Int.ofNat q.prog * dp)) (addrPlus src (Int.ofNat q.prog * sp)) rb ∧
      (coreAt u rid c).copyq = { q with prog := q.prog + 1 } :: qs)


namespace Sys2Proof.Claims

/-! ### The Halo -/

/-- A board word in range: its tile and its semaphore (R264). -/
def BoardWord (s : State) (w : W64) (g : BitVec 1) (t : Nat) (sem : Option (Nat × Nat)) : Prop :=
  w.extractLsb' 46 18 = 0 ∧ w.extractLsb' 8 8 = 0 ∧ w.extractLsb' 0 4 = 0 ∧ semWord s w g sem ∧
  tileFrom (rectAt s s.cur.rid) s.cur.core (w.extractLsb' 24 8).toInt (w.extractLsb' 16 8).toInt = some t

/-- A command at a place of a ring queue that is a board. -/
def boardIs (s : State) (rid c k : Nat) (q : RingCmd) (b : Board) : Prop :=
  (coreAt s rid c).ringq[k]? = some q ∧ q.work = .board b

/-- A lane that may be asked about: any lane in world 0, else one bound to the world that asks (R267, R269). -/
def asks (s : State) (lane : Nat) : Prop :=
  worldOf s.cur.rid = 0 ∨ ∃ b, (laneAt s lane).bound = some b ∧ b.world = worldOf s.cur.rid

/-- Slot period k of a lane of pace p carries a tile (R256). -/
def paceGoes (p k : Nat) : Bool := p == 0 || decide (9 * p * k / 2000 < 9 * p * (k + 1) / 2000)

/-- The station of the cursor's die for a lane. -/
def station (s : State) (lane : Nat) : StationLane :=
  tget {} (laneAt s lane).stations (coreDie (rectAt s s.cur.rid) s.cur.core)

end Sys2Proof.Claims

/-- R232, R263 to R266: RBOARD of a layer of a lane that is bound to the task's world, and RDROP, enter the ring queue of their core
and count on their token; the slot's board record then says queued; RBOARD on a lane not bound to its world raises 0x100, of a layer
the lane has not 0x104. -/
def Sys2Proof.Claims.BoardsQueue : Prop :=
  (∀ p n g k l r s t sem b, Ready (.rboard p n g k) l r s → cmdFree s k.toNat → (coreHere s).ringq.length < 16 →
    BoardWord s l g t sem → r.extractLsb' 16 48 = 0 →
    ((laneAt s n.toNat).bound = some b → b.world = worldOf s.cur.rid → (r.extractLsb' 0 16).toNat < b.nl →
      clockRuns s (tileDie (rectAt s s.cur.rid) t) = true →
      ∃ u q x, exec (.rboard p n g k) s = .next (fired s u) ∧ (coreAt u s.cur.rid s.cur.core).ringq = (coreHere s).ringq ++ [q] ∧
        q.hdr = cmdHdr s k.toNat sem ∧ q.work = .board x ∧ x.lane = n.toNat ∧ x.layer = (r.extractLsb' 0 16).toNat ∧ x.tile = t ∧
        x.slot = slotOf l ∧ x.st = .queued ∧ x.failed = none ∧ x.ending = false ∧ x.buf = [] ∧
        slotAt u s.cur.rid t (slotOf l) = { slotAt s s.cur.rid t (slotOf l) with
          st := if (slotAt s s.cur.rid t (slotOf l)).st = .empty then .empty else .queued, index := 0, last := s.nextId,
          boardUid := s.nextId, board := 0x1000000000000000 } ∧
        tget 0 (coreAt u s.cur.rid s.cur.core).tok k.toNat = tget 0 (coreHere s).tok k.toNat + 1) ∧
    ((laneAt s n.toNat).bound = none → exec (.rboard p n g k) s = .next (raises s 0x100 0)) ∧
    ((laneAt s n.toNat).bound = some b → b.world ≠ worldOf s.cur.rid → exec (.rboard p n g k) s = .next (raises s 0x100 0)) ∧
    ((laneAt s n.toNat).bound = some b → b.world = worldOf s.cur.rid → b.nl ≤ (r.extractLsb' 0 16).toNat →
      exec (.rboard p n g k) s = .next (raises s 0x104 0))) ∧
  (∀ p g k l r s t sem, Ready (.rdrop p g k) l r s → cmdFree s k.toNat → (coreHere s).ringq.length < 16 → BoardWord s l g t sem →
    exec (.rdrop p g k) s = .next (fired s (modCore (counted s k.toNat) s.cur.rid s.cur.core fun q =>
      { q with ringq := q.ringq ++ [{ hdr := cmdHdr s k.toNat sem, work := .rdrop t (slotOf l) }] })))

/-- R267 to R269: RWHERE delivers lap, layer, tile and age of the station of its die for a lane that may be asked about, a set pattern
before any tile of it passed, and all ones for a lane that may not; RSTAT delivers the record of the most recent board into a slot;
RSTAT of a lane delivers the station's counts, or raises 0x100. -/
def Sys2Proof.Claims.HaloStatus : Prop :=
  ∀ l r s,
    (∀ p n x, Ready (.rwhere p n x) l r s → ∃ v : W64, exec (.rwhere p n x) s = .next (answer (.rwhere p n x) (some v) s s) ∧
      (¬asks s n.toNat → v = -1) ∧
      (asks s n.toNat → (station s n.toNat).seen = false → v = 0x0000FFFF00000000) ∧
      (asks s n.toNat → (station s n.toNat).seen = true → (station s n.toNat).age < 65536 →
        v.extractLsb' 48 16 = (station s n.toNat).lap.extractLsb' 0 16 ∧ (v.extractLsb' 32 16).toNat = (station s n.toNat).layer % 65536 ∧
        (v.extractLsb' 16 16).toNat = (station s n.toNat).tidx % 65536 ∧ (v.extractLsb' 0 16).toNat = (station s n.toNat).age)) ∧
    (∀ p x t, Ready (.rstat p x) l r s → BoardWord s l 0 t none →
      exec (.rstat p x) s = .next (answer (.rstat p x) (some (slotAt s s.cur.rid t (slotOf l)).board) s s)) ∧
    (∀ p n x, Ready (.rstatLane p n x) l r s →
      (asks s n.toNat → exec (.rstatLane p n x) s = .next (answer (.rstatLane p n x) (some (BitVec.ofNat 64
        ((station s n.toNat).overruns * 2 ^ 48 + (station s n.toNat).corrupt * 2 ^ 32 + (station s n.toNat).missed * 2 ^ 16 +
          (station s n.toNat).boards))) s s)) ∧
      (¬asks s n.toNat → exec (.rstatLane p n x) s = .next (raises s 0x100 0)))

/-- R249, R270, R271: RBIND and RPACE raise 0x106 outside world 0. In it RPACE of 0 or 8 to 222 sets the lane's pace and restarts its
slot periods, and any other value raises 0x105; RBIND with a descriptor in range binds an unbound lane at once, from lap 0, and a
bound lane keeps its binding until its lap ends. That an unbound lane keeps the pending binding that the end of a world left it, when it
is bound again, is the model's reading (DEDUCED, log 46). -/
def Obligations.LanesBind : Prop :=
  ∀ l r s, immediateHeld s s.cur.rid s.cur.core = false →
    (worldOf s.cur.rid ≠ 0 → (∀ p n, Ready (.rpace p n) l r s → exec (.rpace p n) s = .next (raises s 0x106 0)) ∧
      ∀ p n, Ready (.rbind p n) l r s → exec (.rbind p n) s = .next (raises s 0x106 0)) ∧
    (worldOf s.cur.rid = 0 → ∀ p n, Ready (.rpace p n) l r s →
      (l = 0 ∨ 8 ≤ l.toNat ∧ l.toNat ≤ 222 → ∃ u, exec (.rpace p n) s = .next (fired s u) ∧
        laneAt u n.toNat = { laneAt s n.toNat with pace := l.toNat, period := 0 } ∧
        (∀ m, m ≠ n.toNat → laneAt u m = laneAt s m) ∧ u.mem = s.mem) ∧
      (l ≠ 0 → l.toNat < 8 ∨ 222 < l.toNat → exec (.rpace p n) s = .next (raises s 0x105 0))) ∧
    (worldOf s.cur.rid = 0 → ∀ p n b, Ready (.rbind p n) l r s → checkLocal s (actor s) l 64 64 [0xF0] = .ok () →
      readError s 0 (homeOf s (actor s) l) 64 = none → bindingOf s (readKeys s (place s l) 64) = some b →
      ∃ u, exec (.rbind p n) s = .next (fired s u) ∧
        ((laneAt s n.toNat).bound = none → b.unbind = false →
          (laneAt u n.toNat).bound = some b ∧ (laneAt u n.toNat).pending = (laneAt s n.toNat).pending ∧ (laneAt u n.toNat).lap = 0 ∧ (laneAt u n.toNat).layer = 0 ∧ (laneAt u n.toNat).tidx = 0) ∧
        ((laneAt s n.toNat).bound ≠ none →
          (laneAt u n.toNat).bound = (laneAt s n.toNat).bound ∧ (laneAt u n.toNat).pending = some b))

/-- R249, R250, R254, R256, R352: in slot period k of a lane of pace p, with p = 0 or floor(9pk / 2000) below floor(9p(k+1) / 2000), a
bound lane whose layer's entry is read, whose home has power and whose last tile has passed the home's station injects the tile that is
due: the header and payload of a record that reads and is well formed, with the lap, layer and tile numbers of the lane. The home's own
station sees it at once, the other three are to see it; then the next tile is due, or the next layer, or the next lap. At a lap boundary a pending binding takes effect, and the next tile is the first of its
lap 0. In a period that the pace does not allow nothing is injected and every count of the lane but its periods stays. -/
def Sys2Proof.Claims.FeederInjects : Prop :=
  (∀ s lane b, (laneAt s lane).bound = some b → paceGoes (laneAt s lane).pace (laneAt s lane).period = false →
    exec (.feederInject lane) s = .next (modLane s lane ageStations)) ∧
  ∀ s lane b src nt home bs, (laneAt s lane).bound = some b → paceGoes (laneAt s lane).pace (laneAt s lane).period = true →
    (laneAt s lane).entry = some (src, nt, home) →
    (∀ t ∈ (laneAt s lane).ring, home ∉ t.2) → (dieAt s home).gate ≠ .gated → (dieAt s home).gate ≠ .powering →
    feederRead s b.world 67 (addrPlus src (Int.ofNat (4224 * (laneAt s lane).tidx))) 4224 = .ok bs →
    bytesAt bs 4160 1 < 16 → bytesAt bs 4161 1 < 2 → bytesAt bs 4162 62 = 0 →
    ∃ u t, exec (.feederInject lane) s = .next u ∧ (laneAt u lane).ring = (laneAt s lane).ring ++ [(t, (ringFrom home).drop 1)] ∧
      ((laneAt s lane).tidx + 1 ≠ nt ∨ (laneAt s lane).layer + 1 < b.nl ∨ (laneAt s lane).pending = none →
        let y := tget {} (laneAt u lane).stations home
        y.seen = true ∧ y.lap = (laneAt s lane).lap ∧ y.layer = (laneAt s lane).layer ∧ y.tidx = (laneAt s lane).tidx ∧ y.age = 0) ∧
      t.lane = lane ∧ t.world = b.world ∧ t.lap = (laneAt s lane).lap ∧ t.layer = (laneAt s lane).layer ∧ t.nl = b.nl ∧
      t.tidx = (laneAt s lane).tidx ∧ t.nt = nt ∧ t.feeder = home ∧ t.gen = (laneAt s lane).gen ∧ t.good = true ∧
      t.beats = bytesAt bs 4160 1 + 1 ∧ (t.aux = true ↔ bytesAt bs 4161 1 = 1) ∧ t.header = BitVec.ofNat 512 (natOf (bs.take 64)) ∧
      t.payload = (bs.drop 64).take (256 * t.beats) ∧ (laneAt u lane).period = (laneAt s lane).period + 1 ∧
      ((laneAt s lane).tidx + 1 ≠ nt → (laneAt u lane).tidx = (laneAt s lane).tidx + 1 ∧ (laneAt u lane).layer = (laneAt s lane).layer ∧
        (laneAt u lane).lap = (laneAt s lane).lap ∧ (laneAt u lane).entry = (laneAt s lane).entry ∧
        (laneAt u lane).bound = some b ∧ (laneAt u lane).pending = (laneAt s lane).pending) ∧
      ((laneAt s lane).tidx + 1 = nt → (laneAt u lane).tidx = 0 ∧ (laneAt u lane).entry = none ∧
        ((laneAt s lane).layer + 1 < b.nl → (laneAt u lane).layer = (laneAt s lane).layer + 1 ∧ (laneAt u lane).lap = (laneAt s lane).lap ∧
          (laneAt u lane).bound = some b ∧ (laneAt u lane).pending = (laneAt s lane).pending) ∧
        (b.nl ≤ (laneAt s lane).layer + 1 → (laneAt u lane).layer = 0 ∧ (laneAt u lane).pending = none ∧
          ((laneAt s lane).pending = none → (laneAt u lane).lap = (laneAt s lane).lap + 1 ∧ (laneAt u lane).bound = some b) ∧
          (∀ p, (laneAt s lane).pending = some p → (laneAt u lane).lap = 0 ∧
            (laneAt u lane).bound = if p.unbind then none else some p)))

/-- R252, R255, R267: a tile that has come to the station of a die passes it: it goes on to the dies that are left, or leaves the ring
after its last; a good tile of the lane's present binding sets what the station has seen, at age 0, and whether its lap has ended
there, and a bad one is counted; at a gated die (R352), and of an older binding, nothing is noted. Every board of the tile's world whose
memory tile is on the die and whose rectangle's engines act, or that is queued, sees the tile (R258, R259), and no other board changes. That a slot with a failing CRC sets
nothing of what RWHERE reads, and counts in CORRUPT alone, is log entry 45 (DEDUCED). -/
def Sys2Proof.Claims.TilesPass : Prop :=
  ∀ s lane die ok t ds rs, (laneAt s lane).ring = (t, die :: ds) :: rs →
    ∃ u, exec (.haloSlotPass lane die ok) s = .next u ∧ (laneAt u lane).ring = (if ds = [] then rs else (t, ds) :: rs) ∧
      let x := tget {} (laneAt s lane).stations die
      let y := tget {} (laneAt u lane).stations die
      ((dieAt s die).gate = .gated ∨ t.gen ≠ (laneAt s lane).gen → y = x) ∧
      ((dieAt s die).gate ≠ .gated → t.gen = (laneAt s lane).gen →
        (t.good = true → ok ≠ 0 → y.seen = true ∧ y.lap = t.lap ∧ y.layer = t.layer ∧ y.tidx = t.tidx ∧ y.age = 0 ∧
          (y.ended = true ↔ t.layer + 1 = t.nl ∧ t.tidx + 1 = t.nt)) ∧
        ((t.good = false ∨ ok = 0) → y = { x with corrupt := min (x.corrupt + 1) 65535 })) ∧
      ((allBoards s).Nodup → ∀ rid c k q b, boardAt s rid c k = some (q, b) →
        let b' := if (dieAt s die).gate ≠ .gated ∧ worldOf rid = t.world ∧ (enginesAct s rid = true ∨ b.st = .queued) ∧
            tileDie (rectAt s rid) b.tile = die then boardSees (slotAt s rid b.tile b.slot).desc b t (t.good && ok != 0) else b
        boardAt u rid c k = some ({ q with work := .board b' }, b'))

/-- R258 to R261: a queued board notes the head it misses; an armed board starts at the good head of its layer and takes the lap;
capturing, a tile of its layer and lap that finds 8 tiles in its buffer ends it as an overrun, one that finds its walk filled as short;
else it buffers each good tile whose key and layer agree, counts one that is bad or disagrees and steps its walk by 4 KiB, and ends with
the layer's last tile. That a tile which finds 8 buffered overruns, and one which finds the walk filled ends the board short, whatever
else is wrong with it, is log entry 45 (DEDUCED). -/
def Sys2Proof.Claims.CapturesTake : Prop :=
  ∀ (d : BitVec 512) (b : Board) (t : RingTile) (good : Bool), b.ending = false → t.lane = b.lane →
    (b.st = .queued → good = true → t.tidx = 0 → t.layer = b.layer → b.missedLap = some t.lap →
      boardSees d b t good = { b with missed := true }) ∧
    (b.st = .armed → (good = false ∨ t.tidx ≠ 0 ∨ t.layer ≠ b.layer) → boardSees d b t good = b) ∧
    (b.st = .armed → good = true → t.tidx = 0 → t.layer = b.layer →
      boardSees d b t good = captureTile d { b with st := .capturing, lap := t.lap } t good) ∧
    (b.st = .capturing → t.lap = b.lap → t.layer = b.layer → 8 ≤ b.buf.length →
      boardSees d b t good = { b with overrun := true, ending := true }) ∧
    (b.st = .capturing → t.lap = b.lap → t.layer = b.layer → b.buf.length < 8 → payloadLen d ≤ b.walk →
      boardSees d b t good = { b with short := true, ending := true }) ∧
    (b.st = .capturing → t.lap = b.lap → t.layer = b.layer → b.buf.length < 8 → b.walk < payloadLen d →
      (good = true → (t.aux = true ∨ hKey t.header = pKey d ∧ ivLayer t.header = t.layer) →
        (boardSees d b t good).buf = b.buf ++ [(t, b.walk, b.hdrIx)] ∧ (boardSees d b t good).walk = b.walk + 256 * t.beats ∧
        ((boardSees d b t good).ending = true ↔ t.tidx + 1 = t.nt ∨ payloadLen d < b.walk + 256 * t.beats) ∧
        ((boardSees d b t good).short = true ↔ b.short = true ∨ payloadLen d < b.walk + 256 * t.beats)) ∧
      ((good = false ∨ t.aux = false ∧ (hKey t.header ≠ pKey d ∨ ivLayer t.header ≠ t.layer)) →
        (boardSees d b t good).corrupted = b.corrupted + 1 ∧ (boardSees d b t good).walk = b.walk + 4096 ∧
        (boardSees d b t good).buf = b.buf ∧ ((boardSees d b t good).ending = true ↔ t.tidx + 1 = t.nt))) ∧
    (b.st = .capturing → good = true → (t.lap ≠ b.lap ∨ t.layer ≠ b.layer) → (boardSees d b t good).ending = true)

/-- R258, R265, R272: a queued or stopped board with nothing that blocks it and fewer than four boards active, whose slot is free and
fit, arms: its slot is held and runs. R262: an ended board at the head whose tiles are written completes with its status, and its station
counts it; R117, R138: one that failed leaves when it comes to the head, and reports its cause; R266: an RDROP with nothing ahead of it
completes, and cancels a board of its slot ahead of it. -/
def Sys2Proof.Claims.BoardsComplete : Prop :=
  (∀ s rid c k q b, boardUnit s rid c b = true → boardIs s rid c k q b →
    (b.st = .queued ∧ (slotAt s rid b.tile b.slot).held = false ∨ b.st = .stopped) → b.failed = none →
    boardBlocked (coreAt s rid c).ringq k = false → boardsActive (coreAt s rid c).ringq < 4 → boardCause s rid b = none →
    ∃ u x, exec (.boardArm rid c k) s = .next u ∧ (coreAt u rid c).ringq[k]? = some { q with work := .board x } ∧ x.st = .armed ∧
      x.buf = [] ∧ x.walk = 0 ∧ x.corrupted = 0 ∧ x.tiles = 0 ∧ (slotAt u rid b.tile b.slot).held = true ∧ (slotAt u rid b.tile b.slot).st = .running) ∧
  (∀ s rid c q b qs, boardUnit s rid c b = true → (coreAt s rid c).ringq = q :: qs → q.work = .board b → b.ending = true → b.buf = [] →
    b.st ≠ .queued → b.failed = none → plainSignal s rid q.hdr → ∃ u, exec (.boardComplete rid c 0) s = .next u ∧ (coreAt u rid c).ringq = qs ∧
      tokOf u rid q.hdr = tokOf s rid q.hdr - 1 ∧ (slotAt u rid b.tile b.slot).held = false ∧
      ((slotAt s rid b.tile b.slot).boardUid = q.hdr.uid → ((slotAt u rid b.tile b.slot).board.extractLsb' 60 4) = 4 ∧
        ((slotAt u rid b.tile b.slot).board.extractLsb' 56 4).toNat =
          if b.unbound then 3 else if b.overrun then 1 else if b.short then 4 else if b.corrupted ≠ 0 then 2 else 0) ∧
      (shows s rid b.tile b.slot q.hdr.uid → (slotAt u rid b.tile b.slot).st = .completed) ∧
      (tget {} (laneAt u b.lane).stations (tileDie (rectAt s rid) b.tile)).boards =
        min ((tget {} (laneAt s b.lane).stations (tileDie (rectAt s rid) b.tile)).boards + 1) 65535) ∧
  (∀ s rid c q b qs e a, boardUnit s rid c b = true → (coreAt s rid c).ringq = q :: qs → q.work = .board b → b.ending = true → b.buf = [] →
    b.failed = some (e, a) →
    ∃ t, exec (.boardComplete rid c 0) s = .next (failCommand t rid q.hdr e a) ∧ (coreAt t rid c).ringq = qs) ∧
  (∀ s rid c q qs t k, coreUnit s rid c = true → tileUnit s rid t = true → q.work = .rdrop t k → plainSignal s rid q.hdr →
    ((coreAt s rid c).ringq = q :: qs →
      ∃ u, exec (.rdropHead rid c) s = .next u ∧ (coreAt u rid c).ringq = qs ∧ tokOf u rid q.hdr = tokOf s rid q.hdr - 1) ∧
    (∀ p b, (coreAt s rid c).ringq = p :: q :: qs → p.work = .board b → b.tile = t → b.slot = k → b.failed = none →
      ∃ u, exec (.rdropHead rid c) s = .next u ∧ (coreAt u rid c).ringq = qs ∧
        (shows s rid t k p.hdr.uid → (slotAt u rid t k).st = .cancelled) ∧ (b.st ≠ .queued → (slotAt u rid t k).held = false)))

/-- R138, R140, R259, R260: the station writes the oldest buffered tile of a board: where the pattern takes headers and the tile is no
auxiliary one its 64-byte header at the next place of the header area, then its payload byte by byte along the walk, to the walk's end.
Each offset holds the last byte written to it, no other byte of memory changes, and the board counts the tile. Nothing holds the write:
no earlier board of the queue owes one of the bytes, none is retained, and no committed store is on its way to one. -/
def Sys2Proof.Claims.CaptureWrites : Prop :=
  ∀ s rid c k q b t n p rest (off : Nat → Nat), Memory.wf s = true → quiet s rid → tileUnit s rid b.tile = true → boardIs s rid c k q b →
    b.buf = (t, n, p) :: rest →
    let d := (slotAt s rid b.tile b.slot).desc
    let m := min t.payload.length (payloadLen d - n)
    let ha := pHdrBase d + 64 * p
    let headed := t.aux = false ∧ pHdr d = true
    let free := fun o => boardsAhead s rid c k b.tile [o] = false ∧ retainedAt s (.mt rid b.tile o) 1 = false ∧
      drainingLine s (whoCmd rid q.hdr) (tileAddr (rectAt s rid) q.hdr.core b.tile o) 1 = false ∧
      homeOf s (whoCmd rid q.hdr) (tileAddr (rectAt s rid) q.hdr.core b.tile o) = .mt rid b.tile o
    (∀ j, j < m → payloadByte s rid b.tile d none (n + j) = .ok (.byAt (off j)) ∧ free (off j)) →
    (headed → ha % 64 = 0 ∧ ha + 64 ≤ 2 ^ 21 ∧ ha + 64 ≤ (tileAt s rid b.tile).qbase ∧ ∀ j, j < 64 → free (ha + j)) →
    ∃ u, exec (.captureWrite rid c k) s = .next u ∧
      (coreAt u rid c).ringq[k]? = some { q with work := .board { b with tiles := b.tiles + 1, buf := rest } } ∧
      (∀ j, j < m → (∀ i, j < i → i < m → off i ≠ off j) → some (readKey u (Place.key (.mt rid b.tile (off j)))) = t.payload[j]?) ∧
      (headed → ∀ j, j < 64 → (∀ i, i < m → off i ≠ ha + j) →
        readKey u (Place.key (.mt rid b.tile (ha + j))) = t.header.extractLsb' (8 * j) 8) ∧
      (∀ y, (∀ j, j < m → y ≠ Place.key (.mt rid b.tile (off j))) → (headed → ∀ j, j < 64 → y ≠ Place.key (.mt rid b.tile (ha + j))) →
        readKey u y = readKey s y)

namespace Sys2Proof.Claims

/-! ### Dies and links -/

/-- The cell of a die at an offset. -/
def dieCell (s : State) (rid d off : Nat) : BitVec 256 := tget 0 (ldieAt s rid d).cells (off / 32)

end Sys2Proof.Claims

/-- R278, R280, R281: an XFENCE in one step commits and takes a free one of its 16 records (the model the lowest, log 104), which counts the unacknowledged writes of
the task to the dies of its mask, those just committed among them, and delivers SEQ, record and mask; with no record free it commits and
then raises 0x122. XWAIT of a record with nothing left to count frees it, of one that still counts waits; a word that names no record of
its task raises 0x120, one with another mask or a set reserved bit 0x121. -/
def Sys2Proof.Claims.SplitFences : Prop :=
  (∀ p m x l r s t, Ready (.xfence p m x) l r s → immediateHeld s s.cur.rid s.cur.core = false → (coreHere s).task = some t →
    ((∃ j, j < 16 ∧ tfind (coreHere s).fences j = none) →
      ∃ u i, i < 16 ∧ tfind (coreHere s).fences i = none ∧ exec (.xfence p m x) s = .next (answer (.xfence p m x)
          (some (BitVec.ofNat 64 ((coreHere s).fseq.toNat * 2 ^ 32 + i * 4096 + m.toNat))) s u) ∧
        tfind (coreAt u s.cur.rid s.cur.core).fences i = some
          ⟨(coreHere s).fseq, m, t.uid, (writesOut u s.cur.rid t.uid).filter fun w => m.getLsbD w.1⟩ ∧
        (∀ j, j ≠ i → tfind (coreAt u s.cur.rid s.cur.core).fences j = tfind (coreHere s).fences j) ∧
        (coreAt u s.cur.rid s.cur.core).fseq = (coreHere s).fseq + 1 ∧
        (coreAt u s.cur.rid s.cur.core).drain = (coreHere s).drain ++ ((coreHere s).entries.filter fun e => e.task == t.uid).map
          (fun e => { entry := e, rcd := t.rcd, commit := s.nextId }) ∧
        (coreAt u s.cur.rid s.cur.core).entries = (coreHere s).entries.filter (fun e => e.task != t.uid) ∧
        (∀ a, readKey u a = readKey s a)) ∧
    ((∀ j, j < 16 → tfind (coreHere s).fences j ≠ none) →
      (partDone s = false → exec (.xfence p m x) s = .next (commitPart s)) ∧
      (partDone s = true → exec (.xfence p m x) s = .next (raises s 0x122 0)))) ∧
  (∀ p l r s, Ready (.xwait p) l r s → l.extractLsb' 16 16 = 0 → l.extractLsb' 5 7 = 0 →
    (∀ f, tfind (coreHere s).fences (l.extractLsb' 12 4).toNat = some f → f.task = actorUid s → f.seq = l.extractLsb' 32 32 →
      (f.mask ≠ l.extractLsb' 0 5 → exec (.xwait p) s = .next (raises s 0x121 0)) ∧
      (f.mask = l.extractLsb' 0 5 → f.waits = [] → exec (.xwait p) s = .next (fired s (modCore s s.cur.rid s.cur.core fun k =>
        { k with fences := tdel k.fences (l.extractLsb' 12 4).toNat }))) ∧
      (f.mask = l.extractLsb' 0 5 → f.waits ≠ [] → exec (.xwait p) s = .next s)) ∧
    ((∀ f, tfind (coreHere s).fences (l.extractLsb' 12 4).toNat = some f → f.task ≠ actorUid s ∨ f.seq ≠ l.extractLsb' 32 32) →
      exec (.xwait p) s = .next (raises s 0x120 0))) ∧
  (∀ p l r s, Ready (.xwait p) l r s → l.extractLsb' 16 16 ≠ 0 ∨ l.extractLsb' 5 7 ≠ 0 → exec (.xwait p) s = .next (raises s 0x121 0))

/-- R282 to R284: XSEM and COLL whose words are in range enter the cross-die queue of their core and count on their token; XSEM waits for
the writes of its task that are not acknowledged. -/
def Sys2Proof.Claims.CrossDieQueues : Prop :=
  (∀ p g k l r s sem, Ready (.xsem p g k) l r s → cmdFree s k.toNat → checkLocal s (actor s) l 4 4 [0xF3] = .ok () →
    r.extractLsb' 46 18 = 0 → semWord s r g sem →
    exec (.xsem p g k) s = .next (fired s (modCore (counted s k.toNat) s.cur.rid s.cur.core fun q =>
      { q with xdieq := q.xdieq ++ [{ hdr := cmdHdr s k.toNat sem, work := .xsem (addrDie l) (addrSem l) (r.extractLsb' 0 32),
                                      waits := (writesOut s s.cur.rid (actorUid s)).map (·.2) }] }))) ∧
  (∀ p m g k l r s sem red i, (i = .collReduce p m g k ∧ red = true ∨ i = .collBcast p m g k ∧ red = false) → Ready i l r s →
    cmdFree s k.toNat → checkLocal s (actor s) l (32 * ((r.extractLsb' 0 16).toNat + 1)) 32 [0xF4] = .ok () →
    r.extractLsb' 16 16 = 0 → r.extractLsb' 46 18 = 0 → semWord s r g sem →
    (∀ d, d < 4 → m.getLsbD d = true → d ≠ addrDie l →
      addrOff l + 32 * ((r.extractLsb' 0 16).toNat + 1) ≤ (ldieAt s s.cur.rid d).cellwin) →
    exec i s = .next (fired s (modCore (counted s k.toNat) s.cur.rid s.cur.core fun q =>
      { q with xdieq := q.xdieq ++ [{ hdr := cmdHdr s k.toNat sem,
                                      work := .coll red (addrDie l) (addrOff l) ((r.extractLsb' 0 16).toNat + 1) m }] })))

/-- R98, R283, R284: an XSEM at the head whose writes are acknowledged adds to its semaphore and completes. A collective over COUNT cells, each
of the same L on every die of its mask and the root, adds the participants' W into the root's, cell by cell, and ORs their flags into
it, or copies the root's cells to each participant, and completes; no other cell of a die that its mask names not, and none outside its
range, changes. One stops at its first cell at which the weights differ, with 0x124 and the address of such a cell, or that meets bad or
poisoned data, with 0x081 or 0x082, and no cell changes. -/
def Sys2Proof.Claims.CollectivesExecute : Prop :=
  (∀ s rid c q qs d i delta, coreUnit s rid c = true → (coreAt s rid c).xdieq = q :: qs → q.work = .xsem d i delta → q.waits = [] →
    plainSignal s rid q.hdr → semRuns s rid d = true →
    ∃ u, exec (.xsemAddPerform rid c) s = .next u ∧ semAt u rid d i = semAt s rid d i + delta ∧ (coreAt u rid c).xdieq = qs ∧
      tokOf u rid q.hdr = tokOf s rid q.hdr - 1) ∧
  (∀ s rid c q qs red root off n mask, coreUnit s rid c = true → (coreAt s rid c).xdieq = q :: qs → q.work = .coll red root off n mask →
    root < 4 → off % 32 = 0 → off + 32 * n ≤ 2 ^ 26 → plainSignal s rid q.hdr → (∀ d, d < 4 → semRuns s rid d = true) →
    (∀ d, d < 4 → drainingLine s (mover rid q.hdr) (cellAddr d off) (32 * n) = false) →
    let takes := fun d => d < 4 ∧ mask.getLsbD d = true ∧ d ≠ root
    let sound := fun i d => dataError s (cellKey rid d (off / 32 + i)) 1 = none
    let weight := fun i d => (dieCell s rid d (off + 32 * i)).extractLsb' 192 16 = (dieCell s rid root (off + 32 * i)).extractLsb' 192 16
    let whole := fun i => ∀ d, takes d ∨ d = root → sound i d
    let agree := fun i => ∀ d, takes d → weight i d
    ((∀ i, i < n → whole i ∧ agree i) → ∃ u, exec (.collExecute rid c) s = .next u ∧ (coreAt u rid c).xdieq = qs ∧ tokOf u rid q.hdr = tokOf s rid q.hdr - 1 ∧
      (red = true → ∀ i, i < n →
        let ds := (List.range 4).filter fun d => mask.getLsbD d && d != root
        (dieCell u rid root (off + 32 * i)).extractLsb' 0 192 = (dieCell s rid root (off + 32 * i)).extractLsb' 0 192 +
          (ds.map fun d => (dieCell s rid d (off + 32 * i)).extractLsb' 0 192).sum ∧
        (dieCell u rid root (off + 32 * i)).extractLsb' 192 16 = (dieCell s rid root (off + 32 * i)).extractLsb' 192 16 ∧
        ∀ f, 208 ≤ f → f ≤ 210 → ((dieCell u rid root (off + 32 * i)).getLsbD f = true ↔
          (dieCell s rid root (off + 32 * i)).getLsbD f = true ∨ ∃ d ∈ ds, (dieCell s rid d (off + 32 * i)).getLsbD f = true)) ∧
      (red = false → ∀ i d, i < n → takes d → dieCell u rid d (off + 32 * i) = dieCell s rid root (off + 32 * i)) ∧
      (∀ d k, (k < off / 32 ∨ off / 32 + n ≤ k ∨ (if red then d ≠ root else ¬takes d)) →
        tget 0 (ldieAt u rid d).cells k = tget 0 (ldieAt s rid d).cells k)) ∧
    (∀ i, i < n → (∀ j, j < i → whole j ∧ agree j) →
      (whole i → ¬agree i → ∃ t d, takes d ∧ ¬weight i d ∧
        exec (.collExecute rid c) s = .next (failCommand t rid q.hdr 0x124 (cellAddr d (off + 32 * i))) ∧ (coreAt t rid c).xdieq = qs ∧
          ∀ d, (ldieAt t rid d).cells = (ldieAt s rid d).cells) ∧
      ((∃ d, (takes d ∨ d = root ∧ (red = true ∨ ∃ d, takes d)) ∧ ¬sound i d) → agree i →
        ∃ t e a, exec (.collExecute rid c) s = .next (failCommand t rid q.hdr e a) ∧ (e = 0x081 ∨ e = 0x082) ∧
          (coreAt t rid c).xdieq = qs ∧ ∀ d, (ldieAt t rid d).cells = (ldieAt s rid d).cells)))

/-- R275, R276, R331, R332, R350, R351: a flit that no earlier flit of its virtual channel and its pair of tiles stands before, and whose
CRC holds, leaves its link, and passes a port of the rectangle it enters only with that rectangle's world and, on the tile network, a
destination inside it; one that the port drops is counted. A failing CRC, at first or in a replay, keeps the flit; after 16 failed
replays of a flit nothing passes the link until it has retrained, and it goes on in order when it is done. While the clock of a
die at either end of the link stands still nothing of it changes (R350); that a drop waits for every clock of the device is the model's
reading (log 63). -/
def Obligations.LinksCarry : Prop :=
  (∀ s n k, (linkAt s n).retraining = true ∨ (∃ f ∈ (linkAt s n).flits, 17 ≤ f.fails) →
    exec (.flitReceive n k) s = .next s ∧ exec (.flitCrcReplay n) s = .next s) ∧
  (∀ s n k, (∃ d ∈ linkDies n, (dieAt s d).relock = true) ∨
      (∃ f ∈ (linkAt s n).flits, (dieAt s (pageDie (f.enterX / 4) (f.enterY / 4))).relock = true) →
    exec (.flitReceive n k) s = .next s ∧ exec (.flitCrcReplay n) s = .next s ∧ exec (.linkRetrain n) s = .next s ∧
    exec (.linkRetrainDone n) s = .next s) ∧
  (∀ s n k f, (linkAt s n).flits[k]? = some f → (linkAt s n).retraining = false → (∀ g ∈ (linkAt s n).flits, g.fails < 17) →
    linkRuns s n = true →
    (∀ j g, j < k → (linkAt s n).flits[j]? = some g → (g.vc, g.srcX, g.srcY, g.dx, g.dy) ≠ (f.vc, f.srcX, f.srcY, f.dx, f.dy)) →
    (portPasses s f = true ↔ ∃ rid r, rectOfPage s (f.enterX / 4) (f.enterY / 4) = some (rid, r) ∧ worldOf rid = f.world ∧
      (f.dieNet = true ∨ (4 * r.ax : Int) ≤ f.srcX + f.dx ∧ f.srcX + f.dx < (4 * (r.ax + r.w) : Int) ∧
        (4 * r.ay : Int) ≤ f.srcY + f.dy ∧ f.srcY + f.dy < (4 * (r.ay + r.h) : Int))) ∧
    (portPasses s f = true → exec (.flitReceive n (2 * k + 1)) s = .next (modLink s n fun l => { l with flits := dropAt l.flits k })) ∧
    (portPasses s f = false → f.owner = none → clocksRun s = true → ∃ u, exec (.flitReceive n (2 * k + 1)) s = .next u ∧
      (linkAt u n).flits = dropAt (linkAt s n).flits k ∧
      (dieAt u (pageDie (f.enterX / 4) (f.enterY / 4))).drops = countDrop (dieAt s (pageDie (f.enterX / 4) (f.enterY / 4))).drops f) ∧
    exec (.flitReceive n (2 * k)) s = .next (modLink s n fun l =>
      { l with flits := modAt l.flits k fun f => { f with fails := f.fails + 1 } })) ∧
  (∀ s n k f, (linkAt s n).flits[k]? = some f → (linkAt s n).retraining = false → (∀ g ∈ (linkAt s n).flits, g.fails < 17) → 0 < f.fails →
    linkRuns s n = true →
    (∀ j g, j < k → (linkAt s n).flits[j]? = some g → g.fails = 0) →
    exec (.flitCrcReplay n) s = .next (modLink s n fun l =>
      { l with flits := modAt l.flits k fun f => { f with fails := f.fails + 1 } })) ∧
  (∀ s n, (linkAt s n).retraining = false → (∃ f ∈ (linkAt s n).flits, 17 ≤ f.fails) → linkRuns s n = true →
    exec (.linkRetrain n) s = .next (modLink s n fun l =>
    { l with retraining := true, flits := l.flits.map fun f => { f with fails := 0 }, retrains := min 65535 (l.retrains + 1) })) ∧
  (∀ s n, linkRuns s n = true → exec (.linkRetrainDone n) s = .next (modLink s n fun l => { l with retraining := false }))


namespace Sys2Proof.Claims

/-! ### Leases -/

/-- No extent is on its way out. -/
def noneLeaving (s : State) : Prop := ∀ x ∈ s.extents, x.2.leaving = false

/-- No core holds a parked write (R103). -/
def noneParked (s : State) : Prop := ∀ r ∈ s.rects, ∀ k ∈ r.2.cores, k.2.replay = []

/-- A run of granules that exist on a die that is up, are free of every range entry, and whose tables have room (R333, R352). -/
def freeRun (s : State) (tier base len : Nat) : Prop :=
  granulesExist s tier base len = true ∧ stackUp s tier base = true ∧ entriesOn s tier base len = [] ∧ tableFull s tier base len = false

/-- Every channel of a run serves a world there (R333). -/
def granted (s : State) (w tier base len : Nat) : Prop :=
  ∀ c ∈ channelsOf tier base len, ∃ e ∈ tget [] s.ranges c, e.world = w ∧ e.first = base ∧ e.last = base + len - 1

/-- The extent table and everything but the range tables stay. -/
def onlyExtent (s t : State) (n : Nat) (e : Extent) : Prop :=
  t = { s with extents := tset s.extents n e, ranges := t.ranges }

end Sys2Proof.Claims

/-- R100, R333, R337: a request to add an extent whose granules exist and are free, disjoint from the others of an enabled world, adds it
and enters its granules in their channels' tables; where a table entry meets them the extent points at them and no table changes, and
where a protected entry does the refusal of the grant is reported. That a run of which some granule is taken is granted none is log
entry 55 (DEDUCED). Granules of a die that is not up are given to nobody (R352, log entry 64). A
request to remove an extent of an unprotected world removes it once nothing uses it, and marks it until then; one to move it starts a
migration; a request to remove an extent of a protected world, or to move protected granules or move onto them, changes nothing and is
reported. Every request waits for every clock of the device (R350; that it does is the model's: DEDUCED, log 63). -/
def Sys2Proof.Claims.ExtentRequests : Prop :=
  (∀ s op w tier rights vbase pbase len, clocksRun s = false → exec (.leaseExtentRequest op w tier rights vbase pbase len) s = .next s) ∧
  ∀ s, noneLeaving s → clocksRun s = true →
    (∀ w tier rights vbase pbase len, (worldAt s w).st ≠ .disabled → w < 64 → 0 < len → len ≤ 1048576 → vbase + len ≤ 2 ^ 35 →
      (∀ x ∈ s.extents, x.2.world = w → vbase + len ≤ x.2.vbase ∨ x.2.vbase + x.2.len ≤ vbase) → s.extents.length < 16384 →
      freeRun s tier pbase len →
      ∃ t n, exec (.leaseExtentRequest 0 w tier rights vbase pbase len) s = .next t ∧ granted t w tier pbase len ∧ t.mem = s.mem ∧
        tfind t.extents n = some { world := w, tier := tier, rd := rights % 2 == 1, wr := rights / 2 % 2 == 1, pins := 0,
                                   vbase := vbase, pbase := pbase, len := len, granted := true }) ∧
    (∀ w tier rights vbase pbase len, (worldAt s w).st ≠ .disabled → w < 64 → 0 < len → len ≤ 1048576 → vbase + len ≤ 2 ^ 35 →
      (∀ x ∈ s.extents, x.2.world = w → vbase + len ≤ x.2.vbase ∨ x.2.vbase + x.2.len ≤ vbase) → s.extents.length < 16384 →
      granulesExist s tier pbase len = true → stackUp s tier pbase = true → tableFull s tier pbase len = false →
      entriesOn s tier pbase len ≠ [] →
      ∃ t n, exec (.leaseExtentRequest 0 w tier rights vbase pbase len) s = .next t ∧ t.ranges = s.ranges ∧ t.mem = s.mem ∧
        ((∃ x ∈ entriesOn s tier pbase len, x.prot = true) → t.outs = s.outs ++ [.refused w vbase]) ∧
        ((∀ x ∈ entriesOn s tier pbase len, x.prot = false) → t.outs = s.outs) ∧
        tfind t.extents n = some { world := w, tier := tier, rd := rights % 2 == 1, wr := rights / 2 % 2 == 1, pins := 0,
                                   vbase := vbase, pbase := pbase, len := len, granted := false }) ∧
    (∀ w tier rights vbase pbase len, stackUp s tier pbase = false →
      exec (.leaseExtentRequest 0 w tier rights vbase pbase len) s = .next s) ∧
    (∀ w n e a b c d, extentOf s w b = some (n, e) → isProtected s w = false →
      (∀ x ∈ entriesOn s e.tier e.pbase e.len, x.world = w → x.prot = false) →
      ∃ t, exec (.leaseExtentRequest 1 w a c b d 0) s = .next t ∧
        (unused s e = true → ∀ x ∈ t.extents, x.1 ≠ n) ∧ (unused s e = false → tfind t.extents n = some { e with leaving := true }) ∧
        (e.clean = false → t.mem = s.mem)) ∧
    (∀ w n e a b c d, extentOf s w b = some (n, e) → protEntry s e = false →
      (∀ x ∈ entriesOn s a d e.len, x.prot = false) → exec (.leaseExtentRequest 2 w a c b d 0) s = exec (.migrationStart n a d) s) ∧
    (∀ w n e a b c d, extentOf s w b = some (n, e) →
      (isProtected s w = true ∨ protEntry s e = true → exec (.leaseExtentRequest 1 w a c b d 0) s = .next (emit s (.refused w b))) ∧
      (protEntry s e = true ∨ (∃ x ∈ entriesOn s a d e.len, x.prot = true) → exec (.leaseExtentRequest 2 w a c b d 0) s = .next (emit s (.refused w b))))

/-- R102 to R104: a migration of an extent granted to its world to free granules records their counters and keeps its mapping; its window opens; the commit
instant with every counter unchanged and no pin moves the bytes and the mapping together, and one with a changed counter or a pin, or a
copy that lasts too long, leaves the extent where it was. The start and the end of a copy wait for every clock (DEDUCED, log 63). -/
def Obligations.MigrationsRun : Prop :=
  (∀ s n e tier base, tfind s.extents n = some e → e.granted = true → e.mig = none → e.leaving = false → freeRun s tier base e.len →
    clocksRun s = true →
    ∃ t, exec (.migrationStart n tier base) s = .next t ∧ granted t e.world tier base e.len ∧
      onlyExtent s t n { e with mig := some ⟨tier, base,
        (List.range e.len).map fun i => tget 0 s.versions (versionKey e.tier (e.pbase + i)), false⟩ }) ∧
  (∀ s n e m, tfind s.extents n = some e → e.mig = some m →
    exec (.switchOverWindow n) s = .next { s with extents := tset s.extents n { e with mig := some { m with window := true } } }) ∧
  (∀ s n e m, Memory.wf s = true → noneParked s → tfind s.extents n = some e → e.mig = some m → m.window = true → stacksRun s e m = true →
    (e.pins = 0 → m.versions = ((List.range e.len).map fun i => tget 0 s.versions (versionKey e.tier (e.pbase + i))) →
      ∃ t, exec (.migrationCommit n) s = .next t ∧
        tfind t.extents n = some { e with tier := m.tier, pbase := m.base, mig := none } ∧
        (∀ i, i < e.len * 0x200000 →
          readKey t (Place.key (.glob m.tier (m.base * 0x200000)) + i) = readKey s (Place.key (.glob e.tier (e.pbase * 0x200000)) + i)) ∧
        ∀ k, k < Place.key (.glob m.tier (m.base * 0x200000)) ∨ Place.key (.glob m.tier (m.base * 0x200000)) + e.len * 0x200000 ≤ k →
          readKey t k = readKey s k) ∧
    (e.pins ≠ 0 ∨ m.versions ≠ ((List.range e.len).map fun i => tget 0 s.versions (versionKey e.tier (e.pbase + i))) →
      ∃ t, exec (.migrationCommit n) s = .next t ∧ onlyExtent s t n { e with mig := none })) ∧
  (∀ s n e m, noneParked s → tfind s.extents n = some e → e.mig = some m → m.window = false → clocksRun s = true →
    ∃ t, exec (.migrationTimeout n) s = .next t ∧ onlyExtent s t n { e with mig := none })

/-- R337, R341: asking a world for granules sets RELCNT and WSTAT bit 16 and raises its vector, or is held while the world is FROZEN; an
ACCEPT over its session clears both and gives up each listed extent that nothing uses, whose bytes then read zero where they
were granted to it, and are reported free; it waits for every clock (DEDUCED, log 63). -/
def Sys2Proof.Claims.ReleasesAsked : Prop :=
  (∀ s w n, 0 < w → w < 64 → 0 < n → n < 2 ^ 32 → (worldAt s w).st ≠ .disabled →
    ((worldAt s w).st ≠ .frozen → ∃ t, exec (.relreq w n) s = .next t ∧ (worldAt t w).relcnt = BitVec.ofNat 32 n ∧
      (worldAt t w).relpend = true ∧ (∀ v, v ≠ w → worldAt t v = worldAt s v) ∧ t.mem = s.mem ∧
      t.outs = s.outs ++ (if (worldAt s w).eqvec.getLsbD 7 then [.irq w ((worldAt s w).eqvec.toNat % 32)] else [])) ∧
    ((worldAt s w).st = .frozen →
      exec (.relreq w n) s = .next (modWorld s w fun q => { q with relheld := BitVec.ofNat 32 n }))) ∧
  (∀ s w exts, noneLeaving s → clocksRun s = true → (worldAt s w).session = true → (worldAt s w).st ≠ .disabled →
    (∀ x ∈ s.extents, x.2.world = w → (x.2.vbase, x.2.len) ∈ exts → unused s x.2 = true) →
    ∃ t, exec (.accept w exts) s = .next t ∧ (worldAt t w).relcnt = 0 ∧ (worldAt t w).relpend = false ∧
      (∀ x ∈ t.extents, ¬(x.2.world = w ∧ (x.2.vbase, x.2.len) ∈ exts)) ∧
      (∀ x ∈ s.extents, x.2.world = w → (x.2.vbase, x.2.len) ∈ exts → x.2.granted = true →
        .freed x.2.tier x.2.pbase x.2.len ∈ t.outs ∧ (x.2.tier ≠ 2 → ∀ i, i < x.2.len * 0x200000 →
          readKey t (Place.key (.glob x.2.tier (x.2.pbase * 0x200000)) + i) = 0)))

namespace Sys2Proof.Claims

/-! ### The launch queue -/

/-- A packet of a kind stands at the head of a world's queue, may be taken, and is well formed. -/
def headIs (s : State) (w kind : Nat) (bs : List Byte) : Prop :=
  headPacket s w = some bs ∧ pktKind bs = kind ∧ badPacket s w bs = false

/-- The rectangle a packet names. -/
def pktRid (w : Nat) (bs : List Byte) : Nat := 8 * w + pktRect bs

/-- What a completed packet puts out (R344). -/
def irqOf (w : Nat) (bs : List Byte) : List Out := match pktIrq bs with | some v => [.irq w v] | none => []

/-- The packet has been taken: LQHEAD is one higher, and the rotation goes on after its world. -/
def taken (s t : State) (w : Nat) : Prop := (worldAt t w).lqhead = (worldAt s w).lqhead + 1 ∧ t.turn = w

/-- The record of a TASK packet: bytes 14 and 15 zeroed (R345). -/
def packetRecord (bs : List Byte) : BitVec 512 := BitVec.ofNat 512 (natOf (bs.take 14 ++ [0, 0] ++ bs.drop 16))

/-- The input queue of a record's stage. -/
def recordQueue (s : State) (rid : Nat) (rcd : BitVec 512) : Nat := inputQueue s rid (recStage rcd)

/-- COPY and BARRIER packets that count against the 16 (R347). -/
def counts (s : State) (w : Nat) : Nat :=
  ((worldAt s w).pkts.filter fun k => match k.work with | .barrier _ _ h => !h | _ => true).length

end Sys2Proof.Claims

/-- R343, R347: NOTIFY sets the tail of an enabled function's queue; one that would stand more than the queue size ahead of LQHEAD is
ignored and posted with cause 0x0A3. LQBASE and LQSIZE are written while the queue is empty and EQBASE and EQSIZE while the error queue is, a base without
its low 12 bits (log entry 81, DESIGN CHOICE) and a size of 5 bits (log entry 50, DEDUCED: R343 gives its field bits 3:0 and values up
to 16); EQHEAD and EQVEC are written as given. -/
def Sys2Proof.Claims.RegistersWrite : Prop :=
  ∀ s fn v, fn < 64 → (worldAt s fn).st ≠ .disabled →
    ((BitVec.ofNat 32 v - (worldAt s fn).lqhead).toNat ≤ (if 6 ≤ (worldAt s fn).lqsize ∧ (worldAt s fn).lqsize ≤ 16 then 2 ^ (worldAt s fn).lqsize else 0) →
      exec (.notify fn v) s = .next (modWorld s fn fun q => { q with lqtail := BitVec.ofNat 32 v })) ∧
    ((if 6 ≤ (worldAt s fn).lqsize ∧ (worldAt s fn).lqsize ≤ 16 then 2 ^ (worldAt s fn).lqsize else 0) <
        (BitVec.ofNat 32 v - (worldAt s fn).lqhead).toNat →
      exec (.notify fn v) s = .next (post s fn { cause := 0x0A3, kind := 4 })) ∧
    ((worldAt s fn).lqhead = (worldAt s fn).lqtail →
      exec (.registerWrite fn 0x000 v) s = .next (modWorld s fn fun q => { q with lqbase := BitVec.ofNat 64 (v % 2 ^ 64 / 4096 * 4096) }) ∧
      exec (.registerWrite fn 0x008 v) s = .next (modWorld s fn fun q => { q with lqsize := v % 32 })) ∧
    ((worldAt s fn).eqhead = (worldAt s fn).eqtail →
      exec (.registerWrite fn 0x020 v) s = .next (modWorld s fn fun q => { q with eqbase := BitVec.ofNat 64 (v % 2 ^ 64 / 4096 * 4096) }) ∧
      exec (.registerWrite fn 0x028 v) s = .next (modWorld s fn fun q => { q with eqsize := v % 32 })) ∧
    (exec (.registerWrite fn 0x038 v) s = .next (modWorld s fn fun q => { q with eqhead := BitVec.ofNat 32 v }) ∧
     exec (.registerWrite fn 0x048 v) s = .next (modWorld s fn fun q => { q with eqvec := BitVec.ofNat 8 v &&& 0x9F }) ∧
     exec (.registerWrite fn 0x018 v) s = .next s ∧ exec (.registerWrite fn 0x030 v) s = .next s ∧
     exec (.registerWrite fn 0x040 v) s = .next s ∧ exec (.registerWrite fn 0x050 v) s = .next s)

/-- R154, R328, R344, R345, R347: a TASK at the head of a queue pushes its record, bytes 14 and 15 zeroed, to the input queue of its
stage, or to that queue's spill area where the queue has no room or the area holds records; a
SIGNAL adds its delta to its semaphore; a BARRIER whose conditions hold completes at once, and one whose conditions do not joins the
outstanding packets, as a COPY does while fewer than 16 are; each is taken, and each that completes raises its vector. A TASK waits for the
clock of its queue and for what holds a write to its spill area, a SIGNAL for the clock of its semaphore (R103, R350, log entry 63). -/
def Sys2Proof.Claims.PacketsTaken : Prop :=
  ∀ s w bs, isMoving s (pktRid w bs) = false →
    (headIs s w 0 bs → checkRecord s (pktRid w bs) (packetRecord bs) = none →
      let q := queueAt s (pktRid w bs) (recordQueue s (pktRid w bs) (packetRecord bs))
      let straight := q.spill = [] ∧ roomFor q 0 = true
      taskWaits s w bs = false → (straight ∨ q.spill.length < 8 * q.cap) →
      ∃ t, exec (.pktTask w) s = .next t ∧ taken s t w ∧ t.outs = s.outs ++ irqOf w bs ∧
        let p := queueAt t (pktRid w bs) (recordQueue s (pktRid w bs) (packetRecord bs))
        (straight → p.recs = q.recs ++ [packetRecord bs] ∧ p.spill = [] ∧ t.mem = s.mem) ∧
        (¬straight → p.recs = q.recs ∧ p.spill = q.spill ++ [packetRecord bs] ∧ (q.spillGlobal = false → t.mem = s.mem))) ∧
    (∀ d i, headIs s w 4 bs → Machine.semWord (field bs 16 2) = some (d, i) → semRuns s (pktRid w bs) d = true →
      ∃ t, exec (.pktSignal w) s = .next t ∧ taken s t w ∧
        semAt t (pktRid w bs) d i = semAt s (pktRid w bs) d i + BitVec.ofNat 32 (field bs 20 4)) ∧
    (headIs s w 2 bs → pktHold bs = true ∨ counts s w < 16 →
      ∃ t, exec (.pktBarrier w) s = .next t ∧ taken s t w ∧ t.mem = s.mem ∧
        ((∀ c ∈ barrierConds bs, (c.2.2).toInt ≤ (semAt s (pktRid w bs) c.1 c.2.1).toInt) →
          t.outs = s.outs ++ irqOf w bs ∧ (worldAt t w).pkts = (worldAt s w).pkts) ∧
        ((∃ c ∈ barrierConds bs, (semAt s (pktRid w bs) c.1 c.2.1).toInt < (c.2.2).toInt) →
          t.outs = s.outs ∧ (worldAt t w).pkts = (worldAt s w).pkts ++
            [{ id := s.nextId, work := .barrier (pktRect bs) (barrierConds bs) (pktHold bs), irq := pktIrq bs }])) ∧
    (headIs s w 3 bs → counts s w < 16 →
      ∃ t, exec (.pktCopy w) s = .next t ∧ taken s t w ∧ t.mem = s.mem ∧ t.outs = s.outs ∧
        (worldAt t w).pkts = (worldAt s w).pkts ++ [⟨s.nextId,
          .copy (pktRect bs) (BitVec.ofNat 64 (field bs 0 8)) (BitVec.ofNat 64 (field bs 16 8)) (field bs 24 4)
            (Machine.semWord (field bs 28 2)) 0 false, pktIrq bs⟩])

/-- R241, R345: a host COPY that has been checked moves its next piece, up to 4 KiB inside one extent at each end, in whole 8-byte units
where both addresses are aligned: the destination then holds the source's bytes and no other byte changes; its progress goes up, and
after the last piece the packet leaves the outstanding ones. -/
def Sys2Proof.Claims.HostCopies : Prop :=
  ∀ s w k p rect dst src len prog n, Memory.wf s = true → (worldAt s w).pkts[k]? = some p → p.work = .copy rect dst src len none prog true →
    isMoving s (8 * w + rect) = false → (worldAt s w).st ≠ .frozen → prog < len →
    let a := addrPlus src (Int.ofNat prog)
    let b := addrPlus dst (Int.ofNat prog)
    let ask := if dst.toNat % 8 = 0 ∧ src.toNat % 8 = 0 then max 8 (n / 8 * 8) else n
    let m := min (min ask 4096) (min (len - prog) (min (extentRest s w a) (extentRest s w b)))
    writeHeld s (whoHost w) b m = false → readError s w (homeOf s (whoHost w) a) m = none → served s w (homeOf s (whoHost w) b) m = true →
    ∃ t, exec (.hostCopyComplete w k n) s = .next t ∧
      readKeys t (homeOf s (whoHost w) b).key m = readKeys s (homeOf s (whoHost w) a).key m ∧
      (∀ x, x < (homeOf s (whoHost w) b).key ∨ (homeOf s (whoHost w) b).key + m ≤ x → readKey t x = readKey s x) ∧
      (prog + m = len → (worldAt t w).pkts = (worldAt s w).pkts.filter (fun q => q.id != p.id)) ∧
      (prog + m < len → (∀ q ∈ (worldAt s w).pkts, q.id = p.id → q = p) → (worldAt t w).pkts = (worldAt s w).pkts.map fun q =>
        if q.id = p.id then { p with work := .copy rect dst src len none (prog + m) true } else q)


namespace Sys2Proof.Claims

/-! ### Placing, releasing, stopping and moving rectangles -/

/-- A PLACE of an OP stands at the head of a world's queue, names a rectangle that is live or free as the OP asks, and its result
word can be written with every clock running (R346, log 63). -/
def placeReady (s : State) (w op : Nat) (bs : List Byte) : Prop :=
  Memory.wf s = true ∧ w < 64 ∧ headIs s w 1 bs ∧ placeOp bs = op ∧ (rectAt s (pktRid w bs)).live = decide (op ≠ 0) ∧ placeWaits s w bs = false ∧
  translate s (whoHost w) (pktRes bs) 8 8 .write [0] = .ok () ∧ served s w (homeOf s (whoHost w) (pktRes bs)) 8 = true

/-- The image a PLACE names passes every check of R321, and (c,r) is its anchor. -/
def placeable (s : State) (w : Nat) (bs : List Byte) (m : Image) (bases : List Nat) (c r : Nat) : Prop :=
  (∃ img, loadImage s w (BitVec.ofNat 64 (field bs 0 8)) = .ok (img, m)) ∧
  basesOf s w m (BitVec.ofNat 64 (field bs 16 8)) = some bases ∧ placeCause s w m bases = none ∧ firstAnchor s m = some (c, r) ∧
  fits s none (newDies m c r) ((diesAt m.w m.h c r).map fun d => (d, d)) (diesAt m.w m.h c r) = true ∧
  (m.patterns.any fun p => badDescriptor p.desc) = false ∧ (writeRegions s w m bases).2 = true

/-- The key of the result word. -/
def resKey (s : State) (w : Nat) (bs : List Byte) : Nat := (homeOf s (whoHost w) (pktRes bs)).key

/-- The result word stands at RESADDR, the packet has been taken, and its vector was raised last. -/
def answered (s t : State) (w : Nat) (bs : List Byte) (v : Nat) : Prop :=
  readNat t (resKey s w bs) 8 = v ∧ taken s t w ∧ ∃ os, t.outs = os ++ irqOf w bs

/-- Every byte but the result word is as before. -/
def onlyResult (s t : State) (w : Nat) (bs : List Byte) : Prop :=
  ∀ x, x < resKey s w bs ∨ resKey s w bs + 8 ≤ x → readKey t x = readKey s x

end Sys2Proof.Claims

/-- R13, R144, R321, R322, R346: PLACE of an image that passes every check of R321 places it at the first anchor that takes it, with the
anchor as its result: a live rectangle of the image's pages there, each core in the stage that R144 gives it, idle, with zero registers
and HVEC at word 15,360; one that fails a check leaves no rectangle and gives a status of 1 to 9, of the image's checks first. -/
def Sys2Proof.Claims.PlaceImages : Prop :=
  ∀ s w bs, placeReady s w 0 bs →
    (∀ m bases c r, placeable s w bs m bases c r → ∃ t, exec (.placeImage w) s = .next t ∧
      answered s t w bs (c * 256 + r * 65536) ∧ (rectAt t (pktRid w bs)).live = true ∧
      (rectAt t (pktRid w bs)).ax = c ∧ (rectAt t (pktRid w bs)).ay = r ∧
      (rectAt t (pktRid w bs)).w = m.w ∧ (rectAt t (pktRid w bs)).h = m.h ∧
      ∀ k, k < 8 * m.w * m.h → (coreAt t (pktRid w bs) k).stage = stageOfCore m.stages (8 * m.w * m.h) k ∧
        (coreAt t (pktRid w bs) k).csr.hvec = 0x8000000000003C00 ∧ (coreAt t (pktRid w bs) k).g = [] ∧
        (coreAt t (pktRid w bs) k).v = [] ∧ (coreAt t (pktRid w bs) k).phase = .idle) ∧
    ((∀ m bases c r, ¬placeable s w bs m bases c r) → ∃ t e, exec (.placeImage w) s = .next t ∧ 1 ≤ e ∧ e ≤ 9 ∧
      answered s t w bs e ∧ (rectAt t (pktRid w bs)).live = false ∧
      ∀ x, loadImage s w (BitVec.ofNat 64 (field bs 0 8)) = .error x → e = x)

/-- R339, R346: PLACE Release of a live rectangle frees it: its scratchpads, memory tiles, windows and instruction stores read zero and
none of its cells has a data error; nothing is left of the rectangle, no core, tile, queue, token, semaphore or engine command that could
signal; every other rectangle stays, and the result is 0. -/
def Sys2Proof.Claims.PlaceReleases : Prop :=
  ∀ s w bs, placeReady s w 1 bs → resKey s w bs + 8 ≤ 2 ^ 70 → isMoving s (pktRid w bs) = false →
    ∃ t, exec (.placeRelease w) s = .next t ∧ answered s t w bs 0 ∧ rectAt t (pktRid w bs) = {} ∧
      (∀ d ix, d < 4 → ix < 2 ^ 22 → cellKey (pktRid w bs) d ix ∉ t.bad ∧ cellKey (pktRid w bs) d ix ∉ t.poison) ∧
      (∀ c off, c < 256 → off < 2 ^ 18 → readKey t (Place.key (.scr (pktRid w bs) c off)) = 0) ∧
      (∀ c off, c < 512 → off < 2 ^ 21 → readKey t (Place.key (.mt (pktRid w bs) c off)) = 0) ∧
      (∀ c off, c < 4 → off < 2 ^ 26 → readKey t (Place.key (.db (pktRid w bs) c off)) = 0) ∧
      (∀ c off, c < 256 → off < 2 ^ 16 → readKey t (Place.key (.ist (pktRid w bs) c off)) = 0) ∧
      ∀ rid, rid ≠ pktRid w bs → rectAt t rid = rectAt s rid

/-- R308, R309, R346: PLACE Freeze of a rectangle with a core that must run on starts its stop and leaves the command open; past the
bound-block limit the rectangle is stuck, its cores are named (the words of a report, code 2 and the cores, are the model's: DESIGN
CHOICE, log 2), and a Freeze that is open ends with 11 as its result, which is kept while its word cannot be written and written later
(R103, log 55); PLACE Resume of a frozen rectangle that no one else stops sets it
running. -/
def Sys2Proof.Claims.PlaceStops : Prop :=
  (∀ s w bs c b, placeReady s w 2 bs → (rectAt s (pktRid w bs)).freeze = .running → isMoving s (pktRid w bs) = false →
    (c, (coreAt s (pktRid w bs) c)) ∈ (rectAt s (pktRid w bs)).cores → runOf s (pktRid w bs) c = some b → b.bound = true →
    (coreAt s (pktRid w bs) c).csr.halted = false →
    ∃ t, exec (.placeFreeze w) s = .next t ∧ taken s t w ∧ (rectAt t (pktRid w bs)).freeze = .stopping ∧
      (rectAt t (pktRid w bs)).hostStop = true ∧ t.mem = s.mem ∧
      (worldAt t w).placing = some { slot := pktRect bs, res := pktRes bs, irq := pktIrq bs }) ∧
  (∀ s rid, (rectAt s rid).live = true → (rectAt s rid).freeze = .stopping → isMoving s rid = false → runningCores s rid ≠ [] →
    (worldAt s (worldOf rid)).placing = none →
    exec (.boundBlockLimit rid) s = .next (emit (modRect s rid fun r => { r with freeze := .stuck }) (.report rid (2 :: runningCores s rid)))) ∧
  (∀ s rid p, Memory.wf s = true → (rectAt s rid).live = true → (rectAt s rid).freeze = .stopping → isMoving s rid = false →
    runningCores s rid ≠ [] → (worldAt s (worldOf rid)).placing = some p → 8 * worldOf rid + p.slot = rid →
    translate s (whoHost (worldOf rid)) p.res 8 8 .write [0] = .ok () →
    served s (worldOf rid) (homeOf s (whoHost (worldOf rid)) p.res) 8 = true → p.result = none →
    writeHeld s (whoHost (worldOf rid)) p.res 8 = false →
    ∃ t, exec (.boundBlockLimit rid) s = .next t ∧ (rectAt t rid).freeze = .stuck ∧ (worldAt t (worldOf rid)).placing = none ∧
      readNat t (homeOf s (whoHost (worldOf rid)) p.res).key 8 = 11 ∧
      t.outs = s.outs ++ [.report rid (2 :: runningCores s rid)] ++ (match p.irq with | some v => [.irq (worldOf rid) v] | none => [])) ∧
  (∀ s rid p, (rectAt s rid).live = true → (rectAt s rid).freeze = .stopping → isMoving s rid = false → runningCores s rid ≠ [] →
    (worldAt s (worldOf rid)).placing = some p → 8 * worldOf rid + p.slot = rid → p.result = none →
    writeHeld s (whoHost (worldOf rid)) p.res 8 = true →
    ∃ t, exec (.boundBlockLimit rid) s = .next t ∧ (worldAt t (worldOf rid)).placing = some { p with result := some 11 } ∧ t.mem = s.mem) ∧
  (∀ s w p v, Memory.wf s = true → (worldAt s w).placing = some p → p.result = some v → writeHeld s (whoHost w) p.res 8 = false →
    translate s (whoHost w) p.res 8 8 .write [0] = .ok () → served s w (homeOf s (whoHost w) p.res) 8 = true →
    ∃ t, exec (.placeFreeze w) s = .next t ∧ (worldAt t w).placing = none ∧
      readNat t (homeOf s (whoHost w) p.res).key 8 = v % 2 ^ 64) ∧
  (∀ s w bs, placeReady s w 3 bs → (rectAt s (pktRid w bs)).freeze = .frozen → isMoving s (pktRid w bs) = false →
    (worldAt s w).st ≠ .frozen →
    (∀ c, (coreAt s (pktRid w bs) c).csr.tpend = false ∧ (coreAt s (pktRid w bs) c).arr.q = []) →
    ∃ t, exec (.placeResume w) s = .next t ∧ answered s t w bs 0 ∧ (rectAt t (pktRid w bs)).freeze = .running ∧
      (rectAt t (pktRid w bs)).hostStop = false ∧ onlyResult s t w bs ∧
      ∀ c, (coreAt t (pktRid w bs) c).g = (coreAt s (pktRid w bs) c).g ∧ (coreAt t (pktRid w bs) c).csr = (coreAt s (pktRid w bs) c).csr)

/-- R310, R335, R346: PLACE Save of a frozen rectangle of a world that is not protected writes its image, header and sections, at the
address given, and where that succeeds the result 0; the rectangle stays. R312, R313: PLACE Restore of a frozen rectangle gives, through
the model's own `restore` (log 52), the status of the first check that fails and leaves the rectangle as it was, or 0 and the rectangle
the image holds. -/
def Sys2Proof.Claims.PlaceContexts : Prop :=
  (∀ s w bs, placeReady s w 4 bs → (rectAt s (pktRid w bs)).freeze = .frozen → isProtected s w = false → field bs 0 8 < 2 ^ 56 →
    let s1 := { takeHead s w with free := s.free + 1 }
    let xs := sectionsOf s1 (pktRid w bs)
    let img := imageBytes s1 (pktRid w bs) xs none
    let x := writeSpan s1 w (img.length / 0x200000 + 2) (field bs 0 8) img
    ∃ t, exec (.placeSave w) s = .next t ∧ rectAt t (pktRid w bs) = rectAt s (pktRid w bs) ∧
      (x.2 = true → answered s t w bs 0 ∧ onlyResult x.1 t w bs)) ∧
  (∀ s w bs, placeReady s w 5 bs → (rectAt s (pktRid w bs)).freeze = .frozen →
    let x := restore (takeHead s w) w (pktRid w bs) (BitVec.ofNat 64 (field bs 0 8))
    ∃ t, exec (.placeRestore w) s = .next t ∧ answered s t w bs x.2 ∧ rectAt t (pktRid w bs) = rectAt x.1 (pktRid w bs) ∧
      (x.2 ≠ 0 → rectAt t (pktRid w bs) = rectAt s (pktRid w bs)) ∧ (x.2 = 0 → onlyResult x.1 t w bs))

/-- R324 to R326: a write of COMPACT with no pass under way stops the oldest rectangle if a lower anchor takes it; once its cut is reached
the rectangle stands at the new anchor, its logical dies map onto the dies there, and it resumes; when the limit expires first the move is
abandoned and the rectangle stays; COMPRES counts both. The stop of a rectangle, a cut and the end of its limit wait for every clock of
the device (the model's: DEDUCED, log 63). -/
def Sys2Proof.Claims.CompactionMoves : Prop :=
  (∀ s set, s.pass.moving = none → s.pass.todo = [] → byAge s ≠ [] → clocksRun s = false →
    ∃ t, exec (.compact set) s = .next t ∧ t.pass.moving = none ∧ t.pass.todo = byAge s ∧ t.pass.dies = BitVec.ofNat 4 set ∧ t.rects = s.rects) ∧
  (∀ s set rid rest c r, clocksRun s = true → s.pass.moving = none → s.pass.todo = [] → byAge s = rid :: rest → (rectAt s rid).live = true →
    eligible (rectAt s rid) (BitVec.ofNat 4 set) = true → moveTarget s rid (BitVec.ofNat 4 set) = some (c, r) →
    ∃ t, exec (.compact set) s = .next t ∧ t.pass.moving = some (rid, c, r) ∧ t.pass.todo = rest ∧ t.pass.dies = BitVec.ofNat 4 set ∧
      t.host.compDone = false ∧ t.host.compMoved = 0 ∧ t.host.compAband = 0 ∧ t.mem = s.mem ∧
      ((rectAt s rid).freeze = .running → (rectAt t rid).freeze = .stopping)) ∧
  (∀ s set, s.pass.moving = none → s.pass.todo = [] → byAge s = [] →
    ∃ t, exec (.compact set) s = .next t ∧ t.host.compDone = true ∧ t.host.compMoved = 0 ∧ t.host.compAband = 0 ∧ t.rects = s.rects ∧
      t.mem = s.mem) ∧
  (∀ s rid c r, s.pass.moving = some (rid, c, r) → s.pass.todo = [] → cutReached s rid = true → clocksRun s = true →
    wantsStop s rid = false →
    ∃ t, exec (.moveCutReached rid) s = .next t ∧ t.pass.moving = none ∧ (rectAt t rid).ax = c ∧ (rectAt t rid).ay = r ∧
      (rectAt t rid).dieMap = newMap (rectAt s rid) (diesAt (rectAt s rid).w (rectAt s rid).h c r) ∧
      (rectAt t rid).freeze = .running ∧ t.host.compMoved = min 255 (s.host.compMoved + 1) ∧
      t.host.compAband = s.host.compAband ∧ t.host.compDone = true) ∧
  (∀ s rid c r, s.pass.moving = some (rid, c, r) → s.pass.todo = [] → cutReached s rid = false → wantsStop s rid = false →
    (rectAt s rid).live = true → clocksRun s = true →
    ∃ t, exec (.cutLimitExpiry rid) s = .next t ∧ t.pass.moving = none ∧ (rectAt t rid).ax = (rectAt s rid).ax ∧
      (rectAt t rid).ay = (rectAt s rid).ay ∧ (rectAt t rid).dieMap = (rectAt s rid).dieMap ∧ (rectAt t rid).freeze = .running ∧
      t.host.compAband = min 255 (s.host.compAband + 1) ∧ t.host.compMoved = s.host.compMoved ∧ t.host.compDone = true)


namespace Sys2Proof.Claims

/-! ### Power, worlds, sessions and the Periscope -/

/-- Only one die differs. -/
def onlyDie (s t : State) (d : Nat) (x : Die) : Prop := t = { s with dies := tset s.dies d x }

/-- A step of a tile limit (R353): above the cap it falls by an eighth, rounded up; below 95 % it rises by a sixteenth of what is
missing to 192, rounded up; else it stays. -/
def limitAfter (watts cap l : Nat) : Nat :=
  if cap < watts then l - (l + 7) / 8 else if 100 * watts < 95 * cap then l + (207 - l) / 16 else l

/-- Nothing of a world is left: no rectangle, extent, range entry, key, session or packet (R339). -/
def gone (t : State) (w : Nat) : Prop :=
  (∀ rid, worldOf rid = w → (rectAt t rid).live = false) ∧ (∀ x ∈ t.extents, x.2.world ≠ w) ∧
  (∀ c, ∀ e ∈ tget [] t.ranges c, e.world ≠ w) ∧ (worldAt t w).keys = [] ∧ (worldAt t w).signKey = none ∧
  (worldAt t w).session = false ∧ (worldAt t w).memKey = none ∧ (worldAt t w).ctxKey = none ∧ (worldAt t w).pkts = []

/-- The register page of a function at reset (R343). -/
def pageAtReset (t : State) (w : Nat) : Prop :=
  (worldAt t w).lqbase = 0 ∧ (worldAt t w).lqsize = 0 ∧ (worldAt t w).lqtail = 0 ∧ (worldAt t w).lqhead = 0 ∧
  (worldAt t w).eqbase = 0 ∧ (worldAt t w).eqsize = 0 ∧ (worldAt t w).eqtail = 0 ∧ (worldAt t w).eqhead = 0 ∧ (worldAt t w).eqvec = 0

/-- A core stands in debug halt: halted by the debugger, between blocks, and not in a step (R302, R314); in handler mode only after one. -/
def inHalt (k : Core) : Prop :=
  k.csr.dbg = true ∧ k.stepping = false ∧ (k.csr.hmode = false ∨ k.stepped = true) ∧
  (match k.phase with | .run _ => false | _ => true) = true

/-- A core the Periscope may look into: its world's session has unlocked it, the core is halted or in debug halt (R314), and every clock
runs (R350, log 63). -/
def seen (s : State) (rid c : Nat) : Prop :=
  (worldAt s (worldOf rid)).unlocked = true ∧ (rectAt s rid).live = true ∧ clocksRun s = true ∧
  ((coreAt s rid c).csr.halted = true ∨ inHalt (coreAt s rid c))

end Sys2Proof.Claims

/-- R350, R352 to R354: the arbiters' step from power and cap, of the dies that have power; a changed operating point stops a die's clock
until its PLL locks, a gated die having none to stop; gating a die that holds nothing drains it, and with every granule off it gates it:
its stacks then read zero and its monitors, which are zeroed, and stations are gone; a die that holds a page, takes a move or is the home
of a bound lane is refused, and so is a drain that finds no room or a reason to refuse at its end; a gated die powers up again; the
thermal throttle sets the die's THERM bit when it starts. What is done to a die waits while it relocks, the arbiters' tick for every
clock, and a pass of the placer that waited for a clock goes on with the last (R350; DEDUCED, log 63). That the stacks of a gated die read zero, and how the end of a drain is refused,
is the model's (DEDUCED, log 64), and so is that the vector of the physical function is raised only where EQVEC enables it (DEDUCED,
log 65). -/
def Obligations.PowerAndGating : Prop :=
  (∀ s watts d, watts < 65536 → d < 4 → clocksRun s = true → ∃ t, exec (.powerArbiterTick watts) s = .next t ∧ t.host.pwrnow = watts ∧ t.mem = s.mem ∧
    t.rects = s.rects ∧ ((dieAt s d).gate = .up ∨ (dieAt s d).gate = .draining →
      (dieAt t d).limit = limitAfter watts (max s.host.pwrcap (powerFloor s)) (dieAt s d).limit) ∧
    ((dieAt s d).gate = .gated ∨ (dieAt s d).gate = .powering → (dieAt t d).limit = (dieAt s d).limit) ∧
    (dieAt t d).op = (dieAt s d).op ∧ (dieAt t d).gate = (dieAt s d).gate) ∧
  (∀ s d op, d < 4 → op < 16 → op ≠ (dieAt s d).op →
    exec (.dieOpChange d op) s = .next { s with dies := tset s.dies d { dieAt s d with op := op, relock := (dieAt s d).gate != .gated } }) ∧
  (∀ s d, d < 4 → let u := { s with dies := tset s.dies d { dieAt s d with relock := false } }
    (s.pass.moving ≠ none ∨ s.pass.todo = [] ∨ (∃ e, e < 4 ∧ e ≠ d ∧ (dieAt s e).relock = true) → exec (.pllRelockDone d) s = .next u) ∧
    (s.pass.moving = none → s.pass.todo ≠ [] → (∀ e, e < 4 → e ≠ d → (dieAt s e).relock = false) →
      exec (.pllRelockDone d) s = .next (nextMove (s.pass.todo.length + 1) u))) ∧
  (∀ s d, d < 4 → (dieAt s d).gate = .up →
    (holdsPage s d = true ∨ laneHome s d = true ∨ moveTouches s d = true →
      exec (.dieGate d) s = .next { s with dies := tset s.dies d { dieAt s d with gateRefused := true } }) ∧
    (holdsPage s d = false → laneHome s d = false → moveTouches s d = false →
      exec (.dieGate d) s = .next { s with dies := tset s.dies d { dieAt s d with gate := .draining } })) ∧
  (∀ s d, d < 4 → (dieAt s d).gate = .draining → (dieAt s d).relock = false → Memory.wf s = true → gateBarred s d = false →
    (∀ e ∈ s.extents, e.2.granted = true → ¬(e.2.tier = 0 ∧ e.2.pbase / 32768 / 3 = d) ∧
      ∀ m, e.2.mig = some m → ¬(m.tier = 0 ∧ m.base / 32768 / 3 = d)) →
    ∃ t, exec (.dieGateDrainDone d 1) s = .next t ∧ (dieAt t d).gate = .gated ∧ (dieAt t d).leaves = [] ∧ (dieAt t d).reqs = [] ∧
      (∀ n, n / 32 = d → tget {} t.monitors n = {}) ∧ (∀ l, tfind (laneAt t l).stations d = none) ∧ t.rects = s.rects ∧
      ∀ x, readKey t x = if Place.key (.glob 0 (98304 * d * 0x200000)) ≤ x ∧ x < Place.key (.glob 0 (98304 * (d + 1) * 0x200000))
        then 0 else readKey s x) ∧
  (∀ s d ok, d < 4 → (dieAt s d).gate = .draining → (dieAt s d).relock = false → ok = 0 ∨ gateBarred s d = true → exec (.dieGateDrainDone d ok) s =
    .next { s with dies := tset s.dies d { dieAt s d with gate := .up, gateRefused := true } }) ∧
  (∀ s d, d < 4 → (dieAt s d).gate = .gated →
    exec (.dieUngate d) s = .next { s with dies := tset s.dies d { dieAt s d with gate := .powering } }) ∧
  (∀ s d, d < 4 → (dieAt s d).gate = .powering → (dieAt s d).relock = false →
    ∃ t, exec (.diePoweredUp d) s = .next t ∧ (dieAt t d).gate = .up ∧ (∀ n, n / 32 = d → tget {} t.monitors n = {})) ∧
  (∀ s d, d < 4 → (dieAt s d).gate = .up → (dieAt s d).throttle = false → (dieAt s d).relock = false →
    ∃ t, exec (.thermalThrottleEnter d) s = .next t ∧ (dieAt t d).throttle = true ∧
      t.host.therm = s.host.therm ||| BitVec.ofNat 4 (2 ^ d) ∧
      t.outs = s.outs ++ (if (worldAt s 0).eqvec.getLsbD 7 then [.irq 0 ((worldAt s 0).eqvec.toNat % 32)] else [])) ∧
  (∀ s d, d < 4 → (dieAt s d).relock = false → exec (.thermalThrottleExit d) s = .next { s with dies := tset s.dies d { dieAt s d with throttle := false } })

/-- R329, R335, R338: a VF that is enabled is OPEN with every field at reset; LOCK takes an OPEN world whose session authenticated its requester to
LOCKED with a memory key, START a LOCKED one to RUN with a context key, and a missed heartbeat a world in RUN to FROZEN, while every clock runs (log 63). -/
def Sys2Proof.Claims.WorldStates : Prop :=
  (∀ s w, 1 ≤ w → w < 64 → (worldAt s w).st = .disabled → (worldAt s 0).st ≠ .disabled →
    exec (.vfEnable w) s = .next { s with worlds := tset s.worlds w { st := .opened } }) ∧
  (∀ s w, w ≠ 0 → (worldAt s w).st = .opened → (worldAt s w).session = true → (worldAt s w).requester ≠ 0 →
    ∃ t k, exec (.lockInterfaceRequest w) s = .next t ∧
      worldAt t w = { worldAt s w with st := .locked, lockKey := (worldAt s w).requester, memKey := some k } ∧
      (∀ v, v ≠ w → worldAt t v = worldAt s v) ∧ t.mem = s.mem ∧ t.rects = s.rects) ∧
  (∀ s w, (worldAt s w).st = .locked →
    ∃ t k, exec (.startInterfaceRequest w) s = .next t ∧ worldAt t w = { worldAt s w with st := .run, ctxKey := some k } ∧
      (∀ v, v ≠ w → worldAt t v = worldAt s v) ∧ t.mem = s.mem ∧ t.rects = s.rects) ∧
  (∀ s w, (worldAt s w).st = .run → (worldAt s w).placing = none → clocksRun s = true →
    ∃ t, exec (.heartbeatTimeout w) s = .next t ∧ (worldAt t w).st = .frozen ∧ (worldAt t w).session = (worldAt s w).session ∧
      ∀ rid, worldOf rid = w → (rectAt s rid).live = true → (rectAt t rid).freeze ≠ .running)

/-- R329, R338 to R341: STOP of a LOCKED or RUN world, TDISP_ERROR, the loss of a LOCKED world's session, the end of the grace period and FLR of a
VF leave nothing of the world, in the state OPEN; VF_DISABLE leaves it DISABLED; FLR of the PF and a hot reset leave nothing of any world,
every VF DISABLED and world 0 OPEN, if the signature of the firmware is accepted; VF_DISABLE, FLR of the PF and the hot reset also leave the register page at reset, FLR of a VF keeps
its error queue (what of its register page a function keeps is the model's: DEDUCED, log 54); a package reset leaves every die and lane at
reset and every world DISABLED but world 0, which is OPEN if that signature is accepted; else nothing of the device answers
(DEDUCED, log 88). -/
def Sys2Proof.Claims.WorldsEnd : Prop :=
  (∀ s w, w ≠ 0 → w < 64 →
    ((worldAt s w).st = .locked ∨ (worldAt s w).st = .run → ∃ t, exec (.stopInterfaceRequest w) s = .next t ∧ gone t w ∧ (worldAt t w).st = .opened) ∧
    ((worldAt s w).st = .locked ∨ (worldAt s w).st = .run ∨ (worldAt s w).st = .frozen →
      ∃ t, exec (.tdispError w) s = .next t ∧ gone t w ∧ (worldAt t w).st = .opened) ∧
    ((worldAt s w).st = .locked → (worldAt s w).session = true →
      ∃ t, exec (.sessionLoss w) s = .next t ∧ gone t w ∧ (worldAt t w).st = .opened) ∧
    ((worldAt s w).st = .frozen → ∃ t, exec (.graceExpiry w) s = .next t ∧ gone t w ∧ (worldAt t w).st = .opened) ∧
    ((worldAt s w).st ≠ .disabled →
      (∃ t, exec (.vfDisable w) s = .next t ∧ gone t w ∧ pageAtReset t w ∧ (worldAt t w).st = .disabled) ∧
      (∃ t, exec (.flrVf w) s = .next t ∧ gone t w ∧ (worldAt t w).st = .opened ∧ (worldAt t w).eqbase = (worldAt s w).eqbase ∧
        (worldAt t w).eqsize = (worldAt s w).eqsize ∧ (worldAt t w).eqhead = (worldAt s w).eqhead ∧
        (worldAt t w).eqtail = (worldAt s w).eqtail ∧ (worldAt t w).lqhead = (worldAt t w).lqtail))) ∧
  (∀ s i, i = .flrPf ∨ i = .hotReset → ∃ t, exec i s = .next t ∧ gone t 0 ∧ pageAtReset t 0 ∧
    (firmwareAccepted = true → (worldAt t 0).st = .opened) ∧ (firmwareAccepted = false → (worldAt t 0).st = .disabled) ∧
    ∀ w, 0 < w → w < 64 → (worldAt t w).st = .disabled ∧ ((worldAt s w).st ≠ .disabled → gone t w ∧ pageAtReset t w)) ∧
  (∀ s, ∃ t, exec .packageReset s = .next t ∧ (firmwareAccepted = true → (worldAt t 0).st = .opened) ∧
    (firmwareAccepted = false → (worldAt t 0).st = .disabled) ∧ (∀ w, gone t w) ∧ (∀ w, pageAtReset t w) ∧
    (∀ w, w ≠ 0 → (worldAt t w).st = .disabled) ∧ (∀ d, dieAt t d = {}) ∧ (∀ l, laneAt t l = {}) ∧ t.host = {})

/-- R334, R336, R338: an SPDM negotiation that offers ExtAsym 0x0087 of registry 0x03 selects it, a key exchange then makes a session; over
it key slots are set and erased, an image signer is set, and heartbeat settings of 1 to 60 s are taken at the next heartbeat; the PF may
set and erase keys of an OPEN world; a measurement of block 1 to 6 is answered with the device's signature; every response goes to the
requester of that world alone. The numbers of the SPDM words that the spec does not write out (0x63, 0x20 and the like) are the model's
(PRESUMED, log 62). -/
def Obligations.SessionsAndKeys : Prop :=
  ∀ s w,
    ((worldAt s w).st ≠ .disabled →
      (∀ offers, (0x03, 0x0087) ∈ offers → exec (.spdmNegotiateAlgorithms w offers) s =
        .next (emit (modWorld s w fun q => { q with negotiated := true }) (.spdm w [0x63, 0, 1, 0x03, 0x0087, 0x20]))) ∧
      (∀ r, (worldAt s w).negotiated = true → ∃ t c x, exec (.spdmKeyExchange w r) s = .next t ∧
        t.outs = s.outs ++ [.spdm w [c, Config.deviceSignature x]] ∧
        (worldAt t w).session = true ∧ (worldAt t w).requester = r ∧
        ((worldAt t w).renewed = true ↔ (worldAt s w).st = .frozen ∧ r = (worldAt s w).lockKey ∧ r ≠ 0)) ∧
      (∀ i, 1 ≤ i → i ≤ 6 → ∃ c m, exec (.measurementRequest w i) s =
        .next (emit s (.spdm w [c, i, m, Config.deviceSignature [i, m]])))) ∧
    (∀ k v pf, w < 64 → k < 16 → (worldAt s w).st ≠ .disabled → (pf = 0 → (worldAt s w).session = true) →
      (pf ≠ 0 → (worldAt s w).st = .opened) → (rectsOf s w).flatMap (keyedOps s) = [] →
      (∃ c, exec (.keySet w k v pf) s = .next (emit (modWorld s w fun q => { q with keys := tset q.keys k (BitVec.ofNat 256 v) }) (.spdm w [c]))) ∧
      (∃ c, exec (.keyErase w k pf) s = .next (emit (modWorld s w fun q => { q with keys := tdel q.keys k }) (.spdm w [c])))) ∧
    ((worldAt s w).session = true →
      (∀ k, ∃ c, exec (.signkeySet w k) s = .next (emit (modWorld s w fun q => { q with signKey := some (BitVec.ofNat 20736 k) }) (.spdm w [c]))) ∧
      (∀ p g, 1 ≤ p → p ≤ 60 → 1 ≤ g → g ≤ 60 →
        exec (.hbConfig w p g) s = .next (modWorld s w fun q => { q with newPeriod := p, newGrace := g })) ∧
      ((worldAt s w).st ≠ .frozen ∨ (worldAt s w).renewed = false → exec (.heartbeat w) s =
        .next (modWorld s w fun q => { q with period := q.newPeriod, grace := q.newGrace })) ∧
      ((worldAt s w).st = .frozen → (worldAt s w).renewed = true → clocksRun s = true → ∃ t, exec (.heartbeat w) s = .next t ∧ (worldAt t w).st = .run))

/-- R302, R303, R314: a world's session unlocks the Periscope and, unlocked, it arms debug; a halt sets DBG on every core and a resume clears it;
a step lets one core of a rectangle in debug halt run one block, a halted one from idle and in task mode (R296); it reads and writes instruction-store words, breakpoint registers
without their reserved bits, and writable CSRs of a halted core, and reads the items of its rectangle's monitors. The numbers of the
Periscope's spaces, 0 to 4, and the coding of a monitor's item are the model's (DEDUCED, log 58), and so is that it waits for every clock (DEDUCED, log 63). -/
def Obligations.PeriscopeActs : Prop :=
  (∀ s w, (worldAt s w).session = true → exec (.periscopeUnlock w) s = .next (modWorld s w fun q => { q with unlocked := true })) ∧
  (∀ s w b, (worldAt s w).unlocked = true → exec (.periscopeArmDebug w b) s = .next (modWorld s w fun q => { q with armed := b != 0 })) ∧
  (∀ s rid c, (worldAt s (worldOf rid)).unlocked = true → (rectAt s rid).live = true → c < coreCount (rectAt s rid) → clocksRun s = true →
    (∃ t, exec (.periscopeHalt rid) s = .next t ∧ (coreAt t rid c).csr.dbg = true ∧ (coreAt t rid c).g = (coreAt s rid c).g ∧ t.mem = s.mem) ∧
    ((∀ k, (coreAt s rid k).csr.halted = false) → ∃ t, exec (.periscopeResume rid) s = .next t ∧ (coreAt t rid c).csr.dbg = false ∧
      (coreAt t rid c).csr.bpskip = ((coreAt s rid c).csr.bpskip || (coreAt s rid c).csr.matched) ∧
      (coreAt t rid c).g = (coreAt s rid c).g ∧ (coreAt t rid c).phase = (coreAt s rid c).phase ∧ t.mem = s.mem) ∧
    (inDebug s rid = true → (coreAt s rid c).causes = [] → ∃ t, exec (.periscopeStep rid c) s = .next t ∧ (coreAt t rid c).stepping = true ∧
      (coreAt t rid c).stepped = false ∧ (coreAt t rid c).csr.dbg = true ∧
      ((coreAt s rid c).csr.halted = false → (coreAt t rid c).phase = (coreAt s rid c).phase ∧ (coreAt t rid c).task = (coreAt s rid c).task ∧
        (coreAt t rid c).csr.hmode = (coreAt s rid c).csr.hmode) ∧
      ((coreAt s rid c).csr.halted = true → isIdle (coreAt t rid c) ∧ (coreAt t rid c).csr.halted = false) ∧
      (coreAt t rid c).g = (coreAt s rid c).g ∧ (∀ k, k ≠ c → coreAt t rid k = coreAt s rid k) ∧ t.mem = s.mem)) ∧
  (∀ s rid c a v, seen s rid c →
    (a < 16384 → exec (.periscopeRead rid c 0 a) s = .next (emit s (.periscope [(storeWord s rid c a).toNat])) ∧
      exec (.periscopeWrite rid c 0 a v) s = .next (writeNat s (Place.key (.ist rid c (4 * a))) 4 v)) ∧
    (exec (.periscopeRead rid c 1 a) s = .next (emit s (.periscope [(csrValue s rid c a).toNat]))) ∧
    (a < 4 → exec (.periscopeRead rid c 2 a) s = .next (emit s (.periscope [(tget 0 (coreAt s rid c).csr.bpa a).toNat])) ∧
      exec (.periscopeWrite rid c 2 a v) s = .next (modCsr s rid c fun q =>
        { q with bpa := tset q.bpa a (BitVec.ofNat 64 v &&& 0x8000000000003FFF) })) ∧
    (∀ n item v, item < 10 → monitorAt s rid (BitVec.ofNat 64 (a % 1024)) = some n →
      monItem (s.rev == .b0) (tget {} (sampleMonitor s rid n).monitors n) item = some v →
      exec (.periscopeRead rid c 4 (1024 * item + a % 1024)) s = .next (emit (sampleMonitor s rid n) (.periscope [v.toNat]))) ∧
    (exec (.periscopeWrite rid c 1 0x000 v) s = .next (modCsr s rid c fun q => { q with fpflags := BitVec.ofNat 64 v &&& 0xFFFF003F })) ∧
    (exec (.periscopeWrite rid c 1 0x027 v) s = .next (modCsr s rid c fun q => { q with hvec := BitVec.ofNat 64 v &&& 0x8000000000003FFF })))


namespace Sys2Proof.Claims

/-! ### Words, steps and the whole machine -/

/-- The header of the block at a word address: its first word. -/
def headerAt (s : State) (rid c h : Nat) : BitVec 32 := storeWord s rid c h

/-- The outcome of issuing slot k of the running block of a core, whose word decodes to i: that of i with the cursor on the slot, unless
i, whose slot was still waiting, ends a block, of which no fault waits, by a fault and a lower slot that may issue in the same cycle does too (R52); where the lower one
is a dataflow slot the cycle's other dataflow slot has its turn taken by it. -/
def issues (s : State) (rid c : Nat) (b : BlockRun) (k : Nat) (i : Instr) (o : Host.Outcome State Fault Refusal) : Prop :=
  let at_ := fun k => { s with cur := ⟨rid, c, k⟩ }
  let cyc := fun k => if isSequencedWord (wordOf b k) then s else modRun s rid c fun r => { r with pair := some k }
  (b.fault ≠ none ∨ resolved b k = true ∨ endedBlock (exec i (at_ k)) rid c = false ∨ lowerFault s rid c b k = none → o = exec i (at_ k)) ∧
  (b.fault = none → resolved b k = false → endedBlock (exec i (at_ k)) rid c = true → ∀ j x, lowerFault s rid c b k = some j → decode (wordOf b j) = .ok x →
    o = exec x { cyc j with cur := ⟨rid, c, j⟩ })

/-- The last word a block may have, and one more (R34). -/
def storeEnd (s : State) (rid c : Nat) : Nat := if (coreAt s rid c).csr.hmode then 16384 else 15360

end Sys2Proof.Claims

/-- R37: at the fetch of a block whose words carry no ECC error a marker other than 0b1110 raises 0x000, a nonzero reserved bit 0x001, and
words past the range of R34 0x002, each at the block with no slot, and nothing of the block is performed. -/
def Obligations.HeaderChecked : Prop :=
  ∀ s rid c h, goesOn s rid c → (coreAt s rid c).phase = .fetch h →
    (∀ k, h ≤ k → k ≤ h + ((headerAt s rid c h).extractLsb' 0 6).toNat + 1 → k < 16384 → badIn s (Place.key (.ist rid c (4 * k))) 4 = false) →
    ((headerAt s rid c h).extractLsb' 28 4 ≠ 0xE#4 → exec (.blockFetch rid c) s = .next (takeTrap s rid c 0x000 0 h none)) ∧
    ((headerAt s rid c h).extractLsb' 28 4 = 0xE#4 →
      ((headerAt s rid c h).extractLsb' 24 2 ≠ 0#2 ∨ (headerAt s rid c h).extractLsb' 6 10 ≠ 0#10) →
      exec (.blockFetch rid c) s = .next (takeTrap s rid c 0x001 0 h none)) ∧
    ((headerAt s rid c h).extractLsb' 28 4 = 0xE#4 → (headerAt s rid c h).extractLsb' 24 2 = 0#2 →
      (headerAt s rid c h).extractLsb' 6 10 = 0#10 → storeEnd s rid c < h + ((headerAt s rid c h).extractLsb' 0 6).toNat + 2 →
      exec (.blockFetch rid c) s = .next (takeTrap s rid c 0x002 0 h none))

/-- R58, R60, R61: a word whose primary opcode R58 does not assign raises 0x020, and no word decodes to an instruction that breaks a check
of R61. -/
def Sys2Proof.Claims.WordsRefused : Prop :=
  (∀ w : BitVec 32, (let o := (w.extractLsb' 25 7).toNat
      (0x02 ≤ o ∧ o ≤ 0x0F) ∨ (0x23 ≤ o ∧ o ≤ 0x2F) ∨ (0x34 ≤ o ∧ o ≤ 0x37) ∨ (0x39 ≤ o ∧ o ≤ 0x3F) ∨ (0x4C ≤ o ∧ o ≤ 0x4F) ∨
      (0x56 ≤ o ∧ o ≤ 0x57) ∨ o = 0x6F ∨ o = 0x77 ∨ o = 0x7F) → decode w = .error 0x020) ∧
  (∀ w i, decode w = .ok i → i.wellFormed = true)

/-- A step runs the decoded instruction: an event at the head of the agenda is executed; a core that is to issue a slot executes the
instruction its word decodes to, with the cursor on that slot, but where that faults and a lower slot that may issue in the same cycle
faults too, the lower one's (R52); and with an empty agenda the core of the cursor makes its next move: a vector load that outlived its
block returns, or it picks, launches, fetches, starts, issues the lowest slot that can issue, delivers the product of a
multiply that is due (R49), completes, or parks its task. The agenda and the order of
a core's own moves are the model's (DESIGN CHOICE, log 1), and so is which slots issue in one cycle (DEDUCED, log 86). -/
def Obligations.StepRunsDecoded : Prop :=
  ∀ s rest,
    (∀ i, s.agenda = .event i :: rest → step s = exec i { s with agenda := rest }) ∧
    (∀ rid c k b i, s.agenda = .issue rid c k :: rest → runOf s rid c = some b → decode (wordOf b k) = .ok i →
      issues { s with agenda := rest } rid c b k i (step s)) ∧
    (s.agenda = [] → (coreHere s).vloads ≠ [] → step s = exec (.loadDataReturn s.cur.rid s.cur.core 0) s) ∧
    (s.agenda = [] → (coreHere s).vloads = [] →
      ((coreHere s).phase = .idle → step s = exec (.corePick s.cur.rid s.cur.core) s) ∧
      ((coreHere s).phase = .launching → step s = exec (.taskLaunch s.cur.rid s.cur.core) s) ∧
      (∀ t l th m, (coreHere s).phase = .parking t l th m → step s = exec (.blockComplete s.cur.rid s.cur.core) s) ∧
      (∀ h, (coreHere s).phase = .fetch h → step s = exec (.blockFetch s.cur.rid s.cur.core) s) ∧
      (∀ b, (coreHere s).phase = .ready b → step s = exec (.blockStart s.cur.rid s.cur.core) s) ∧
      (∀ b k i, here s = some b → b.divide = none → b.lookups = [] → b.loads = [] → b.pushes = [] →
        nextSlot (coreHere s) b false = some k → decode (wordOf b k) = .ok i → issues s s.cur.rid s.cur.core b k i (step s)) ∧
      (∀ b k i, here s = some b → b.divide = none → b.lookups = [] → b.loads = [] → b.pushes = [] →
        nextSlot (coreHere s) b false = none → nextProduct b = some k → decode (wordOf b k) = .ok i →
        issues s s.cur.rid s.cur.core b k i (step s)) ∧
      (∀ b k i, here s = some b → b.divide = none → b.lookups = [] → b.loads = [] → b.pushes = [] →
        nextSlot (coreHere s) b false = none → nextProduct b = none → (coreHere s).drain = [] → (coreHere s).acks = [] →
        nextSlot (coreHere s) b true = some k → decode (wordOf b k) = .ok i → issues s s.cur.rid s.cur.core b k i (step s)) ∧
      (∀ b, here s = some b → b.divide = none → b.lookups = [] → b.loads = [] → b.pushes = [] →
        nextSlot (coreHere s) b false = none → nextProduct b = none → (coreHere s).drain = [] → (coreHere s).acks = [] →
        nextSlot (coreHere s) b true = none → step s = exec (.blockComplete s.cur.rid s.cur.core) s))

/-- R55 to R61: every instruction whose fields R61 allows is the one its encoded word decodes to, and every word that decodes to an
instruction is that instruction's encoding: no bit of a word is dropped. -/
def Sys2Proof.Claims.RoundTrips : Prop :=
  (∀ i, i.wellFormed = true → decode (encode i) = .ok i) ∧ (∀ w i, decode w = .ok i → encode i = w)

/-- The memory of the machine keeps its canonical form at every step: its keys rise, and no zero byte is listed, since an address that is
not listed reads 0, which is the model's choice (DESIGN CHOICE, log 4). -/
def Obligations.MemoryFormKept : Prop :=
  ∀ s s', Memory.wf s = true → step s = .next s' → Memory.wf s' = true

/-- R249, R329, R343, R350, R351: right after a package reset world 0 is OPEN and every other world DISABLED; every register page is zero; no
rectangle, extent or binding exists; PWRCAP is 3,600 and every operating point 12; THERM, COMPRES, MONALLOC and every lane's pace are 0.
Memory keeps its canonical form and lists nothing, which is the model's choice (DESIGN CHOICE, log 4). -/
def Sys2Proof.Claims.ResetState : Prop :=
  (worldAt .reset 0).st = .opened ∧ (∀ w, w ≠ 0 → worldAt .reset w = {}) ∧ pageAtReset .reset 0 ∧
  (∀ rid, (rectAt .reset rid).live = false) ∧ State.reset.extents = [] ∧ (∀ l, (laneAt .reset l).bound = none ∧ (laneAt .reset l).pace = 0) ∧
  State.reset.host.pwrcap = 3600 ∧ (∀ d, (dieAt .reset d).op = 12 ∧ (dieAt .reset d).gate = .up) ∧ State.reset.host.therm = 0 ∧
  State.reset.host.compDone = false ∧ State.reset.host.compMoved = 0 ∧ State.reset.host.compAband = 0 ∧ (∀ n, tget 0 State.reset.monAlloc n = 0) ∧
  State.reset.mem = [] ∧ Memory.wf .reset = true

/-- R55 to R59: the words that the spec works out for the block tl_loop decode to its ten instructions. -/
def Sys2Proof.Claims.WordsDecode : Prop :=
  decodeTableWord 32 0x6407FE20 = some (.get 1 0x1FF 0x020) ∧ decodeTableWord 32 0x642BFE18 = some (.get 10 0x1FF 0x018) ∧
  decodeTableWord 32 0x6507FE19 = some (.get 65 0x1FF 0x019) ∧ decodeTableWord 32 0x0014FFE0 = some (.add 0 0x053 0x1FF) ∧
  decodeTableWord 32 0x207FFE28 = some (.addi 0 0x3FFF 0x028) ∧ decodeTableWord 32 0x000C0176 = some (.mov 0 0x030 0x00B) ∧
  decodeTableWord 32 0x32000038 = some (.cnei 0 0 0x038) ∧ decodeTableWord 32 0x00108956 = some (.mov 0 0x042 0x04A) ∧
  decodeTableWord 32 0x70100000 = some (.br 1 0) ∧ decodeTableWord 32 0x7020000B = some (.br 2 11)

/-! ### The statements that join several claims -/

/-- Two-operand and one-operand results: the claims BinaryResults, UnaryResults together. -/
def Obligations.ScalarResults : Prop := BinaryResults ∧ UnaryResults

/-- Immediate, compare, address, bit-field and constant results: the claims ImmediateOps, CompareResults, FieldResults together. -/
def Obligations.ImmediateResults : Prop := ImmediateOps ∧ CompareResults ∧ FieldResults

/-- Exits that fault: the claims ExitTargetFaults, ExitModeFaults together. -/
def Obligations.ExitFaults : Prop := ExitTargetFaults ∧ ExitModeFaults

/-- Breakpoints, error records, discards without a handler, and faults in handler mode: the claims BrkRaises, RecordsPosted, TrapDiscards, HandlerFaults together. -/
def Obligations.FaultsElsewhere : Prop := BrkRaises ∧ RecordsPosted ∧ TrapDiscards ∧ HandlerFaults

/-- A settled block completes: the claims BlocksComplete, ExitsApply together. -/
def Obligations.BlockCompletes : Prop := BlocksComplete ∧ ExitsApply

/-- Blocks are fetched and started: the claims BlockFetches, BlockStarts together. -/
def Obligations.BlocksFetchAndStart : Prop := BlockFetches ∧ BlockStarts

/-- Loads issue and deliver: the claims LoadsIssue, LoadReturns together. -/
def Obligations.LoadsComplete : Prop := LoadsIssue ∧ LoadReturns

/-- Stores in the scratchpad and their frame; buffered stores: the claims ScratchStores, ScratchStoreFrame, BufferedStores together. -/
def Obligations.StoresPerform : Prop := ScratchStores ∧ ScratchStoreFrame ∧ BufferedStores

/-- Lookups, commits, fences and SEAL: the claims LookupAnswers, CommitAndFences, SealWrites together. -/
def Obligations.CommitsAndFences : Prop := LookupAnswers ∧ CommitAndFences ∧ SealWrites

/-- AMO and CAS: the claims AmoResults, CasResults together. -/
def Obligations.AtomicResults : Prop := AmoResults ∧ CasResults

/-- Reductions and cells in the commit buffer: the claims RedResults, CellResults together. -/
def Obligations.ReductionResults : Prop := RedResults ∧ CellResults

/-- Drained entries perform and are acknowledged: the claims CellDrains, DrainPerforms, AcknowledgementReleases together. -/
def Obligations.DrainsPerform : Prop := CellDrains ∧ DrainPerforms ∧ AcknowledgementReleases

/-- Spawns, deques, queue lengths and reservations: the claims SpawnResults, DequeResults, QueueReservations together. -/
def Obligations.QueueResults : Prop := SpawnResults ∧ DequeResults ∧ QueueReservations

/-- Semaphores and the continuations they satisfy: the claims SemaphoresChange, SemaphoreSatisfies together. -/
def Obligations.SemaphoreResults : Prop := SemaphoresChange ∧ SemaphoreSatisfies

/-- Pushes, ordered commits and the balancer: the claims PushesPerform, OrderedCommits, BalancerChooses together. -/
def Obligations.TasksMove : Prop := PushesPerform ∧ OrderedCommits ∧ BalancerChooses

/-- CSRs: reads, writes and their faults: the claims CsrReads, CsrWrites, CsrFaults together. -/
def Obligations.CsrResults : Prop := CsrReads ∧ CsrWrites ∧ CsrFaults

/-- TIME and the performance monitors: the claims TimeReads, MonitorResults together. -/
def Obligations.TimeAndMonitors : Prop := TimeReads ∧ MonitorResults

/-- Vector conversions and block quantisation: the claims ConvertsDo, QuantResults together. -/
def Obligations.ConvertResults : Prop := ConvertsDo ∧ QuantResults

/-- Vector reductions and lane moves: the claims ReduceIntegers, ReduceFloats, LaneMoves, LaneIndexFaults together. -/
def Obligations.VectorReduces : Prop := ReduceIntegers ∧ ReduceFloats ∧ LaneMoves ∧ LaneIndexFaults

/-- Matrix commands enter their queue; MBUDGET: the claims MatrixQueues, BudgetQueues together. -/
def Obligations.MatrixCommandsQueue : Prop := MatrixQueues ∧ BudgetQueues

/-- MINIT and the sums of the cells: the claims InitExecutes, SumsAccumulate together. -/
def Obligations.CellSums : Prop := InitExecutes ∧ SumsAccumulate

/-- Leave, operand fetch, attempts and the ladder: the claims LeaveIsAsked, LeaveStartsOperation, AttemptStarts, AttemptEnds together. -/
def Obligations.OperationsRun : Prop := LeaveIsAsked ∧ LeaveStartsOperation ∧ AttemptStarts ∧ AttemptEnds

/-- Drains of the array, and MSTAT: the claims DrainWrites, DrainsComplete, MatrixStatus together. -/
def Obligations.DrainsExecute : Prop := DrainWrites ∧ DrainsComplete ∧ MatrixStatus

/-- Gangs and grants: the claims GangJoins, GrantsBalance together. -/
def Obligations.GangsAndGrants : Prop := GangJoins ∧ GrantsBalance

/-- Stream commands, SPAT and SPROG: the claims StreamCommandsQueue, SpatWrites, SlotProgress together. -/
def Obligations.StreamCommands : Prop := StreamCommandsQueue ∧ SpatWrites ∧ SlotProgress

/-- Streams start and send: the claims StreamsStart, StreamsSend together. -/
def Obligations.StreamsRun : Prop := StreamsStart ∧ StreamsSend

/-- Accepts take bytes; streams complete and are stopped: the claims AcceptsTake, StreamsComplete, StopCancels together. -/
def Obligations.StreamsEnd : Prop := AcceptsTake ∧ StreamsComplete ∧ StopCancels

/-- Copy commands, queue fences and tokens: the claims CopyCommandsQueue, QueueFences, TokensRead together. -/
def Obligations.CopyCommands : Prop := CopyCommandsQueue ∧ QueueFences ∧ TokensRead

/-- Copies, gathers, scatters and TMOVE move bytes: the claims CopiesRun, ElementsMove together. -/
def Obligations.CopiesMove : Prop := CopiesRun ∧ ElementsMove

/-- Board commands and the status of the Halo: the claims BoardsQueue, HaloStatus together. -/
def Obligations.HaloCommands : Prop := BoardsQueue ∧ HaloStatus

/-- Feeders inject and tiles pass: the claims FeederInjects, TilesPass together. -/
def Obligations.RingCarries : Prop := FeederInjects ∧ TilesPass

/-- Boards arm, capture, write and complete: the claims CapturesTake, BoardsComplete, CaptureWrites together. -/
def Obligations.BoardsCapture : Prop := CapturesTake ∧ BoardsComplete ∧ CaptureWrites

/-- Split fences, remote semaphores and collectives: the claims SplitFences, CrossDieQueues, CollectivesExecute together. -/
def Obligations.CrossDieResults : Prop := SplitFences ∧ CrossDieQueues ∧ CollectivesExecute

/-- Extents are added, removed and released: the claims ExtentRequests, ReleasesAsked together. -/
def Obligations.LeasesChange : Prop := ExtentRequests ∧ ReleasesAsked

/-- Register pages, launch packets and host copies: the claims RegistersWrite, PacketsTaken, HostCopies together. -/
def Obligations.HostQueues : Prop := RegistersWrite ∧ PacketsTaken ∧ HostCopies

/-- PLACE: images, releases, saves and restores: the claims PlaceImages, PlaceReleases, PlaceContexts together. -/
def Obligations.RectanglesPlaced : Prop := PlaceImages ∧ PlaceReleases ∧ PlaceContexts

/-- PLACE: freezing and resuming; compaction: the claims PlaceStops, CompactionMoves together. -/
def Obligations.RectanglesMove : Prop := PlaceStops ∧ CompactionMoves

/-- The states of a world and its destruction: the claims WorldStates, WorldsEnd together. -/
def Obligations.WorldsChange : Prop := WorldStates ∧ WorldsEnd

/-- Decoding and encoding agree both ways; what does not decode: the claims RoundTrips, WordsRefused together. -/
def Obligations.DecodeAndEncodeAgree : Prop := RoundTrips ∧ WordsRefused

/-- The machine at reset; the words of tl_loop: the claims ResetState, WordsDecode together. -/
def Obligations.ResetValues : Prop := ResetState ∧ WordsDecode
end

