-- ==== Sys2Proof/Laws/Encoding.lean ====
section
/-!
SUPPORT. Sys2Proof/Laws/Encoding.lean: fields of words that are put together of fields, and which words an opcode's table reads.
-/
namespace Sys2Proof.Laws

theorem ext_app_hi {m n k w : Nat} (a : BitVec m) (b : BitVec n) (h : n ≤ k) :
    (a ++ b).extractLsb' k w = a.extractLsb' (k - n) w := by
  apply BitVec.eq_of_getLsbD_eq
  intro i hi
  have hn : ¬ k + i < n := by omega
  have e : k - n + i = k + i - n := by omega
  simp [BitVec.getLsbD_append, hn, e]

theorem ext_app_lo {m n k w : Nat} (a : BitVec m) (b : BitVec n) (h : k + w ≤ n) :
    (a ++ b).extractLsb' k w = b.extractLsb' k w := by
  apply BitVec.eq_of_getLsbD_eq
  intro i hi
  have hn : k + i < n := by omega
  simp [BitVec.getLsbD_append, hn]

theorem ext_all {n : Nat} (a : BitVec n) : a.extractLsb' 0 n = a := by
  apply BitVec.eq_of_getLsbD_eq
  intro i hi
  simp [hi]

/-! ### The table of each opcode -/

theorem op_00 (w : BitVec 32) (h : (w.extractLsb' 25 7).toNat = 0x00) : decodeLoose w = decode00 w := by
  unfold decodeLoose; rw [h]; rfl
theorem op_01 (w : BitVec 32) (h : (w.extractLsb' 25 7).toNat = 0x01) : decodeLoose w = decode01 w := by
  unfold decodeLoose; rw [h]; rfl
theorem op_10 (w : BitVec 32) (h : (w.extractLsb' 25 7).toNat = 0x10) : decodeLoose w = .ok (.addi (w.extractLsb' 23 2) (w.extractLsb' 9 14) (w.extractLsb' 0 9), []) := by
  unfold decodeLoose; rw [h]; rfl
theorem op_11 (w : BitVec 32) (h : (w.extractLsb' 25 7).toNat = 0x11) : decodeLoose w = .ok (.muli (w.extractLsb' 23 2) (w.extractLsb' 9 14) (w.extractLsb' 0 9), []) := by
  unfold decodeLoose; rw [h]; rfl
theorem op_12 (w : BitVec 32) (h : (w.extractLsb' 25 7).toNat = 0x12) : decodeLoose w = .ok (.andi (w.extractLsb' 23 2) (w.extractLsb' 9 14) (w.extractLsb' 0 9), []) := by
  unfold decodeLoose; rw [h]; rfl
theorem op_13 (w : BitVec 32) (h : (w.extractLsb' 25 7).toNat = 0x13) : decodeLoose w = .ok (.ori (w.extractLsb' 23 2) (w.extractLsb' 9 14) (w.extractLsb' 0 9), []) := by
  unfold decodeLoose; rw [h]; rfl
theorem op_14 (w : BitVec 32) (h : (w.extractLsb' 25 7).toNat = 0x14) : decodeLoose w = .ok (.xori (w.extractLsb' 23 2) (w.extractLsb' 9 14) (w.extractLsb' 0 9), []) := by
  unfold decodeLoose; rw [h]; rfl
theorem op_15 (w : BitVec 32) (h : (w.extractLsb' 25 7).toNat = 0x15) : decodeLoose w = .ok (.shli (w.extractLsb' 23 2) (w.extractLsb' 9 6) (w.extractLsb' 0 9), z (w.extractLsb' 15 8)) := by
  unfold decodeLoose; rw [h]; rfl
theorem op_16 (w : BitVec 32) (h : (w.extractLsb' 25 7).toNat = 0x16) : decodeLoose w = .ok (.shri (w.extractLsb' 23 2) (w.extractLsb' 9 6) (w.extractLsb' 0 9), z (w.extractLsb' 15 8)) := by
  unfold decodeLoose; rw [h]; rfl
theorem op_17 (w : BitVec 32) (h : (w.extractLsb' 25 7).toNat = 0x17) : decodeLoose w = .ok (.sari (w.extractLsb' 23 2) (w.extractLsb' 9 6) (w.extractLsb' 0 9), z (w.extractLsb' 15 8)) := by
  unfold decodeLoose; rw [h]; rfl
theorem op_18 (w : BitVec 32) (h : (w.extractLsb' 25 7).toNat = 0x18) : decodeLoose w = .ok (.ceqi (w.extractLsb' 23 2) (w.extractLsb' 9 14) (w.extractLsb' 0 9), []) := by
  unfold decodeLoose; rw [h]; rfl
theorem op_19 (w : BitVec 32) (h : (w.extractLsb' 25 7).toNat = 0x19) : decodeLoose w = .ok (.cnei (w.extractLsb' 23 2) (w.extractLsb' 9 14) (w.extractLsb' 0 9), []) := by
  unfold decodeLoose; rw [h]; rfl
theorem op_1A (w : BitVec 32) (h : (w.extractLsb' 25 7).toNat = 0x1A) : decodeLoose w = .ok (.clti (w.extractLsb' 23 2) (w.extractLsb' 9 14) (w.extractLsb' 0 9), []) := by
  unfold decodeLoose; rw [h]; rfl
theorem op_1B (w : BitVec 32) (h : (w.extractLsb' 25 7).toNat = 0x1B) : decodeLoose w = .ok (.clei (w.extractLsb' 23 2) (w.extractLsb' 9 14) (w.extractLsb' 0 9), []) := by
  unfold decodeLoose; rw [h]; rfl
theorem op_1C (w : BitVec 32) (h : (w.extractLsb' 25 7).toNat = 0x1C) : decodeLoose w = .ok (.cltzi (w.extractLsb' 23 2) (w.extractLsb' 9 14) (w.extractLsb' 0 9), []) := by
  unfold decodeLoose; rw [h]; rfl
theorem op_1D (w : BitVec 32) (h : (w.extractLsb' 25 7).toNat = 0x1D) : decodeLoose w = .ok (.clezi (w.extractLsb' 23 2) (w.extractLsb' 9 14) (w.extractLsb' 0 9), []) := by
  unfold decodeLoose; rw [h]; rfl
theorem op_1E (w : BitVec 32) (h : (w.extractLsb' 25 7).toNat = 0x1E) : decodeLoose w = .ok (.lea (w.extractLsb' 23 2) (w.extractLsb' 20 3) (w.extractLsb' 9 11) (w.extractLsb' 0 9), []) := by
  unfold decodeLoose; rw [h]; rfl
theorem op_1F (w : BitVec 32) (h : (w.extractLsb' 25 7).toNat = 0x1F) : decodeLoose w = .ok (.sext (w.extractLsb' 23 2) (w.extractLsb' 9 6) (w.extractLsb' 0 9), z (w.extractLsb' 15 8)) := by
  unfold decodeLoose; rw [h]; rfl
theorem op_20 (w : BitVec 32) (h : (w.extractLsb' 25 7).toNat = 0x20) : decodeLoose w = .ok (.zext (w.extractLsb' 23 2) (w.extractLsb' 9 6) (w.extractLsb' 0 9), z (w.extractLsb' 15 8)) := by
  unfold decodeLoose; rw [h]; rfl
theorem op_21 (w : BitVec 32) (h : (w.extractLsb' 25 7).toNat = 0x21) : decodeLoose w = .ok (.extr (w.extractLsb' 23 2) (w.extractLsb' 22 1) (w.extractLsb' 15 6) (w.extractLsb' 9 6) (w.extractLsb' 0 9), z (w.extractLsb' 21 1)) := by
  unfold decodeLoose; rw [h]; rfl
theorem op_22 (w : BitVec 32) (h : (w.extractLsb' 25 7).toNat = 0x22) : decodeLoose w = .ok (.ins (w.extractLsb' 23 2) (w.extractLsb' 15 6) (w.extractLsb' 9 6) (w.extractLsb' 0 9), z (w.extractLsb' 21 2)) := by
  unfold decodeLoose; rw [h]; rfl
theorem op_30 (w : BitVec 32) (h : (w.extractLsb' 25 7).toNat = 0x30) : decodeLoose w = .ok (.constI (w.extractLsb' 16 9) (w.extractLsb' 0 16), []) := by
  unfold decodeLoose; rw [h]; rfl
theorem op_31 (w : BitVec 32) (h : (w.extractLsb' 25 7).toNat = 0x31) : decodeLoose w = .ok (.consth (w.extractLsb' 16 9) (w.extractLsb' 0 16), []) := by
  unfold decodeLoose; rw [h]; rfl
theorem op_32 (w : BitVec 32) (h : (w.extractLsb' 25 7).toNat = 0x32) : decodeLoose w = .ok (.get (w.extractLsb' 18 7) (w.extractLsb' 9 9) (w.extractLsb' 0 9), []) := by
  unfold decodeLoose; rw [h]; rfl
theorem op_33 (w : BitVec 32) (h : (w.extractLsb' 25 7).toNat = 0x33) : decodeLoose w = decode33 w := by
  unfold decodeLoose; rw [h]; rfl
theorem op_38 (w : BitVec 32) (h : (w.extractLsb' 25 7).toNat = 0x38) : decodeLoose w = decode38 w := by
  unfold decodeLoose; rw [h]; rfl
theorem op_40 (w : BitVec 32) (h : (w.extractLsb' 25 7).toNat = 0x40) : decodeLoose w = .ok (.ld (w.extractLsb' 23 2) (w.extractLsb' 19 4) (w.extractLsb' 9 10) (w.extractLsb' 0 9), []) := by
  unfold decodeLoose; rw [h]; rfl
theorem op_41 (w : BitVec 32) (h : (w.extractLsb' 25 7).toNat = 0x41) : decodeLoose w = .ok (.st (w.extractLsb' 23 2) (w.extractLsb' 19 4) (w.extractLsb' 9 10), noTarget w) := by
  unfold decodeLoose; rw [h]; rfl
theorem op_42 (w : BitVec 32) (h : (w.extractLsb' 25 7).toNat = 0x42) : decodeLoose w = decode42 w := by
  unfold decodeLoose; rw [h]; rfl
theorem op_43 (w : BitVec 32) (h : (w.extractLsb' 25 7).toNat = 0x43) : decodeLoose w = decode43 w := by
  unfold decodeLoose; rw [h]; rfl
theorem op_44 (w : BitVec 32) (h : (w.extractLsb' 25 7).toNat = 0x44) : decodeLoose w = .ok (.ldvs (w.extractLsb' 23 2) (w.extractLsb' 19 4) (w.extractLsb' 14 5), z (w.extractLsb' 9 5) ++ noTarget w) := by
  unfold decodeLoose; rw [h]; rfl
theorem op_45 (w : BitVec 32) (h : (w.extractLsb' 25 7).toNat = 0x45) : decodeLoose w = .ok (.stvs (w.extractLsb' 23 2) (w.extractLsb' 19 4) (w.extractLsb' 14 5), z (w.extractLsb' 9 5) ++ noTarget w) := by
  unfold decodeLoose; rw [h]; rfl
theorem op_46 (w : BitVec 32) (h : (w.extractLsb' 25 7).toNat = 0x46) : decodeLoose w = decode46 w := by
  unfold decodeLoose; rw [h]; rfl
theorem op_47 (w : BitVec 32) (h : (w.extractLsb' 25 7).toNat = 0x47) : decodeLoose w = decode47 w := by
  unfold decodeLoose; rw [h]; rfl
theorem op_48 (w : BitVec 32) (h : (w.extractLsb' 25 7).toNat = 0x48) : decodeLoose w = decode48 w := by
  unfold decodeLoose; rw [h]; rfl
theorem op_49 (w : BitVec 32) (h : (w.extractLsb' 25 7).toNat = 0x49) : decodeLoose w = decode49 w := by
  unfold decodeLoose; rw [h]; rfl
theorem op_4A (w : BitVec 32) (h : (w.extractLsb' 25 7).toNat = 0x4A) : decodeLoose w = decode4A w := by
  unfold decodeLoose; rw [h]; rfl
theorem op_4B (w : BitVec 32) (h : (w.extractLsb' 25 7).toNat = 0x4B) : decodeLoose w = decode4B w := by
  unfold decodeLoose; rw [h]; rfl
theorem op_50 (w : BitVec 32) (h : (w.extractLsb' 25 7).toNat = 0x50) : decodeLoose w = .ok (.amo (w.extractLsb' 23 2) (w.extractLsb' 19 4) (w.extractLsb' 9 1) (w.extractLsb' 0 9), z (w.extractLsb' 10 9)) := by
  unfold decodeLoose; rw [h]; rfl
theorem op_51 (w : BitVec 32) (h : (w.extractLsb' 25 7).toNat = 0x51) : decodeLoose w = decode51 w := by
  unfold decodeLoose; rw [h]; rfl
theorem op_52 (w : BitVec 32) (h : (w.extractLsb' 25 7).toNat = 0x52) : decodeLoose w = .ok (.red (w.extractLsb' 23 2) (w.extractLsb' 19 4) (w.extractLsb' 9 1), z (w.extractLsb' 10 9) ++ noTarget w) := by
  unfold decodeLoose; rw [h]; rfl
theorem op_53 (w : BitVec 32) (h : (w.extractLsb' 25 7).toNat = 0x53) : decodeLoose w = .ok (.redf (w.extractLsb' 23 2) (w.extractLsb' 19 4), z (w.extractLsb' 9 10) ++ noTarget w) := by
  unfold decodeLoose; rw [h]; rfl
theorem op_54 (w : BitVec 32) (h : (w.extractLsb' 25 7).toNat = 0x54) : decodeLoose w = decode54 w := by
  unfold decodeLoose; rw [h]; rfl
theorem op_55 (w : BitVec 32) (h : (w.extractLsb' 25 7).toNat = 0x55) : decodeLoose w = decode55 w := by
  unfold decodeLoose; rw [h]; rfl
theorem op_58 (w : BitVec 32) (h : (w.extractLsb' 25 7).toNat = 0x58) : decodeLoose w = decode58 w := by
  unfold decodeLoose; rw [h]; rfl
theorem op_59 (w : BitVec 32) (h : (w.extractLsb' 25 7).toNat = 0x59) : decodeLoose w = decode59 w := by
  unfold decodeLoose; rw [h]; rfl
theorem op_5A (w : BitVec 32) (h : (w.extractLsb' 25 7).toNat = 0x5A) : decodeLoose w = decode5A w := by
  unfold decodeLoose; rw [h]; rfl
theorem op_5B (w : BitVec 32) (h : (w.extractLsb' 25 7).toNat = 0x5B) : decodeLoose w = decode5B w := by
  unfold decodeLoose; rw [h]; rfl
theorem op_5C (w : BitVec 32) (h : (w.extractLsb' 25 7).toNat = 0x5C) : decodeLoose w = decode5C w := by
  unfold decodeLoose; rw [h]; rfl
theorem op_5D (w : BitVec 32) (h : (w.extractLsb' 25 7).toNat = 0x5D) : decodeLoose w = decode5D w := by
  unfold decodeLoose; rw [h]; rfl
theorem op_5E (w : BitVec 32) (h : (w.extractLsb' 25 7).toNat = 0x5E) : decodeLoose w = decode5E w := by
  unfold decodeLoose; rw [h]; rfl
theorem op_5F (w : BitVec 32) (h : (w.extractLsb' 25 7).toNat = 0x5F) : decodeLoose w = decode5F w := by
  unfold decodeLoose; rw [h]; rfl
theorem op_60 (w : BitVec 32) (h : (w.extractLsb' 25 7).toNat = 0x60) : decodeLoose w = decode60 w := by
  unfold decodeLoose; rw [h]; rfl
theorem op_61 (w : BitVec 32) (h : (w.extractLsb' 25 7).toNat = 0x61) : decodeLoose w = decode61 w := by
  unfold decodeLoose; rw [h]; rfl
theorem op_62 (w : BitVec 32) (h : (w.extractLsb' 25 7).toNat = 0x62) : decodeLoose w = decode62 w := by
  unfold decodeLoose; rw [h]; rfl
theorem op_63 (w : BitVec 32) (h : (w.extractLsb' 25 7).toNat = 0x63) : decodeLoose w = decode63 w := by
  unfold decodeLoose; rw [h]; rfl
theorem op_64 (w : BitVec 32) (h : (w.extractLsb' 25 7).toNat = 0x64) : decodeLoose w = decode64 w := by
  unfold decodeLoose; rw [h]; rfl
theorem op_65 (w : BitVec 32) (h : (w.extractLsb' 25 7).toNat = 0x65) : decodeLoose w = decode65 w := by
  unfold decodeLoose; rw [h]; rfl
theorem op_66 (w : BitVec 32) (h : (w.extractLsb' 25 7).toNat = 0x66) : decodeLoose w = decode66 w := by
  unfold decodeLoose; rw [h]; rfl
theorem op_67 (w : BitVec 32) (h : (w.extractLsb' 25 7).toNat = 0x67) : decodeLoose w = decode67 w := by
  unfold decodeLoose; rw [h]; rfl
theorem op_68 (w : BitVec 32) (h : (w.extractLsb' 25 7).toNat = 0x68) : decodeLoose w = decode68 w := by
  unfold decodeLoose; rw [h]; rfl
theorem op_69 (w : BitVec 32) (h : (w.extractLsb' 25 7).toNat = 0x69) : decodeLoose w = decode69 w := by
  unfold decodeLoose; rw [h]; rfl
theorem op_6A (w : BitVec 32) (h : (w.extractLsb' 25 7).toNat = 0x6A) : decodeLoose w = .ok (.vred (w.extractLsb' 23 2) (w.extractLsb' 18 4) (w.extractLsb' 13 5) (w.extractLsb' 11 2) (w.extractLsb' 9 2) (w.extractLsb' 0 9), z (w.extractLsb' 22 1)) := by
  unfold decodeLoose; rw [h]; rfl
theorem op_6B (w : BitVec 32) (h : (w.extractLsb' 25 7).toNat = 0x6B) : decodeLoose w = decode6B w := by
  unfold decodeLoose; rw [h]; rfl
theorem op_6C (w : BitVec 32) (h : (w.extractLsb' 25 7).toNat = 0x6C) : decodeLoose w = decode6C w := by
  unfold decodeLoose; rw [h]; rfl
theorem op_6D (w : BitVec 32) (h : (w.extractLsb' 25 7).toNat = 0x6D) : decodeLoose w = decode6D w := by
  unfold decodeLoose; rw [h]; rfl
theorem op_6E (w : BitVec 32) (h : (w.extractLsb' 25 7).toNat = 0x6E) : decodeLoose w = decode6E w := by
  unfold decodeLoose; rw [h]; rfl
theorem op_70 (w : BitVec 32) (h : (w.extractLsb' 25 7).toNat = 0x70) : decodeLoose w = decode70 w := by
  unfold decodeLoose; rw [h]; rfl
theorem op_71 (w : BitVec 32) (h : (w.extractLsb' 25 7).toNat = 0x71) : decodeLoose w = decode71 w := by
  unfold decodeLoose; rw [h]; rfl
theorem op_72 (w : BitVec 32) (h : (w.extractLsb' 25 7).toNat = 0x72) : decodeLoose w = decode72 w := by
  unfold decodeLoose; rw [h]; rfl
theorem op_73 (w : BitVec 32) (h : (w.extractLsb' 25 7).toNat = 0x73) : decodeLoose w = decode73 w := by
  unfold decodeLoose; rw [h]; rfl
theorem op_74 (w : BitVec 32) (h : (w.extractLsb' 25 7).toNat = 0x74) : decodeLoose w = decode74 w := by
  unfold decodeLoose; rw [h]; rfl
theorem op_75 (w : BitVec 32) (h : (w.extractLsb' 25 7).toNat = 0x75) : decodeLoose w = decode75 w := by
  unfold decodeLoose; rw [h]; rfl
theorem op_76 (w : BitVec 32) (h : (w.extractLsb' 25 7).toNat = 0x76) : decodeLoose w = decode76 w := by
  unfold decodeLoose; rw [h]; rfl
theorem op_78 (w : BitVec 32) (h : (w.extractLsb' 25 7).toNat = 0x78) : decodeLoose w = decode78 w := by
  unfold decodeLoose; rw [h]; rfl
theorem op_79 (w : BitVec 32) (h : (w.extractLsb' 25 7).toNat = 0x79) : decodeLoose w = decode79 w := by
  unfold decodeLoose; rw [h]; rfl
theorem op_7A (w : BitVec 32) (h : (w.extractLsb' 25 7).toNat = 0x7A) : decodeLoose w = decode7A w := by
  unfold decodeLoose; rw [h]; rfl
theorem op_7B (w : BitVec 32) (h : (w.extractLsb' 25 7).toNat = 0x7B) : decodeLoose w = decode7B w := by
  unfold decodeLoose; rw [h]; rfl
theorem op_7C (w : BitVec 32) (h : (w.extractLsb' 25 7).toNat = 0x7C) : decodeLoose w = decode7C w := by
  unfold decodeLoose; rw [h]; rfl
theorem op_7D (w : BitVec 32) (h : (w.extractLsb' 25 7).toNat = 0x7D) : decodeLoose w = decode7D w := by
  unfold decodeLoose; rw [h]; rfl
theorem op_7E (w : BitVec 32) (h : (w.extractLsb' 25 7).toNat = 0x7E) : decodeLoose w = decode7E w := by
  unfold decodeLoose; rw [h]; rfl

end Sys2Proof.Laws
end

