-- ==== Sys2Proof/Laws/Tab.lean ====
section
/-!
SUPPORT. Sys2Proof/Laws/Tab.lean: what reading a table gives after a change, for every list whether its numbers rise or not.
-/
namespace Sys2Proof.Machine

theorem tfind_tset_same {α : Type} (t : Tab α) (k : Nat) (v : α) : tfind (tset t k v) k = some v := by
  induction t with
  | nil => simp [tset, tfind]
  | cons e t ih =>
    obtain ⟨j, x⟩ := e
    unfold tset
    split
    · simp [tfind]
    · split
      · simp [tfind]
      · rw [tfind, if_neg (by omega), ih]

theorem tfind_tset_other {α : Type} (t : Tab α) {k j : Nat} (v : α) (h : j ≠ k) : tfind (tset t k v) j = tfind t j := by
  induction t with
  | nil => simp [tset, tfind, Ne.symm h]
  | cons e t ih =>
    obtain ⟨i, x⟩ := e
    unfold tset
    split
    · rw [tfind, if_neg (Ne.symm h)]
    · split
      · rename_i h1; subst h1; simp [tfind, Ne.symm h]
      · simp only [tfind]; split <;> simp_all

@[simp] theorem tget_tset_same {α : Type} (d : α) (t : Tab α) (k : Nat) (v : α) : tget d (tset t k v) k = v := by
  simp [tget, tfind_tset_same]

theorem tget_tset_other {α : Type} (d : α) (t : Tab α) {k j : Nat} (v : α) (h : j ≠ k) :
    tget d (tset t k v) j = tget d t j := by
  simp [tget, tfind_tset_other t v h]

theorem tget_tset {α : Type} (d : α) (t : Tab α) (k j : Nat) (v : α) :
    tget d (tset t k v) j = if j = k then v else tget d t j := by
  split
  · rename_i h; subst h; simp
  · rename_i h; exact tget_tset_other d t v h

theorem tget_tmod {α : Type} (d : α) (t : Tab α) (k j : Nat) (f : α → α) :
    tget d (tmod d t k f) j = if j = k then f (tget d t k) else tget d t j := tget_tset d t k j _

theorem tset_tset {α : Type} (t : Tab α) (k : Nat) (v w : α) : tset (tset t k v) k w = tset t k w := by
  induction t with
  | nil => simp [tset]
  | cons e t ih =>
    obtain ⟨j, x⟩ := e
    by_cases h : k < j
    · simp [tset, h]
    · by_cases h1 : k = j
      · simp [tset, h1]
      · simp [tset, h, h1, ih]

@[simp] theorem length_modAt {α : Type} (l : List α) (k : Nat) (f : α → α) : (modAt l k f).length = l.length := by
  induction l generalizing k with
  | nil => rfl
  | cons x l ih => cases k <;> simp [modAt, ih]

theorem getElem?_modAt {α : Type} (l : List α) (k j : Nat) (f : α → α) :
    (modAt l k f)[j]? = if j = k then (l[j]?).map f else l[j]? := by
  induction l generalizing k j with
  | nil => simp [modAt]
  | cons x l ih => cases k <;> cases j <;> simp [modAt, ih]

@[simp] theorem length_bytesOf (n v : Nat) : (bytesOf n v).length = n := by
  induction n generalizing v with
  | zero => rfl
  | succ n ih => simp [bytesOf, ih]

theorem natOf_bytesOf (n v : Nat) : natOf (bytesOf n v) = v % 256 ^ n := by
  induction n generalizing v with
  | zero => simp [bytesOf, natOf, Nat.mod_one]
  | succ n ih =>
    rw [bytesOf, natOf, ih, Nat.pow_succ, Nat.mul_comm (256 ^ n) 256, Nat.mod_mul]
    simp

end Sys2Proof.Machine
end

