-- ==== Sys2Proof/Laws/Mem.lean ====
section
/-!
SUPPORT. Sys2Proof/Laws/Mem.lean: the memory operations keep the canonical form; a byte written reads back; a write leaves every
other byte alone.
-/
namespace Sys2Proof.Machine

theorem above_mono {lo lo' : Nat} (h : lo' ≤ lo) {m : List Host.Cell} (hm : above lo m = true) : above lo' m = true := by
  induction m with
  | nil => rfl
  | cons e m ih => simp only [above, Bool.and_eq_true, decide_eq_true_eq] at *; exact ⟨by omega, ih hm.2⟩

theorem cellAt_above {lo k : Nat} {m : List Host.Cell} (hm : above lo m = true) (hk : k ≤ lo) : cellAt m k = 0 := by
  induction m with
  | nil => rfl
  | cons e m ih =>
    simp only [above, Bool.and_eq_true, decide_eq_true_eq] at hm
    rw [cellAt, if_neg (by omega), ih hm.2]

theorem above_cellSet {lo k : Nat} {m : List Host.Cell} (b : Byte) (hm : above lo m = true) (hk : lo < k) :
    above lo (cellSet m k b) = true := by
  induction m with
  | nil => unfold cellSet; split <;> simp [above, hk]
  | cons e m ih =>
    obtain ⟨j, c⟩ := e
    simp only [above, Bool.and_eq_true, decide_eq_true_eq] at hm
    unfold cellSet
    repeat' split
    all_goals simp_all [above]

/-- Writing a byte keeps the canonical form. -/
theorem memWf_cellSet {m : List Host.Cell} (k : Nat) (b : Byte) (hm : memWf m = true) : memWf (cellSet m k b) = true := by
  induction m with
  | nil => unfold cellSet; split <;> simp_all [memWf, above]
  | cons e m ih =>
    obtain ⟨j, c⟩ := e
    simp only [memWf, Bool.and_eq_true, decide_eq_true_eq] at hm
    obtain ⟨⟨hc, ha⟩, hw⟩ := hm
    unfold cellSet
    split
    · split
      · simp only [memWf, Bool.and_eq_true, decide_eq_true_eq]; exact ⟨⟨hc, ha⟩, hw⟩
      · simp only [memWf, above, Bool.and_eq_true, decide_eq_true_eq]
        exact ⟨⟨‹_›, ‹_›, above_mono (by omega) ha⟩, ⟨hc, ha⟩, hw⟩
    · split
      · rename_i h1; subst h1
        split
        · exact hw
        · simp only [memWf, Bool.and_eq_true, decide_eq_true_eq]; exact ⟨⟨‹¬b = 0›, ha⟩, hw⟩
      · simp only [memWf, Bool.and_eq_true, decide_eq_true_eq]
        exact ⟨⟨hc, above_cellSet b ha (by omega)⟩, ih hw⟩

theorem cellAt_cellSet_same {m : List Host.Cell} (k : Nat) (b : Byte) (hm : memWf m = true) : cellAt (cellSet m k b) k = b := by
  induction m with
  | nil => unfold cellSet; split <;> simp_all [cellAt]
  | cons e m ih =>
    obtain ⟨j, c⟩ := e
    simp only [memWf, Bool.and_eq_true, decide_eq_true_eq] at hm
    obtain ⟨⟨hc, ha⟩, hw⟩ := hm
    unfold cellSet
    split
    · split
      · rename_i h1 h2
        rw [cellAt, if_neg (by omega), cellAt_above ha (by omega), h2]
      · simp [cellAt]
    · split
      · rename_i h1; subst h1
        split
        · rename_i h2; rw [cellAt_above ha (Nat.le_refl _), h2]
        · simp [cellAt]
      · rw [cellAt, if_neg (by omega), ih hw]

theorem cellAt_cellSet_other {m : List Host.Cell} {k j : Nat} (b : Byte) (h : j ≠ k) : cellAt (cellSet m k b) j = cellAt m j := by
  induction m with
  | nil => unfold cellSet; split <;> simp [cellAt, Ne.symm h]
  | cons e m ih =>
    obtain ⟨i, c⟩ := e
    unfold cellSet
    split
    · split
      · rfl
      · rw [cellAt, if_neg (Ne.symm h)]
    · split
      · rename_i h1; subst h1
        split
        · simp [cellAt, Ne.symm h]
        · simp [cellAt, Ne.symm h]
      · simp only [cellAt, ih]

theorem memWf_filter {m : List Host.Cell} (p : Host.Cell → Bool) (hm : memWf m = true) : memWf (m.filter p) = true := by
  have hab : ∀ (lo : Nat) (m : List Host.Cell), above lo m = true → above lo (m.filter p) = true := by
    intro lo m
    induction m with
    | nil => intro _; rfl
    | cons e m ih =>
      intro h
      simp only [above, Bool.and_eq_true, decide_eq_true_eq] at h
      rw [List.filter_cons]
      split
      · simp only [above, Bool.and_eq_true, decide_eq_true_eq]; exact ⟨h.1, ih h.2⟩
      · exact ih h.2
  induction m with
  | nil => rfl
  | cons e m ih =>
    simp only [memWf, Bool.and_eq_true, decide_eq_true_eq] at hm
    rw [List.filter_cons]
    split
    · simp only [memWf, Bool.and_eq_true, decide_eq_true_eq]; exact ⟨⟨hm.1.1, hab _ _ hm.1.2⟩, ih hm.2⟩
    · exact ih hm.2

/-! ### The operations of a state -/

theorem wf_writeKey {s : State} (k : Nat) (b : Byte) (h : Memory.wf s = true) : Memory.wf (writeKey s k b) = true :=
  memWf_cellSet k b h

theorem wf_writeKeys (bs : List Byte) {s : State} (k : Nat) (h : Memory.wf s = true) : Memory.wf (writeKeys s k bs) = true := by
  induction bs generalizing s k with
  | nil => exact h
  | cons b bs ih => exact ih (k + 1) (wf_writeKey k b h)

theorem wf_writeNat {s : State} (k n v : Nat) (h : Memory.wf s = true) : Memory.wf (writeNat s k n v) = true :=
  wf_writeKeys _ k h

theorem wf_scrub {s : State} (lo hi : Nat) (h : Memory.wf s = true) : Memory.wf (scrub s lo hi) = true :=
  memWf_filter _ h

theorem readKey_writeKey_same {s : State} (k : Nat) (b : Byte) (h : Memory.wf s = true) : readKey (writeKey s k b) k = b :=
  cellAt_cellSet_same k b h

theorem readKey_writeKey_other {s : State} {k j : Nat} (b : Byte) (h : j ≠ k) : readKey (writeKey s k b) j = readKey s j :=
  cellAt_cellSet_other b h

/-- Writing bytes leaves every byte outside them alone. -/
theorem readKey_writeKeys_other (bs : List Byte) {s : State} {k j : Nat} (h : j < k ∨ k + bs.length ≤ j) :
    readKey (writeKeys s k bs) j = readKey s j := by
  induction bs generalizing s k with
  | nil => rfl
  | cons b bs ih =>
    simp only [List.length_cons] at h
    rw [writeKeys, ih (by omega), readKey_writeKey_other b (by omega)]

/-- Bytes written read back. -/
theorem readKey_writeKeys_in (bs : List Byte) {s : State} {k i : Nat} (hw : Memory.wf s = true) (hi : i < bs.length) :
    some (readKey (writeKeys s k bs) (k + i)) = bs[i]? := by
  induction bs generalizing s k i with
  | nil => simp at hi
  | cons b bs ih =>
    rw [writeKeys]
    cases i with
    | zero =>
      rw [readKey_writeKeys_other bs (by omega), Nat.add_zero, readKey_writeKey_same k b hw]
      rfl
    | succ i =>
      have := ih (s := writeKey s k b) (k := k + 1) (i := i) (wf_writeKey k b hw) (by simpa using hi)
      rw [show k + (i + 1) = k + 1 + i by omega, this]
      rfl

theorem readKeys_writeKeys (bs : List Byte) {s : State} (k : Nat) (hw : Memory.wf s = true) :
    readKeys (writeKeys s k bs) k bs.length = bs := by
  induction bs generalizing s k with
  | nil => rfl
  | cons b bs ih =>
    rw [List.length_cons, readKeys, writeKeys, readKey_writeKeys_other bs (by omega), readKey_writeKey_same k b hw,
      ih (k + 1) (wf_writeKey k b hw)]

/-- A number written in n bytes reads back, reduced to n bytes. -/
theorem readNat_writeNat {s : State} (k n v : Nat) (hw : Memory.wf s = true) : readNat (writeNat s k n v) k n = v % 256 ^ n := by
  have := readKeys_writeKeys (bytesOf n v) (s := s) k hw
  rw [length_bytesOf] at this
  rw [readNat, writeNat, this, natOf_bytesOf]

end Sys2Proof.Machine
end

