-- ==== Sys2Proof/Laws/State.lean ====
section
/-!
SUPPORT. Sys2Proof/Laws/State.lean: what each update of the state leaves in each field, one lemma per field per update.
-/
namespace Sys2Proof.Machine

/-! ### setRect -/

@[simp] theorem setRect_cur (s : State) (rid : Nat) (r : Rect) : (setRect s rid r).cur = s.cur := rfl
@[simp] theorem setRect_agenda (s : State) (rid : Nat) (r : Rect) : (setRect s rid r).agenda = s.agenda := rfl
@[simp] theorem setRect_free (s : State) (rid : Nat) (r : Rect) : (setRect s rid r).free = s.free := rfl
@[simp] theorem setRect_nextId (s : State) (rid : Nat) (r : Rect) : (setRect s rid r).nextId = s.nextId := rfl
@[simp] theorem setRect_rev (s : State) (rid : Nat) (r : Rect) : (setRect s rid r).rev = s.rev := rfl
@[simp] theorem setRect_form (s : State) (rid : Nat) (r : Rect) : (setRect s rid r).form = s.form := rfl
@[simp] theorem setRect_ns (s : State) (rid : Nat) (r : Rect) : (setRect s rid r).ns = s.ns := rfl
@[simp] theorem setRect_mem (s : State) (rid : Nat) (r : Rect) : (setRect s rid r).mem = s.mem := rfl
@[simp] theorem setRect_bad (s : State) (rid : Nat) (r : Rect) : (setRect s rid r).bad = s.bad := rfl
@[simp] theorem setRect_poison (s : State) (rid : Nat) (r : Rect) : (setRect s rid r).poison = s.poison := rfl
@[simp] theorem setRect_rects (s : State) (rid : Nat) (r : Rect) : (setRect s rid r).rects = tset s.rects rid r := rfl
@[simp] theorem setRect_worlds (s : State) (rid : Nat) (r : Rect) : (setRect s rid r).worlds = s.worlds := rfl
@[simp] theorem setRect_extents (s : State) (rid : Nat) (r : Rect) : (setRect s rid r).extents = s.extents := rfl
@[simp] theorem setRect_versions (s : State) (rid : Nat) (r : Rect) : (setRect s rid r).versions = s.versions := rfl
@[simp] theorem setRect_ranges (s : State) (rid : Nat) (r : Rect) : (setRect s rid r).ranges = s.ranges := rfl
@[simp] theorem setRect_lanes (s : State) (rid : Nat) (r : Rect) : (setRect s rid r).lanes = s.lanes := rfl
@[simp] theorem setRect_dies (s : State) (rid : Nat) (r : Rect) : (setRect s rid r).dies = s.dies := rfl
@[simp] theorem setRect_links (s : State) (rid : Nat) (r : Rect) : (setRect s rid r).links = s.links := rfl
@[simp] theorem setRect_monAlloc (s : State) (rid : Nat) (r : Rect) : (setRect s rid r).monAlloc = s.monAlloc := rfl
@[simp] theorem setRect_monitors (s : State) (rid : Nat) (r : Rect) : (setRect s rid r).monitors = s.monitors := rfl
@[simp] theorem setRect_host (s : State) (rid : Nat) (r : Rect) : (setRect s rid r).host = s.host := rfl
@[simp] theorem setRect_pass (s : State) (rid : Nat) (r : Rect) : (setRect s rid r).pass = s.pass := rfl
@[simp] theorem setRect_turn (s : State) (rid : Nat) (r : Rect) : (setRect s rid r).turn = s.turn := rfl
@[simp] theorem setRect_outs (s : State) (rid : Nat) (r : Rect) : (setRect s rid r).outs = s.outs := rfl
@[simp] theorem setRect_saved (s : State) (rid : Nat) (r : Rect) : (setRect s rid r).saved = s.saved := rfl

/-! ### modRect -/

@[simp] theorem modRect_cur (s : State) (rid : Nat) (f : Rect → Rect) : (modRect s rid f).cur = s.cur := rfl
@[simp] theorem modRect_agenda (s : State) (rid : Nat) (f : Rect → Rect) : (modRect s rid f).agenda = s.agenda := rfl
@[simp] theorem modRect_free (s : State) (rid : Nat) (f : Rect → Rect) : (modRect s rid f).free = s.free := rfl
@[simp] theorem modRect_nextId (s : State) (rid : Nat) (f : Rect → Rect) : (modRect s rid f).nextId = s.nextId := rfl
@[simp] theorem modRect_rev (s : State) (rid : Nat) (f : Rect → Rect) : (modRect s rid f).rev = s.rev := rfl
@[simp] theorem modRect_form (s : State) (rid : Nat) (f : Rect → Rect) : (modRect s rid f).form = s.form := rfl
@[simp] theorem modRect_ns (s : State) (rid : Nat) (f : Rect → Rect) : (modRect s rid f).ns = s.ns := rfl
@[simp] theorem modRect_mem (s : State) (rid : Nat) (f : Rect → Rect) : (modRect s rid f).mem = s.mem := rfl
@[simp] theorem modRect_bad (s : State) (rid : Nat) (f : Rect → Rect) : (modRect s rid f).bad = s.bad := rfl
@[simp] theorem modRect_poison (s : State) (rid : Nat) (f : Rect → Rect) : (modRect s rid f).poison = s.poison := rfl
@[simp] theorem modRect_rects (s : State) (rid : Nat) (f : Rect → Rect) : (modRect s rid f).rects = tset s.rects rid (f (rectAt s rid)) := rfl
@[simp] theorem modRect_worlds (s : State) (rid : Nat) (f : Rect → Rect) : (modRect s rid f).worlds = s.worlds := rfl
@[simp] theorem modRect_extents (s : State) (rid : Nat) (f : Rect → Rect) : (modRect s rid f).extents = s.extents := rfl
@[simp] theorem modRect_versions (s : State) (rid : Nat) (f : Rect → Rect) : (modRect s rid f).versions = s.versions := rfl
@[simp] theorem modRect_ranges (s : State) (rid : Nat) (f : Rect → Rect) : (modRect s rid f).ranges = s.ranges := rfl
@[simp] theorem modRect_lanes (s : State) (rid : Nat) (f : Rect → Rect) : (modRect s rid f).lanes = s.lanes := rfl
@[simp] theorem modRect_dies (s : State) (rid : Nat) (f : Rect → Rect) : (modRect s rid f).dies = s.dies := rfl
@[simp] theorem modRect_links (s : State) (rid : Nat) (f : Rect → Rect) : (modRect s rid f).links = s.links := rfl
@[simp] theorem modRect_monAlloc (s : State) (rid : Nat) (f : Rect → Rect) : (modRect s rid f).monAlloc = s.monAlloc := rfl
@[simp] theorem modRect_monitors (s : State) (rid : Nat) (f : Rect → Rect) : (modRect s rid f).monitors = s.monitors := rfl
@[simp] theorem modRect_host (s : State) (rid : Nat) (f : Rect → Rect) : (modRect s rid f).host = s.host := rfl
@[simp] theorem modRect_pass (s : State) (rid : Nat) (f : Rect → Rect) : (modRect s rid f).pass = s.pass := rfl
@[simp] theorem modRect_turn (s : State) (rid : Nat) (f : Rect → Rect) : (modRect s rid f).turn = s.turn := rfl
@[simp] theorem modRect_outs (s : State) (rid : Nat) (f : Rect → Rect) : (modRect s rid f).outs = s.outs := rfl
@[simp] theorem modRect_saved (s : State) (rid : Nat) (f : Rect → Rect) : (modRect s rid f).saved = s.saved := rfl

/-! ### setCore -/

@[simp] theorem setCore_cur (s : State) (rid c : Nat) (k : Core) : (setCore s rid c k).cur = s.cur := rfl
@[simp] theorem setCore_agenda (s : State) (rid c : Nat) (k : Core) : (setCore s rid c k).agenda = s.agenda := rfl
@[simp] theorem setCore_free (s : State) (rid c : Nat) (k : Core) : (setCore s rid c k).free = s.free := rfl
@[simp] theorem setCore_nextId (s : State) (rid c : Nat) (k : Core) : (setCore s rid c k).nextId = s.nextId := rfl
@[simp] theorem setCore_rev (s : State) (rid c : Nat) (k : Core) : (setCore s rid c k).rev = s.rev := rfl
@[simp] theorem setCore_form (s : State) (rid c : Nat) (k : Core) : (setCore s rid c k).form = s.form := rfl
@[simp] theorem setCore_ns (s : State) (rid c : Nat) (k : Core) : (setCore s rid c k).ns = s.ns := rfl
@[simp] theorem setCore_mem (s : State) (rid c : Nat) (k : Core) : (setCore s rid c k).mem = s.mem := rfl
@[simp] theorem setCore_bad (s : State) (rid c : Nat) (k : Core) : (setCore s rid c k).bad = s.bad := rfl
@[simp] theorem setCore_poison (s : State) (rid c : Nat) (k : Core) : (setCore s rid c k).poison = s.poison := rfl
@[simp] theorem setCore_worlds (s : State) (rid c : Nat) (k : Core) : (setCore s rid c k).worlds = s.worlds := rfl
@[simp] theorem setCore_extents (s : State) (rid c : Nat) (k : Core) : (setCore s rid c k).extents = s.extents := rfl
@[simp] theorem setCore_versions (s : State) (rid c : Nat) (k : Core) : (setCore s rid c k).versions = s.versions := rfl
@[simp] theorem setCore_ranges (s : State) (rid c : Nat) (k : Core) : (setCore s rid c k).ranges = s.ranges := rfl
@[simp] theorem setCore_lanes (s : State) (rid c : Nat) (k : Core) : (setCore s rid c k).lanes = s.lanes := rfl
@[simp] theorem setCore_dies (s : State) (rid c : Nat) (k : Core) : (setCore s rid c k).dies = s.dies := rfl
@[simp] theorem setCore_links (s : State) (rid c : Nat) (k : Core) : (setCore s rid c k).links = s.links := rfl
@[simp] theorem setCore_monAlloc (s : State) (rid c : Nat) (k : Core) : (setCore s rid c k).monAlloc = s.monAlloc := rfl
@[simp] theorem setCore_monitors (s : State) (rid c : Nat) (k : Core) : (setCore s rid c k).monitors = s.monitors := rfl
@[simp] theorem setCore_host (s : State) (rid c : Nat) (k : Core) : (setCore s rid c k).host = s.host := rfl
@[simp] theorem setCore_pass (s : State) (rid c : Nat) (k : Core) : (setCore s rid c k).pass = s.pass := rfl
@[simp] theorem setCore_turn (s : State) (rid c : Nat) (k : Core) : (setCore s rid c k).turn = s.turn := rfl
@[simp] theorem setCore_outs (s : State) (rid c : Nat) (k : Core) : (setCore s rid c k).outs = s.outs := rfl
@[simp] theorem setCore_saved (s : State) (rid c : Nat) (k : Core) : (setCore s rid c k).saved = s.saved := rfl

/-! ### modCore -/

@[simp] theorem modCore_cur (s : State) (rid c : Nat) (f : Core → Core) : (modCore s rid c f).cur = s.cur := rfl
@[simp] theorem modCore_agenda (s : State) (rid c : Nat) (f : Core → Core) : (modCore s rid c f).agenda = s.agenda := rfl
@[simp] theorem modCore_free (s : State) (rid c : Nat) (f : Core → Core) : (modCore s rid c f).free = s.free := rfl
@[simp] theorem modCore_nextId (s : State) (rid c : Nat) (f : Core → Core) : (modCore s rid c f).nextId = s.nextId := rfl
@[simp] theorem modCore_rev (s : State) (rid c : Nat) (f : Core → Core) : (modCore s rid c f).rev = s.rev := rfl
@[simp] theorem modCore_form (s : State) (rid c : Nat) (f : Core → Core) : (modCore s rid c f).form = s.form := rfl
@[simp] theorem modCore_ns (s : State) (rid c : Nat) (f : Core → Core) : (modCore s rid c f).ns = s.ns := rfl
@[simp] theorem modCore_mem (s : State) (rid c : Nat) (f : Core → Core) : (modCore s rid c f).mem = s.mem := rfl
@[simp] theorem modCore_bad (s : State) (rid c : Nat) (f : Core → Core) : (modCore s rid c f).bad = s.bad := rfl
@[simp] theorem modCore_poison (s : State) (rid c : Nat) (f : Core → Core) : (modCore s rid c f).poison = s.poison := rfl
@[simp] theorem modCore_worlds (s : State) (rid c : Nat) (f : Core → Core) : (modCore s rid c f).worlds = s.worlds := rfl
@[simp] theorem modCore_extents (s : State) (rid c : Nat) (f : Core → Core) : (modCore s rid c f).extents = s.extents := rfl
@[simp] theorem modCore_versions (s : State) (rid c : Nat) (f : Core → Core) : (modCore s rid c f).versions = s.versions := rfl
@[simp] theorem modCore_ranges (s : State) (rid c : Nat) (f : Core → Core) : (modCore s rid c f).ranges = s.ranges := rfl
@[simp] theorem modCore_lanes (s : State) (rid c : Nat) (f : Core → Core) : (modCore s rid c f).lanes = s.lanes := rfl
@[simp] theorem modCore_dies (s : State) (rid c : Nat) (f : Core → Core) : (modCore s rid c f).dies = s.dies := rfl
@[simp] theorem modCore_links (s : State) (rid c : Nat) (f : Core → Core) : (modCore s rid c f).links = s.links := rfl
@[simp] theorem modCore_monAlloc (s : State) (rid c : Nat) (f : Core → Core) : (modCore s rid c f).monAlloc = s.monAlloc := rfl
@[simp] theorem modCore_monitors (s : State) (rid c : Nat) (f : Core → Core) : (modCore s rid c f).monitors = s.monitors := rfl
@[simp] theorem modCore_host (s : State) (rid c : Nat) (f : Core → Core) : (modCore s rid c f).host = s.host := rfl
@[simp] theorem modCore_pass (s : State) (rid c : Nat) (f : Core → Core) : (modCore s rid c f).pass = s.pass := rfl
@[simp] theorem modCore_turn (s : State) (rid c : Nat) (f : Core → Core) : (modCore s rid c f).turn = s.turn := rfl
@[simp] theorem modCore_outs (s : State) (rid c : Nat) (f : Core → Core) : (modCore s rid c f).outs = s.outs := rfl
@[simp] theorem modCore_saved (s : State) (rid c : Nat) (f : Core → Core) : (modCore s rid c f).saved = s.saved := rfl

/-! ### modCsr -/

@[simp] theorem modCsr_cur (s : State) (rid c : Nat) (f : Csrs → Csrs) : (modCsr s rid c f).cur = s.cur := rfl
@[simp] theorem modCsr_agenda (s : State) (rid c : Nat) (f : Csrs → Csrs) : (modCsr s rid c f).agenda = s.agenda := rfl
@[simp] theorem modCsr_free (s : State) (rid c : Nat) (f : Csrs → Csrs) : (modCsr s rid c f).free = s.free := rfl
@[simp] theorem modCsr_nextId (s : State) (rid c : Nat) (f : Csrs → Csrs) : (modCsr s rid c f).nextId = s.nextId := rfl
@[simp] theorem modCsr_rev (s : State) (rid c : Nat) (f : Csrs → Csrs) : (modCsr s rid c f).rev = s.rev := rfl
@[simp] theorem modCsr_form (s : State) (rid c : Nat) (f : Csrs → Csrs) : (modCsr s rid c f).form = s.form := rfl
@[simp] theorem modCsr_ns (s : State) (rid c : Nat) (f : Csrs → Csrs) : (modCsr s rid c f).ns = s.ns := rfl
@[simp] theorem modCsr_mem (s : State) (rid c : Nat) (f : Csrs → Csrs) : (modCsr s rid c f).mem = s.mem := rfl
@[simp] theorem modCsr_bad (s : State) (rid c : Nat) (f : Csrs → Csrs) : (modCsr s rid c f).bad = s.bad := rfl
@[simp] theorem modCsr_poison (s : State) (rid c : Nat) (f : Csrs → Csrs) : (modCsr s rid c f).poison = s.poison := rfl
@[simp] theorem modCsr_worlds (s : State) (rid c : Nat) (f : Csrs → Csrs) : (modCsr s rid c f).worlds = s.worlds := rfl
@[simp] theorem modCsr_extents (s : State) (rid c : Nat) (f : Csrs → Csrs) : (modCsr s rid c f).extents = s.extents := rfl
@[simp] theorem modCsr_versions (s : State) (rid c : Nat) (f : Csrs → Csrs) : (modCsr s rid c f).versions = s.versions := rfl
@[simp] theorem modCsr_ranges (s : State) (rid c : Nat) (f : Csrs → Csrs) : (modCsr s rid c f).ranges = s.ranges := rfl
@[simp] theorem modCsr_lanes (s : State) (rid c : Nat) (f : Csrs → Csrs) : (modCsr s rid c f).lanes = s.lanes := rfl
@[simp] theorem modCsr_dies (s : State) (rid c : Nat) (f : Csrs → Csrs) : (modCsr s rid c f).dies = s.dies := rfl
@[simp] theorem modCsr_links (s : State) (rid c : Nat) (f : Csrs → Csrs) : (modCsr s rid c f).links = s.links := rfl
@[simp] theorem modCsr_monAlloc (s : State) (rid c : Nat) (f : Csrs → Csrs) : (modCsr s rid c f).monAlloc = s.monAlloc := rfl
@[simp] theorem modCsr_monitors (s : State) (rid c : Nat) (f : Csrs → Csrs) : (modCsr s rid c f).monitors = s.monitors := rfl
@[simp] theorem modCsr_host (s : State) (rid c : Nat) (f : Csrs → Csrs) : (modCsr s rid c f).host = s.host := rfl
@[simp] theorem modCsr_pass (s : State) (rid c : Nat) (f : Csrs → Csrs) : (modCsr s rid c f).pass = s.pass := rfl
@[simp] theorem modCsr_turn (s : State) (rid c : Nat) (f : Csrs → Csrs) : (modCsr s rid c f).turn = s.turn := rfl
@[simp] theorem modCsr_outs (s : State) (rid c : Nat) (f : Csrs → Csrs) : (modCsr s rid c f).outs = s.outs := rfl
@[simp] theorem modCsr_saved (s : State) (rid c : Nat) (f : Csrs → Csrs) : (modCsr s rid c f).saved = s.saved := rfl

/-! ### modArr -/

@[simp] theorem modArr_cur (s : State) (rid c : Nat) (f : MArray → MArray) : (modArr s rid c f).cur = s.cur := rfl
@[simp] theorem modArr_agenda (s : State) (rid c : Nat) (f : MArray → MArray) : (modArr s rid c f).agenda = s.agenda := rfl
@[simp] theorem modArr_free (s : State) (rid c : Nat) (f : MArray → MArray) : (modArr s rid c f).free = s.free := rfl
@[simp] theorem modArr_nextId (s : State) (rid c : Nat) (f : MArray → MArray) : (modArr s rid c f).nextId = s.nextId := rfl
@[simp] theorem modArr_rev (s : State) (rid c : Nat) (f : MArray → MArray) : (modArr s rid c f).rev = s.rev := rfl
@[simp] theorem modArr_form (s : State) (rid c : Nat) (f : MArray → MArray) : (modArr s rid c f).form = s.form := rfl
@[simp] theorem modArr_ns (s : State) (rid c : Nat) (f : MArray → MArray) : (modArr s rid c f).ns = s.ns := rfl
@[simp] theorem modArr_mem (s : State) (rid c : Nat) (f : MArray → MArray) : (modArr s rid c f).mem = s.mem := rfl
@[simp] theorem modArr_bad (s : State) (rid c : Nat) (f : MArray → MArray) : (modArr s rid c f).bad = s.bad := rfl
@[simp] theorem modArr_poison (s : State) (rid c : Nat) (f : MArray → MArray) : (modArr s rid c f).poison = s.poison := rfl
@[simp] theorem modArr_worlds (s : State) (rid c : Nat) (f : MArray → MArray) : (modArr s rid c f).worlds = s.worlds := rfl
@[simp] theorem modArr_extents (s : State) (rid c : Nat) (f : MArray → MArray) : (modArr s rid c f).extents = s.extents := rfl
@[simp] theorem modArr_versions (s : State) (rid c : Nat) (f : MArray → MArray) : (modArr s rid c f).versions = s.versions := rfl
@[simp] theorem modArr_ranges (s : State) (rid c : Nat) (f : MArray → MArray) : (modArr s rid c f).ranges = s.ranges := rfl
@[simp] theorem modArr_lanes (s : State) (rid c : Nat) (f : MArray → MArray) : (modArr s rid c f).lanes = s.lanes := rfl
@[simp] theorem modArr_dies (s : State) (rid c : Nat) (f : MArray → MArray) : (modArr s rid c f).dies = s.dies := rfl
@[simp] theorem modArr_links (s : State) (rid c : Nat) (f : MArray → MArray) : (modArr s rid c f).links = s.links := rfl
@[simp] theorem modArr_monAlloc (s : State) (rid c : Nat) (f : MArray → MArray) : (modArr s rid c f).monAlloc = s.monAlloc := rfl
@[simp] theorem modArr_monitors (s : State) (rid c : Nat) (f : MArray → MArray) : (modArr s rid c f).monitors = s.monitors := rfl
@[simp] theorem modArr_host (s : State) (rid c : Nat) (f : MArray → MArray) : (modArr s rid c f).host = s.host := rfl
@[simp] theorem modArr_pass (s : State) (rid c : Nat) (f : MArray → MArray) : (modArr s rid c f).pass = s.pass := rfl
@[simp] theorem modArr_turn (s : State) (rid c : Nat) (f : MArray → MArray) : (modArr s rid c f).turn = s.turn := rfl
@[simp] theorem modArr_outs (s : State) (rid c : Nat) (f : MArray → MArray) : (modArr s rid c f).outs = s.outs := rfl
@[simp] theorem modArr_saved (s : State) (rid c : Nat) (f : MArray → MArray) : (modArr s rid c f).saved = s.saved := rfl

/-! ### modTile -/

@[simp] theorem modTile_cur (s : State) (rid t : Nat) (f : MTile → MTile) : (modTile s rid t f).cur = s.cur := rfl
@[simp] theorem modTile_agenda (s : State) (rid t : Nat) (f : MTile → MTile) : (modTile s rid t f).agenda = s.agenda := rfl
@[simp] theorem modTile_free (s : State) (rid t : Nat) (f : MTile → MTile) : (modTile s rid t f).free = s.free := rfl
@[simp] theorem modTile_nextId (s : State) (rid t : Nat) (f : MTile → MTile) : (modTile s rid t f).nextId = s.nextId := rfl
@[simp] theorem modTile_rev (s : State) (rid t : Nat) (f : MTile → MTile) : (modTile s rid t f).rev = s.rev := rfl
@[simp] theorem modTile_form (s : State) (rid t : Nat) (f : MTile → MTile) : (modTile s rid t f).form = s.form := rfl
@[simp] theorem modTile_ns (s : State) (rid t : Nat) (f : MTile → MTile) : (modTile s rid t f).ns = s.ns := rfl
@[simp] theorem modTile_mem (s : State) (rid t : Nat) (f : MTile → MTile) : (modTile s rid t f).mem = s.mem := rfl
@[simp] theorem modTile_bad (s : State) (rid t : Nat) (f : MTile → MTile) : (modTile s rid t f).bad = s.bad := rfl
@[simp] theorem modTile_poison (s : State) (rid t : Nat) (f : MTile → MTile) : (modTile s rid t f).poison = s.poison := rfl
@[simp] theorem modTile_worlds (s : State) (rid t : Nat) (f : MTile → MTile) : (modTile s rid t f).worlds = s.worlds := rfl
@[simp] theorem modTile_extents (s : State) (rid t : Nat) (f : MTile → MTile) : (modTile s rid t f).extents = s.extents := rfl
@[simp] theorem modTile_versions (s : State) (rid t : Nat) (f : MTile → MTile) : (modTile s rid t f).versions = s.versions := rfl
@[simp] theorem modTile_ranges (s : State) (rid t : Nat) (f : MTile → MTile) : (modTile s rid t f).ranges = s.ranges := rfl
@[simp] theorem modTile_lanes (s : State) (rid t : Nat) (f : MTile → MTile) : (modTile s rid t f).lanes = s.lanes := rfl
@[simp] theorem modTile_dies (s : State) (rid t : Nat) (f : MTile → MTile) : (modTile s rid t f).dies = s.dies := rfl
@[simp] theorem modTile_links (s : State) (rid t : Nat) (f : MTile → MTile) : (modTile s rid t f).links = s.links := rfl
@[simp] theorem modTile_monAlloc (s : State) (rid t : Nat) (f : MTile → MTile) : (modTile s rid t f).monAlloc = s.monAlloc := rfl
@[simp] theorem modTile_monitors (s : State) (rid t : Nat) (f : MTile → MTile) : (modTile s rid t f).monitors = s.monitors := rfl
@[simp] theorem modTile_host (s : State) (rid t : Nat) (f : MTile → MTile) : (modTile s rid t f).host = s.host := rfl
@[simp] theorem modTile_pass (s : State) (rid t : Nat) (f : MTile → MTile) : (modTile s rid t f).pass = s.pass := rfl
@[simp] theorem modTile_turn (s : State) (rid t : Nat) (f : MTile → MTile) : (modTile s rid t f).turn = s.turn := rfl
@[simp] theorem modTile_outs (s : State) (rid t : Nat) (f : MTile → MTile) : (modTile s rid t f).outs = s.outs := rfl
@[simp] theorem modTile_saved (s : State) (rid t : Nat) (f : MTile → MTile) : (modTile s rid t f).saved = s.saved := rfl

/-! ### modLdie -/

@[simp] theorem modLdie_cur (s : State) (rid d : Nat) (f : LDie → LDie) : (modLdie s rid d f).cur = s.cur := rfl
@[simp] theorem modLdie_agenda (s : State) (rid d : Nat) (f : LDie → LDie) : (modLdie s rid d f).agenda = s.agenda := rfl
@[simp] theorem modLdie_free (s : State) (rid d : Nat) (f : LDie → LDie) : (modLdie s rid d f).free = s.free := rfl
@[simp] theorem modLdie_nextId (s : State) (rid d : Nat) (f : LDie → LDie) : (modLdie s rid d f).nextId = s.nextId := rfl
@[simp] theorem modLdie_rev (s : State) (rid d : Nat) (f : LDie → LDie) : (modLdie s rid d f).rev = s.rev := rfl
@[simp] theorem modLdie_form (s : State) (rid d : Nat) (f : LDie → LDie) : (modLdie s rid d f).form = s.form := rfl
@[simp] theorem modLdie_ns (s : State) (rid d : Nat) (f : LDie → LDie) : (modLdie s rid d f).ns = s.ns := rfl
@[simp] theorem modLdie_mem (s : State) (rid d : Nat) (f : LDie → LDie) : (modLdie s rid d f).mem = s.mem := rfl
@[simp] theorem modLdie_bad (s : State) (rid d : Nat) (f : LDie → LDie) : (modLdie s rid d f).bad = s.bad := rfl
@[simp] theorem modLdie_poison (s : State) (rid d : Nat) (f : LDie → LDie) : (modLdie s rid d f).poison = s.poison := rfl
@[simp] theorem modLdie_worlds (s : State) (rid d : Nat) (f : LDie → LDie) : (modLdie s rid d f).worlds = s.worlds := rfl
@[simp] theorem modLdie_extents (s : State) (rid d : Nat) (f : LDie → LDie) : (modLdie s rid d f).extents = s.extents := rfl
@[simp] theorem modLdie_versions (s : State) (rid d : Nat) (f : LDie → LDie) : (modLdie s rid d f).versions = s.versions := rfl
@[simp] theorem modLdie_ranges (s : State) (rid d : Nat) (f : LDie → LDie) : (modLdie s rid d f).ranges = s.ranges := rfl
@[simp] theorem modLdie_lanes (s : State) (rid d : Nat) (f : LDie → LDie) : (modLdie s rid d f).lanes = s.lanes := rfl
@[simp] theorem modLdie_dies (s : State) (rid d : Nat) (f : LDie → LDie) : (modLdie s rid d f).dies = s.dies := rfl
@[simp] theorem modLdie_links (s : State) (rid d : Nat) (f : LDie → LDie) : (modLdie s rid d f).links = s.links := rfl
@[simp] theorem modLdie_monAlloc (s : State) (rid d : Nat) (f : LDie → LDie) : (modLdie s rid d f).monAlloc = s.monAlloc := rfl
@[simp] theorem modLdie_monitors (s : State) (rid d : Nat) (f : LDie → LDie) : (modLdie s rid d f).monitors = s.monitors := rfl
@[simp] theorem modLdie_host (s : State) (rid d : Nat) (f : LDie → LDie) : (modLdie s rid d f).host = s.host := rfl
@[simp] theorem modLdie_pass (s : State) (rid d : Nat) (f : LDie → LDie) : (modLdie s rid d f).pass = s.pass := rfl
@[simp] theorem modLdie_turn (s : State) (rid d : Nat) (f : LDie → LDie) : (modLdie s rid d f).turn = s.turn := rfl
@[simp] theorem modLdie_outs (s : State) (rid d : Nat) (f : LDie → LDie) : (modLdie s rid d f).outs = s.outs := rfl
@[simp] theorem modLdie_saved (s : State) (rid d : Nat) (f : LDie → LDie) : (modLdie s rid d f).saved = s.saved := rfl

/-! ### modQueue -/

@[simp] theorem modQueue_cur (s : State) (rid q : Nat) (f : Queue → Queue) : (modQueue s rid q f).cur = s.cur := rfl
@[simp] theorem modQueue_agenda (s : State) (rid q : Nat) (f : Queue → Queue) : (modQueue s rid q f).agenda = s.agenda := rfl
@[simp] theorem modQueue_free (s : State) (rid q : Nat) (f : Queue → Queue) : (modQueue s rid q f).free = s.free := rfl
@[simp] theorem modQueue_nextId (s : State) (rid q : Nat) (f : Queue → Queue) : (modQueue s rid q f).nextId = s.nextId := rfl
@[simp] theorem modQueue_rev (s : State) (rid q : Nat) (f : Queue → Queue) : (modQueue s rid q f).rev = s.rev := rfl
@[simp] theorem modQueue_form (s : State) (rid q : Nat) (f : Queue → Queue) : (modQueue s rid q f).form = s.form := rfl
@[simp] theorem modQueue_ns (s : State) (rid q : Nat) (f : Queue → Queue) : (modQueue s rid q f).ns = s.ns := rfl
@[simp] theorem modQueue_mem (s : State) (rid q : Nat) (f : Queue → Queue) : (modQueue s rid q f).mem = s.mem := rfl
@[simp] theorem modQueue_bad (s : State) (rid q : Nat) (f : Queue → Queue) : (modQueue s rid q f).bad = s.bad := rfl
@[simp] theorem modQueue_poison (s : State) (rid q : Nat) (f : Queue → Queue) : (modQueue s rid q f).poison = s.poison := rfl
@[simp] theorem modQueue_worlds (s : State) (rid q : Nat) (f : Queue → Queue) : (modQueue s rid q f).worlds = s.worlds := rfl
@[simp] theorem modQueue_extents (s : State) (rid q : Nat) (f : Queue → Queue) : (modQueue s rid q f).extents = s.extents := rfl
@[simp] theorem modQueue_versions (s : State) (rid q : Nat) (f : Queue → Queue) : (modQueue s rid q f).versions = s.versions := rfl
@[simp] theorem modQueue_ranges (s : State) (rid q : Nat) (f : Queue → Queue) : (modQueue s rid q f).ranges = s.ranges := rfl
@[simp] theorem modQueue_lanes (s : State) (rid q : Nat) (f : Queue → Queue) : (modQueue s rid q f).lanes = s.lanes := rfl
@[simp] theorem modQueue_dies (s : State) (rid q : Nat) (f : Queue → Queue) : (modQueue s rid q f).dies = s.dies := rfl
@[simp] theorem modQueue_links (s : State) (rid q : Nat) (f : Queue → Queue) : (modQueue s rid q f).links = s.links := rfl
@[simp] theorem modQueue_monAlloc (s : State) (rid q : Nat) (f : Queue → Queue) : (modQueue s rid q f).monAlloc = s.monAlloc := rfl
@[simp] theorem modQueue_monitors (s : State) (rid q : Nat) (f : Queue → Queue) : (modQueue s rid q f).monitors = s.monitors := rfl
@[simp] theorem modQueue_host (s : State) (rid q : Nat) (f : Queue → Queue) : (modQueue s rid q f).host = s.host := rfl
@[simp] theorem modQueue_pass (s : State) (rid q : Nat) (f : Queue → Queue) : (modQueue s rid q f).pass = s.pass := rfl
@[simp] theorem modQueue_turn (s : State) (rid q : Nat) (f : Queue → Queue) : (modQueue s rid q f).turn = s.turn := rfl
@[simp] theorem modQueue_outs (s : State) (rid q : Nat) (f : Queue → Queue) : (modQueue s rid q f).outs = s.outs := rfl
@[simp] theorem modQueue_saved (s : State) (rid q : Nat) (f : Queue → Queue) : (modQueue s rid q f).saved = s.saved := rfl

/-! ### modStage -/

@[simp] theorem modStage_cur (s : State) (rid n : Nat) (f : Stage → Stage) : (modStage s rid n f).cur = s.cur := rfl
@[simp] theorem modStage_agenda (s : State) (rid n : Nat) (f : Stage → Stage) : (modStage s rid n f).agenda = s.agenda := rfl
@[simp] theorem modStage_free (s : State) (rid n : Nat) (f : Stage → Stage) : (modStage s rid n f).free = s.free := rfl
@[simp] theorem modStage_nextId (s : State) (rid n : Nat) (f : Stage → Stage) : (modStage s rid n f).nextId = s.nextId := rfl
@[simp] theorem modStage_rev (s : State) (rid n : Nat) (f : Stage → Stage) : (modStage s rid n f).rev = s.rev := rfl
@[simp] theorem modStage_form (s : State) (rid n : Nat) (f : Stage → Stage) : (modStage s rid n f).form = s.form := rfl
@[simp] theorem modStage_ns (s : State) (rid n : Nat) (f : Stage → Stage) : (modStage s rid n f).ns = s.ns := rfl
@[simp] theorem modStage_mem (s : State) (rid n : Nat) (f : Stage → Stage) : (modStage s rid n f).mem = s.mem := rfl
@[simp] theorem modStage_bad (s : State) (rid n : Nat) (f : Stage → Stage) : (modStage s rid n f).bad = s.bad := rfl
@[simp] theorem modStage_poison (s : State) (rid n : Nat) (f : Stage → Stage) : (modStage s rid n f).poison = s.poison := rfl
@[simp] theorem modStage_worlds (s : State) (rid n : Nat) (f : Stage → Stage) : (modStage s rid n f).worlds = s.worlds := rfl
@[simp] theorem modStage_extents (s : State) (rid n : Nat) (f : Stage → Stage) : (modStage s rid n f).extents = s.extents := rfl
@[simp] theorem modStage_versions (s : State) (rid n : Nat) (f : Stage → Stage) : (modStage s rid n f).versions = s.versions := rfl
@[simp] theorem modStage_ranges (s : State) (rid n : Nat) (f : Stage → Stage) : (modStage s rid n f).ranges = s.ranges := rfl
@[simp] theorem modStage_lanes (s : State) (rid n : Nat) (f : Stage → Stage) : (modStage s rid n f).lanes = s.lanes := rfl
@[simp] theorem modStage_dies (s : State) (rid n : Nat) (f : Stage → Stage) : (modStage s rid n f).dies = s.dies := rfl
@[simp] theorem modStage_links (s : State) (rid n : Nat) (f : Stage → Stage) : (modStage s rid n f).links = s.links := rfl
@[simp] theorem modStage_monAlloc (s : State) (rid n : Nat) (f : Stage → Stage) : (modStage s rid n f).monAlloc = s.monAlloc := rfl
@[simp] theorem modStage_monitors (s : State) (rid n : Nat) (f : Stage → Stage) : (modStage s rid n f).monitors = s.monitors := rfl
@[simp] theorem modStage_host (s : State) (rid n : Nat) (f : Stage → Stage) : (modStage s rid n f).host = s.host := rfl
@[simp] theorem modStage_pass (s : State) (rid n : Nat) (f : Stage → Stage) : (modStage s rid n f).pass = s.pass := rfl
@[simp] theorem modStage_turn (s : State) (rid n : Nat) (f : Stage → Stage) : (modStage s rid n f).turn = s.turn := rfl
@[simp] theorem modStage_outs (s : State) (rid n : Nat) (f : Stage → Stage) : (modStage s rid n f).outs = s.outs := rfl
@[simp] theorem modStage_saved (s : State) (rid n : Nat) (f : Stage → Stage) : (modStage s rid n f).saved = s.saved := rfl

/-! ### modWorld -/

@[simp] theorem modWorld_cur (s : State) (w : Nat) (f : World → World) : (modWorld s w f).cur = s.cur := rfl
@[simp] theorem modWorld_agenda (s : State) (w : Nat) (f : World → World) : (modWorld s w f).agenda = s.agenda := rfl
@[simp] theorem modWorld_free (s : State) (w : Nat) (f : World → World) : (modWorld s w f).free = s.free := rfl
@[simp] theorem modWorld_nextId (s : State) (w : Nat) (f : World → World) : (modWorld s w f).nextId = s.nextId := rfl
@[simp] theorem modWorld_rev (s : State) (w : Nat) (f : World → World) : (modWorld s w f).rev = s.rev := rfl
@[simp] theorem modWorld_form (s : State) (w : Nat) (f : World → World) : (modWorld s w f).form = s.form := rfl
@[simp] theorem modWorld_ns (s : State) (w : Nat) (f : World → World) : (modWorld s w f).ns = s.ns := rfl
@[simp] theorem modWorld_mem (s : State) (w : Nat) (f : World → World) : (modWorld s w f).mem = s.mem := rfl
@[simp] theorem modWorld_bad (s : State) (w : Nat) (f : World → World) : (modWorld s w f).bad = s.bad := rfl
@[simp] theorem modWorld_poison (s : State) (w : Nat) (f : World → World) : (modWorld s w f).poison = s.poison := rfl
@[simp] theorem modWorld_rects (s : State) (w : Nat) (f : World → World) : (modWorld s w f).rects = s.rects := rfl
@[simp] theorem modWorld_worlds (s : State) (w : Nat) (f : World → World) : (modWorld s w f).worlds = tset s.worlds w (f (tget {} s.worlds w)) := rfl
@[simp] theorem modWorld_extents (s : State) (w : Nat) (f : World → World) : (modWorld s w f).extents = s.extents := rfl
@[simp] theorem modWorld_versions (s : State) (w : Nat) (f : World → World) : (modWorld s w f).versions = s.versions := rfl
@[simp] theorem modWorld_ranges (s : State) (w : Nat) (f : World → World) : (modWorld s w f).ranges = s.ranges := rfl
@[simp] theorem modWorld_lanes (s : State) (w : Nat) (f : World → World) : (modWorld s w f).lanes = s.lanes := rfl
@[simp] theorem modWorld_dies (s : State) (w : Nat) (f : World → World) : (modWorld s w f).dies = s.dies := rfl
@[simp] theorem modWorld_links (s : State) (w : Nat) (f : World → World) : (modWorld s w f).links = s.links := rfl
@[simp] theorem modWorld_monAlloc (s : State) (w : Nat) (f : World → World) : (modWorld s w f).monAlloc = s.monAlloc := rfl
@[simp] theorem modWorld_monitors (s : State) (w : Nat) (f : World → World) : (modWorld s w f).monitors = s.monitors := rfl
@[simp] theorem modWorld_host (s : State) (w : Nat) (f : World → World) : (modWorld s w f).host = s.host := rfl
@[simp] theorem modWorld_pass (s : State) (w : Nat) (f : World → World) : (modWorld s w f).pass = s.pass := rfl
@[simp] theorem modWorld_turn (s : State) (w : Nat) (f : World → World) : (modWorld s w f).turn = s.turn := rfl
@[simp] theorem modWorld_outs (s : State) (w : Nat) (f : World → World) : (modWorld s w f).outs = s.outs := rfl
@[simp] theorem modWorld_saved (s : State) (w : Nat) (f : World → World) : (modWorld s w f).saved = s.saved := rfl

/-! ### modDie -/

@[simp] theorem modDie_cur (s : State) (d : Nat) (f : Die → Die) : (modDie s d f).cur = s.cur := rfl
@[simp] theorem modDie_agenda (s : State) (d : Nat) (f : Die → Die) : (modDie s d f).agenda = s.agenda := rfl
@[simp] theorem modDie_free (s : State) (d : Nat) (f : Die → Die) : (modDie s d f).free = s.free := rfl
@[simp] theorem modDie_nextId (s : State) (d : Nat) (f : Die → Die) : (modDie s d f).nextId = s.nextId := rfl
@[simp] theorem modDie_rev (s : State) (d : Nat) (f : Die → Die) : (modDie s d f).rev = s.rev := rfl
@[simp] theorem modDie_form (s : State) (d : Nat) (f : Die → Die) : (modDie s d f).form = s.form := rfl
@[simp] theorem modDie_ns (s : State) (d : Nat) (f : Die → Die) : (modDie s d f).ns = s.ns := rfl
@[simp] theorem modDie_mem (s : State) (d : Nat) (f : Die → Die) : (modDie s d f).mem = s.mem := rfl
@[simp] theorem modDie_bad (s : State) (d : Nat) (f : Die → Die) : (modDie s d f).bad = s.bad := rfl
@[simp] theorem modDie_poison (s : State) (d : Nat) (f : Die → Die) : (modDie s d f).poison = s.poison := rfl
@[simp] theorem modDie_rects (s : State) (d : Nat) (f : Die → Die) : (modDie s d f).rects = s.rects := rfl
@[simp] theorem modDie_worlds (s : State) (d : Nat) (f : Die → Die) : (modDie s d f).worlds = s.worlds := rfl
@[simp] theorem modDie_extents (s : State) (d : Nat) (f : Die → Die) : (modDie s d f).extents = s.extents := rfl
@[simp] theorem modDie_versions (s : State) (d : Nat) (f : Die → Die) : (modDie s d f).versions = s.versions := rfl
@[simp] theorem modDie_ranges (s : State) (d : Nat) (f : Die → Die) : (modDie s d f).ranges = s.ranges := rfl
@[simp] theorem modDie_lanes (s : State) (d : Nat) (f : Die → Die) : (modDie s d f).lanes = s.lanes := rfl
@[simp] theorem modDie_dies (s : State) (d : Nat) (f : Die → Die) : (modDie s d f).dies = tset s.dies d (f (tget {} s.dies d)) := rfl
@[simp] theorem modDie_links (s : State) (d : Nat) (f : Die → Die) : (modDie s d f).links = s.links := rfl
@[simp] theorem modDie_monAlloc (s : State) (d : Nat) (f : Die → Die) : (modDie s d f).monAlloc = s.monAlloc := rfl
@[simp] theorem modDie_monitors (s : State) (d : Nat) (f : Die → Die) : (modDie s d f).monitors = s.monitors := rfl
@[simp] theorem modDie_host (s : State) (d : Nat) (f : Die → Die) : (modDie s d f).host = s.host := rfl
@[simp] theorem modDie_pass (s : State) (d : Nat) (f : Die → Die) : (modDie s d f).pass = s.pass := rfl
@[simp] theorem modDie_turn (s : State) (d : Nat) (f : Die → Die) : (modDie s d f).turn = s.turn := rfl
@[simp] theorem modDie_outs (s : State) (d : Nat) (f : Die → Die) : (modDie s d f).outs = s.outs := rfl
@[simp] theorem modDie_saved (s : State) (d : Nat) (f : Die → Die) : (modDie s d f).saved = s.saved := rfl

/-! ### modLane -/

@[simp] theorem modLane_cur (s : State) (n : Nat) (f : Lane → Lane) : (modLane s n f).cur = s.cur := rfl
@[simp] theorem modLane_agenda (s : State) (n : Nat) (f : Lane → Lane) : (modLane s n f).agenda = s.agenda := rfl
@[simp] theorem modLane_free (s : State) (n : Nat) (f : Lane → Lane) : (modLane s n f).free = s.free := rfl
@[simp] theorem modLane_nextId (s : State) (n : Nat) (f : Lane → Lane) : (modLane s n f).nextId = s.nextId := rfl
@[simp] theorem modLane_rev (s : State) (n : Nat) (f : Lane → Lane) : (modLane s n f).rev = s.rev := rfl
@[simp] theorem modLane_form (s : State) (n : Nat) (f : Lane → Lane) : (modLane s n f).form = s.form := rfl
@[simp] theorem modLane_ns (s : State) (n : Nat) (f : Lane → Lane) : (modLane s n f).ns = s.ns := rfl
@[simp] theorem modLane_mem (s : State) (n : Nat) (f : Lane → Lane) : (modLane s n f).mem = s.mem := rfl
@[simp] theorem modLane_bad (s : State) (n : Nat) (f : Lane → Lane) : (modLane s n f).bad = s.bad := rfl
@[simp] theorem modLane_poison (s : State) (n : Nat) (f : Lane → Lane) : (modLane s n f).poison = s.poison := rfl
@[simp] theorem modLane_rects (s : State) (n : Nat) (f : Lane → Lane) : (modLane s n f).rects = s.rects := rfl
@[simp] theorem modLane_worlds (s : State) (n : Nat) (f : Lane → Lane) : (modLane s n f).worlds = s.worlds := rfl
@[simp] theorem modLane_extents (s : State) (n : Nat) (f : Lane → Lane) : (modLane s n f).extents = s.extents := rfl
@[simp] theorem modLane_versions (s : State) (n : Nat) (f : Lane → Lane) : (modLane s n f).versions = s.versions := rfl
@[simp] theorem modLane_ranges (s : State) (n : Nat) (f : Lane → Lane) : (modLane s n f).ranges = s.ranges := rfl
@[simp] theorem modLane_lanes (s : State) (n : Nat) (f : Lane → Lane) : (modLane s n f).lanes = tset s.lanes n (f (tget {} s.lanes n)) := rfl
@[simp] theorem modLane_dies (s : State) (n : Nat) (f : Lane → Lane) : (modLane s n f).dies = s.dies := rfl
@[simp] theorem modLane_links (s : State) (n : Nat) (f : Lane → Lane) : (modLane s n f).links = s.links := rfl
@[simp] theorem modLane_monAlloc (s : State) (n : Nat) (f : Lane → Lane) : (modLane s n f).monAlloc = s.monAlloc := rfl
@[simp] theorem modLane_monitors (s : State) (n : Nat) (f : Lane → Lane) : (modLane s n f).monitors = s.monitors := rfl
@[simp] theorem modLane_host (s : State) (n : Nat) (f : Lane → Lane) : (modLane s n f).host = s.host := rfl
@[simp] theorem modLane_pass (s : State) (n : Nat) (f : Lane → Lane) : (modLane s n f).pass = s.pass := rfl
@[simp] theorem modLane_turn (s : State) (n : Nat) (f : Lane → Lane) : (modLane s n f).turn = s.turn := rfl
@[simp] theorem modLane_outs (s : State) (n : Nat) (f : Lane → Lane) : (modLane s n f).outs = s.outs := rfl
@[simp] theorem modLane_saved (s : State) (n : Nat) (f : Lane → Lane) : (modLane s n f).saved = s.saved := rfl

/-! ### emit -/

@[simp] theorem emit_cur (s : State) (o : Out) : (emit s o).cur = s.cur := rfl
@[simp] theorem emit_agenda (s : State) (o : Out) : (emit s o).agenda = s.agenda := rfl
@[simp] theorem emit_free (s : State) (o : Out) : (emit s o).free = s.free := rfl
@[simp] theorem emit_nextId (s : State) (o : Out) : (emit s o).nextId = s.nextId := rfl
@[simp] theorem emit_rev (s : State) (o : Out) : (emit s o).rev = s.rev := rfl
@[simp] theorem emit_form (s : State) (o : Out) : (emit s o).form = s.form := rfl
@[simp] theorem emit_ns (s : State) (o : Out) : (emit s o).ns = s.ns := rfl
@[simp] theorem emit_mem (s : State) (o : Out) : (emit s o).mem = s.mem := rfl
@[simp] theorem emit_bad (s : State) (o : Out) : (emit s o).bad = s.bad := rfl
@[simp] theorem emit_poison (s : State) (o : Out) : (emit s o).poison = s.poison := rfl
@[simp] theorem emit_rects (s : State) (o : Out) : (emit s o).rects = s.rects := rfl
@[simp] theorem emit_worlds (s : State) (o : Out) : (emit s o).worlds = s.worlds := rfl
@[simp] theorem emit_extents (s : State) (o : Out) : (emit s o).extents = s.extents := rfl
@[simp] theorem emit_versions (s : State) (o : Out) : (emit s o).versions = s.versions := rfl
@[simp] theorem emit_ranges (s : State) (o : Out) : (emit s o).ranges = s.ranges := rfl
@[simp] theorem emit_lanes (s : State) (o : Out) : (emit s o).lanes = s.lanes := rfl
@[simp] theorem emit_dies (s : State) (o : Out) : (emit s o).dies = s.dies := rfl
@[simp] theorem emit_links (s : State) (o : Out) : (emit s o).links = s.links := rfl
@[simp] theorem emit_monAlloc (s : State) (o : Out) : (emit s o).monAlloc = s.monAlloc := rfl
@[simp] theorem emit_monitors (s : State) (o : Out) : (emit s o).monitors = s.monitors := rfl
@[simp] theorem emit_host (s : State) (o : Out) : (emit s o).host = s.host := rfl
@[simp] theorem emit_pass (s : State) (o : Out) : (emit s o).pass = s.pass := rfl
@[simp] theorem emit_turn (s : State) (o : Out) : (emit s o).turn = s.turn := rfl
@[simp] theorem emit_outs (s : State) (o : Out) : (emit s o).outs = s.outs ++ [o] := rfl
@[simp] theorem emit_saved (s : State) (o : Out) : (emit s o).saved = s.saved := rfl

/-! ### tick -/

@[simp] theorem tick_cur (s : State) : (tick s).cur = s.cur := rfl
@[simp] theorem tick_agenda (s : State) : (tick s).agenda = s.agenda := rfl
@[simp] theorem tick_free (s : State) : (tick s).free = s.free + 1 := rfl
@[simp] theorem tick_nextId (s : State) : (tick s).nextId = s.nextId := rfl
@[simp] theorem tick_rev (s : State) : (tick s).rev = s.rev := rfl
@[simp] theorem tick_form (s : State) : (tick s).form = s.form := rfl
@[simp] theorem tick_ns (s : State) : (tick s).ns = s.ns + BitVec.ofNat 64 (Config.elapsed s.free) := rfl
@[simp] theorem tick_mem (s : State) : (tick s).mem = s.mem := rfl
@[simp] theorem tick_bad (s : State) : (tick s).bad = s.bad := rfl
@[simp] theorem tick_poison (s : State) : (tick s).poison = s.poison := rfl
@[simp] theorem tick_rects (s : State) : (tick s).rects = s.rects := rfl
@[simp] theorem tick_worlds (s : State) : (tick s).worlds = s.worlds := rfl
@[simp] theorem tick_extents (s : State) : (tick s).extents = s.extents := rfl
@[simp] theorem tick_versions (s : State) : (tick s).versions = s.versions := rfl
@[simp] theorem tick_ranges (s : State) : (tick s).ranges = s.ranges := rfl
@[simp] theorem tick_lanes (s : State) : (tick s).lanes = s.lanes := rfl
@[simp] theorem tick_dies (s : State) : (tick s).dies = s.dies := rfl
@[simp] theorem tick_links (s : State) : (tick s).links = s.links := rfl
@[simp] theorem tick_monAlloc (s : State) : (tick s).monAlloc = s.monAlloc := rfl
@[simp] theorem tick_monitors (s : State) : (tick s).monitors = s.monitors := rfl
@[simp] theorem tick_host (s : State) : (tick s).host = s.host := rfl
@[simp] theorem tick_pass (s : State) : (tick s).pass = s.pass := rfl
@[simp] theorem tick_turn (s : State) : (tick s).turn = s.turn := rfl
@[simp] theorem tick_outs (s : State) : (tick s).outs = s.outs := rfl
@[simp] theorem tick_saved (s : State) : (tick s).saved = s.saved := rfl

/-! ### writeKey -/

@[simp] theorem writeKey_cur (s : State) (k : Nat) (b : Byte) : (writeKey s k b).cur = s.cur := rfl
@[simp] theorem writeKey_agenda (s : State) (k : Nat) (b : Byte) : (writeKey s k b).agenda = s.agenda := rfl
@[simp] theorem writeKey_free (s : State) (k : Nat) (b : Byte) : (writeKey s k b).free = s.free := rfl
@[simp] theorem writeKey_nextId (s : State) (k : Nat) (b : Byte) : (writeKey s k b).nextId = s.nextId := rfl
@[simp] theorem writeKey_rev (s : State) (k : Nat) (b : Byte) : (writeKey s k b).rev = s.rev := rfl
@[simp] theorem writeKey_form (s : State) (k : Nat) (b : Byte) : (writeKey s k b).form = s.form := rfl
@[simp] theorem writeKey_ns (s : State) (k : Nat) (b : Byte) : (writeKey s k b).ns = s.ns := rfl
@[simp] theorem writeKey_mem (s : State) (k : Nat) (b : Byte) : (writeKey s k b).mem = cellSet s.mem k b := rfl
@[simp] theorem writeKey_bad (s : State) (k : Nat) (b : Byte) : (writeKey s k b).bad = s.bad.filter (· != k) := rfl
@[simp] theorem writeKey_poison (s : State) (k : Nat) (b : Byte) : (writeKey s k b).poison = s.poison.filter (· != k) := rfl
@[simp] theorem writeKey_rects (s : State) (k : Nat) (b : Byte) : (writeKey s k b).rects = s.rects := rfl
@[simp] theorem writeKey_worlds (s : State) (k : Nat) (b : Byte) : (writeKey s k b).worlds = s.worlds := rfl
@[simp] theorem writeKey_extents (s : State) (k : Nat) (b : Byte) : (writeKey s k b).extents = s.extents := rfl
@[simp] theorem writeKey_versions (s : State) (k : Nat) (b : Byte) : (writeKey s k b).versions = s.versions := rfl
@[simp] theorem writeKey_ranges (s : State) (k : Nat) (b : Byte) : (writeKey s k b).ranges = s.ranges := rfl
@[simp] theorem writeKey_lanes (s : State) (k : Nat) (b : Byte) : (writeKey s k b).lanes = s.lanes := rfl
@[simp] theorem writeKey_dies (s : State) (k : Nat) (b : Byte) : (writeKey s k b).dies = s.dies := rfl
@[simp] theorem writeKey_links (s : State) (k : Nat) (b : Byte) : (writeKey s k b).links = s.links := rfl
@[simp] theorem writeKey_monAlloc (s : State) (k : Nat) (b : Byte) : (writeKey s k b).monAlloc = s.monAlloc := rfl
@[simp] theorem writeKey_monitors (s : State) (k : Nat) (b : Byte) : (writeKey s k b).monitors = s.monitors := rfl
@[simp] theorem writeKey_host (s : State) (k : Nat) (b : Byte) : (writeKey s k b).host = s.host := rfl
@[simp] theorem writeKey_pass (s : State) (k : Nat) (b : Byte) : (writeKey s k b).pass = s.pass := rfl
@[simp] theorem writeKey_turn (s : State) (k : Nat) (b : Byte) : (writeKey s k b).turn = s.turn := rfl
@[simp] theorem writeKey_outs (s : State) (k : Nat) (b : Byte) : (writeKey s k b).outs = s.outs := rfl
@[simp] theorem writeKey_saved (s : State) (k : Nat) (b : Byte) : (writeKey s k b).saved = s.saved := rfl

/-! ### scrub -/

@[simp] theorem scrub_cur (s : State) (lo hi : Nat) : (scrub s lo hi).cur = s.cur := rfl
@[simp] theorem scrub_agenda (s : State) (lo hi : Nat) : (scrub s lo hi).agenda = s.agenda := rfl
@[simp] theorem scrub_free (s : State) (lo hi : Nat) : (scrub s lo hi).free = s.free := rfl
@[simp] theorem scrub_nextId (s : State) (lo hi : Nat) : (scrub s lo hi).nextId = s.nextId := rfl
@[simp] theorem scrub_rev (s : State) (lo hi : Nat) : (scrub s lo hi).rev = s.rev := rfl
@[simp] theorem scrub_form (s : State) (lo hi : Nat) : (scrub s lo hi).form = s.form := rfl
@[simp] theorem scrub_ns (s : State) (lo hi : Nat) : (scrub s lo hi).ns = s.ns := rfl
@[simp] theorem scrub_mem (s : State) (lo hi : Nat) : (scrub s lo hi).mem = s.mem.filter (fun c => decide (c.1 < lo) || decide (hi ≤ c.1)) := rfl
@[simp] theorem scrub_bad (s : State) (lo hi : Nat) : (scrub s lo hi).bad = s.bad.filter (fun k => decide (k < lo) || decide (hi ≤ k)) := rfl
@[simp] theorem scrub_poison (s : State) (lo hi : Nat) : (scrub s lo hi).poison = s.poison.filter (fun k => decide (k < lo) || decide (hi ≤ k)) := rfl
@[simp] theorem scrub_rects (s : State) (lo hi : Nat) : (scrub s lo hi).rects = s.rects := rfl
@[simp] theorem scrub_worlds (s : State) (lo hi : Nat) : (scrub s lo hi).worlds = s.worlds := rfl
@[simp] theorem scrub_extents (s : State) (lo hi : Nat) : (scrub s lo hi).extents = s.extents := rfl
@[simp] theorem scrub_versions (s : State) (lo hi : Nat) : (scrub s lo hi).versions = s.versions := rfl
@[simp] theorem scrub_ranges (s : State) (lo hi : Nat) : (scrub s lo hi).ranges = s.ranges := rfl
@[simp] theorem scrub_lanes (s : State) (lo hi : Nat) : (scrub s lo hi).lanes = s.lanes := rfl
@[simp] theorem scrub_dies (s : State) (lo hi : Nat) : (scrub s lo hi).dies = s.dies := rfl
@[simp] theorem scrub_links (s : State) (lo hi : Nat) : (scrub s lo hi).links = s.links := rfl
@[simp] theorem scrub_monAlloc (s : State) (lo hi : Nat) : (scrub s lo hi).monAlloc = s.monAlloc := rfl
@[simp] theorem scrub_monitors (s : State) (lo hi : Nat) : (scrub s lo hi).monitors = s.monitors := rfl
@[simp] theorem scrub_host (s : State) (lo hi : Nat) : (scrub s lo hi).host = s.host := rfl
@[simp] theorem scrub_pass (s : State) (lo hi : Nat) : (scrub s lo hi).pass = s.pass := rfl
@[simp] theorem scrub_turn (s : State) (lo hi : Nat) : (scrub s lo hi).turn = s.turn := rfl
@[simp] theorem scrub_outs (s : State) (lo hi : Nat) : (scrub s lo hi).outs = s.outs := rfl
@[simp] theorem scrub_saved (s : State) (lo hi : Nat) : (scrub s lo hi).saved = s.saved := rfl

end Sys2Proof.Machine
end

