-- ==== Sys2Proof/Laws/Ops.lean ====
section
/-!
SUPPORT. Sys2Proof/Laws/Ops.lean: what reading a part of the state gives after a shared operation, and one lemma for each
shared operation of Ops.lean that says what it answers.
-/
namespace Sys2Proof.Machine

/-! ### Parts of the state -/

@[simp] theorem rectAt_setRect_same (s : State) (rid : Nat) (r : Rect) : rectAt (setRect s rid r) rid = r := by
  simp [rectAt]
theorem rectAt_setRect_other (s : State) {rid q : Nat} (r : Rect) (h : q ≠ rid) : rectAt (setRect s rid r) q = rectAt s q := by
  simp [rectAt, tget_tset_other _ _ _ h]
@[simp] theorem rectAt_modRect_same (s : State) (rid : Nat) (f : Rect → Rect) : rectAt (modRect s rid f) rid = f (rectAt s rid) := by
  simp [modRect]
theorem rectAt_modRect_other (s : State) {rid q : Nat} (f : Rect → Rect) (h : q ≠ rid) :
    rectAt (modRect s rid f) q = rectAt s q := rectAt_setRect_other s _ h
@[simp] theorem rectAt_modCore_same (s : State) (rid c : Nat) (f : Core → Core) :
    rectAt (modCore s rid c f) rid = { rectAt s rid with cores := tset (rectAt s rid).cores c (f (coreAt s rid c)) } := by
  simp [modCore, setCore]
theorem rectAt_modCore_other (s : State) {rid q : Nat} (c : Nat) (f : Core → Core) (h : q ≠ rid) :
    rectAt (modCore s rid c f) q = rectAt s q := rectAt_modRect_other s _ h

@[simp] theorem coreAt_modCore_same (s : State) (rid c : Nat) (f : Core → Core) : coreAt (modCore s rid c f) rid c = f (coreAt s rid c) := by
  simp [coreAt, coreOf]
theorem coreAt_modCore_other (s : State) {rid c q d : Nat} (f : Core → Core) (h : q ≠ rid ∨ d ≠ c) :
    coreAt (modCore s rid c f) q d = coreAt s q d := by
  by_cases hq : q = rid
  · subst hq
    have hd : d ≠ c := by tauto
    simp [coreAt, coreOf, tget_tset_other _ _ _ hd]
  · simp [coreAt, rectAt_modCore_other s c f hq]
theorem coreAt_modCore (s : State) (rid c q d : Nat) (f : Core → Core) :
    coreAt (modCore s rid c f) q d = if q = rid ∧ d = c then f (coreAt s rid c) else coreAt s q d := by
  split
  · rename_i h; obtain ⟨rfl, rfl⟩ := h; simp
  · exact coreAt_modCore_other s f (by tauto)

@[simp] theorem coreAt_modCsr_same (s : State) (rid c : Nat) (f : Csrs → Csrs) :
    coreAt (modCsr s rid c f) rid c = { coreAt s rid c with csr := f (coreAt s rid c).csr } := by
  simp [modCsr]

/-- A change of a rectangle that keeps its cores keeps every core of the machine. -/
theorem coreAt_modRect (s : State) (rid q c : Nat) (f : Rect → Rect) (h : (f (rectAt s rid)).cores = (rectAt s rid).cores) :
    coreAt (modRect s rid f) q c = coreAt s q c := by
  by_cases hq : q = rid
  · subst hq; simp [coreAt, coreOf, h]
  · simp [coreAt, rectAt_modRect_other s f hq]

@[simp] theorem coreAt_writeKeys (bs : List Byte) (s : State) (k q c : Nat) : coreAt (writeKeys s k bs) q c = coreAt s q c := by
  induction bs generalizing s k with
  | nil => rfl
  | cons b bs ih => rw [writeKeys, ih]; rfl
@[simp] theorem rectAt_writeKeys (bs : List Byte) (s : State) (k q : Nat) : rectAt (writeKeys s k bs) q = rectAt s q := by
  induction bs generalizing s k with
  | nil => rfl
  | cons b bs ih => rw [writeKeys, ih]; rfl
@[simp] theorem cur_writeKeys (bs : List Byte) (s : State) (k : Nat) : (writeKeys s k bs).cur = s.cur := by
  induction bs generalizing s k with
  | nil => rfl
  | cons b bs ih => rw [writeKeys, ih]; rfl

@[simp] theorem readKey_modCore (s : State) (rid c : Nat) (f : Core → Core) (x : Nat) : readKey (modCore s rid c f) x = readKey s x := rfl
@[simp] theorem readKey_modRect (s : State) (rid : Nat) (f : Rect → Rect) (x : Nat) : readKey (modRect s rid f) x = readKey s x := rfl
@[simp] theorem readKeys_modCore (s : State) (rid c : Nat) (f : Core → Core) (x n : Nat) :
    readKeys (modCore s rid c f) x n = readKeys s x n := by
  induction n generalizing x with
  | zero => rfl
  | succ n ih => simp [readKeys, ih]
@[simp] theorem readNat_modCore (s : State) (rid c : Nat) (f : Core → Core) (x n : Nat) :
    readNat (modCore s rid c f) x n = readNat s x n := by simp [readNat]

/-! ### The running block -/

theorem runOf_phase {s : State} {rid c : Nat} {b : BlockRun} : runOf s rid c = some b ↔ (coreAt s rid c).phase = .run b := by
  unfold runOf; split <;> simp_all

/-- modRun on a core that runs a block. -/
theorem modRun_of_run {s : State} {rid c : Nat} {b : BlockRun} (f : BlockRun → BlockRun) (h : runOf s rid c = some b) :
    modRun s rid c f = modCore s rid c fun k => { k with phase := .run (f b) } := by simp [modRun, h]

@[simp] theorem runOf_modRun (s : State) (rid c : Nat) (f : BlockRun → BlockRun) :
    runOf (modRun s rid c f) rid c = (runOf s rid c).map f := by
  cases h : runOf s rid c with
  | none => simp [modRun, h]
  | some b => rw [modRun_of_run f h, Option.map_some, runOf_phase, coreAt_modCore_same]

@[simp] theorem mem_modRun (s : State) (rid c : Nat) (f : BlockRun → BlockRun) : (modRun s rid c f).mem = s.mem := by
  unfold modRun; split <;> rfl
@[simp] theorem cur_modRun (s : State) (rid c : Nat) (f : BlockRun → BlockRun) : (modRun s rid c f).cur = s.cur := by
  unfold modRun; split <;> rfl
@[simp] theorem readKey_modRun (s : State) (rid c : Nat) (f : BlockRun → BlockRun) (x : Nat) :
    readKey (modRun s rid c f) x = readKey s x := by simp [readKey]

/-- A change of the running block changes nothing of its core but the phase. -/
theorem coreAt_modRun (s : State) (rid c q d : Nat) (f : BlockRun → BlockRun) :
    ∃ p, coreAt (modRun s rid c f) q d = { coreAt s q d with phase := p } := by
  cases h : runOf s rid c with
  | none => exact ⟨(coreAt s q d).phase, by simp [modRun, h]⟩
  | some b =>
    rw [modRun_of_run f h, coreAt_modCore]
    split
    · rename_i h; obtain ⟨rfl, rfl⟩ := h; exact ⟨_, rfl⟩
    · exact ⟨(coreAt s q d).phase, rfl⟩

/-- Two changes of the running block are one. -/
theorem modRun_modRun (s : State) (rid c : Nat) (f g : BlockRun → BlockRun) :
    modRun (modRun s rid c f) rid c g = modRun s rid c fun b => g (f b) := by
  cases h : runOf s rid c with
  | none => simp [modRun, h]
  | some b =>
    rw [modRun_of_run (s := modRun s rid c f) g (b := f b) (by simp [h]), modRun_of_run f h, modRun_of_run _ h]
    simp [modCore, setCore, modRect, setRect, tset_tset, coreAt, coreOf, rectAt]

/-! ### The free number, interrupts and error records -/

/-- Posting an error record keeps the canonical form of memory. -/
theorem wf_post {s : State} (w : Nat) (e : ErrRec) (h : Memory.wf s = true) : Memory.wf (post s w e) = true := by
  have ht : Memory.wf (tick s) = true := h
  unfold post
  simp only
  split
  · simpa only [Memory.wf, modWorld_mem] using ht
  · split
    · simpa only [Memory.wf, emit_mem, modWorld_mem] using wf_writeKeys _ _ ht
    · simpa only [Memory.wf, modWorld_mem] using wf_writeKeys _ _ ht

/-! ### Issuing -/

/-- A slot whose quash is decided is resolved (R47). -/
theorem quashing_of_unresolved {b : BlockRun} {slot : Nat} (h : resolved b slot = false) : quashing b slot = false := by
  unfold resolved at h
  unfold quashing
  split <;> simp_all

/-- What issue answers when the instruction can issue: the effect decides (R47, R48). -/
theorem issue_of_ready {i : Instr} {f : W64 → W64 → State → Act} {s : State} {b : BlockRun} {l r : W64}
    (hr : runOf s s.cur.rid s.cur.core = some b) (ha : coreActs s s.cur.rid s.cur.core = true) (hs : resolved b s.cur.slot = false)
    (hd : lowest i.details = none) (hq : readiness i b s.cur.slot = .ready l r)
    (hh : mayIssue (coreAt s s.cur.rid s.cur.core) b i s.cur.slot = true) :
    issue i f s = .next (match f l r s with
      | .hold => s
      | .done s' => setSlot s' s.cur.rid s.cur.core s.cur.slot .fired
      | .send s' v => deliverAll (setSlot s' s.cur.rid s.cur.core s.cur.slot .fired) s.cur.rid s.cur.core s.cur.slot (some v) (targetsOf i)
      | .sendNull s' => deliverAll (setSlot s' s.cur.rid s.cur.core s.cur.slot .fired) s.cur.rid s.cur.core s.cur.slot none (targetsOf i)
      | .later s' => s'
      | .trap cause a => trapSlot s s.cur.rid s.cur.core cause a (some s.cur.slot)) := by
  simp only [issue, issueState, hr, ha, hs, quashing_of_unresolved hs, hd, hq, hh, Bool.not_true, Bool.false_eq_true, if_false]
    <;> cases f l r s <;> rfl

/-- A quashed slot delivers nulls and has no other effect (R47). -/
theorem issue_of_quashed {i : Instr} {f : W64 → W64 → State → Act} {s : State} {b : BlockRun}
    (hr : runOf s s.cur.rid s.cur.core = some b) (ha : coreActs s s.cur.rid s.cur.core = true) (hs : resolved b s.cur.slot = false)
    (hd : lowest i.details = none) (hq : readiness i b s.cur.slot = .quashed) :
    issue i f s = .next (deliverAll (setSlot s s.cur.rid s.cur.core s.cur.slot .quashed) s.cur.rid s.cur.core s.cur.slot none
      (targetsOf i)) := by
  simp only [issue, issueState, hr, ha, hs, quashing_of_unresolved hs, hd, hq, Bool.not_true, Bool.false_eq_true, if_false]

/-- A slot whose quash is decided delivers its nulls when its turn comes (R47). -/
theorem issue_of_quashing {i : Instr} {f : W64 → W64 → State → Act} {s : State} {b : BlockRun}
    (hr : runOf s s.cur.rid s.cur.core = some b) (ha : coreActs s s.cur.rid s.cur.core = true) (hq : quashing b s.cur.slot = true) :
    issue i f s = .next (deliverAll (setSlot s s.cur.rid s.cur.core s.cur.slot .quashed) s.cur.rid s.cur.core s.cur.slot none
      (targetsOf i)) := by
  simp only [issue, issueState, hr, ha, hq, Bool.not_true, Bool.false_eq_true, if_false, if_true]

/-- A slot that is resolved, or whose core does not act, is left as it is. -/
theorem issue_of_idle {i : Instr} {f : W64 → W64 → State → Act} {s : State} {b : BlockRun}
    (hr : runOf s s.cur.rid s.cur.core = some b)
    (h : coreActs s s.cur.rid s.cur.core = false ∨ (resolved b s.cur.slot = true ∧ quashing b s.cur.slot = false)) :
    issue i f s = .next s := by
  rcases h with h | ⟨h, hq⟩
  · simp only [issue, issueState, hr, h, Bool.not_false, if_true]
  · cases ha : coreActs s s.cur.rid s.cur.core <;> simp [issue, issueState, hr, ha, h, hq]

/-- A slot trap of a running block is the trap of its block address, where no fault waits and no other slot stands half done (R52). -/
theorem trapSlot_of_run {s : State} {rid c : Nat} {b : BlockRun} (cause : Nat) (a : W64) (slot : Option Nat)
    (h : runOf s rid c = some b) (hf : b.fault = none) (hd : halfDone b slot = false) :
    trapSlot s rid c cause a slot = takeTrap s rid c cause a b.h slot := by
  simp [trapSlot, h, hf, hd]

/-- While another slot stands half done a slot trap waits in the block (R52). -/
theorem trapSlot_of_halfDone {s : State} {rid c : Nat} {b : BlockRun} (cause : Nat) (a : W64) (slot : Option Nat)
    (h : runOf s rid c = some b) (hf : b.fault = none) (hd : halfDone b slot = true) :
    trapSlot s rid c cause a slot = modRun s rid c fun b => { b with fault := some (cause, a, slot) } := by
  simp [trapSlot, h, hf, hd]

/-- A block whose fault waits goes on waiting when it meets a further one (R52). -/
theorem trapSlot_of_fault {s : State} {rid c : Nat} {b : BlockRun} {f : Nat × W64 × Option Nat} (cause : Nat) (a : W64) (slot : Option Nat)
    (h : runOf s rid c = some b) (hf : b.fault = some f) :
    trapSlot s rid c cause a slot = modRun s rid c (laterFault f (cause, a, slot)) := by
  simp [trapSlot, h, hf]

/-- A trap of a running block in handler mode is a fault in the handler (R296). -/
theorem takeTrap_of_handler {s : State} {rid c : Nat} {b : BlockRun} (cause : Nat) (a : W64) (slot : Option Nat)
    (h : runOf s rid c = some b) (hm : (coreAt s rid c).csr.hmode = true) :
    takeTrap s rid c cause a b.h slot =
      handlerFault (modCore (keepLoads (dropBlock s rid c b.id) rid c b slot) rid c fun k => { k with phase := .fetch b.h }) rid c cause := by
  unfold takeTrap
  simp [runOf_phase.1 h, hm]

/-! ### Delivery -/

/-- A delivery to no target changes nothing. -/
@[simp] theorem deliver_none (s : State) (rid c slot : Nat) (v : Option W64) : deliver s rid c slot v 0x1FF#9 = s := by
  unfold deliver
  split
  · rfl
  · rfl

theorem deliverAll_nil (s : State) (rid c slot : Nat) (v : Option W64) : deliverAll s rid c slot v [] = s := rfl

/-- A delivery that raises nothing is made, then the rest (R38). -/
theorem deliverAll_cons {s : State} {rid c slot : Nat} {v : Option W64} {t : BitVec 9} (ts : List (BitVec 9))
    (h : deliveryFault s rid c slot v t = none) :
    deliverAll s rid c slot v (t :: ts) = deliverAll (deliver s rid c slot v t) rid c slot v ts := by
  simp [deliverAll, deliverCycle, h]

/-- A delivery that faults, alone in its cycle, raises its cause at the slot that it names (R40, R52). -/
theorem deliverAll_fault {s : State} {rid c slot cause at_ : Nat} {v : Option W64} {t : BitVec 9}
    (h : deliveryFault s rid c slot v t = some (cause, at_)) :
    deliverAll s rid c slot v [t] = trapSlot s rid c cause 0 (some at_) := by
  simp [deliverAll, deliverCycle, h, lowerOf]

/-- A value delivered to an empty operand of a waiting slot stands there, one delivery less is expected, and the slot's quash is
decided where that settles it (R40, R47). -/
theorem deliver_left {s : State} {rid c slot n : Nat} {b : BlockRun} {t : BitVec 9} {v : W64} (h : runOf s rid c = some b)
    (ht : target t = .left n) (hn : resolved b n = false) (ho : (operand b n 0).val = none) :
    deliver s rid c slot (some v) t = modRun s rid c fun b =>
      decideQuash { b with ops := tset b.ops (opKey n 0) { left := (operand b n 0).left - 1, val := some v } } n := by
  unfold deliver
  simp only [h, ht, hn, ho, Bool.false_eq_true, if_false, Option.isSome_none, Option.isSome_some, Bool.and_false, if_true]
  rw [modRun_of_run _ h, modRun_of_run _ h]

/-- A second value for an operand raises 0x009 at its slot (R40). -/
theorem deliver_second {s : State} {rid c slot n : Nat} {b : BlockRun} {t : BitVec 9} {v : W64} (h : runOf s rid c = some b)
    (ht : target t = .left n) (hn : resolved b n = false) (ho : (operand b n 0).val ≠ none) :
    deliver s rid c slot (some v) t = trapSlot s rid c 0x009 0 (some n) := by
  unfold deliver
  have : (operand b n 0).val.isSome = true := by cases h : (operand b n 0).val <;> simp_all
  simp [h, ht, hn, this]

end Sys2Proof.Machine
end

