-- ==== Sys2Proof/Laws/Keep.lean ====
section
/-!
SUPPORT. Sys2Proof/Laws/Keep.lean: every shared operation keeps the canonical form of memory, one lemma for each (kept_ and
the name of the operation). Memory changes at three places only: writeKey, the scrub, and the filter of a package reset.
-/
namespace Sys2Proof.Machine

/-- The memory of a state keeps its canonical form. -/
def MemOk (s : State) : Prop := Memory.wf s = true
theorem MemOk.mk {s : State} (h : memWf s.mem = true) : MemOk s := h
theorem MemOk.get {s : State} (h : MemOk s) : memWf s.mem = true := h
/-- What an instruction's effect answers keeps the canonical form of memory. -/
def Act.Kept : Act → Prop
  | .done s => MemOk s
  | .send s _ => MemOk s
  | .sendNull s => MemOk s
  | .later s => MemOk s
  | _ => True
def Result.Kept : Result → Prop
  | .next s => MemOk s
  | _ => True
def Option.Kept : Option State → Prop
  | some s => MemOk s
  | none => True
def Except.Kept : Except Nat State → Prop
  | .ok s => MemOk s
  | .error _ => True

theorem kept_foldl {α : Type} {f : State → α → State} {l : List α} {s : State} (h : MemOk s)
    (hf : ∀ s x, MemOk s → MemOk (f s x)) : MemOk (l.foldl f s) := by
  induction l generalizing s with
  | nil => exact h
  | cons x l ih => exact ih (hf _ _ h)
theorem kept_setRect {s : State} {rid : Nat} {r : Rect} (h : MemOk s) : MemOk (setRect s rid r) := h
theorem kept_modRect {s : State} {rid : Nat} {f : Rect → Rect} (h : MemOk s) : MemOk (modRect s rid f) := h
theorem kept_setCore {s : State} {rid c : Nat} {k : Core} (h : MemOk s) : MemOk (setCore s rid c k) := h
theorem kept_modCore {s : State} {rid c : Nat} {f : Core → Core} (h : MemOk s) : MemOk (modCore s rid c f) := h
theorem kept_modCsr {s : State} {rid c : Nat} {f : Csrs → Csrs} (h : MemOk s) : MemOk (modCsr s rid c f) := h
theorem kept_modArr {s : State} {rid c : Nat} {f : MArray → MArray} (h : MemOk s) : MemOk (modArr s rid c f) := h
theorem kept_modTile {s : State} {rid c : Nat} {f : MTile → MTile} (h : MemOk s) : MemOk (modTile s rid c f) := h
theorem kept_modLdie {s : State} {rid c : Nat} {f : LDie → LDie} (h : MemOk s) : MemOk (modLdie s rid c f) := h
theorem kept_modQueue {s : State} {rid c : Nat} {f : Queue → Queue} (h : MemOk s) : MemOk (modQueue s rid c f) := h
theorem kept_modStage {s : State} {rid c : Nat} {f : Stage → Stage} (h : MemOk s) : MemOk (modStage s rid c f) := h
theorem kept_modWorld {s : State} {w : Nat} {f : World → World} (h : MemOk s) : MemOk (modWorld s w f) := h
theorem kept_modDie {s : State} {w : Nat} {f : Die → Die} (h : MemOk s) : MemOk (modDie s w f) := h
theorem kept_modLane {s : State} {w : Nat} {f : Lane → Lane} (h : MemOk s) : MemOk (modLane s w f) := h
theorem kept_fresh {s : State} (h : MemOk s) : MemOk (fresh s).2 := h
theorem kept_emit {s : State} {o : Out} (h : MemOk s) : MemOk (emit s o) := h
theorem kept_tick {s : State} (h : MemOk s) : MemOk (tick s) := h

def Option.Kept2 {α : Type} : Option (α × State) → Prop
  | some p => MemOk p.2
  | none => True
theorem Option.Kept.get {o : Option State} {s : State} (e : o = some s) (h : Option.Kept o) : MemOk s := by subst e; exact h
theorem Option.Kept2.get {α : Type} {o : Option (α × State)} {p : α × State} (e : o = some p) (h : Option.Kept2 o) : MemOk p.2 := by
  subst e; exact h
theorem Result.Kept.get {o : Result} {s : State} (e : o = .next s) (h : Result.Kept o) : MemOk s := by subst e; exact h
theorem kept_getD {o : Option State} {s : State} (h : MemOk s) (ho : Option.Kept o) : MemOk (o.getD s) := by
  cases o with
  | none => exact h
  | some t => exact ho

def StoreRes.Kept : StoreRes → Prop
  | .done s => MemOk s
  | .later s => MemOk s
  | _ => True
def AtomRes.Kept : AtomRes → Prop
  | .ok s _ => MemOk s
  | _ => True
def MoveRes.Kept : MoveRes → Prop
  | .done s => MemOk s
  | _ => True
theorem StoreRes.Kept.done {o : StoreRes} {s : State} (e : o = .done s) (h : StoreRes.Kept o) : MemOk s := by subst e; exact h
theorem StoreRes.Kept.later {o : StoreRes} {s : State} (e : o = .later s) (h : StoreRes.Kept o) : MemOk s := by subst e; exact h
theorem AtomRes.Kept.get {o : AtomRes} {s : State} {v : Nat} (e : o = .ok s v) (h : AtomRes.Kept o) : MemOk s := by subst e; exact h
theorem MoveRes.Kept.get {o : MoveRes} {s : State} (e : o = .done s) (h : MoveRes.Kept o) : MemOk s := by subst e; exact h

theorem kept_writeKey {s : State} (k : Nat) (b : Byte) (h : MemOk s) : MemOk (writeKey s k b) := wf_writeKey k b h
theorem kept_writeKeys {s : State} (k : Nat) (bs : List Byte) (h : MemOk s) : MemOk (writeKeys s k bs) := wf_writeKeys bs k h
theorem kept_writeNat {s : State} (k n v : Nat) (h : MemOk s) : MemOk (writeNat s k n v) := wf_writeNat k n v h
theorem kept_scrub {s : State} (lo hi : Nat) (h : MemOk s) : MemOk (scrub s lo hi) := wf_scrub lo hi h
theorem kept_post {s : State} (w : Nat) (e : ErrRec) (h : MemOk s) : MemOk (post s w e) := wf_post w e h

/-! ### Ops -/

theorem kept_modRun {s : State} (rid c : Nat) (f : BlockRun → BlockRun) (hwf : MemOk s) : MemOk (modRun s rid c f) := by
  unfold modRun
  repeat' (with_reducible first | assumption | apply kept_modCore | split)

theorem kept_postWorld {s : State} (w cause kind : Nat) (hwf : MemOk s) : MemOk (postWorld s w cause kind) := by
  unfold postWorld
  repeat' (with_reducible first | assumption | apply kept_post)

theorem kept_postFor {s : State} (rid core cause kind : Nat) (faddr : Nat) (rcd : BitVec 512) (fslot : Nat := 0) (hwf : MemOk s) : MemOk (postFor s rid core cause kind faddr rcd fslot) := by
  unfold postFor
  repeat' (with_reducible first | assumption | apply kept_post)

theorem kept_domainLeave {s : State} (rid uid : Nat) (hwf : MemOk s) : MemOk (domainLeave s rid uid) := by
  unfold domainLeave
  repeat' (with_reducible first | assumption | apply kept_modRect)

theorem kept_domainEnd {s : State} (rid c uid : Nat) (hwf : MemOk s) : MemOk (domainEnd s rid c uid) := by
  unfold domainEnd
  repeat' (with_reducible first | assumption | apply kept_domainLeave | apply kept_modRect | apply kept_fresh | split)

theorem kept_runsOn {s : State} (rid uid c : Nat) (hwf : MemOk s) : MemOk (runsOn s rid uid c) := by
  unfold runsOn
  repeat' (with_reducible first | assumption | apply kept_modRect)

theorem kept_releaseResv {s : State} (rid uid : Nat) (hwf : MemOk s) : MemOk (releaseResv s rid uid) := by
  unfold releaseResv
  exact kept_modRect hwf

theorem kept_releaseTask {s : State} (rid c : Nat) (hwf : MemOk s) : MemOk (releaseTask s rid c) := by
  unfold releaseTask
  repeat' (with_reducible first | assumption | apply kept_releaseResv | apply kept_modCore | apply kept_postFor | apply kept_foldl | split | intro _)

theorem kept_freeCore {s : State} (rid c : Nat) (hwf : MemOk s) : MemOk (freeCore s rid c) := by
  unfold freeCore
  repeat' (with_reducible first | assumption | apply kept_modCore)

theorem kept_dropEntries {s : State} (rid c uid : Nat) (hwf : MemOk s) : MemOk (dropEntries s rid c uid) := by
  unfold dropEntries
  repeat' (with_reducible first | assumption | apply kept_modCore)

theorem kept_discardTask {s : State} (rid c : Nat) (hwf : MemOk s) : MemOk (discardTask s rid c) := by
  unfold discardTask
  repeat' (with_reducible first | assumption | apply kept_domainEnd | apply kept_releaseTask | apply kept_freeCore | apply kept_dropEntries | split)

theorem kept_discardWith {s : State} (rid c cause : Nat) (hwf : MemOk s) : MemOk (discardWith s rid c cause) := by
  unfold discardWith
  repeat' (with_reducible first | assumption | apply kept_post | apply kept_modCsr | apply kept_post | apply kept_discardTask)

theorem kept_dropBlock {s : State} (rid c : Nat) (id : Nat) (hwf : MemOk s) : MemOk (dropBlock s rid c id) := by
  unfold dropBlock
  repeat' (with_reducible first | assumption | apply kept_modCore)

theorem kept_keepLoads {s : State} (rid c : Nat) (b : BlockRun) (slot : Option Nat) (hwf : MemOk s) : MemOk (keepLoads s rid c b slot) := by
  unfold keepLoads
  repeat' (with_reducible first | assumption | apply kept_modCore)

theorem kept_saveArea {s : State} (rid c : Nat) (hwf : MemOk s) : MemOk (saveArea s rid c) := by
  unfold saveArea
  repeat' (with_reducible first | assumption | apply kept_writeKeys)

theorem kept_haltCore {s : State} (rid c : Nat) (record : Bool) (hwf : MemOk s) : MemOk (haltCore s rid c record) := by
  unfold haltCore
  repeat' (with_reducible first | assumption | apply kept_post | apply kept_modCore | apply kept_modCsr | apply kept_post | apply kept_domainEnd | apply kept_dropEntries | split | intro _ | dsimp only)

theorem kept_handlerFault {s : State} (rid c cause : Nat) (hwf : MemOk s) : MemOk (handlerFault s rid c cause) := by
  unfold handlerFault
  repeat' (with_reducible first | assumption | apply kept_modCsr | apply kept_discardWith | apply kept_haltCore | split | intro _ | dsimp only)

theorem kept_enterHandler {s : State} (rid c : Nat) (hwf : MemOk s) : MemOk (enterHandler s rid c) := by
  unfold enterHandler
  repeat' (with_reducible first | assumption | apply kept_modCore | apply kept_modCsr | apply kept_saveArea | apply kept_handlerFault | split | intro _ | dsimp only)

theorem kept_abandonUnbound {s : State} (rid c : Nat) (hwf : MemOk s) : MemOk (abandonUnbound s rid c) := by
  unfold abandonUnbound
  repeat' (with_reducible first | assumption | apply kept_modCore | apply kept_dropBlock | split | intro _ | dsimp only)

theorem kept_abandonAll {s : State} (rid : Nat) (hwf : MemOk s) : MemOk (abandonAll s rid) := by
  unfold abandonAll
  repeat' (with_reducible first | assumption | apply kept_abandonUnbound | apply kept_foldl | split | intro _)

theorem kept_takeTrap {s : State} (rid c cause : Nat) (faddr : W64) (fblk : Nat) (slot : Option Nat) (hwf : MemOk s) : MemOk (takeTrap s rid c cause faddr fblk slot) := by
  unfold takeTrap
  repeat' (with_reducible first | assumption | apply kept_modCore | apply kept_modCsr | apply kept_discardWith | apply kept_dropBlock | apply kept_keepLoads | apply kept_handlerFault | apply kept_enterHandler | apply kept_abandonAll | split | intro _ | dsimp only)

theorem kept_trapSlot {s : State} (rid c cause : Nat) (faddr : W64) (slot : Option Nat) (hwf : MemOk s) : MemOk (trapSlot s rid c cause faddr slot) := by
  unfold trapSlot
  repeat' (with_reducible first | assumption | apply kept_takeTrap | apply kept_modRun | split)

theorem kept_returnTrap {s : State} (rid c target : Nat) (hwf : MemOk s) : MemOk (returnTrap s rid c target) := by
  unfold returnTrap
  repeat' (with_reducible first | assumption | apply kept_modCore)

theorem kept_tryPush {s : State} (rid c : Nat) (ix : Nat) (hwf : MemOk s) : MemOk (tryPush s rid c ix) := by
  unfold tryPush
  repeat' (with_reducible first | assumption | apply kept_modQueue | apply kept_modRun | apply kept_trapSlot | split)

theorem kept_deliver {s : State} (rid c slot : Nat) (v : Option W64) (t : BitVec 9) (hwf : MemOk s) : MemOk (deliver s rid c slot v t) := by
  unfold deliver
  repeat' (with_reducible first | assumption | apply kept_modRun | apply kept_trapSlot | apply kept_tryPush | split | intro _ | dsimp only)

theorem kept_deliverCycle {s : State} (rid c : Nat) (ds : List (Nat × Option W64 × BitVec 9)) (hwf : MemOk s) :
    MemOk (deliverCycle s rid c ds) := by
  have step : ∀ (ds : List (Nat × Option W64 × BitVec 9)) (x : State × Option (Nat × Nat)), MemOk x.1 →
      MemOk (ds.foldl (fun (x : State × Option (Nat × Nat)) d =>
        match deliveryFault x.1 rid c d.1 d.2.1 d.2.2 with
        | some g => (x.1, lowerOf x.2 g)
        | none => (deliver x.1 rid c d.1 d.2.1 d.2.2, x.2)) x).1 := by
    intro ds
    induction ds with
    | nil => exact fun _ h => h
    | cons d ds ih =>
      intro x h
      refine ih _ ?_
      dsimp only
      split
      · exact h
      · exact kept_deliver _ _ _ _ _ h
  have := step ds (s, none) hwf
  unfold deliverCycle
  dsimp only
  split
  · exact kept_trapSlot _ _ _ _ _ this
  · exact this

theorem kept_deliverAll {s : State} (rid c slot : Nat) (v : Option W64) (ts : List (BitVec 9)) (hwf : MemOk s) : MemOk (deliverAll s rid c slot v ts) := by
  exact kept_deliverCycle rid c _ hwf

theorem kept_setSlot {s : State} (rid c slot : Nat) (st : SlotSt) (hwf : MemOk s) : MemOk (setSlot s rid c slot st) := by
  unfold setSlot
  repeat' (with_reducible first | assumption | apply kept_modRun)

theorem kept_bind {s : State} (rid c : Nat) (hwf : MemOk s) : MemOk (bind s rid c) := by
  unfold bind
  repeat' (with_reducible first | assumption | apply kept_modRun)

theorem kept_issueState {i : Instr} {f : W64 → W64 → State → Act} {s : State} (h : MemOk s) (hf : ∀ l r, Act.Kept (f l r s)) :
    MemOk (issueState i f s) := by
  unfold issueState
  dsimp only
  split
  · exact h
  split
  · exact h
  split
  · exact kept_deliverAll _ _ _ _ _ (kept_setSlot _ _ _ _ h)
  split
  · exact h
  split
  · exact kept_trapSlot _ _ _ _ _ h
  split
  · exact h
  · exact kept_deliverAll _ _ _ _ _ (kept_setSlot _ _ _ _ h)
  rename_i l r _
  have := hf l r
  split
  · exact h
  split <;> simp_all only [Act.Kept]
  · exact kept_setSlot _ _ _ _ this
  · exact kept_deliverAll _ _ _ _ _ (kept_setSlot _ _ _ _ this)
  · exact kept_deliverAll _ _ _ _ _ (kept_setSlot _ _ _ _ this)
  · exact kept_trapSlot _ _ _ _ _ h

theorem kept_issue {i : Instr} {f : W64 → W64 → State → Act} {s : State} (h : MemOk s) (hf : ∀ l r, Act.Kept (f l r s)) :
    Result.Kept (issue i f s) := kept_issueState h hf

/-! ### Monitor -/

theorem kept_noteOccupancy {s : State} (rid q : Nat) (hwf : MemOk s) : MemOk (noteOccupancy s rid q) := by
  unfold noteOccupancy
  repeat' (with_reducible first | assumption | split | intro _ | dsimp only | (apply MemOk.mk; dsimp only; apply MemOk.get))

theorem kept_noteEvent {s : State} (rid die src sel : Nat) (hwf : MemOk s) : MemOk (noteEvent s rid die src sel) := by
  unfold noteEvent
  repeat' (with_reducible first | assumption | split | intro _ | dsimp only | (apply MemOk.mk; dsimp only; apply MemOk.get))

theorem kept_sampleMonitor {s : State} (rid n : Nat) (hwf : MemOk s) : MemOk (sampleMonitor s rid n) := by
  unfold sampleMonitor
  repeat' (with_reducible first | assumption | apply kept_foldl | split | intro _ | dsimp only | (apply MemOk.mk; dsimp only; apply MemOk.get))

/-! ### Access -/

theorem kept_bumpVersion {s : State} (p : Place) (hwf : MemOk s) : MemOk (bumpVersion s p) := by
  unfold bumpVersion
  repeat' (with_reducible first | assumption | split | dsimp only | (apply MemOk.mk; dsimp only; apply MemOk.get))

theorem kept_bumpRange {s : State} (p : Place) (n : Nat) (hwf : MemOk s) : MemOk (bumpRange s p n) := by
  unfold bumpRange
  repeat' (with_reducible first | assumption | apply kept_bumpVersion | split)

theorem kept_noteRead {s : State} (who : Who) (uid : Nat) (a : W64) (hwf : MemOk s) : MemOk (noteRead s who uid a) := by
  unfold noteRead
  repeat' (with_reducible first | assumption | apply kept_modRect | split)

theorem kept_abortTask {s : State} (rid : Nat) (o : Outst) (hwf : MemOk s) : MemOk (abortTask s rid o) := by
  unfold abortTask
  repeat' (with_reducible first | assumption | apply kept_modRect | apply kept_modCore | apply kept_modStage | apply kept_releaseTask | apply kept_releaseResv | apply kept_freeCore | apply kept_dropEntries | split)

theorem kept_orderedWrite {s : State} (who : Who) (uid : Nat) (a : W64) (n : Nat) (hwf : MemOk s) : MemOk (orderedWrite s who uid a n) := by
  unfold orderedWrite
  repeat' (with_reducible first | assumption | apply kept_abortTask | apply kept_foldl | split | intro _)

theorem kept_noteHbm {s : State} (rid : Nat) (p : Place) (hwf : MemOk s) : MemOk (noteHbm s rid p) := by
  unfold noteHbm
  repeat' (with_reducible first | assumption | apply kept_noteEvent | split)

theorem kept_performWrite {s : State} (who : Who) (uid : Nat) (a : W64) (bs : List Byte) (hwf : MemOk s) : MemOk (performWrite s who uid a bs) := by
  unfold performWrite
  repeat' (with_reducible first | assumption | apply kept_writeKeys | apply kept_bumpRange | apply kept_noteHbm | apply kept_orderedWrite)

theorem kept_commitEntries {s : State} (rid c uid : Nat) (rcd : BitVec 512) (hwf : MemOk s) : MemOk (commitEntries s rid c uid rcd) := by
  unfold commitEntries
  repeat' (with_reducible first | assumption | apply kept_modCore | apply kept_fresh)

theorem kept_commitRunning {s : State} (rid c : Nat) (hwf : MemOk s) : MemOk (commitRunning s rid c) := by
  unfold commitRunning
  repeat' (with_reducible first | assumption | apply kept_bind | apply kept_commitEntries | split)

theorem kept_awaitAck {s : State} (who : Who) (id uid : Nat) (a : W64) (hwf : MemOk s) : MemOk (awaitAck s who id uid a) := by
  unfold awaitAck
  repeat' (with_reducible first | assumption | apply kept_modCore)

theorem kept_addAck {s : State} (who : Who) (uid : Nat) (a : W64) (hwf : MemOk s) : MemOk (addAck s who uid a) := by
  unfold addAck
  repeat' (with_reducible first | assumption | apply kept_fresh | apply kept_awaitAck)

theorem kept_engineAck {s : State} (who : Who) (a : W64) (hwf : MemOk s) : MemOk (engineAck s who a) := by
  unfold engineAck
  repeat' (with_reducible first | assumption | apply kept_fresh | apply kept_modCore | split)

theorem kept_reportCause {s : State} (rid c uid : Nat) (rcd : BitVec 512) (cause : Nat) (faddr : W64) (hwf : MemOk s) : MemOk (reportCause s rid c uid rcd cause faddr) := by
  unfold reportCause
  repeat' (with_reducible first | assumption | apply kept_modCore | apply kept_postFor | split)

theorem kept_immediateWrite {s : State} (who : Who) (t : Task) (a : W64) (bs : List Byte) (hwf : MemOk s) : Option.Kept (immediateWrite s who t a bs) := by
  unfold immediateWrite
  repeat' (with_reducible first | assumption | apply kept_performWrite | apply kept_addAck | apply kept_reportCause | split | dsimp only | dsimp only [Option.Kept])

theorem kept_addEntry {s : State} (rid c : Nat) (a : W64) (k : EntKind) (hwf : MemOk s) : MemOk (addEntry s rid c a k) := by
  unfold addEntry
  repeat' (with_reducible first | assumption | apply kept_modCore | apply kept_fresh | split)

theorem kept_storeNow {s : State} (who : Who) (t : Task) (ps : List (W64 × List Byte)) (hwf : MemOk s) : StoreRes.Kept (storeNow s who t ps) := by
  unfold storeNow
  repeat' (with_reducible first | assumption | apply kept_bind | apply kept_immediateWrite | apply kept_foldl | apply kept_getD | split | intro _ | dsimp only | dsimp only [StoreRes.Kept])

theorem kept_addLookup {s : State} (rid c : Nat) (acc : Acc) (ps : List (W64 × Nat)) (hwf : MemOk s) : MemOk (addLookup s rid c acc ps) := by
  unfold addLookup
  repeat' (with_reducible first | assumption | apply kept_modRun | split | intro _ | dsimp only)

theorem kept_bufferPieces {rid c uid blk : Nat} {ps : List (W64 × List Byte)} {s : State} (h : MemOk s) :
    Option.Kept (bufferPieces s rid c uid blk ps) := by
  induction ps generalizing s with
  | nil => exact h
  | cons p ps ih =>
    unfold bufferPieces
    dsimp only
    split
    · exact ih (kept_modCore h)
    · split
      · exact ih (kept_addEntry _ _ _ _ h)
      · exact True.intro

theorem kept_overflow {s : State} (rid c : Nat) (hwf : MemOk s) : Option.Kept (overflow s rid c) := by
  unfold overflow
  repeat' (with_reducible first | assumption | apply kept_modCore | apply kept_modRun | apply kept_commitRunning | split | intro _ | dsimp only | dsimp only [Option.Kept])

theorem kept_storePieces {s : State} (rid c : Nat) (ps : List (W64 × List Byte)) (hwf : MemOk s) : StoreRes.Kept (storePieces s rid c ps) := by
  unfold storePieces
  repeat' (with_reducible first | assumption | apply kept_bind | apply kept_performWrite | apply kept_storeNow | apply kept_addLookup | apply kept_bufferPieces | apply kept_overflow | apply kept_foldl | split | intro _ | dsimp only | dsimp only [StoreRes.Kept] | exact True.intro | refine Option.Kept.get ‹_› ?_)

/-! ### Sync -/

theorem kept_satisfyOne {s : State} (rid d : Nat) (k : Cont) (hwf : MemOk s) : MemOk (satisfyOne s rid d k) := by
  unfold satisfyOne
  repeat' (with_reducible first | assumption | apply kept_writeNat | apply kept_writeKey | apply kept_modLdie | apply kept_modDie | split | intro _ | dsimp only | (apply MemOk.mk; dsimp only; apply MemOk.get))

theorem kept_satisfyAll {s : State} (rid d idx : Nat) (hwf : MemOk s) : MemOk (satisfyAll s rid d idx) := by
  unfold satisfyAll
  repeat' (with_reducible first | assumption | apply kept_satisfyOne | apply kept_foldl | split | intro _)

theorem kept_completePkts {s : State} (w : Nat) (p : Pkt → Bool) (hwf : MemOk s) : MemOk (completePkts s w p) := by
  unfold completePkts
  repeat' (with_reducible first | assumption | apply kept_modWorld | apply kept_emit | apply kept_foldl | split | intro _)

theorem kept_checkBarriers {s : State} (rid : Nat) (hwf : MemOk s) : MemOk (checkBarriers s rid) := by
  unfold checkBarriers
  repeat' (with_reducible first | assumption | apply kept_completePkts)

theorem kept_setSem {s : State} (rid d idx : Nat) (v : BitVec 32) (hwf : MemOk s) : MemOk (setSem s rid d idx v) := by
  unfold setSem
  repeat' (with_reducible first | assumption | apply kept_modLdie | apply kept_satisfyAll | apply kept_checkBarriers)

theorem kept_semAdd {s : State} (rid d idx : Nat) (delta : BitVec 32) (hwf : MemOk s) : MemOk (semAdd s rid d idx delta) := by
  unfold semAdd
  repeat' (with_reducible first | assumption | apply kept_setSem)

theorem kept_tokenAdd {s : State} (rid c t : Nat) (hwf : MemOk s) : MemOk (tokenAdd s rid c t) := by
  unfold tokenAdd
  repeat' (with_reducible first | assumption | apply kept_modCore)

theorem kept_tokenSub {s : State} (rid c t : Nat) (hwf : MemOk s) : MemOk (tokenSub s rid c t) := by
  unfold tokenSub
  repeat' (with_reducible first | assumption | apply kept_modCore)

theorem kept_signal {s : State} (rid : Nat) (h : Hdr) (hwf : MemOk s) : MemOk (signal s rid h) := by
  unfold signal
  repeat' (with_reducible first | assumption | apply kept_semAdd | apply kept_tokenSub | split)

theorem kept_failCommand {s : State} (rid : Nat) (h : Hdr) (cause : Nat) (faddr : W64) (hwf : MemOk s) : MemOk (failCommand s rid h cause faddr) := by
  unfold failCommand
  repeat' (with_reducible first | assumption | apply kept_reportCause | apply kept_tokenSub)

theorem kept_commandHdr {s : State} (rid c tok : Nat) (sem : Option (Nat × Nat)) (hwf : MemOk s) : MemOk (commandHdr s rid c tok sem).2 := by
  unfold commandHdr
  repeat' (with_reducible first | assumption | apply kept_fresh | apply kept_bind | apply kept_tokenAdd)

theorem kept_settleWrite {s : State} (rid id : Nat) (hwf : MemOk s) : MemOk (settleWrite s rid id) := by
  unfold settleWrite
  repeat' (with_reducible first | assumption | apply kept_modRect)

theorem kept_acknowledge {s : State} (rid c id : Nat) (hwf : MemOk s) : MemOk (acknowledge s rid c id) := by
  unfold acknowledge
  repeat' (with_reducible first | assumption | apply kept_modCore | apply kept_settleWrite)

/-! ### Scalar -/

theorem kept_startProduct {s : State} (v : W64) (hwf : MemOk s) : Act.Kept (startProduct s v) := by
  unfold startProduct
  repeat' (with_reducible first | assumption | apply kept_modRun | split | dsimp only | dsimp only [Act.Kept])

theorem kept_landProducts {s : State} (rid c : Nat) (hwf : MemOk s) : MemOk (landProducts s rid c) := by
  unfold landProducts
  split
  · exact kept_deliverCycle _ _ _ (kept_modRun _ _ _ hwf)
  · exact hwf

theorem kept_startDivide {s : State} (v : W64) (hwf : MemOk s) : Act.Kept (startDivide s v) := by
  unfold startDivide
  repeat' (with_reducible first | assumption | apply kept_modRun | split | intro _ | dsimp only | dsimp only [Act.Kept])

theorem kept_popValue {s : State} (rid q : Nat) (hwf : MemOk s) : Option.Kept2 (popValue s rid q) := by
  unfold popValue
  repeat' (with_reducible first | assumption | apply kept_modQueue | split | intro _ | dsimp only | dsimp only [Option.Kept2])

theorem kept_getValue {s : State} (rid c : Nat) (r : BitVec 7) (hwf : MemOk s) : Option.Kept2 (getValue s rid c r) := by
  unfold getValue
  repeat' (with_reducible first | assumption | apply kept_popValue | split | dsimp only | dsimp only [Option.Kept2])

theorem kept_execGet (r : BitVec 7) (u t : BitVec 9) {s : State} (h : MemOk s) : Result.Kept (execGet r u t s) := by
  refine kept_issue h fun _ _ => ?_
  dsimp only
  repeat' (with_reducible first | exact h | exact kept_bind _ _ (Option.Kept2.get ‹_› (kept_getValue _ _ _ h)) | exact True.intro | split |
    dsimp only [Act.Kept])

/-! ### Flags -/

theorem kept_raise {s : State} (f : Fl) (hwf : MemOk s) : MemOk (raise s f) := by
  unfold raise
  repeat' (with_reducible first | assumption | apply kept_modRun)

/-! ### Queues -/

theorem kept_spillPut {s : State} (w : Nat) (q : Queue) (rcd : BitVec 512) (hwf : MemOk s) : Option.Kept (spillPut s w q rcd) := by
  unfold spillPut
  repeat' (with_reducible first | assumption | apply kept_bumpRange | apply kept_writeKeys | split | dsimp only [Option.Kept])

theorem kept_pushTask {s s' : State} {rid n uid st : Nat} {rcd : BitVec 512} (e : pushTask s rid n uid rcd = .ok (s', st))
    (hwf : MemOk s) : MemOk s' := by
  unfold pushTask at e
  dsimp only at e
  split at e
  · split at e
    · rename_i h
      obtain ⟨rfl, -⟩ := Prod.mk.inj (Except.ok.inj e)
      refine kept_modQueue (kept_noteOccupancy _ _ ?_)
      split at h
      · exact Option.Kept.get h (kept_spillPut _ _ _ hwf)
      · exact Option.some.inj h ▸ hwf
    · exact nomatch e
  · exact nomatch e

theorem kept_dropSpill {s : State} (rid c n cause : Nat) (hwf : MemOk s) : MemOk (dropSpill s rid c n cause) := by
  unfold dropSpill
  exact kept_postFor _ _ _ _ _ _ _ (kept_modQueue hwf)

theorem kept_popTask {s s' : State} {rid c n : Nat} {rcd : Option (BitVec 512)} (e : popTask s rid c n = some (rcd, s')) (hwf : MemOk s) :
    MemOk s' := by
  have ho := kept_noteOccupancy rid n hwf
  unfold popTask at e
  dsimp only at e
  split at e
  · obtain ⟨x, -, e⟩ := Option.map_eq_some_iff.1 e
    obtain ⟨-, rfl⟩ := Prod.mk.inj e
    exact kept_modQueue ho
  · split at e <;> obtain ⟨-, rfl⟩ := Prod.mk.inj (Option.some.inj e)
    · exact kept_modQueue (kept_dropSpill _ _ _ _ ho)
    · exact kept_dropSpill _ _ _ _ ho

theorem kept_forwardRecord {s : State} (rid core uid : Nat) (rcd : BitVec 512) (hwf : MemOk s) : MemOk (forwardRecord s rid core uid rcd) := by
  unfold forwardRecord
  split
  · exact kept_postFor _ _ _ _ _ _ _ hwf
  · dsimp only
    split
    · exact kept_pushTask ‹_› hwf
    · exact kept_postFor _ _ _ _ _ _ _ hwf

/-! ### Blocks -/

theorem kept_fetchCore (rid core : Nat) {s : State} (hwf : MemOk s) : MemOk (fetchCore rid core s) := by
  unfold fetchCore
  repeat' (with_reducible first | assumption | apply kept_modCore | apply kept_fresh | apply kept_takeTrap | split)

theorem kept_takeGets {s : State} (rid c : Nat) (is : List Instr) (hwf : MemOk s) : MemOk (takeGets s rid c is).1 := by
  unfold takeGets
  generalize (List.range is.length) = ks
  suffices h : ∀ a : State × List (Nat × W64 × List (BitVec 9)), MemOk a.1 → MemOk (ks.foldl _ a).1 from h _ hwf
  induction ks with
  | nil => exact fun _ h => h
  | cons k ks ih =>
    intro a h
    apply ih
    dsimp only
    split
    · split
      · exact kept_setSlot _ _ _ _ (Option.Kept2.get ‹_› (kept_getValue _ _ _ h))
      · exact h
    · exact h

theorem kept_fireGets {s : State} (rid c : Nat) (is : List Instr) (hwf : MemOk s) : MemOk (fireGets s rid c is) := by
  exact kept_deliverCycle _ _ _ (kept_takeGets _ _ _ hwf)

theorem kept_startCore (rid core : Nat) {s : State} (hwf : MemOk s) : MemOk (startCore rid core s) := by
  unfold startCore
  repeat' (with_reducible first | assumption | apply kept_modCore | apply kept_takeTrap | apply kept_fireGets | split | intro _ | dsimp only)

theorem kept_chooseExit {s : State} (e : Exit) (hwf : MemOk s) : Act.Kept (chooseExit s e) := by
  unfold chooseExit
  repeat' (with_reducible first | assumption | apply kept_modRun | split | intro _ | dsimp only | dsimp only [Act.Kept])

theorem kept_targetExit {s : State} (t : Int) (mk : Nat → Exit) (hwf : MemOk s) : Act.Kept (targetExit s t mk) := by
  unfold targetExit
  repeat' (with_reducible first | assumption | apply kept_chooseExit | split | dsimp only | dsimp only [Act.Kept])

theorem kept_commitRegs {s : State} (rid c : Nat) (b : BlockRun) (hwf : MemOk s) : MemOk (commitRegs s rid c b) := by
  unfold commitRegs
  repeat' (with_reducible first | assumption | apply kept_modCore)

theorem kept_commitFlags {s : State} (rid c : Nat) (b : BlockRun) (hwf : MemOk s) : MemOk (commitFlags s rid c b) := by
  unfold commitFlags
  repeat' (with_reducible first | assumption | apply kept_modCsr)

theorem kept_endTask {s : State} (rid c : Nat) (hwf : MemOk s) : MemOk (endTask s rid c) := by
  unfold endTask
  repeat' (with_reducible first | assumption | apply kept_modRect | apply kept_modCore | apply kept_fresh | apply kept_releaseTask | apply kept_freeCore | apply kept_commitEntries | split | intro _ | dsimp only)

theorem kept_parkTask {s : State} (rid c target : Nat) (sem : W64) (thresh mask : BitVec 32) (hwf : MemOk s) : MemOk (parkTask s rid c target sem thresh mask) := by
  unfold parkTask
  repeat' (with_reducible first | assumption | apply kept_writeKeys | apply kept_modCore | apply kept_modLdie | apply kept_releaseTask | apply kept_freeCore | apply kept_commitEntries | apply kept_satisfyAll)

theorem kept_abortSelf {s : State} (rid c : Nat) (code : BitVec 16) (hwf : MemOk s) : MemOk (abortSelf s rid c code) := by
  unfold abortSelf
  repeat' (with_reducible first | assumption | apply kept_post | apply kept_post | apply kept_domainEnd | apply kept_releaseTask | apply kept_freeCore | apply kept_dropEntries | split)

theorem kept_settleExit {s : State} (rid c h n : Nat) (e : Exit) (hwf : MemOk s) : MemOk (settleExit s rid c h n e).1 := by
  cases e
  case call t => exact kept_modCsr (kept_writeNat _ _ _ hwf)
  case ret t => exact kept_modCsr hwf
  all_goals exact hwf

theorem kept_endChild {s : State} (rid c : Nat) (hwf : MemOk s) : MemOk (endChild s rid c) := by
  unfold endChild
  repeat' (with_reducible first | assumption | apply kept_modCore | apply kept_commitEntries | apply kept_getD | split)

theorem kept_startPark {s : State} (rid c target : Nat) (sem : W64) (thresh mask : BitVec 32) (hwf : MemOk s) : MemOk (startPark s rid c target sem thresh mask) := by
  unfold startPark
  split
  · exact kept_modCore hwf
  · exact kept_parkTask _ _ _ _ _ _ hwf

theorem kept_applyExit (n : Nat) {s : State} (rid c : Nat) (e : Exit) (hs : MemOk s) : MemOk (applyExit n s rid c e) := by
  induction n generalizing s e with
  | zero => exact hs
  | succ n ih =>
    cases e <;> unfold applyExit <;> dsimp only
    case br t => exact hs
    case call t => exact hs
    case ret t => exact hs
    case tend =>
      split
      · exact kept_endTask _ _ hs
      · split
        · exact ih _ (kept_endChild _ _ hs)
        · exact kept_endChild _ _ hs
    case park t x y z => exact kept_startPark _ _ _ _ _ _ hs
    case tabort x => exact kept_abortSelf _ _ _ hs
    case discard x => exact kept_discardWith _ _ _ hs
    case retry => exact kept_returnTrap _ _ _ hs
    case resume t => exact kept_returnTrap _ _ _ hs
    case halt => exact kept_haltCore _ _ _ hs

theorem kept_startInline {s : State} (rid c : Nat) (e : Exit) (rcd : BitVec 512) (hwf : MemOk s) : MemOk (startInline s rid c e rcd) := by
  unfold startInline
  repeat' (with_reducible first | assumption | apply kept_writeKeys | apply kept_modCore)

theorem kept_stepOver {s : State} (rid c : Nat) (hwf : MemOk s) : MemOk (stepOver s rid c) := by
  unfold stepOver
  repeat' (with_reducible first | assumption | apply kept_modCore)

theorem kept_endFaulted {s : State} (rid c : Nat) (b : BlockRun) (hwf : MemOk s) : MemOk (endFaulted s rid c b) := by
  unfold endFaulted
  repeat' (with_reducible first | assumption | apply kept_takeTrap | split)

theorem kept_completeBlock {s : State} (rid core : Nat) (b : BlockRun) (hwf : MemOk s) : MemOk (completeBlock s rid core b) := by
  unfold completeBlock
  repeat' (with_reducible first | assumption | apply kept_trapSlot | apply kept_commitRegs | apply kept_commitFlags | apply kept_settleExit | apply kept_applyExit | apply kept_startInline | apply kept_stepOver | apply kept_endFaulted | split)

theorem kept_completeCore (rid core : Nat) {s : State} (hwf : MemOk s) : MemOk (completeCore rid core s) := by
  unfold completeCore
  repeat' (with_reducible first | assumption | apply kept_completeBlock | apply kept_parkTask | split)

/-! ### Memory -/

theorem kept_issueLoad {s : State} (parts : List (W64 × Nat)) (dst : LoadDst) (hwf : MemOk s) : Act.Kept (issueLoad s parts dst) := by
  unfold issueLoad
  repeat' (with_reducible first | assumption | apply kept_modRun | apply kept_addLookup | split | intro _ | dsimp only | dsimp only [Act.Kept])

theorem kept_ofStore {o : StoreRes} (h : StoreRes.Kept o) : Act.Kept (ofStore o) := by
  cases o <;> exact h

theorem kept_issueStore {s : State} (ps : List (W64 × List Byte)) (hwf : MemOk s) : Act.Kept (issueStore s ps) := by
  unfold issueStore
  repeat' (with_reducible first | assumption | apply kept_storePieces | apply kept_ofStore)

theorem kept_immediate {s : State} {f : State → Act} (h : MemOk s) (hf : ∀ s, MemOk s → Act.Kept (f s)) :
    Act.Kept (immediate s f) := by
  unfold immediate
  split
  · exact True.intro
  · exact hf _ h

theorem kept_commitPart {s : State} (hwf : MemOk s) : MemOk (commitPart s) := by
  unfold commitPart
  repeat' (with_reducible first | assumption | apply kept_modRun | apply kept_commitRunning)

theorem kept_atomicWrite {s : State} (who : Who) (a : W64) (n : Nat) (v : Option Nat) (hwf : MemOk s) : MemOk (atomicWrite s who a n v) := by
  unfold atomicWrite
  repeat' (with_reducible first | assumption | apply kept_performWrite | apply kept_addAck | apply kept_noteHbm | split)

theorem kept_atomicNow {s : State} (a : W64) (n : Nat) (f : Nat → Option Nat) (hwf : MemOk s) : AtomRes.Kept (atomicNow s a n f) := by
  unfold atomicNow
  repeat' (with_reducible first | assumption | apply kept_bind | apply kept_atomicWrite | split | dsimp only | dsimp only [AtomRes.Kept])

theorem kept_bufferOne {s : State} (a : W64) (n : Nat) (k : EntKind) (hwf : MemOk s) : Act.Kept (bufferOne s a n k) := by
  unfold bufferOne
  repeat' (with_reducible first | assumption | apply kept_addEntry | apply kept_addLookup | apply kept_overflow | split | dsimp only | dsimp only [Act.Kept] | exact True.intro | refine Option.Kept.get ‹_› ?_)

theorem kept_setCell {s : State} (rid die ix : Nat) (x : BitVec 256) (hwf : MemOk s) : MemOk (setCell s rid die ix x) := by
  unfold setCell
  repeat' (with_reducible first | assumption | apply kept_modLdie | split | intro _ | dsimp only | (apply MemOk.mk; dsimp only; apply MemOk.get))

theorem kept_performCell {s : State} (who : Who) (uid : Nat) (a : W64) (f : BitVec 256 → BitVec 256) (hwf : MemOk s) : MemOk (performCell s who uid a f) := by
  unfold performCell
  repeat' (with_reducible first | assumption | apply kept_orderedWrite | apply kept_setCell)

theorem kept_cellWrite {s : State} (a : W64) (k : EntKind) (f : BitVec 256 → BitVec 256) (hwf : MemOk s) : Act.Kept (cellWrite s a k f) := by
  unfold cellWrite
  repeat' (with_reducible first | assumption | apply kept_bind | apply kept_addAck | apply kept_reportCause | apply kept_bufferOne | apply kept_performCell | split | dsimp only | dsimp only [Act.Kept])

theorem kept_noteParts {s : State} (who : Who) (uid : Nat) (ps : List (W64 × Nat)) (h : MemOk s) :
    MemOk (noteParts s who uid ps) := by
  unfold noteParts
  apply kept_foldl h
  intro s p h
  apply kept_foldl (kept_noteHbm _ _ h)
  intro s i h
  exact (kept_noteRead _ _ _ h)

theorem kept_performLate {s : State} (rid core : Nat) (l : Load) (hwf : MemOk s) : MemOk (performLate s rid core l) := by
  unfold performLate
  repeat' (with_reducible first | assumption | apply kept_modCore | apply kept_noteParts | split | dsimp only)

theorem kept_returnLate {s : State} (rid core k : Nat) (l : Load) (hwf : MemOk s) : MemOk (returnLate s rid core k l) := by
  unfold returnLate
  repeat' (with_reducible first | assumption | apply kept_modCore | apply kept_performLate | split | dsimp only)

theorem kept_returnLoad {s : State} (rid core k : Nat) (hwf : MemOk s) : MemOk (returnLoad s rid core k) := by
  unfold returnLoad
  repeat' (with_reducible first | assumption | apply kept_modCore | apply kept_modRun | apply kept_trapSlot | apply kept_deliver | apply kept_bind | apply kept_noteParts | split | intro _ | dsimp only)

theorem kept_performEntry {s : State} (who : Who) (d : Draining) (hwf : MemOk s) : MemOk (performEntry s who d) := by
  unfold performEntry
  repeat' (with_reducible first | assumption | apply kept_writeKey | apply kept_postFor | apply kept_bumpVersion | apply kept_noteHbm | apply kept_orderedWrite | apply kept_performWrite | apply kept_forwardRecord | apply kept_performCell | apply kept_foldl | split | intro _ | dsimp only)

theorem kept_entryAck {s : State} (who : Who) (e : Entry) (hwf : MemOk s) : MemOk (entryAck s who e) := by
  unfold entryAck
  repeat' (with_reducible first | assumption | apply kept_awaitAck | apply kept_acknowledge | split)

theorem kept_performReplay {s : State} (rid core k : Nat) (d : Draining) (hwf : MemOk s) : MemOk (performReplay s rid core k d) := by
  unfold performReplay
  repeat' (with_reducible first | assumption | apply kept_modCore | apply kept_performEntry | apply kept_entryAck | split | intro _ | dsimp only)

theorem kept_performDrain {s : State} (rid core j : Nat) (d : Draining) (hwf : MemOk s) : MemOk (performDrain s rid core j d) := by
  unfold performDrain
  repeat' (with_reducible first | assumption | apply kept_modCore | apply kept_performEntry | apply kept_entryAck | split | intro _ | dsimp only)

theorem kept_execDrainEntryPerform (rid core k : Nat) {s : State} (hwf : MemOk s) : Result.Kept (execDrainEntryPerform rid core k s) := by
  unfold execDrainEntryPerform
  repeat' (with_reducible first | assumption | apply kept_performReplay | apply kept_performDrain | split | dsimp only | dsimp only [Result.Kept])

/-! ### Tasks -/

theorem kept_spawnPush {s : State} (rcd : BitVec 512) (hwf : MemOk s) : Act.Kept (spawnPush s rcd) := by
  unfold spawnPush
  dsimp only
  split
  · exact True.intro
  split
  · exact kept_bind _ _ (kept_pushTask ‹_› hwf)
  · exact True.intro

theorem kept_spawnRecord {s : State} (rcd : BitVec 512) (hwf : MemOk s) : Act.Kept (spawnRecord s rcd) := by
  unfold spawnRecord
  repeat' (with_reducible first | assumption | apply kept_modRun | apply kept_bind | apply kept_addEntry | apply kept_overflow | apply kept_spawnPush | apply kept_getD | split | intro _ | dsimp only | dsimp only [Act.Kept] | exact True.intro | refine Option.Kept.get ‹_› ?_)

theorem kept_noteRecord {s : State} (a : W64) (hwf : MemOk s) : MemOk (noteRecord s a) := by
  unfold noteRecord
  repeat' (with_reducible first | assumption | apply kept_noteRead)

theorem kept_noDescriptor (e : Option (Nat × W64)) : Act.Kept (noDescriptor e) := by
  unfold noDescriptor
  split <;> exact True.intro

theorem kept_spawnAt {s : State} (a : W64) (hwf : MemOk s) : Act.Kept (spawnAt s a) := by
  unfold spawnAt
  repeat' (with_reducible first | assumption | apply kept_noDescriptor | apply kept_spawnRecord | apply kept_noteRecord | split | dsimp only | dsimp only [Act.Kept])

theorem kept_slotAbort {s : State} (rid c : Nat) (hwf : MemOk s) : MemOk (slotAbort s rid c) := by
  unfold slotAbort
  repeat' (with_reducible first | assumption | apply kept_abortTask | apply kept_foldl | split | intro _ | dsimp only)

theorem kept_changeStage {s : State} (rid c : Nat) (next : Option Nat) (hwf : MemOk s) : MemOk (changeStage s rid c next) := by
  unfold changeStage
  repeat' (with_reducible first | assumption | apply kept_modRect | apply kept_modCore | apply kept_foldl | exact kept_pushTask ‹_› ‹_› | apply kept_postFor | split | intro _ | dsimp only)

theorem kept_beginTask {s : State} (rid c st uid rerun : Nat) (rcd : BitVec 512) (hwf : MemOk s) : MemOk (beginTask s rid c st uid rerun rcd) := by
  unfold beginTask
  repeat' (with_reducible first | assumption | apply kept_modCore)

theorem kept_admitRecord {s : State} (rid c st : Nat) (rr : ReRec) (again : Bool) (hwf : MemOk s) : MemOk (admitRecord s rid c st rr again) := by
  unfold admitRecord
  repeat' (with_reducible first | assumption | apply kept_modRect | apply kept_postFor | apply kept_beginTask | split | intro _ | dsimp only)

theorem kept_pickRecord {s : State} (rid c st : Nat) (rcd : BitVec 512) (hwf : MemOk s) : MemOk (pickRecord s rid c st rcd) := by
  unfold pickRecord
  repeat' (with_reducible first | assumption | apply kept_fresh | apply kept_beginTask | apply kept_admitRecord | split)

theorem kept_resumeCont {s : State} (rid c die : Nat) (k : Cont) (hwf : MemOk s) : MemOk (resumeCont s rid c die k) := by
  unfold resumeCont
  repeat' (with_reducible first | assumption | apply kept_modCore | apply kept_modLdie | apply kept_runsOn)

theorem kept_stealWork {s : State} (rid c st : Nat) (hwf : MemOk s) : Option.Kept (stealWork s rid c st) := by
  unfold stealWork
  split
  · split
    · exact kept_pickRecord _ _ _ _ (kept_modCore hwf)
    · exact True.intro
  · cases peerCont s rid st _ with
    | none => exact True.intro
    | some x => exact kept_resumeCont _ _ _ _ hwf
  · exact True.intro

theorem kept_pickFor {s : State} (rid c st : Nat) (h : MemOk s) : Option.Kept (pickFor s rid c st) := by
  unfold pickFor
  dsimp only
  split
  · exact kept_resumeCont _ _ _ _ h
  · split
    · exact kept_pickRecord _ _ _ _ (kept_modCore h)
    · split
      · exact kept_admitRecord _ _ _ _ _ (kept_modStage h)
      · split
        · exact kept_pickRecord _ _ _ _ (kept_popTask ‹_› h)
        · exact kept_popTask ‹_› h
        · exact kept_stealWork _ _ _ h

theorem kept_takeStage {s : State} (rid c : Nat) (hwf : MemOk s) : MemOk (takeStage s rid c) := by
  unfold takeStage
  repeat' (with_reducible first | assumption | apply kept_changeStage | split)

theorem kept_pickNext {s : State} (rid c : Nat) (hwf : MemOk s) : MemOk (pickNext s rid c) := by
  unfold pickNext
  repeat' (with_reducible first | assumption | apply kept_getD | apply kept_pickFor | split)

theorem kept_pickCore (rid core : Nat) {s : State} (hwf : MemOk s) : MemOk (pickCore rid core s) := by
  unfold pickCore
  split
  · exact hwf
  · exact kept_pickNext _ _ (kept_slotAbort _ _ (kept_takeStage _ _ hwf))

theorem kept_launchCore (rid core : Nat) {s : State} (hwf : MemOk s) : MemOk (launchCore rid core s) := by
  unfold launchCore
  repeat' (with_reducible first | assumption | apply kept_modCore | split | intro _ | dsimp only)

/-! ### Vector -/

theorem kept_writeV {s : State} (v : Nat) (x : Vec) (hwf : MemOk s) : MemOk (writeV s v x) := by
  unfold writeV
  repeat' (with_reducible first | assumption | apply kept_modCore | apply kept_bind)

theorem kept_writeLanes {s : State} (d w : Nat) (l : List (Nat × Fl)) (hwf : MemOk s) : Act.Kept (writeLanes s d w l) := by
  unfold writeLanes
  repeat' (with_reducible first | assumption | apply kept_raise | apply kept_writeV | split | dsimp only | dsimp only [Act.Kept])

theorem kept_lanes1 {s : State} (d a : BitVec 5) (y : BitVec 4) (f : Nat → Nat × Fl) (hwf : MemOk s) : Act.Kept (lanes1 s d a y f) := by
  unfold lanes1
  repeat' (with_reducible first | assumption | apply kept_writeLanes)

theorem kept_lanes2 {s : State} (d a b : BitVec 5) (y : BitVec 4) (f : Nat → Nat → Nat × Fl) (hwf : MemOk s) : Act.Kept (lanes2 s d a b y f) := by
  unfold lanes2
  repeat' (with_reducible first | assumption | apply kept_writeLanes)

theorem kept_lanes3 {s : State} (d a b : BitVec 5) (y : BitVec 4) (f : Nat → Nat → Nat → Nat × Fl) (hwf : MemOk s) : Act.Kept (lanes3 s d a b y f) := by
  unfold lanes3
  repeat' (with_reducible first | assumption | apply kept_writeLanes)

/-! ### Streams -/

theorem kept_modSlot {s : State} (rid tile k : Nat) (f : PSlot → PSlot) (hwf : MemOk s) : MemOk (modSlot s rid tile k f) := by
  unfold modSlot
  repeat' (with_reducible first | assumption | apply kept_modTile)

theorem kept_setPortQ {s : State} (rid tile p : Nat) (q : List SCmd) (hwf : MemOk s) : MemOk (setPortQ s rid tile p q) := by
  unfold setPortQ
  repeat' (with_reducible first | assumption | apply kept_modTile)

theorem kept_modHead {s : State} (rid tile p : Nat) (f : SCmd → SCmd) (hwf : MemOk s) : MemOk (modHead s rid tile p f) := by
  unfold modHead
  repeat' (with_reducible first | assumption | apply kept_setPortQ)

theorem kept_holdSlots {s : State} (rid tile : Nat) (ks : List Nat) (held : Bool) (hwf : MemOk s) : MemOk (holdSlots s rid tile ks held) := by
  unfold holdSlots
  repeat' (with_reducible first | assumption | apply kept_modSlot | apply kept_foldl | split | intro _)

theorem kept_useSlot {s : State} (rid tile k uid : Nat) (st : SlotPh) (hwf : MemOk s) : MemOk (useSlot s rid tile k uid st) := by
  unfold useSlot
  repeat' (with_reducible first | assumption | apply kept_modSlot)

theorem kept_noteSlot {s : State} (rid tile k uid : Nat) (st : SlotPh) (hwf : MemOk s) : MemOk (noteSlot s rid tile k uid st) := by
  unfold noteSlot
  repeat' (with_reducible first | assumption | apply kept_modSlot)

theorem kept_noteIndex {s : State} (rid tile k uid ix : Nat) (hwf : MemOk s) : MemOk (noteIndex s rid tile k uid ix) := by
  unfold noteIndex
  repeat' (with_reducible first | assumption | apply kept_modSlot)

theorem kept_endHead {s : State} (rid tile p : Nat) (st : SlotPh) (hwf : MemOk s) : MemOk (endHead s rid tile p st) := by
  unfold endHead
  repeat' (with_reducible first | assumption | apply kept_setPortQ | apply kept_holdSlots | apply kept_noteSlot | split)

theorem kept_failHead {s : State} (rid tile p cause : Nat) (a : W64) (hwf : MemOk s) : MemOk (failHead s rid tile p cause a) := by
  unfold failHead
  repeat' (with_reducible first | assumption | apply kept_failCommand | apply kept_endHead | split)

theorem kept_startSlot {s : State} (rid tile k uid : Nat) (hwf : MemOk s) : MemOk (startSlot s rid tile k uid) := by
  unfold startSlot
  repeat' (with_reducible first | assumption | apply kept_useSlot | split)

theorem kept_startHead {s : State} (rid tile p : Nat) (k : Nat) (c : SCmd) (modes : List Nat) (hdr : Option Bool) (hwf : MemOk s) : MemOk (startHead s rid tile p k c modes hdr) := by
  unfold startHead
  repeat' (with_reducible first | assumption | apply kept_modHead | apply kept_holdSlots | apply kept_startSlot | apply kept_failHead | split | intro _ | dsimp only)

theorem kept_sendFlits {s : State} (rid tile p n : Nat) (c : SCmd) (k dt dk : Nat) (hwf : MemOk s) : MemOk (sendFlits s rid tile p n c k dt dk) := by
  unfold sendFlits
  repeat' (with_reducible first | assumption | apply kept_modTile | apply kept_modHead | apply kept_noteIndex | apply kept_failHead | split | intro _ | dsimp only)

theorem kept_credit {s : State} (rid uid : Nat) (hwf : MemOk s) : MemOk (credit s rid uid) := by
  unfold credit
  repeat' (with_reducible first | assumption | apply kept_modRect)

theorem kept_takeBytes (rid tile p k n : Nat) {s : State} (h : MemOk s) : MemOk (takeBytes rid tile p k n s) := by
  induction n generalizing s with
  | zero => exact h
  | succ n ih =>
    unfold takeBytes
    dsimp only
    repeat' (with_reducible first | assumption | apply ih | apply kept_failHead | apply kept_noteIndex | apply kept_credit | apply kept_performWrite | apply kept_modTile | apply kept_modHead | split)

theorem kept_enqueueStream {s : State} (tile p tok : Nat) (sem : Option (Nat × Nat)) (work : SWork) (hwf : MemOk s) : Act.Kept (enqueueStream s tile p tok sem work) := by
  unfold enqueueStream
  repeat' (with_reducible first | assumption | apply kept_commandHdr | apply kept_setPortQ | apply kept_useSlot | split | dsimp only | dsimp only [Act.Kept])

theorem kept_cancelFront (rid tile p k n : Nat) {s : State} (h : MemOk s) : MemOk (cancelFront rid tile p k n s) := by
  induction n generalizing s with
  | zero => exact h
  | succ n ih =>
    unfold cancelFront
    repeat' (with_reducible first | assumption | apply ih | apply kept_tokenSub | apply kept_endHead | split)

theorem kept_writeSlot {s : State} (rid tile k : Nat) (h : Hdr) (d : BitVec 512) (hwf : MemOk s) : MemOk (writeSlot s rid tile k h d) := by
  unfold writeSlot
  repeat' (with_reducible first | assumption | apply kept_signal | apply kept_failCommand | apply kept_modSlot | split)

/-! ### Packets -/

/-! ### Matrix -/

theorem kept_askLeave {s : State} (d : Nat) (q : LeaveReq) (hwf : MemOk s) : MemOk (askLeave s d q) := by
  unfold askLeave
  repeat' (with_reducible first | assumption | apply kept_modDie)

theorem kept_startGrant {s : State} (rid c amount : Nat) (hwf : MemOk s) : MemOk (startGrant s rid c amount) := by
  unfold startGrant
  repeat' (with_reducible first | assumption | apply kept_modArr | apply kept_askLeave | split | intro _ | dsimp only)

theorem kept_settleMatrix (rid c n : Nat) {s : State} (h : MemOk s) : MemOk (settleMatrix rid c n s) := by
  induction n generalizing s with
  | zero => exact h
  | succ n ih =>
    unfold settleMatrix
    repeat' (with_reducible first | assumption | apply ih | apply kept_modArr | apply kept_startGrant | split)

theorem kept_pushMatrix {s : State} (rid c : Nat) (q : MCmd) (hwf : MemOk s) : MemOk (pushMatrix s rid c q) := by
  unfold pushMatrix
  repeat' (with_reducible first | assumption | apply kept_modArr | apply kept_settleMatrix | split | intro _ | dsimp only)

theorem kept_dropMatrix {s : State} (rid c : Nat) (hwf : MemOk s) : MemOk (dropMatrix s rid c) := by
  unfold dropMatrix
  repeat' (with_reducible first | assumption | apply kept_modArr | apply kept_settleMatrix)

theorem kept_enqueueMatrix {s : State} (tok : Nat) (sem : Option (Nat × Nat)) (work : MWork) (hwf : MemOk s) : Act.Kept (enqueueMatrix s tok sem work) := by
  unfold enqueueMatrix
  repeat' (with_reducible first | assumption | apply kept_commandHdr | apply kept_pushMatrix | split | dsimp only | dsimp only [Act.Kept])

theorem kept_payAttempt {s : State} (rid c : Nat) (w : W64) (step : Nat) (whole : Bool) (hwf : MemOk s) : MemOk (payAttempt s rid c w step whole) := by
  unfold payAttempt
  repeat' (with_reducible first | assumption | apply kept_modArr | apply kept_foldl | split | intro _ | dsimp only | (apply MemOk.mk; dsimp only; apply MemOk.get))

theorem kept_giveBack {s : State} (rid c : Nat) (hwf : MemOk s) : MemOk (giveBack s rid c) := by
  unfold giveBack
  repeat' (with_reducible first | assumption | apply kept_modDie | apply kept_foldl | split | intro _)

theorem kept_answerKeys {s : State} (w : Nat) (uids : List Nat) (hwf : MemOk s) : MemOk (answerKeys s w uids) := by
  unfold answerKeys
  repeat' (with_reducible first | assumption | apply kept_modWorld | apply kept_emit | apply kept_foldl | split | intro _)

theorem kept_releaseOperation {s : State} (rid c : Nat) (w : W64) (uid : Nat) (begun : Bool) (st : SlotPh) (hwf : MemOk s) : MemOk (releaseOperation s rid c w uid begun st) := by
  unfold releaseOperation
  repeat' (with_reducible first | assumption | apply kept_modRect | apply kept_modArr | apply kept_modSlot | apply kept_noteSlot | apply kept_noteIndex | apply kept_giveBack | apply kept_answerKeys | apply kept_foldl | split | intro _)

theorem kept_mapCells {s : State} (rid c : Nat) (f : MCell → MCell) (hwf : MemOk s) : MemOk (mapCells s rid c f) := by
  unfold mapCells
  repeat' (with_reducible first | assumption | apply kept_modArr | apply kept_foldl | split | intro _)

theorem kept_failMmac {s : State} (rid c : Nat) (q : MCmd) (w : W64) (step can und sat cause : Nat) (faddr : W64) (hwf : MemOk s) : MemOk (failMmac s rid c q w step can und sat cause faddr) := by
  unfold failMmac
  repeat' (with_reducible first | assumption | apply kept_modArr | apply kept_failCommand | apply kept_dropMatrix | apply kept_payAttempt | apply kept_releaseOperation | apply kept_mapCells | split)

theorem kept_retainAll {s : State} (rid c : Nat) (w : W64) (uid : Nat) (hwf : MemOk s) : MemOk (retainAll s rid c w uid) := by
  unfold retainAll
  repeat' (with_reducible first | assumption | apply kept_modTile | apply kept_foldl | split | intro _)

theorem kept_beginOperation {s : State} (rid c : Nat) (q : MCmd) (w : W64) (granted : List Nat) (paid : Bool) (hwf : MemOk s) : MemOk (beginOperation s rid c q w granted paid) := by
  unfold beginOperation
  repeat' (with_reducible first | assumption | apply kept_modArr | apply kept_noteEvent | apply kept_modSlot | apply kept_useSlot | apply kept_failMmac | apply kept_retainAll | apply kept_foldl | split | intro _ | dsimp only)

theorem kept_showProgress {s : State} (rid c : Nat) (q : MCmd) (w : W64) (hwf : MemOk s) : MemOk (showProgress s rid c q w) := by
  unfold showProgress
  repeat' (with_reducible first | assumption | apply kept_noteIndex | apply kept_foldl | split | intro _ | dsimp only | (apply MemOk.mk; dsimp only; apply MemOk.get))

theorem kept_rewindStreams {s : State} (rid c : Nat) (q : MCmd) (w : W64) (hwf : MemOk s) : MemOk (rewindStreams s rid c q w) := by
  unfold rewindStreams
  repeat' (with_reducible first | assumption | apply kept_noteIndex | apply kept_foldl | split | intro _)

theorem kept_runAttempt {s : State} (rid c : Nat) (os : List (Source × Operand × Option OpErr)) (step : Nat) (hwf : MemOk s) : MemOk (runAttempt s rid c os step) := by
  unfold runAttempt
  repeat' (with_reducible first | assumption | apply kept_modArr | apply kept_foldl | split | intro _)

theorem kept_retire {s : State} (rid c : Nat) (q : MCmd) (w : W64) (os : List (Source × Operand × Option OpErr))
    (step can und sat : Nat) (past : Bool) (hwf : MemOk s) : MemOk (retire s rid c q w os step can und sat past) := by
  unfold retire
  repeat' (with_reducible first | assumption | apply kept_modCsr | apply kept_modArr | apply kept_noteEvent | apply kept_signal | apply kept_dropMatrix | apply kept_releaseOperation | apply kept_foldl | split | intro _)

theorem kept_drainMember {s : State} (rid m : Nat) (q : MCmd) (w : W64) (es : List (Nat × DrainCount)) (hwf : MemOk s) : MemOk (drainMember s rid m q w es) := by
  unfold drainMember
  repeat' (with_reducible first | assumption | apply kept_modArr | apply kept_performWrite | apply kept_getD | split)

theorem kept_failMatrixHead {s : State} (rid c : Nat) (q : MCmd) (cause : Nat) (hwf : MemOk s) : MemOk (failMatrixHead s rid c q cause) := by
  unfold failMatrixHead
  repeat' (with_reducible first | assumption | apply kept_failCommand | apply kept_dropMatrix)

theorem kept_drainNow {s : State} (rid c : Nat) (q : MCmd) (w : W64) (f : BitVec 32) (hwf : MemOk s) : MemOk (drainNow s rid c q w f) := by
  unfold drainNow
  repeat' (with_reducible first | assumption | apply kept_modArr | apply kept_drainMember | apply kept_failMatrixHead | apply kept_foldl | apply kept_getD | split | intro _ | dsimp only)

theorem kept_chainStart {s : State} (rid c : Nat) (q : MCmd) (hwf : MemOk s) : MemOk (chainStart s rid c q) := by
  unfold chainStart
  repeat' (with_reducible first | assumption | apply kept_modArr | apply kept_failMatrixHead | split | intro _ | dsimp only)

theorem kept_dissolve {s : State} (rid c : Nat) (hwf : MemOk s) : MemOk (dissolve s rid c) := by
  unfold dissolve
  repeat' (with_reducible first | assumption | apply kept_modArr | apply kept_foldl | split | intro _)

theorem kept_join {s : State} (rid c w h : Nat) (ms : List Nat) (hwf : MemOk s) : MemOk (join s rid c w h ms) := by
  unfold join
  repeat' (with_reducible first | assumption | apply kept_modArr | apply kept_foldl | split | intro _)

theorem kept_preemptArray {s : State} (rid c : Nat) (hwf : MemOk s) : MemOk (preemptArray s rid c) := by
  unfold preemptArray
  repeat' (with_reducible first | assumption | apply kept_modArr | apply kept_giveBack | apply kept_mapCells | split)

/-! ### Copies -/

theorem kept_setCopyQ {s : State} (rid c : Nat) (q : List CopyCmd) (hwf : MemOk s) : MemOk (setCopyQ s rid c q) := by
  unfold setCopyQ
  repeat' (with_reducible first | assumption | apply kept_modCore)

theorem kept_enqueueCopy {s : State} (tok : Nat) (sem : Option (Nat × Nat)) (work : CopyWork) (hwf : MemOk s) : Act.Kept (enqueueCopy s tok sem work) := by
  unfold enqueueCopy
  repeat' (with_reducible first | assumption | apply kept_commandHdr | apply kept_setCopyQ | split | dsimp only | dsimp only [Act.Kept])

theorem kept_gatherAt {s : State} (a : W64) (g : BitVec 1) (k : BitVec 3) (mk : W64 → W64 → W64 → Nat → CopyWork) (h : MemOk s) :
    Act.Kept (gatherAt s a g k mk) := by
  unfold gatherAt
  split
  · rename_i e _
    cases e <;> exact True.intro
  · split
    · exact True.intro
    · split
      · exact True.intro
      · exact kept_enqueueCopy _ _ _ h

theorem kept_placeFence {s : State} (rid c : Nat) (h : Hdr) (f : FenceWord) (hwf : MemOk s) : MemOk (placeFence s rid c h f) := by
  unfold placeFence
  repeat' (with_reducible first | assumption | apply kept_modRect | apply kept_modCore | apply kept_setPortQ | apply kept_pushMatrix | apply kept_setCopyQ | apply kept_foldl | split | intro _)

theorem kept_dropFence {s : State} (rid c : Nat) (f : QFence) (hwf : MemOk s) : MemOk (dropFence s rid c f) := by
  unfold dropFence
  repeat' (with_reducible first | assumption | apply kept_modRect | apply kept_modCore | apply kept_setPortQ | apply kept_dropMatrix | apply kept_setCopyQ | apply kept_foldl | split | intro _)

theorem kept_addPins (xs pins : List Nat) {s : State} (h : MemOk s) :
    ∀ r, addPins xs pins s = some r → MemOk r.1 := by
  induction xs generalizing pins s with
  | nil => intro r e; cases e; exact h
  | cons x xs ih =>
    intro r e
    unfold addPins at e
    split at e
    · exact ih _ h _ e
    · split at e
      · exact ih _ h _ e
      · rename_i x' _
        split at e
        · cases e
        · exact ih _ (s := { s with extents := tset s.extents x { x' with pins := x'.pins + 1 } }) h _ e

theorem kept_dropPins {s : State} (pins : List Nat) (hwf : MemOk s) : MemOk (dropPins s pins) := by
  unfold dropPins
  repeat' (with_reducible first | assumption | split | intro _ | dsimp only | (apply MemOk.mk; dsimp only; apply MemOk.get))

theorem kept_modCopy {s : State} (rid c : Nat) (f : CopyCmd → CopyCmd) (hwf : MemOk s) : MemOk (modCopy s rid c f) := by
  unfold modCopy
  repeat' (with_reducible first | assumption | apply kept_setCopyQ)

theorem kept_dropCopy {s : State} (rid c : Nat) (q : CopyCmd) (hwf : MemOk s) : MemOk (dropCopy s rid c q) := by
  unfold dropCopy
  repeat' (with_reducible first | assumption | apply kept_setCopyQ | apply kept_dropPins)

theorem kept_failCopy {s : State} (rid c : Nat) (q : CopyCmd) (cause : Nat) (a : W64) (hwf : MemOk s) : MemOk (failCopy s rid c q cause a) := by
  unfold failCopy
  repeat' (with_reducible first | assumption | apply kept_failCommand | apply kept_dropCopy)

theorem kept_failInTurn {s : State} (rid c : Nat) (q : CopyCmd) (cause : Nat) (a : W64) (hwf : MemOk s) : MemOk (failInTurn s rid c q cause a) := by
  unfold failInTurn
  repeat' (with_reducible first | assumption | apply kept_failCopy | split)

theorem kept_moveBytes {s : State} (rid : Nat) (h : Hdr) (dst src : W64) (n : Nat) (hwf : MemOk s) : MoveRes.Kept (moveBytes s rid h dst src n) := by
  unfold moveBytes
  repeat' (with_reducible first | assumption | apply kept_engineAck | apply kept_noteHbm | apply kept_performWrite | split | dsimp only | dsimp only [MoveRes.Kept])

theorem kept_gatherOne {s : State} (rid core : Nat) (q : CopyCmd) (h : MemOk s) : MemOk (gatherOne s rid core q) := by
  unfold gatherOne
  dsimp only
  split
  · exact h
  · split
    · exact h
    · split
      · exact kept_failInTurn _ _ _ _ _ h
      · split
        · exact h
        · split
          · exact kept_failInTurn _ _ _ _ _ h
          · split
            · exact h
            · split
              · exact kept_failInTurn _ _ _ _ _ h
              · split
                · exact h
                · have hp := kept_addPins _ _ h _ ‹_›
                  split
                  · exact kept_modCopy _ _ _ hp
                  · exact kept_failInTurn _ _ _ _ _ (kept_modCopy _ _ _ hp)
                  · exact kept_modCopy _ _ _ (kept_noteHbm _ _ (MoveRes.Kept.get ‹_› (kept_moveBytes _ _ _ _ _ (kept_modCopy _ _ _ hp))))

/-! ### Ring -/

theorem kept_setRingQ {s : State} (rid c : Nat) (q : List RingCmd) (hwf : MemOk s) : MemOk (setRingQ s rid c q) := by
  unfold setRingQ
  repeat' (with_reducible first | assumption | apply kept_modCore)

theorem kept_noteBoard {s : State} (rid uid st status : Nat) (b : Board) (hwf : MemOk s) : MemOk (noteBoard s rid uid st status b) := by
  unfold noteBoard
  repeat' (with_reducible first | assumption | apply kept_modSlot)

theorem kept_setBoard {s : State} (rid c ix : Nat) (q : RingCmd) (b : Board) (hwf : MemOk s) : MemOk (setBoard s rid c ix q b) := by
  unfold setBoard
  repeat' (with_reducible first | assumption | apply kept_setRingQ | apply kept_noteBoard)

theorem kept_dropBoard {s : State} (rid c ix : Nat) (q : RingCmd) (b : Board) (ph : SlotPh) (hwf : MemOk s) : MemOk (dropBoard s rid c ix q b ph) := by
  unfold dropBoard
  repeat' (with_reducible first | assumption | apply kept_modSlot | apply kept_noteSlot | apply kept_setRingQ | split)

theorem kept_takeBinding {s : State} (lane : Nat) (b : Option Binding) (hwf : MemOk s) : MemOk (takeBinding s lane b) := by
  unfold takeBinding
  repeat' (with_reducible first | assumption | apply kept_modLane | apply kept_setBoard | apply kept_foldl | split | intro _)

theorem kept_feederPost {s : State} (w cause : Nat) (a : W64) (hwf : MemOk s) : MemOk (feederPost s w cause a) := by
  unfold feederPost
  repeat' (with_reducible first | assumption | apply kept_post)

theorem kept_nextLayer {s : State} (lane : Nat) (b : Binding) (hwf : MemOk s) : MemOk (nextLayer s lane b) := by
  unfold nextLayer
  repeat' (with_reducible first | assumption | apply kept_modLane | apply kept_takeBinding | split | intro _ | dsimp only)

theorem kept_passStation {s : State} (lane die : Nat) (t : RingTile) (good : Bool) (hwf : MemOk s) : MemOk (passStation s lane die t good) := by
  unfold passStation
  repeat' (with_reducible first | assumption | apply kept_modLane | apply kept_setBoard | apply kept_foldl | split | intro _ | dsimp only)

theorem kept_launch {s : State} (lane f : Nat) (t : RingTile) (hwf : MemOk s) : MemOk (launch s lane f t) := by
  unfold launch
  repeat' (with_reducible first | assumption | apply kept_modLane | apply kept_passStation)

theorem kept_loseLayer {s : State} (lane : Nat) (b : Binding) (cause : Nat) (a : W64) (hwf : MemOk s) : MemOk (loseLayer s lane b cause a) := by
  unfold loseLayer
  repeat' (with_reducible first | assumption | apply kept_feederPost | apply kept_nextLayer | apply kept_launch)

theorem kept_pullTile {s : State} (t : RingTile) (a : W64) (hwf : MemOk s) : MemOk (pullTile s t a).1 := by
  unfold pullTile
  repeat' (with_reducible first | assumption | apply kept_feederPost | split | dsimp only | (apply MemOk.mk; dsimp only; apply MemOk.get))

theorem kept_injectTile {s : State} (lane : Nat) (b : Binding) (src : W64) (nt home : Nat) (hwf : MemOk s) : MemOk (injectTile s lane b src nt home) := by
  unfold injectTile
  repeat' (with_reducible first | assumption | apply kept_modLane | apply kept_nextLayer | apply kept_launch | apply kept_pullTile | split | intro _ | dsimp only)

theorem kept_failBoard {s : State} (rid c ix : Nat) (q : RingCmd) (b : Board) (cause : Nat) (a : W64) (hwf : MemOk s) : MemOk (failBoard s rid c ix q b cause a) := by
  unfold failBoard
  repeat' (with_reducible first | assumption | apply kept_failCommand | apply kept_noteSlot | apply kept_setRingQ | apply kept_noteBoard | apply kept_dropBoard | split)

theorem kept_armBoard {s : State} (rid c ix : Nat) (q : RingCmd) (b : Board) (hwf : MemOk s) : MemOk (armBoard s rid c ix q b) := by
  unfold armBoard
  repeat' (with_reducible first | assumption | apply kept_modLane | apply kept_modSlot | apply kept_useSlot | apply kept_setBoard | split)

theorem kept_writeTile {s : State} (rid tile : Nat) (h : Hdr) (bs : List (Nat × Byte)) (hwf : MemOk s) : MemOk (writeTile s rid tile h bs) := by
  unfold writeTile
  repeat' (with_reducible first | assumption | apply kept_performWrite | apply kept_foldl | split | intro _)

theorem kept_writeCapture {s : State} (rid c ix : Nat) (q : RingCmd) (b : Board) (t : RingTile) (n p : Nat) (hwf : MemOk s) : MemOk (writeCapture s rid c ix q b t n p) := by
  unfold writeCapture
  repeat' (with_reducible first | assumption | apply kept_noteIndex | apply kept_setBoard | apply kept_failBoard | apply kept_writeTile | split | intro _ | dsimp only)

theorem kept_settleFailed {s : State} (rid c : Nat) (q : RingCmd) (b : Board) (hwf : MemOk s) : MemOk (settleFailed s rid c q b) := by
  unfold settleFailed
  repeat' (with_reducible first | assumption | apply kept_failCommand | apply kept_dropBoard | split)

theorem kept_cancelBoards (rid c n : Nat) {s : State} (h : MemOk s) : MemOk (cancelBoards rid c n s) := by
  induction n generalizing s with
  | zero => exact h
  | succ n ih =>
    unfold cancelBoards
    repeat' (with_reducible first | assumption | apply ih | apply kept_tokenSub | apply kept_settleFailed | apply kept_dropBoard | apply kept_noteBoard | split)

theorem kept_enqueueRing {s : State} (tok : Nat) (sem : Option (Nat × Nat)) (work : RingWork) (hwf : MemOk s) : Act.Kept (enqueueRing s tok sem work) := by
  unfold enqueueRing
  repeat' (with_reducible first | assumption | apply kept_commandHdr | apply kept_modSlot | apply kept_useSlot | apply kept_setRingQ | split | intro _ | dsimp only | dsimp only [Act.Kept])

theorem kept_stopBoards {s : State} (rid c : Nat) (hwf : MemOk s) : MemOk (stopBoards s rid c) := by
  unfold stopBoards
  repeat' (with_reducible first | assumption | apply kept_noteSlot | apply kept_setBoard | apply kept_foldl | split | intro _)

theorem kept_unbindWorld {s : State} (w : Nat) (hwf : MemOk s) : MemOk (unbindWorld s w) := by
  unfold unbindWorld
  repeat' (with_reducible first | assumption | apply kept_modLane | apply kept_takeBinding | apply kept_foldl | split | intro _ | dsimp only)

/-! ### Dies -/

theorem kept_takeFence {s : State} (rid c i : Nat) (m : BitVec 5) (hwf : MemOk s) : MemOk (takeFence s rid c i m) := by
  unfold takeFence
  repeat' (with_reducible first | assumption | apply kept_modCore)

theorem kept_enqueueX {s : State} (tok : Nat) (sem : Option (Nat × Nat)) (work : XWork) (waits : List Nat) (hwf : MemOk s) : Act.Kept (enqueueX s tok sem work waits) := by
  unfold enqueueX
  repeat' (with_reducible first | assumption | apply kept_modCore | apply kept_commandHdr | split | intro _ | dsimp only | dsimp only [Act.Kept])

theorem kept_dropX {s : State} (rid c : Nat) (hwf : MemOk s) : MemOk (dropX s rid c) := by
  unfold dropX
  repeat' (with_reducible first | assumption | apply kept_modCore)

theorem kept_collCell {s : State} (rid : Nat) (h : Hdr) (reduce : Bool) (root off : Nat) (ds : List Nat) (hwf : MemOk s) : MemOk (collCell s rid h reduce root off ds) := by
  unfold collCell
  repeat' (with_reducible first | assumption | apply kept_performCell | apply kept_foldl | split | intro _)

theorem kept_modLink {s : State} (n : Nat) (f : Link → Link) (hwf : MemOk s) : MemOk (modLink s n f) := by
  unfold modLink
  repeat' (with_reducible first | assumption | split | dsimp only | (apply MemOk.mk; dsimp only; apply MemOk.get))

theorem Option.Kept.orElse {o : Option State} {p : Option State} (h : Option.Kept o) (hp : Option.Kept p) : Option.Kept (o <|> p) := by
  cases o <;> assumption

theorem Option.Kept.bind {α : Type} {o : Option α} {f : α → Option State} (h : ∀ x, Option.Kept (f x)) : Option.Kept (o.bind f) := by
  cases o with
  | none => exact True.intro
  | some x => exact h x

theorem kept_failOwned {s : State} (rid c uid : Nat) (k : Core) (hwf : MemOk s) : Option.Kept (failOwned s rid c uid k) := by
  unfold failOwned
  refine Option.Kept.orElse ?_ (Option.Kept.orElse ?_ (Option.Kept.orElse ?_ ?_)) <;> refine Option.Kept.bind fun x => ?_
  · split
    · exact kept_failCopy _ _ _ _ _ hwf
    · exact True.intro
  · split
    · exact kept_failBoard _ _ _ _ _ _ _ hwf
    · exact True.intro
  · split
    · exact kept_failCommand _ _ _ _ (kept_dropX _ _ hwf)
    · exact True.intro
  · split
    · exact True.intro
    · split
      · exact kept_failMmac _ _ _ _ _ _ _ _ _ _ hwf
      · exact kept_failMatrixHead _ _ _ _ hwf

theorem kept_failSender {s : State} (f : Flit) (hwf : MemOk s) : MemOk (failSender s f) := by
  unfold failSender
  split
  · exact kept_postWorld _ _ _ hwf
  · dsimp only
    split
    · exact kept_failHead _ _ _ _ _ hwf
    · split
      · rename_i e
        obtain ⟨k, -, e⟩ := List.exists_of_findSome?_eq_some e
        exact Option.Kept.get e (kept_failOwned _ _ _ _ hwf)
      · split
        · exact kept_reportCause _ _ _ _ _ _ hwf
        · exact kept_postWorld _ _ _ hwf

theorem kept_failFlit {s : State} (link k : Nat) (hwf : MemOk s) : MemOk (failFlit s link k) := by
  unfold failFlit
  repeat' (with_reducible first | assumption | apply kept_modLink)

theorem kept_takeFlit {s : State} (link k : Nat) (f : Flit) (hwf : MemOk s) : MemOk (takeFlit s link k f) := by
  unfold takeFlit
  repeat' (with_reducible first | assumption | apply kept_modDie | apply kept_modLink | apply kept_failSender | split | intro _ | dsimp only)

/-! ### System -/

theorem kept_writeCsr {s : State} (rid c n : Nat) (v : W64) (hwf : MemOk s) : MemOk (writeCsr s rid c n v) := by
  unfold writeCsr
  repeat' (with_reducible first | assumption | apply kept_modCsr)

theorem kept_tickDie {s : State} (rid c : Nat) (hwf : MemOk s) : MemOk (tickDie s rid c) := by
  unfold tickDie
  repeat' (with_reducible first | assumption | apply kept_modDie | apply kept_getD | split | intro _ | dsimp only | (apply MemOk.mk; dsimp only; apply MemOk.get))

theorem kept_readCycles {s : State} (rid c : Nat) (v : W64) (hwf : MemOk s) : MemOk (readCycles s rid c v) := by
  unfold readCycles
  repeat' (with_reducible first | assumption | apply kept_modCore)

/-! ### Launch -/

theorem kept_takeHead {s : State} (w : Nat) (hwf : MemOk s) : MemOk (takeHead s w) := by
  unfold takeHead
  repeat' (with_reducible first | assumption | apply kept_modWorld | split | intro _ | dsimp only | (apply MemOk.mk; dsimp only; apply MemOk.get))

theorem kept_raiseIrq {s : State} (w : Nat) (irq : Option Nat) (hwf : MemOk s) : MemOk (raiseIrq s w irq) := by
  unfold raiseIrq
  repeat' (with_reducible first | assumption | apply kept_emit | split)

theorem kept_serveHead {s : State} (w kind : Nat) {f : List Byte → State} (h : MemOk s) (hf : ∀ bs, MemOk (f bs)) :
    MemOk (serveHead s w kind f) := by
  unfold serveHead
  repeat' (with_reducible first | assumption | apply hf | apply kept_post | apply kept_takeHead | split)

theorem kept_addPkt {s : State} (w : Nat) (work : PktWork) (irq : Option Nat) (hwf : MemOk s) : MemOk (addPkt s w work irq) := by
  unfold addPkt
  repeat' (with_reducible first | assumption | apply kept_modWorld | apply kept_fresh)

theorem kept_modPkt {s : State} (w id : Nat) (f : Pkt → Pkt) (hwf : MemOk s) : MemOk (modPkt s w id f) := by
  unfold modPkt
  repeat' (with_reducible first | assumption | apply kept_modWorld)

theorem kept_endCopy {s : State} (w : Nat) (k : Pkt) (rid : Nat) (sem : Option (Nat × Nat)) (hwf : MemOk s) : MemOk (endCopy s w k rid sem) := by
  unfold endCopy
  repeat' (with_reducible first | assumption | apply kept_completePkts | apply kept_semAdd | split | intro _ | dsimp only)

theorem kept_failHostCopy {s : State} (w : Nat) (k : Pkt) (rid : Nat) (e : Nat × Nat) (hwf : MemOk s) : MemOk (failHostCopy s w k rid e) := by
  unfold failHostCopy
  repeat' (with_reducible first | assumption | apply kept_post | apply kept_post | apply kept_endCopy)

theorem kept_hostPiece {s : State} (w : Nat) (k : Pkt) (rid : Nat) (dst src : W64) (len prog n : Nat) (sem : Option (Nat × Nat))
    (h : MemOk s) : MemOk (hostPiece s w k rid dst src len prog n sem) := by
  simp only [hostPiece]
  repeat' (with_reducible first | assumption | apply kept_failHostCopy | apply kept_endCopy | apply kept_modPkt | apply kept_bumpRange | apply kept_writeKeys | split)

theorem kept_placeResult {s : State} (w : Nat) (res : W64) (v : Nat) (irq : Option Nat) (hwf : MemOk s) : MemOk (placeResult s w res v irq) := by
  unfold placeResult
  repeat' (with_reducible first | assumption | apply kept_writeNat | apply kept_post | apply kept_post | apply kept_bumpRange | apply kept_raiseIrq | split | intro _ | dsimp only)

theorem kept_servePlace {s : State} (w : Nat) (ops : Nat → Bool) {f : List Byte → Nat → State → State} (h : MemOk s)
    (hf : ∀ bs rid s, MemOk s → MemOk (f bs rid s)) : MemOk (servePlace s w ops f) := by
  unfold servePlace
  apply kept_serveHead _ _ h
  intro bs
  dsimp only
  repeat' (with_reducible first | assumption | apply hf | apply kept_placeResult | apply kept_takeHead | split)

/-! ### Freeze -/

theorem kept_markStreams {s : State} (rid : Nat) (from_ into : SlotPh) (hwf : MemOk s) : MemOk (markStreams s rid from_ into) := by
  unfold markStreams
  repeat' (with_reducible first | assumption | apply kept_modSlot | apply kept_foldl | split | intro _)

theorem kept_saveCopies {s : State} (rid c : Nat) (hwf : MemOk s) : MemOk (saveCopies s rid c) := by
  unfold saveCopies
  repeat' (with_reducible first | assumption | apply kept_setCopyQ | apply kept_dropPins | apply kept_foldl | split | intro _ | dsimp only)

theorem kept_saveEngines {s : State} (rid : Nat) (hwf : MemOk s) : MemOk (saveEngines s rid) := by
  unfold saveEngines
  repeat' (with_reducible first | assumption | apply kept_preemptArray | apply kept_stopBoards | apply kept_markStreams | apply kept_saveCopies | apply kept_foldl | split | intro _)

theorem kept_giveResult {s : State} (w : Nat) (p : Placing) (v : Nat) (hwf : MemOk s) : MemOk (giveResult s w p v) := by
  unfold giveResult
  repeat' (with_reducible first | assumption | apply kept_modWorld | apply kept_placeResult | split)

theorem kept_endFreeze {s : State} (rid v : Nat) (hwf : MemOk s) : MemOk (endFreeze s rid v) := by
  unfold endFreeze
  repeat' (with_reducible first | assumption | apply kept_giveResult | split | intro _ | dsimp only)

theorem kept_reportFrozen {s : State} (rid : Nat) (hwf : MemOk s) : MemOk (reportFrozen s rid) := by
  unfold reportFrozen
  repeat' (with_reducible first | assumption | apply kept_emit)

theorem kept_freezeNow {s : State} (rid : Nat) (hwf : MemOk s) : MemOk (freezeNow s rid) := by
  unfold freezeNow
  repeat' (with_reducible first | assumption | apply kept_modRect | apply kept_saveEngines | apply kept_endFreeze | apply kept_reportFrozen)

theorem kept_settleStop {s : State} (rid : Nat) (hwf : MemOk s) : MemOk (settleStop s rid) := by
  unfold settleStop
  repeat' (with_reducible first | assumption | apply kept_freezeNow | split | dsimp only)

theorem kept_startStop {s : State} (rid : Nat) (hwf : MemOk s) : MemOk (startStop s rid) := by
  unfold startStop
  repeat' (with_reducible first | assumption | apply kept_modRect | apply kept_abandonAll | apply kept_settleStop | split)

theorem kept_takeDeferred {s : State} (rid c : Nat) (hwf : MemOk s) : MemOk (takeDeferred s rid c) := by
  unfold takeDeferred
  repeat' (with_reducible first | assumption | apply kept_modCsr | apply kept_discardWith | apply kept_enterHandler | split | intro _ | dsimp only)

theorem kept_resumeRect {s : State} (rid : Nat) (hwf : MemOk s) : MemOk (resumeRect s rid) := by
  unfold resumeRect
  repeat' (with_reducible first | assumption | apply kept_modRect | apply kept_settleMatrix | apply kept_markStreams | apply kept_takeDeferred | apply kept_foldl | split | intro _)

theorem kept_tryResume {s : State} (rid : Nat) (hwf : MemOk s) : MemOk (tryResume s rid) := by
  unfold tryResume
  repeat' (with_reducible first | assumption | apply kept_resumeRect | split)

theorem kept_scrubCells {s : State} (rid : Nat) (hwf : MemOk s) : MemOk (scrubCells s rid) := hwf

theorem kept_scrubRect {s : State} (rid : Nat) (hwf : MemOk s) : MemOk (scrubRect s rid) := by
  unfold scrubRect
  repeat' (with_reducible first | assumption | apply kept_scrub | apply kept_scrubCells)

theorem kept_scrubMonitors {s : State} (rid : Nat) (hwf : MemOk s) : MemOk (scrubMonitors s rid) := by
  unfold scrubMonitors
  repeat' (with_reducible first | assumption | split | intro _ | dsimp only | (apply MemOk.mk; dsimp only; apply MemOk.get))

theorem kept_releaseRect {s : State} (rid : Nat) (hwf : MemOk s) : MemOk (releaseRect s rid) := by
  unfold releaseRect
  repeat' (with_reducible first | assumption | apply kept_modDie | apply kept_answerKeys | apply kept_dropPins | apply kept_scrubRect | apply kept_scrubMonitors | apply kept_foldl | split | intro _ | dsimp only | (apply MemOk.mk; dsimp only; apply MemOk.get))

theorem kept_periscope {s : State} (w : Nat) {f : State → State} (h : MemOk s)
    (hf : ∀ s, MemOk s → MemOk (f s)) : MemOk (periscope s w f) := by
  unfold periscope
  split
  · exact hf _ h
  · exact kept_postWorld _ _ _ h

theorem kept_periscopeRect {s : State} (rid : Nat) {f : State → State} (h : MemOk s)
    (hf : ∀ s, MemOk s → MemOk (f s)) : MemOk (periscopeRect s rid f) := by
  unfold periscopeRect
  refine kept_periscope _ h fun s h => ?_
  split
  · exact hf _ h
  · exact h

theorem kept_unhalt {s : State} (rid c : Nat) (hwf : MemOk s) : MemOk (unhalt s rid c) := by
  unfold unhalt
  repeat' (with_reducible first | assumption | apply kept_modCsr | apply kept_releaseTask | apply kept_freeCore | split)

/-! ### Image -/

/-! ### Placer -/

theorem kept_writeSpan (w n a : Nat) (bs : List Byte) {s : State} (h : MemOk s) : MemOk (writeSpan s w n a bs).1 := by
  induction n generalizing s a bs with
  | zero => exact h
  | succ n ih =>
    unfold writeSpan
    dsimp only
    repeat' (with_reducible first | assumption | apply ih | apply kept_bumpRange | apply kept_writeKeys | split)

theorem kept_writeStores {s : State} (rid : Nat) (m : Image) (hwf : MemOk s) : MemOk (writeStores s rid m) := by
  unfold writeStores
  repeat' (with_reducible first | assumption | apply kept_writeKeys | apply kept_foldl | split | intro _)

theorem kept_writeTiles {s : State} (rid : Nat) (m : Image) (hwf : MemOk s) : MemOk (writeTiles s rid m) := by
  unfold writeTiles
  repeat' (with_reducible first | assumption | apply kept_writeKeys | apply kept_foldl | split | intro _)

theorem kept_writeRegions {s : State} (w : Nat) (m : Image) (bases : List Nat) (h : MemOk s) :
    MemOk (writeRegions s w m bases).1 := by
  have key : ∀ (l : List IData) (x : State × Bool), MemOk x.1 → MemOk (l.foldl (fun x d => if d.tile || !x.2 then x
      else writeSpan x.1 w (d.bytes.length / 0x200000 + 2) (bases[d.region]?.getD 0 + d.off) d.bytes) x).1 := by
    intro l
    induction l with
    | nil => exact fun x h => h
    | cons d l ih =>
      intro x h
      rw [List.foldl_cons]
      apply ih
      split
      · exact h
      · exact kept_writeSpan _ _ _ _ h
  exact key m.data (s, true) h

theorem kept_nextMove (n : Nat) {s : State} (h : MemOk s) : MemOk (nextMove n s) := by
  induction n generalizing s with
  | zero => exact h
  | succ n ih =>
    unfold nextMove
    dsimp only
    split
    · split
      · exact h
      split
      · split
        · split
          · exact kept_abandonAll _ (kept_modRect (MemOk.mk h))
          · exact MemOk.mk h
        · exact ih (MemOk.mk h)
      · exact ih (MemOk.mk h)
    · exact MemOk.mk h
    · exact h

theorem kept_startPass {s : State} (set : Nat) (hwf : MemOk s) : MemOk (startPass s set) := by
  unfold startPass
  repeat' (with_reducible first | assumption | apply kept_nextMove | split | dsimp only | (apply MemOk.mk; dsimp only; apply MemOk.get))

theorem kept_moveMonitor {s : State} (n : Nat) (m : Tab Nat) (d : Nat) (hwf : MemOk s) : MemOk (moveMonitor s n m d) := by
  unfold moveMonitor
  repeat' (with_reducible first | assumption | split | intro _ | dsimp only | (apply MemOk.mk; dsimp only; apply MemOk.get))

theorem kept_passOn {s : State} (moved : Bool) (hwf : MemOk s) : MemOk (passOn s moved) := by
  unfold passOn
  repeat' (with_reducible first | assumption | apply kept_nextMove | split | dsimp only | (apply MemOk.mk; dsimp only; apply MemOk.get))

/-! ### Context -/

theorem kept_putCells {s : State} (rid : Nat) (cs : List (Nat × Nat × Byte)) (hwf : MemOk s) : MemOk (putCells s rid cs) := by
  unfold putCells
  repeat' (with_reducible first | assumption | apply kept_writeKey | apply kept_foldl | split | intro _)

theorem kept_putMonitors {s : State} (rid : Nat) (xs : List CSection) (ms : List (Nat × List Monitor)) (hwf : MemOk s) : MemOk (putMonitors s rid xs ms) := by
  unfold putMonitors
  repeat' (with_reducible first | assumption | apply kept_foldl | split | intro _ | dsimp only | (apply MemOk.mk; dsimp only; apply MemOk.get))

theorem kept_writeShot {s : State} (rid feat : Nat) (xs : List CSection) (hwf : MemOk s) : MemOk (writeShot s rid feat xs) := by
  unfold writeShot
  repeat' (with_reducible first | assumption | apply kept_writeKeys | apply kept_scrub | apply kept_modRect | apply kept_putCells | apply kept_putMonitors | apply kept_foldl | split | intro _)

theorem kept_restore {s : State} (w rid : Nat) (a : W64) (hwf : MemOk s) : MemOk (restore s w rid a).1 := by
  unfold restore
  repeat' (with_reducible first | assumption | apply kept_bind | apply kept_writeShot | split | intro _ | dsimp only)

/-! ### Leases -/

theorem kept_modRange {s : State} (c : Nat) (f : List RangeEnt → List RangeEnt) (hwf : MemOk s) : MemOk (modRange s c f) := by
  unfold modRange
  repeat' (with_reducible first | assumption | split | dsimp only | (apply MemOk.mk; dsimp only; apply MemOk.get))

theorem kept_grantRange {s : State} (w tier first n : Nat) (hwf : MemOk s) : MemOk (grantRange s w tier first n) := by
  unfold grantRange
  repeat' (with_reducible first | assumption | apply kept_modRange | apply kept_foldl | split | intro _)

theorem kept_dropRange {s : State} (w tier first n : Nat) (hwf : MemOk s) : MemOk (dropRange s w tier first n) := by
  unfold dropRange
  repeat' (with_reducible first | assumption | apply kept_modRange | apply kept_foldl | split | intro _)

theorem kept_scrubRun {s : State} (tier first n : Nat) (hwf : MemOk s) : MemOk (scrubRun s tier first n) := by
  unfold scrubRun
  repeat' (with_reducible first | assumption | apply kept_scrub | split)

theorem kept_dropGrant {s : State} (e : Extent) (hwf : MemOk s) : MemOk (dropGrant s e) := by
  unfold dropGrant
  repeat' (with_reducible first | assumption | apply kept_dropRange | split)

theorem kept_cleanGranules {s : State} (e : Extent) (hwf : MemOk s) : MemOk (cleanGranules s e) := by
  unfold cleanGranules
  repeat' (with_reducible first | assumption | apply kept_emit | apply kept_scrubRun | split)

theorem kept_removeExtent {s : State} (n : Nat) (e : Extent) (hwf : MemOk s) : MemOk (removeExtent s n e) := by
  unfold removeExtent
  repeat' (with_reducible first | assumption | apply kept_dropRange | apply kept_dropGrant | apply kept_cleanGranules | split | dsimp only | (apply MemOk.mk; dsimp only; apply MemOk.get))

theorem kept_removeLeaving {s : State} (hwf : MemOk s) : MemOk (removeLeaving s) := by
  unfold removeLeaving
  repeat' (with_reducible first | assumption | apply kept_removeExtent | apply kept_foldl | split | intro _)

theorem kept_performParked (rid c n : Nat) {s : State} (h : MemOk s) : MemOk (performParked rid c n s) := by
  induction n generalizing s with
  | zero => exact h
  | succ n ih =>
    unfold performParked
    split
    · exact h
    · split
      · exact ih (Result.Kept.get ‹_› (kept_execDrainEntryPerform _ _ _ h))
      · exact h

theorem kept_releaseParked {s : State} (hwf : MemOk s) : MemOk (releaseParked s) := by
  unfold releaseParked
  repeat' (with_reducible first | assumption | apply kept_performParked | apply kept_foldl | split | intro _)

theorem kept_startMigration {s : State} (n tier base : Nat) (hwf : MemOk s) : MemOk (startMigration s n tier base) := by
  unfold startMigration
  repeat' (with_reducible first | assumption | apply kept_grantRange | split | dsimp only | (apply MemOk.mk; dsimp only; apply MemOk.get))

theorem kept_copyRun {s : State} (src dst n : Nat) (hwf : MemOk s) : MemOk (copyRun s src dst n) := by
  unfold copyRun
  repeat' (with_reducible first | assumption | apply kept_scrub | apply kept_writeKey | apply kept_foldl | split | intro _ | dsimp only | (apply MemOk.mk; dsimp only; apply MemOk.get))

theorem kept_endMigration {s : State} (ext : Nat) (e : Extent) (m : Migr) (commit : Bool) (hwf : MemOk s) : MemOk (endMigration s ext e m commit) := by
  unfold endMigration
  repeat' (with_reducible first | assumption | apply kept_dropRange | apply kept_dropGrant | apply kept_copyRun | split | dsimp only | (apply MemOk.mk; dsimp only; apply MemOk.get))

theorem kept_refuseRequest {s : State} (world vbase : Nat) (hwf : MemOk s) : MemOk (refuseRequest s world vbase) := by
  unfold refuseRequest
  repeat' (with_reducible first | assumption | apply kept_emit)

theorem kept_addExtent {s : State} (w tier rights vbase pbase len : Nat) (hwf : MemOk s) : MemOk (addExtent s w tier rights vbase pbase len) := by
  unfold addExtent
  repeat' (with_reducible first | assumption | apply kept_fresh | apply kept_grantRange | apply kept_refuseRequest | split | intro _ | dsimp only | (apply MemOk.mk; dsimp only; apply MemOk.get))

theorem kept_postRelease {s : State} (w : Nat) (n : BitVec 32) (hwf : MemOk s) : MemOk (postRelease s w n) := by
  unfold postRelease
  repeat' (with_reducible first | assumption | apply kept_modWorld | apply kept_emit | split | intro _ | dsimp only)

theorem kept_askRelease {s : State} (world n : Nat) (hwf : MemOk s) : MemOk (askRelease s world n) := by
  unfold askRelease
  repeat' (with_reducible first | assumption | apply kept_modWorld | apply kept_postRelease | split | intro _ | dsimp only)

/-! ### Worlds -/

theorem kept_clearWorld {s : State} (w : Nat) (st : WState) (hwf : MemOk s) : MemOk (clearWorld s w st) := by
  unfold clearWorld
  extract_lets moving s1 s2 s3 s4 mine s5 s6 s7
  have h1 : MemOk s2 := kept_foldl (kept_modWorld (s := s) hwf) fun _ _ h => kept_releaseRect _ h
  have h5 : MemOk s5 := kept_foldl (kept_modWorld (s := s3) h1) fun _ _ h => kept_scrubRun _ _ _ h
  have h7 : MemOk s7 := kept_unbindWorld _ (MemOk.mk (s := s6) h5.get)
  split
  · exact kept_nextMove _ h7
  · exact h7

theorem kept_destroyWorld {s : State} (w : Nat) (st : WState) (hwf : MemOk s) : MemOk (destroyWorld s w st) :=
  kept_postWorld _ _ _ (kept_clearWorld _ _ hwf)

theorem kept_leaveUnasked {s : State} (w : Nat) (st : WState) (hwf : MemOk s) : MemOk (leaveUnasked s w st) :=
  kept_destroyWorld _ _ (kept_postWorld _ _ _ hwf)

theorem kept_spdmError {s : State} (w : Nat) (hwf : MemOk s) : MemOk (spdmError s w) := by
  unfold spdmError
  repeat' (with_reducible first | assumption | apply kept_emit)

theorem kept_respondKey {s : State} (w code : Nat) (hwf : MemOk s) : MemOk (respondKey s w code) := by
  unfold respondKey
  repeat' (with_reducible first | assumption | apply kept_modWorld | apply kept_emit | split | intro _ | dsimp only)

theorem kept_keyRequest {s : State} (w slot : Nat) (viaPf : Bool) (code : Nat) (f : World → World) (hwf : MemOk s) : MemOk (keyRequest s w slot viaPf code f) := by
  unfold keyRequest
  repeat' (with_reducible first | assumption | apply kept_modWorld | apply kept_postWorld | apply kept_respondKey | split | dsimp only)

theorem kept_resetFunction {s : State} (w : Nat) (st : WState) (hwf : MemOk s) : MemOk (resetFunction s w st) := by
  unfold resetFunction
  repeat' (with_reducible first | assumption | apply kept_modWorld | apply kept_destroyWorld | apply kept_clearWorld | split)

theorem kept_resetAll {s : State} (h : MemOk s) : MemOk (resetAll s) :=
  kept_modWorld (kept_resetFunction _ _ (kept_foldl h fun _ _ h => kept_modWorld (kept_resetFunction _ _ h)))

/-! ### Host -/

theorem kept_notifyTail {s : State} (w tail : Nat) (hwf : MemOk s) : MemOk (notifyTail s w tail) := by
  unfold notifyTail
  repeat' (with_reducible first | assumption | apply kept_post | apply kept_modWorld | apply kept_post | split | intro _ | dsimp only)

theorem kept_setDieOp {s : State} (d op : Nat) (hwf : MemOk s) : MemOk (setDieOp s d op) := by
  unfold setDieOp
  repeat' (with_reducible first | assumption | apply kept_modDie | split)

theorem kept_gateRequest {s : State} (d : Nat) (hwf : MemOk s) : MemOk (gateRequest s d) := by
  unfold gateRequest
  repeat' (with_reducible first | assumption | apply kept_modDie | split)

theorem kept_gateDie {s : State} (d : Nat) (hwf : MemOk s) : MemOk (gateDie s d) := by
  unfold gateDie
  repeat' (with_reducible first | assumption | apply kept_scrub | apply kept_modDie | split | intro _ | dsimp only | (apply MemOk.mk; dsimp only; apply MemOk.get))

theorem kept_ungateRequest {s : State} (d : Nat) (hwf : MemOk s) : MemOk (ungateRequest s d) := by
  unfold ungateRequest
  repeat' (with_reducible first | assumption | apply kept_modDie | split)

theorem kept_writePage {s : State} (fn off : Nat) (v : W64) (hwf : MemOk s) : MemOk (writePage s fn off v) := by
  unfold writePage
  repeat' (with_reducible first | assumption | apply kept_modWorld | apply kept_notifyTail | split | intro _ | dsimp only)

theorem kept_writeDiePwr {s : State} (d : Nat) (v : W64) (hwf : MemOk s) : MemOk (writeDiePwr s d v) := by
  unfold writeDiePwr
  repeat' (with_reducible first | assumption | apply kept_modDie | apply kept_gateRequest | apply kept_ungateRequest | split)

theorem kept_writeMonAlloc {s : State} (n : Nat) (v : W64) (hwf : MemOk s) : MemOk (writeMonAlloc s n v) := by
  unfold writeMonAlloc
  repeat' (with_reducible first | assumption | split | intro _ | dsimp only | (apply MemOk.mk; dsimp only; apply MemOk.get))

theorem kept_writePf {s : State} (off : Nat) (v : W64) (hwf : MemOk s) : MemOk (writePf s off v) := by
  unfold writePf
  repeat' (with_reducible first | assumption | apply kept_startPass | apply kept_askRelease | apply kept_setDieOp | apply kept_writeDiePwr | apply kept_writeMonAlloc | split | dsimp only | (apply MemOk.mk; dsimp only; apply MemOk.get))

end Sys2Proof.Machine
end

