-- ==== Sys2Proof/Laws/PerInstr.lean ====
section
/-!
SUPPORT. Sys2Proof/Laws/PerInstr.lean: for each instruction row, that the word its fields encode to decodes to it (R55 to R61).
-/
set_option linter.unusedSimpArgs false
set_option linter.unusedTactic false
set_option linter.unreachableTactic false
namespace Sys2Proof.Laws

/-- The word of an instruction that R61 allows decodes to it. -/
def RoundTrip.Statement (i : Instr) : Prop := i.wellFormed = true → decode (encode i) = .ok i

theorem RoundTrip.of_loose {i : Instr} (h : decodeLoose (encode i) = .ok (i, [])) : RoundTrip.Statement i := by
  intro hw
  have hd : i.details = [] := by
    simp only [Instr.wellFormed, Bool.and_eq_true, List.isEmpty_iff] at hw
    exact hw.2
  simp [decode, h, hd, lowest]

theorem RoundTrip.of_event {i : Instr} (h : i.isWord = false) : RoundTrip.Statement i := by
  intro hw
  simp [Instr.wellFormed, h] at hw

theorem RoundTrip.add p t u : RoundTrip.Statement (.add p t u) := RoundTrip.of_loose (by
  show decodeLoose (0x0#7 ++ p ++ t ++ u ++ 0x0#5) = _
  rw [op_00 _ (by simp (disch := decide) only [ext_app_hi, ext_all, Nat.reduceSub]; rfl)]
  simp (disch := decide) only [decode00, ext_app_hi, ext_app_lo, ext_all, noTarget, codeZero, Sys2Proof.z, Nat.reduceSub, BitVec.reduceExtractLsb', BitVec.reduceToNat]
  try rfl)
theorem RoundTrip.sub p t u : RoundTrip.Statement (.sub p t u) := RoundTrip.of_loose (by
  show decodeLoose (0x0#7 ++ p ++ t ++ u ++ 0x1#5) = _
  rw [op_00 _ (by simp (disch := decide) only [ext_app_hi, ext_all, Nat.reduceSub]; rfl)]
  simp (disch := decide) only [decode00, ext_app_hi, ext_app_lo, ext_all, noTarget, codeZero, Sys2Proof.z, Nat.reduceSub, BitVec.reduceExtractLsb', BitVec.reduceToNat]
  try rfl)
theorem RoundTrip.mul p t u : RoundTrip.Statement (.mul p t u) := RoundTrip.of_loose (by
  show decodeLoose (0x0#7 ++ p ++ t ++ u ++ 0x2#5) = _
  rw [op_00 _ (by simp (disch := decide) only [ext_app_hi, ext_all, Nat.reduceSub]; rfl)]
  simp (disch := decide) only [decode00, ext_app_hi, ext_app_lo, ext_all, noTarget, codeZero, Sys2Proof.z, Nat.reduceSub, BitVec.reduceExtractLsb', BitVec.reduceToNat]
  try rfl)
theorem RoundTrip.mulh p t u : RoundTrip.Statement (.mulh p t u) := RoundTrip.of_loose (by
  show decodeLoose (0x0#7 ++ p ++ t ++ u ++ 0x3#5) = _
  rw [op_00 _ (by simp (disch := decide) only [ext_app_hi, ext_all, Nat.reduceSub]; rfl)]
  simp (disch := decide) only [decode00, ext_app_hi, ext_app_lo, ext_all, noTarget, codeZero, Sys2Proof.z, Nat.reduceSub, BitVec.reduceExtractLsb', BitVec.reduceToNat]
  try rfl)
theorem RoundTrip.mulhz p t u : RoundTrip.Statement (.mulhz p t u) := RoundTrip.of_loose (by
  show decodeLoose (0x0#7 ++ p ++ t ++ u ++ 0x4#5) = _
  rw [op_00 _ (by simp (disch := decide) only [ext_app_hi, ext_all, Nat.reduceSub]; rfl)]
  simp (disch := decide) only [decode00, ext_app_hi, ext_app_lo, ext_all, noTarget, codeZero, Sys2Proof.z, Nat.reduceSub, BitVec.reduceExtractLsb', BitVec.reduceToNat]
  try rfl)
theorem RoundTrip.div p t u : RoundTrip.Statement (.div p t u) := RoundTrip.of_loose (by
  show decodeLoose (0x0#7 ++ p ++ t ++ u ++ 0x5#5) = _
  rw [op_00 _ (by simp (disch := decide) only [ext_app_hi, ext_all, Nat.reduceSub]; rfl)]
  simp (disch := decide) only [decode00, ext_app_hi, ext_app_lo, ext_all, noTarget, codeZero, Sys2Proof.z, Nat.reduceSub, BitVec.reduceExtractLsb', BitVec.reduceToNat]
  try rfl)
theorem RoundTrip.divz p t u : RoundTrip.Statement (.divz p t u) := RoundTrip.of_loose (by
  show decodeLoose (0x0#7 ++ p ++ t ++ u ++ 0x6#5) = _
  rw [op_00 _ (by simp (disch := decide) only [ext_app_hi, ext_all, Nat.reduceSub]; rfl)]
  simp (disch := decide) only [decode00, ext_app_hi, ext_app_lo, ext_all, noTarget, codeZero, Sys2Proof.z, Nat.reduceSub, BitVec.reduceExtractLsb', BitVec.reduceToNat]
  try rfl)
theorem RoundTrip.rem p t u : RoundTrip.Statement (.rem p t u) := RoundTrip.of_loose (by
  show decodeLoose (0x0#7 ++ p ++ t ++ u ++ 0x7#5) = _
  rw [op_00 _ (by simp (disch := decide) only [ext_app_hi, ext_all, Nat.reduceSub]; rfl)]
  simp (disch := decide) only [decode00, ext_app_hi, ext_app_lo, ext_all, noTarget, codeZero, Sys2Proof.z, Nat.reduceSub, BitVec.reduceExtractLsb', BitVec.reduceToNat]
  try rfl)
theorem RoundTrip.remz p t u : RoundTrip.Statement (.remz p t u) := RoundTrip.of_loose (by
  show decodeLoose (0x0#7 ++ p ++ t ++ u ++ 0x8#5) = _
  rw [op_00 _ (by simp (disch := decide) only [ext_app_hi, ext_all, Nat.reduceSub]; rfl)]
  simp (disch := decide) only [decode00, ext_app_hi, ext_app_lo, ext_all, noTarget, codeZero, Sys2Proof.z, Nat.reduceSub, BitVec.reduceExtractLsb', BitVec.reduceToNat]
  try rfl)
theorem RoundTrip.and p t u : RoundTrip.Statement (.and p t u) := RoundTrip.of_loose (by
  show decodeLoose (0x0#7 ++ p ++ t ++ u ++ 0x9#5) = _
  rw [op_00 _ (by simp (disch := decide) only [ext_app_hi, ext_all, Nat.reduceSub]; rfl)]
  simp (disch := decide) only [decode00, ext_app_hi, ext_app_lo, ext_all, noTarget, codeZero, Sys2Proof.z, Nat.reduceSub, BitVec.reduceExtractLsb', BitVec.reduceToNat]
  try rfl)
theorem RoundTrip.or p t u : RoundTrip.Statement (.or p t u) := RoundTrip.of_loose (by
  show decodeLoose (0x0#7 ++ p ++ t ++ u ++ 0xA#5) = _
  rw [op_00 _ (by simp (disch := decide) only [ext_app_hi, ext_all, Nat.reduceSub]; rfl)]
  simp (disch := decide) only [decode00, ext_app_hi, ext_app_lo, ext_all, noTarget, codeZero, Sys2Proof.z, Nat.reduceSub, BitVec.reduceExtractLsb', BitVec.reduceToNat]
  try rfl)
theorem RoundTrip.xor p t u : RoundTrip.Statement (.xor p t u) := RoundTrip.of_loose (by
  show decodeLoose (0x0#7 ++ p ++ t ++ u ++ 0xB#5) = _
  rw [op_00 _ (by simp (disch := decide) only [ext_app_hi, ext_all, Nat.reduceSub]; rfl)]
  simp (disch := decide) only [decode00, ext_app_hi, ext_app_lo, ext_all, noTarget, codeZero, Sys2Proof.z, Nat.reduceSub, BitVec.reduceExtractLsb', BitVec.reduceToNat]
  try rfl)
theorem RoundTrip.andn p t u : RoundTrip.Statement (.andn p t u) := RoundTrip.of_loose (by
  show decodeLoose (0x0#7 ++ p ++ t ++ u ++ 0xC#5) = _
  rw [op_00 _ (by simp (disch := decide) only [ext_app_hi, ext_all, Nat.reduceSub]; rfl)]
  simp (disch := decide) only [decode00, ext_app_hi, ext_app_lo, ext_all, noTarget, codeZero, Sys2Proof.z, Nat.reduceSub, BitVec.reduceExtractLsb', BitVec.reduceToNat]
  try rfl)
theorem RoundTrip.orn p t u : RoundTrip.Statement (.orn p t u) := RoundTrip.of_loose (by
  show decodeLoose (0x0#7 ++ p ++ t ++ u ++ 0xD#5) = _
  rw [op_00 _ (by simp (disch := decide) only [ext_app_hi, ext_all, Nat.reduceSub]; rfl)]
  simp (disch := decide) only [decode00, ext_app_hi, ext_app_lo, ext_all, noTarget, codeZero, Sys2Proof.z, Nat.reduceSub, BitVec.reduceExtractLsb', BitVec.reduceToNat]
  try rfl)
theorem RoundTrip.shl p t u : RoundTrip.Statement (.shl p t u) := RoundTrip.of_loose (by
  show decodeLoose (0x0#7 ++ p ++ t ++ u ++ 0xE#5) = _
  rw [op_00 _ (by simp (disch := decide) only [ext_app_hi, ext_all, Nat.reduceSub]; rfl)]
  simp (disch := decide) only [decode00, ext_app_hi, ext_app_lo, ext_all, noTarget, codeZero, Sys2Proof.z, Nat.reduceSub, BitVec.reduceExtractLsb', BitVec.reduceToNat]
  try rfl)
theorem RoundTrip.shr p t u : RoundTrip.Statement (.shr p t u) := RoundTrip.of_loose (by
  show decodeLoose (0x0#7 ++ p ++ t ++ u ++ 0xF#5) = _
  rw [op_00 _ (by simp (disch := decide) only [ext_app_hi, ext_all, Nat.reduceSub]; rfl)]
  simp (disch := decide) only [decode00, ext_app_hi, ext_app_lo, ext_all, noTarget, codeZero, Sys2Proof.z, Nat.reduceSub, BitVec.reduceExtractLsb', BitVec.reduceToNat]
  try rfl)
theorem RoundTrip.sar p t u : RoundTrip.Statement (.sar p t u) := RoundTrip.of_loose (by
  show decodeLoose (0x0#7 ++ p ++ t ++ u ++ 0x10#5) = _
  rw [op_00 _ (by simp (disch := decide) only [ext_app_hi, ext_all, Nat.reduceSub]; rfl)]
  simp (disch := decide) only [decode00, ext_app_hi, ext_app_lo, ext_all, noTarget, codeZero, Sys2Proof.z, Nat.reduceSub, BitVec.reduceExtractLsb', BitVec.reduceToNat]
  try rfl)
theorem RoundTrip.ror p t u : RoundTrip.Statement (.ror p t u) := RoundTrip.of_loose (by
  show decodeLoose (0x0#7 ++ p ++ t ++ u ++ 0x11#5) = _
  rw [op_00 _ (by simp (disch := decide) only [ext_app_hi, ext_all, Nat.reduceSub]; rfl)]
  simp (disch := decide) only [decode00, ext_app_hi, ext_app_lo, ext_all, noTarget, codeZero, Sys2Proof.z, Nat.reduceSub, BitVec.reduceExtractLsb', BitVec.reduceToNat]
  try rfl)
theorem RoundTrip.min p t u : RoundTrip.Statement (.min p t u) := RoundTrip.of_loose (by
  show decodeLoose (0x0#7 ++ p ++ t ++ u ++ 0x12#5) = _
  rw [op_00 _ (by simp (disch := decide) only [ext_app_hi, ext_all, Nat.reduceSub]; rfl)]
  simp (disch := decide) only [decode00, ext_app_hi, ext_app_lo, ext_all, noTarget, codeZero, Sys2Proof.z, Nat.reduceSub, BitVec.reduceExtractLsb', BitVec.reduceToNat]
  try rfl)
theorem RoundTrip.max p t u : RoundTrip.Statement (.max p t u) := RoundTrip.of_loose (by
  show decodeLoose (0x0#7 ++ p ++ t ++ u ++ 0x13#5) = _
  rw [op_00 _ (by simp (disch := decide) only [ext_app_hi, ext_all, Nat.reduceSub]; rfl)]
  simp (disch := decide) only [decode00, ext_app_hi, ext_app_lo, ext_all, noTarget, codeZero, Sys2Proof.z, Nat.reduceSub, BitVec.reduceExtractLsb', BitVec.reduceToNat]
  try rfl)
theorem RoundTrip.minz p t u : RoundTrip.Statement (.minz p t u) := RoundTrip.of_loose (by
  show decodeLoose (0x0#7 ++ p ++ t ++ u ++ 0x14#5) = _
  rw [op_00 _ (by simp (disch := decide) only [ext_app_hi, ext_all, Nat.reduceSub]; rfl)]
  simp (disch := decide) only [decode00, ext_app_hi, ext_app_lo, ext_all, noTarget, codeZero, Sys2Proof.z, Nat.reduceSub, BitVec.reduceExtractLsb', BitVec.reduceToNat]
  try rfl)
theorem RoundTrip.maxz p t u : RoundTrip.Statement (.maxz p t u) := RoundTrip.of_loose (by
  show decodeLoose (0x0#7 ++ p ++ t ++ u ++ 0x15#5) = _
  rw [op_00 _ (by simp (disch := decide) only [ext_app_hi, ext_all, Nat.reduceSub]; rfl)]
  simp (disch := decide) only [decode00, ext_app_hi, ext_app_lo, ext_all, noTarget, codeZero, Sys2Proof.z, Nat.reduceSub, BitVec.reduceExtractLsb', BitVec.reduceToNat]
  try rfl)
theorem RoundTrip.mov p t u : RoundTrip.Statement (.mov p t u) := RoundTrip.of_loose (by
  show decodeLoose (0x0#7 ++ p ++ t ++ u ++ 0x16#5) = _
  rw [op_00 _ (by simp (disch := decide) only [ext_app_hi, ext_all, Nat.reduceSub]; rfl)]
  simp (disch := decide) only [decode00, ext_app_hi, ext_app_lo, ext_all, noTarget, codeZero, Sys2Proof.z, Nat.reduceSub, BitVec.reduceExtractLsb', BitVec.reduceToNat]
  try rfl)
theorem RoundTrip.clz p t u : RoundTrip.Statement (.clz p t u) := RoundTrip.of_loose (by
  show decodeLoose (0x0#7 ++ p ++ t ++ u ++ 0x17#5) = _
  rw [op_00 _ (by simp (disch := decide) only [ext_app_hi, ext_all, Nat.reduceSub]; rfl)]
  simp (disch := decide) only [decode00, ext_app_hi, ext_app_lo, ext_all, noTarget, codeZero, Sys2Proof.z, Nat.reduceSub, BitVec.reduceExtractLsb', BitVec.reduceToNat]
  try rfl)
theorem RoundTrip.ctz p t u : RoundTrip.Statement (.ctz p t u) := RoundTrip.of_loose (by
  show decodeLoose (0x0#7 ++ p ++ t ++ u ++ 0x18#5) = _
  rw [op_00 _ (by simp (disch := decide) only [ext_app_hi, ext_all, Nat.reduceSub]; rfl)]
  simp (disch := decide) only [decode00, ext_app_hi, ext_app_lo, ext_all, noTarget, codeZero, Sys2Proof.z, Nat.reduceSub, BitVec.reduceExtractLsb', BitVec.reduceToNat]
  try rfl)
theorem RoundTrip.popc p t u : RoundTrip.Statement (.popc p t u) := RoundTrip.of_loose (by
  show decodeLoose (0x0#7 ++ p ++ t ++ u ++ 0x19#5) = _
  rw [op_00 _ (by simp (disch := decide) only [ext_app_hi, ext_all, Nat.reduceSub]; rfl)]
  simp (disch := decide) only [decode00, ext_app_hi, ext_app_lo, ext_all, noTarget, codeZero, Sys2Proof.z, Nat.reduceSub, BitVec.reduceExtractLsb', BitVec.reduceToNat]
  try rfl)
theorem RoundTrip.brev p t u : RoundTrip.Statement (.brev p t u) := RoundTrip.of_loose (by
  show decodeLoose (0x0#7 ++ p ++ t ++ u ++ 0x1A#5) = _
  rw [op_00 _ (by simp (disch := decide) only [ext_app_hi, ext_all, Nat.reduceSub]; rfl)]
  simp (disch := decide) only [decode00, ext_app_hi, ext_app_lo, ext_all, noTarget, codeZero, Sys2Proof.z, Nat.reduceSub, BitVec.reduceExtractLsb', BitVec.reduceToNat]
  try rfl)
theorem RoundTrip.ceq p t u : RoundTrip.Statement (.ceq p t u) := RoundTrip.of_loose (by
  show decodeLoose (0x1#7 ++ p ++ t ++ u ++ 0x0#5) = _
  rw [op_01 _ (by simp (disch := decide) only [ext_app_hi, ext_all, Nat.reduceSub]; rfl)]
  simp (disch := decide) only [decode01, ext_app_hi, ext_app_lo, ext_all, noTarget, codeZero, Sys2Proof.z, Nat.reduceSub, BitVec.reduceExtractLsb', BitVec.reduceToNat]
  try rfl)
theorem RoundTrip.cne p t u : RoundTrip.Statement (.cne p t u) := RoundTrip.of_loose (by
  show decodeLoose (0x1#7 ++ p ++ t ++ u ++ 0x1#5) = _
  rw [op_01 _ (by simp (disch := decide) only [ext_app_hi, ext_all, Nat.reduceSub]; rfl)]
  simp (disch := decide) only [decode01, ext_app_hi, ext_app_lo, ext_all, noTarget, codeZero, Sys2Proof.z, Nat.reduceSub, BitVec.reduceExtractLsb', BitVec.reduceToNat]
  try rfl)
theorem RoundTrip.clt p t u : RoundTrip.Statement (.clt p t u) := RoundTrip.of_loose (by
  show decodeLoose (0x1#7 ++ p ++ t ++ u ++ 0x2#5) = _
  rw [op_01 _ (by simp (disch := decide) only [ext_app_hi, ext_all, Nat.reduceSub]; rfl)]
  simp (disch := decide) only [decode01, ext_app_hi, ext_app_lo, ext_all, noTarget, codeZero, Sys2Proof.z, Nat.reduceSub, BitVec.reduceExtractLsb', BitVec.reduceToNat]
  try rfl)
theorem RoundTrip.cle p t u : RoundTrip.Statement (.cle p t u) := RoundTrip.of_loose (by
  show decodeLoose (0x1#7 ++ p ++ t ++ u ++ 0x3#5) = _
  rw [op_01 _ (by simp (disch := decide) only [ext_app_hi, ext_all, Nat.reduceSub]; rfl)]
  simp (disch := decide) only [decode01, ext_app_hi, ext_app_lo, ext_all, noTarget, codeZero, Sys2Proof.z, Nat.reduceSub, BitVec.reduceExtractLsb', BitVec.reduceToNat]
  try rfl)
theorem RoundTrip.cltz p t u : RoundTrip.Statement (.cltz p t u) := RoundTrip.of_loose (by
  show decodeLoose (0x1#7 ++ p ++ t ++ u ++ 0x4#5) = _
  rw [op_01 _ (by simp (disch := decide) only [ext_app_hi, ext_all, Nat.reduceSub]; rfl)]
  simp (disch := decide) only [decode01, ext_app_hi, ext_app_lo, ext_all, noTarget, codeZero, Sys2Proof.z, Nat.reduceSub, BitVec.reduceExtractLsb', BitVec.reduceToNat]
  try rfl)
theorem RoundTrip.clez p t u : RoundTrip.Statement (.clez p t u) := RoundTrip.of_loose (by
  show decodeLoose (0x1#7 ++ p ++ t ++ u ++ 0x5#5) = _
  rw [op_01 _ (by simp (disch := decide) only [ext_app_hi, ext_all, Nat.reduceSub]; rfl)]
  simp (disch := decide) only [decode01, ext_app_hi, ext_app_lo, ext_all, noTarget, codeZero, Sys2Proof.z, Nat.reduceSub, BitVec.reduceExtractLsb', BitVec.reduceToNat]
  try rfl)
theorem RoundTrip.addi p i t : RoundTrip.Statement (.addi p i t) := RoundTrip.of_loose (by
  show decodeLoose (0x10#7 ++ p ++ i ++ t) = _
  rw [op_10 _ (by simp (disch := decide) only [ext_app_hi, ext_all, Nat.reduceSub]; rfl)]
  simp (disch := decide) only [ext_app_hi, ext_app_lo, ext_all, noTarget, codeZero, Sys2Proof.z, Nat.reduceSub, BitVec.reduceExtractLsb', BitVec.reduceToNat]
  try rfl)
theorem RoundTrip.muli p i t : RoundTrip.Statement (.muli p i t) := RoundTrip.of_loose (by
  show decodeLoose (0x11#7 ++ p ++ i ++ t) = _
  rw [op_11 _ (by simp (disch := decide) only [ext_app_hi, ext_all, Nat.reduceSub]; rfl)]
  simp (disch := decide) only [ext_app_hi, ext_app_lo, ext_all, noTarget, codeZero, Sys2Proof.z, Nat.reduceSub, BitVec.reduceExtractLsb', BitVec.reduceToNat]
  try rfl)
theorem RoundTrip.andi p i t : RoundTrip.Statement (.andi p i t) := RoundTrip.of_loose (by
  show decodeLoose (0x12#7 ++ p ++ i ++ t) = _
  rw [op_12 _ (by simp (disch := decide) only [ext_app_hi, ext_all, Nat.reduceSub]; rfl)]
  simp (disch := decide) only [ext_app_hi, ext_app_lo, ext_all, noTarget, codeZero, Sys2Proof.z, Nat.reduceSub, BitVec.reduceExtractLsb', BitVec.reduceToNat]
  try rfl)
theorem RoundTrip.ori p i t : RoundTrip.Statement (.ori p i t) := RoundTrip.of_loose (by
  show decodeLoose (0x13#7 ++ p ++ i ++ t) = _
  rw [op_13 _ (by simp (disch := decide) only [ext_app_hi, ext_all, Nat.reduceSub]; rfl)]
  simp (disch := decide) only [ext_app_hi, ext_app_lo, ext_all, noTarget, codeZero, Sys2Proof.z, Nat.reduceSub, BitVec.reduceExtractLsb', BitVec.reduceToNat]
  try rfl)
theorem RoundTrip.xori p i t : RoundTrip.Statement (.xori p i t) := RoundTrip.of_loose (by
  show decodeLoose (0x14#7 ++ p ++ i ++ t) = _
  rw [op_14 _ (by simp (disch := decide) only [ext_app_hi, ext_all, Nat.reduceSub]; rfl)]
  simp (disch := decide) only [ext_app_hi, ext_app_lo, ext_all, noTarget, codeZero, Sys2Proof.z, Nat.reduceSub, BitVec.reduceExtractLsb', BitVec.reduceToNat]
  try rfl)
theorem RoundTrip.shli p k t : RoundTrip.Statement (.shli p k t) := RoundTrip.of_loose (by
  show decodeLoose (0x15#7 ++ p ++ 0x0#8 ++ k ++ t) = _
  rw [op_15 _ (by simp (disch := decide) only [ext_app_hi, ext_all, Nat.reduceSub]; rfl)]
  simp (disch := decide) only [ext_app_hi, ext_app_lo, ext_all, noTarget, codeZero, Sys2Proof.z, Nat.reduceSub, BitVec.reduceExtractLsb', BitVec.reduceToNat]
  try rfl)
theorem RoundTrip.shri p k t : RoundTrip.Statement (.shri p k t) := RoundTrip.of_loose (by
  show decodeLoose (0x16#7 ++ p ++ 0x0#8 ++ k ++ t) = _
  rw [op_16 _ (by simp (disch := decide) only [ext_app_hi, ext_all, Nat.reduceSub]; rfl)]
  simp (disch := decide) only [ext_app_hi, ext_app_lo, ext_all, noTarget, codeZero, Sys2Proof.z, Nat.reduceSub, BitVec.reduceExtractLsb', BitVec.reduceToNat]
  try rfl)
theorem RoundTrip.sari p k t : RoundTrip.Statement (.sari p k t) := RoundTrip.of_loose (by
  show decodeLoose (0x17#7 ++ p ++ 0x0#8 ++ k ++ t) = _
  rw [op_17 _ (by simp (disch := decide) only [ext_app_hi, ext_all, Nat.reduceSub]; rfl)]
  simp (disch := decide) only [ext_app_hi, ext_app_lo, ext_all, noTarget, codeZero, Sys2Proof.z, Nat.reduceSub, BitVec.reduceExtractLsb', BitVec.reduceToNat]
  try rfl)
theorem RoundTrip.ceqi p i t : RoundTrip.Statement (.ceqi p i t) := RoundTrip.of_loose (by
  show decodeLoose (0x18#7 ++ p ++ i ++ t) = _
  rw [op_18 _ (by simp (disch := decide) only [ext_app_hi, ext_all, Nat.reduceSub]; rfl)]
  simp (disch := decide) only [ext_app_hi, ext_app_lo, ext_all, noTarget, codeZero, Sys2Proof.z, Nat.reduceSub, BitVec.reduceExtractLsb', BitVec.reduceToNat]
  try rfl)
theorem RoundTrip.cnei p i t : RoundTrip.Statement (.cnei p i t) := RoundTrip.of_loose (by
  show decodeLoose (0x19#7 ++ p ++ i ++ t) = _
  rw [op_19 _ (by simp (disch := decide) only [ext_app_hi, ext_all, Nat.reduceSub]; rfl)]
  simp (disch := decide) only [ext_app_hi, ext_app_lo, ext_all, noTarget, codeZero, Sys2Proof.z, Nat.reduceSub, BitVec.reduceExtractLsb', BitVec.reduceToNat]
  try rfl)
theorem RoundTrip.clti p i t : RoundTrip.Statement (.clti p i t) := RoundTrip.of_loose (by
  show decodeLoose (0x1A#7 ++ p ++ i ++ t) = _
  rw [op_1A _ (by simp (disch := decide) only [ext_app_hi, ext_all, Nat.reduceSub]; rfl)]
  simp (disch := decide) only [ext_app_hi, ext_app_lo, ext_all, noTarget, codeZero, Sys2Proof.z, Nat.reduceSub, BitVec.reduceExtractLsb', BitVec.reduceToNat]
  try rfl)
theorem RoundTrip.clei p i t : RoundTrip.Statement (.clei p i t) := RoundTrip.of_loose (by
  show decodeLoose (0x1B#7 ++ p ++ i ++ t) = _
  rw [op_1B _ (by simp (disch := decide) only [ext_app_hi, ext_all, Nat.reduceSub]; rfl)]
  simp (disch := decide) only [ext_app_hi, ext_app_lo, ext_all, noTarget, codeZero, Sys2Proof.z, Nat.reduceSub, BitVec.reduceExtractLsb', BitVec.reduceToNat]
  try rfl)
theorem RoundTrip.cltzi p i t : RoundTrip.Statement (.cltzi p i t) := RoundTrip.of_loose (by
  show decodeLoose (0x1C#7 ++ p ++ i ++ t) = _
  rw [op_1C _ (by simp (disch := decide) only [ext_app_hi, ext_all, Nat.reduceSub]; rfl)]
  simp (disch := decide) only [ext_app_hi, ext_app_lo, ext_all, noTarget, codeZero, Sys2Proof.z, Nat.reduceSub, BitVec.reduceExtractLsb', BitVec.reduceToNat]
  try rfl)
theorem RoundTrip.clezi p i t : RoundTrip.Statement (.clezi p i t) := RoundTrip.of_loose (by
  show decodeLoose (0x1D#7 ++ p ++ i ++ t) = _
  rw [op_1D _ (by simp (disch := decide) only [ext_app_hi, ext_all, Nat.reduceSub]; rfl)]
  simp (disch := decide) only [ext_app_hi, ext_app_lo, ext_all, noTarget, codeZero, Sys2Proof.z, Nat.reduceSub, BitVec.reduceExtractLsb', BitVec.reduceToNat]
  try rfl)
theorem RoundTrip.lea p s o t : RoundTrip.Statement (.lea p s o t) := RoundTrip.of_loose (by
  show decodeLoose (0x1E#7 ++ p ++ s ++ o ++ t) = _
  rw [op_1E _ (by simp (disch := decide) only [ext_app_hi, ext_all, Nat.reduceSub]; rfl)]
  simp (disch := decide) only [ext_app_hi, ext_app_lo, ext_all, noTarget, codeZero, Sys2Proof.z, Nat.reduceSub, BitVec.reduceExtractLsb', BitVec.reduceToNat]
  try rfl)
theorem RoundTrip.sext p n t : RoundTrip.Statement (.sext p n t) := RoundTrip.of_loose (by
  show decodeLoose (0x1F#7 ++ p ++ 0x0#8 ++ n ++ t) = _
  rw [op_1F _ (by simp (disch := decide) only [ext_app_hi, ext_all, Nat.reduceSub]; rfl)]
  simp (disch := decide) only [ext_app_hi, ext_app_lo, ext_all, noTarget, codeZero, Sys2Proof.z, Nat.reduceSub, BitVec.reduceExtractLsb', BitVec.reduceToNat]
  try rfl)
theorem RoundTrip.zext p n t : RoundTrip.Statement (.zext p n t) := RoundTrip.of_loose (by
  show decodeLoose (0x20#7 ++ p ++ 0x0#8 ++ n ++ t) = _
  rw [op_20 _ (by simp (disch := decide) only [ext_app_hi, ext_all, Nat.reduceSub]; rfl)]
  simp (disch := decide) only [ext_app_hi, ext_app_lo, ext_all, noTarget, codeZero, Sys2Proof.z, Nat.reduceSub, BitVec.reduceExtractLsb', BitVec.reduceToNat]
  try rfl)
theorem RoundTrip.extr p s o l t : RoundTrip.Statement (.extr p s o l t) := RoundTrip.of_loose (by
  show decodeLoose (0x21#7 ++ p ++ s ++ 0x0#1 ++ o ++ l ++ t) = _
  rw [op_21 _ (by simp (disch := decide) only [ext_app_hi, ext_all, Nat.reduceSub]; rfl)]
  simp (disch := decide) only [ext_app_hi, ext_app_lo, ext_all, noTarget, codeZero, Sys2Proof.z, Nat.reduceSub, BitVec.reduceExtractLsb', BitVec.reduceToNat]
  try rfl)
theorem RoundTrip.ins p o l t : RoundTrip.Statement (.ins p o l t) := RoundTrip.of_loose (by
  show decodeLoose (0x22#7 ++ p ++ 0x0#2 ++ o ++ l ++ t) = _
  rw [op_22 _ (by simp (disch := decide) only [ext_app_hi, ext_all, Nat.reduceSub]; rfl)]
  simp (disch := decide) only [ext_app_hi, ext_app_lo, ext_all, noTarget, codeZero, Sys2Proof.z, Nat.reduceSub, BitVec.reduceExtractLsb', BitVec.reduceToNat]
  try rfl)
theorem RoundTrip.constI t i : RoundTrip.Statement (.constI t i) := RoundTrip.of_loose (by
  show decodeLoose (0x30#7 ++ t ++ i) = _
  rw [op_30 _ (by simp (disch := decide) only [ext_app_hi, ext_all, Nat.reduceSub]; rfl)]
  simp (disch := decide) only [ext_app_hi, ext_app_lo, ext_all, noTarget, codeZero, Sys2Proof.z, Nat.reduceSub, BitVec.reduceExtractLsb', BitVec.reduceToNat]
  try rfl)
theorem RoundTrip.consth t i : RoundTrip.Statement (.consth t i) := RoundTrip.of_loose (by
  show decodeLoose (0x31#7 ++ t ++ i) = _
  rw [op_31 _ (by simp (disch := decide) only [ext_app_hi, ext_all, Nat.reduceSub]; rfl)]
  simp (disch := decide) only [ext_app_hi, ext_app_lo, ext_all, noTarget, codeZero, Sys2Proof.z, Nat.reduceSub, BitVec.reduceExtractLsb', BitVec.reduceToNat]
  try rfl)
theorem RoundTrip.get r u t : RoundTrip.Statement (.get r u t) := RoundTrip.of_loose (by
  show decodeLoose (0x32#7 ++ r ++ u ++ t) = _
  rw [op_32 _ (by simp (disch := decide) only [ext_app_hi, ext_all, Nat.reduceSub]; rfl)]
  simp (disch := decide) only [ext_app_hi, ext_app_lo, ext_all, noTarget, codeZero, Sys2Proof.z, Nat.reduceSub, BitVec.reduceExtractLsb', BitVec.reduceToNat]
  try rfl)
theorem RoundTrip.null p t u : RoundTrip.Statement (.null p t u) := RoundTrip.of_loose (by
  show decodeLoose (0x33#7 ++ p ++ t ++ u ++ 0x0#5) = _
  rw [op_33 _ (by simp (disch := decide) only [ext_app_hi, ext_all, Nat.reduceSub]; rfl)]
  simp (disch := decide) only [decode33, ext_app_hi, ext_app_lo, ext_all, noTarget, codeZero, Sys2Proof.z, Nat.reduceSub, BitVec.reduceExtractLsb', BitVec.reduceToNat]
  try rfl)
theorem RoundTrip.br p o : RoundTrip.Statement (.br p o) := RoundTrip.of_loose (by
  show decodeLoose (0x1C0#10 ++ p ++ o) = _
  rw [op_38 _ (by simp (disch := decide) only [ext_app_hi, ext_all, Nat.reduceSub]; rfl)]
  simp (disch := decide) only [decode38, ext_app_hi, ext_app_lo, ext_all, noTarget, codeZero, Sys2Proof.z, Nat.reduceSub, BitVec.reduceExtractLsb', BitVec.reduceToNat]
  try rfl)
theorem RoundTrip.bri p : RoundTrip.Statement (.bri p) := RoundTrip.of_loose (by
  show decodeLoose (0x1C1#10 ++ p ++ 0x0#20) = _
  rw [op_38 _ (by simp (disch := decide) only [ext_app_hi, ext_all, Nat.reduceSub]; rfl)]
  simp (disch := decide) only [decode38, ext_app_hi, ext_app_lo, ext_all, noTarget, codeZero, Sys2Proof.z, Nat.reduceSub, BitVec.reduceExtractLsb', BitVec.reduceToNat]
  try rfl)
theorem RoundTrip.call p o : RoundTrip.Statement (.call p o) := RoundTrip.of_loose (by
  show decodeLoose (0x1C2#10 ++ p ++ o) = _
  rw [op_38 _ (by simp (disch := decide) only [ext_app_hi, ext_all, Nat.reduceSub]; rfl)]
  simp (disch := decide) only [decode38, ext_app_hi, ext_app_lo, ext_all, noTarget, codeZero, Sys2Proof.z, Nat.reduceSub, BitVec.reduceExtractLsb', BitVec.reduceToNat]
  try rfl)
theorem RoundTrip.calli p : RoundTrip.Statement (.calli p) := RoundTrip.of_loose (by
  show decodeLoose (0x1C3#10 ++ p ++ 0x0#20) = _
  rw [op_38 _ (by simp (disch := decide) only [ext_app_hi, ext_all, Nat.reduceSub]; rfl)]
  simp (disch := decide) only [decode38, ext_app_hi, ext_app_lo, ext_all, noTarget, codeZero, Sys2Proof.z, Nat.reduceSub, BitVec.reduceExtractLsb', BitVec.reduceToNat]
  try rfl)
theorem RoundTrip.ret p : RoundTrip.Statement (.ret p) := RoundTrip.of_loose (by
  show decodeLoose (0x1C4#10 ++ p ++ 0x0#20) = _
  rw [op_38 _ (by simp (disch := decide) only [ext_app_hi, ext_all, Nat.reduceSub]; rfl)]
  simp (disch := decide) only [decode38, ext_app_hi, ext_app_lo, ext_all, noTarget, codeZero, Sys2Proof.z, Nat.reduceSub, BitVec.reduceExtractLsb', BitVec.reduceToNat]
  try rfl)
theorem RoundTrip.tend p : RoundTrip.Statement (.tend p) := RoundTrip.of_loose (by
  show decodeLoose (0x1C5#10 ++ p ++ 0x0#20) = _
  rw [op_38 _ (by simp (disch := decide) only [ext_app_hi, ext_all, Nat.reduceSub]; rfl)]
  simp (disch := decide) only [decode38, ext_app_hi, ext_app_lo, ext_all, noTarget, codeZero, Sys2Proof.z, Nat.reduceSub, BitVec.reduceExtractLsb', BitVec.reduceToNat]
  try rfl)
theorem RoundTrip.park p o : RoundTrip.Statement (.park p o) := RoundTrip.of_loose (by
  show decodeLoose (0x1C6#10 ++ p ++ o) = _
  rw [op_38 _ (by simp (disch := decide) only [ext_app_hi, ext_all, Nat.reduceSub]; rfl)]
  simp (disch := decide) only [decode38, ext_app_hi, ext_app_lo, ext_all, noTarget, codeZero, Sys2Proof.z, Nat.reduceSub, BitVec.reduceExtractLsb', BitVec.reduceToNat]
  try rfl)
theorem RoundTrip.tabort p : RoundTrip.Statement (.tabort p) := RoundTrip.of_loose (by
  show decodeLoose (0x1C7#10 ++ p ++ 0x0#20) = _
  rw [op_38 _ (by simp (disch := decide) only [ext_app_hi, ext_all, Nat.reduceSub]; rfl)]
  simp (disch := decide) only [decode38, ext_app_hi, ext_app_lo, ext_all, noTarget, codeZero, Sys2Proof.z, Nat.reduceSub, BitVec.reduceExtractLsb', BitVec.reduceToNat]
  try rfl)
theorem RoundTrip.ld p y d t : RoundTrip.Statement (.ld p y d t) := RoundTrip.of_loose (by
  show decodeLoose (0x40#7 ++ p ++ y ++ d ++ t) = _
  rw [op_40 _ (by simp (disch := decide) only [ext_app_hi, ext_all, Nat.reduceSub]; rfl)]
  simp (disch := decide) only [ext_app_hi, ext_app_lo, ext_all, noTarget, codeZero, Sys2Proof.z, Nat.reduceSub, BitVec.reduceExtractLsb', BitVec.reduceToNat]
  try rfl)
theorem RoundTrip.st p y d : RoundTrip.Statement (.st p y d) := RoundTrip.of_loose (by
  show decodeLoose (0x41#7 ++ p ++ y ++ d ++ 0x1FF#9) = _
  rw [op_41 _ (by simp (disch := decide) only [ext_app_hi, ext_all, Nat.reduceSub]; rfl)]
  simp (disch := decide) only [ext_app_hi, ext_app_lo, ext_all, noTarget, codeZero, Sys2Proof.z, Nat.reduceSub, BitVec.reduceExtractLsb', BitVec.reduceToNat]
  try rfl)
theorem RoundTrip.ldv p v d : RoundTrip.Statement (.ldv p v d) := RoundTrip.of_loose (by
  show decodeLoose (0x42#7 ++ p ++ 0x0#4 ++ v ++ d ++ 0x1FF#9) = _
  rw [op_42 _ (by simp (disch := decide) only [ext_app_hi, ext_all, Nat.reduceSub]; rfl)]
  simp (disch := decide) only [decode42, ext_app_hi, ext_app_lo, ext_all, noTarget, codeZero, Sys2Proof.z, Nat.reduceSub, BitVec.reduceExtractLsb', BitVec.reduceToNat]
  try rfl)
theorem RoundTrip.stv p v d : RoundTrip.Statement (.stv p v d) := RoundTrip.of_loose (by
  show decodeLoose (0x43#7 ++ p ++ 0x0#4 ++ v ++ d ++ 0x1FF#9) = _
  rw [op_43 _ (by simp (disch := decide) only [ext_app_hi, ext_all, Nat.reduceSub]; rfl)]
  simp (disch := decide) only [decode43, ext_app_hi, ext_app_lo, ext_all, noTarget, codeZero, Sys2Proof.z, Nat.reduceSub, BitVec.reduceExtractLsb', BitVec.reduceToNat]
  try rfl)
theorem RoundTrip.ldvs p y v : RoundTrip.Statement (.ldvs p y v) := RoundTrip.of_loose (by
  show decodeLoose (0x44#7 ++ p ++ y ++ v ++ 0x1FF#14) = _
  rw [op_44 _ (by simp (disch := decide) only [ext_app_hi, ext_all, Nat.reduceSub]; rfl)]
  simp (disch := decide) only [ext_app_hi, ext_app_lo, ext_all, noTarget, codeZero, Sys2Proof.z, Nat.reduceSub, BitVec.reduceExtractLsb', BitVec.reduceToNat]
  try rfl)
theorem RoundTrip.stvs p y v : RoundTrip.Statement (.stvs p y v) := RoundTrip.of_loose (by
  show decodeLoose (0x45#7 ++ p ++ y ++ v ++ 0x1FF#14) = _
  rw [op_45 _ (by simp (disch := decide) only [ext_app_hi, ext_all, Nat.reduceSub]; rfl)]
  simp (disch := decide) only [ext_app_hi, ext_app_lo, ext_all, noTarget, codeZero, Sys2Proof.z, Nat.reduceSub, BitVec.reduceExtractLsb', BitVec.reduceToNat]
  try rfl)
theorem RoundTrip.vgather p z s k : RoundTrip.Statement (.vgather p z s k) := RoundTrip.of_loose (by
  show decodeLoose (0x46#7 ++ p ++ 0x0#8 ++ z ++ s ++ k ++ 0x1FF#9) = _
  rw [op_46 _ (by simp (disch := decide) only [ext_app_hi, ext_all, Nat.reduceSub]; rfl)]
  simp (disch := decide) only [decode46, ext_app_hi, ext_app_lo, ext_all, noTarget, codeZero, Sys2Proof.z, Nat.reduceSub, BitVec.reduceExtractLsb', BitVec.reduceToNat]
  try rfl)
theorem RoundTrip.vscatter p z s k : RoundTrip.Statement (.vscatter p z s k) := RoundTrip.of_loose (by
  show decodeLoose (0x47#7 ++ p ++ 0x0#8 ++ z ++ s ++ k ++ 0x1FF#9) = _
  rw [op_47 _ (by simp (disch := decide) only [ext_app_hi, ext_all, Nat.reduceSub]; rfl)]
  simp (disch := decide) only [decode47, ext_app_hi, ext_app_lo, ext_all, noTarget, codeZero, Sys2Proof.z, Nat.reduceSub, BitVec.reduceExtractLsb', BitVec.reduceToNat]
  try rfl)
theorem RoundTrip.cmt p : RoundTrip.Statement (.cmt p) := RoundTrip.of_loose (by
  show decodeLoose (0x48#7 ++ p ++ 0x1FF#23) = _
  rw [op_48 _ (by simp (disch := decide) only [ext_app_hi, ext_all, Nat.reduceSub]; rfl)]
  simp (disch := decide) only [decode48, ext_app_hi, ext_app_lo, ext_all, noTarget, codeZero, Sys2Proof.z, Nat.reduceSub, BitVec.reduceExtractLsb', BitVec.reduceToNat]
  try rfl)
theorem RoundTrip.seal p : RoundTrip.Statement (.seal p) := RoundTrip.of_loose (by
  show decodeLoose (0x49#7 ++ p ++ 0x1FF#23) = _
  rw [op_49 _ (by simp (disch := decide) only [ext_app_hi, ext_all, Nat.reduceSub]; rfl)]
  simp (disch := decide) only [decode49, ext_app_hi, ext_app_lo, ext_all, noTarget, codeZero, Sys2Proof.z, Nat.reduceSub, BitVec.reduceExtractLsb', BitVec.reduceToNat]
  try rfl)
theorem RoundTrip.fenceAcq p s : RoundTrip.Statement (.fenceAcq p s) := RoundTrip.of_loose (by
  show decodeLoose (0x4A#7 ++ p ++ 0x0#11 ++ s ++ 0x1FF#9) = _
  rw [op_4A _ (by simp (disch := decide) only [ext_app_hi, ext_all, Nat.reduceSub]; rfl)]
  simp (disch := decide) only [decode4A, ext_app_hi, ext_app_lo, ext_all, noTarget, codeZero, Sys2Proof.z, Nat.reduceSub, BitVec.reduceExtractLsb', BitVec.reduceToNat]
  try rfl)
theorem RoundTrip.fenceRel p s : RoundTrip.Statement (.fenceRel p s) := RoundTrip.of_loose (by
  show decodeLoose (0x4A#7 ++ p ++ 0x80#11 ++ s ++ 0x1FF#9) = _
  rw [op_4A _ (by simp (disch := decide) only [ext_app_hi, ext_all, Nat.reduceSub]; rfl)]
  simp (disch := decide) only [decode4A, ext_app_hi, ext_app_lo, ext_all, noTarget, codeZero, Sys2Proof.z, Nat.reduceSub, BitVec.reduceExtractLsb', BitVec.reduceToNat]
  try rfl)
theorem RoundTrip.fenceSc p s : RoundTrip.Statement (.fenceSc p s) := RoundTrip.of_loose (by
  show decodeLoose (0x4A#7 ++ p ++ 0x100#11 ++ s ++ 0x1FF#9) = _
  rw [op_4A _ (by simp (disch := decide) only [ext_app_hi, ext_all, Nat.reduceSub]; rfl)]
  simp (disch := decide) only [decode4A, ext_app_hi, ext_app_lo, ext_all, noTarget, codeZero, Sys2Proof.z, Nat.reduceSub, BitVec.reduceExtractLsb', BitVec.reduceToNat]
  try rfl)
theorem RoundTrip.lprobe p t : RoundTrip.Statement (.lprobe p t) := RoundTrip.of_loose (by
  show decodeLoose (0x4B#7 ++ p ++ 0x0#14 ++ t) = _
  rw [op_4B _ (by simp (disch := decide) only [ext_app_hi, ext_all, Nat.reduceSub]; rfl)]
  simp (disch := decide) only [decode4B, ext_app_hi, ext_app_lo, ext_all, noTarget, codeZero, Sys2Proof.z, Nat.reduceSub, BitVec.reduceExtractLsb', BitVec.reduceToNat]
  try rfl)
theorem RoundTrip.amo p o w t : RoundTrip.Statement (.amo p o w t) := RoundTrip.of_loose (by
  show decodeLoose (0x50#7 ++ p ++ o ++ 0x0#9 ++ w ++ t) = _
  rw [op_50 _ (by simp (disch := decide) only [ext_app_hi, ext_all, Nat.reduceSub]; rfl)]
  simp (disch := decide) only [ext_app_hi, ext_app_lo, ext_all, noTarget, codeZero, Sys2Proof.z, Nat.reduceSub, BitVec.reduceExtractLsb', BitVec.reduceToNat]
  try rfl)
theorem RoundTrip.cas p w t : RoundTrip.Statement (.cas p w t) := RoundTrip.of_loose (by
  show decodeLoose (0x51#7 ++ p ++ 0x0#13 ++ w ++ t) = _
  rw [op_51 _ (by simp (disch := decide) only [ext_app_hi, ext_all, Nat.reduceSub]; rfl)]
  simp (disch := decide) only [decode51, ext_app_hi, ext_app_lo, ext_all, noTarget, codeZero, Sys2Proof.z, Nat.reduceSub, BitVec.reduceExtractLsb', BitVec.reduceToNat]
  try rfl)
theorem RoundTrip.red p o w : RoundTrip.Statement (.red p o w) := RoundTrip.of_loose (by
  show decodeLoose (0x52#7 ++ p ++ o ++ 0x0#9 ++ w ++ 0x1FF#9) = _
  rw [op_52 _ (by simp (disch := decide) only [ext_app_hi, ext_all, Nat.reduceSub]; rfl)]
  simp (disch := decide) only [ext_app_hi, ext_app_lo, ext_all, noTarget, codeZero, Sys2Proof.z, Nat.reduceSub, BitVec.reduceExtractLsb', BitVec.reduceToNat]
  try rfl)
theorem RoundTrip.redf p y : RoundTrip.Statement (.redf p y) := RoundTrip.of_loose (by
  show decodeLoose (0x53#7 ++ p ++ y ++ 0x1FF#19) = _
  rw [op_53 _ (by simp (disch := decide) only [ext_app_hi, ext_all, Nat.reduceSub]; rfl)]
  simp (disch := decide) only [ext_app_hi, ext_app_lo, ext_all, noTarget, codeZero, Sys2Proof.z, Nat.reduceSub, BitVec.reduceExtractLsb', BitVec.reduceToNat]
  try rfl)
theorem RoundTrip.cellinit p : RoundTrip.Statement (.cellinit p) := RoundTrip.of_loose (by
  show decodeLoose (0x54#7 ++ p ++ 0x1FF#23) = _
  rw [op_54 _ (by simp (disch := decide) only [ext_app_hi, ext_all, Nat.reduceSub]; rfl)]
  simp (disch := decide) only [decode54, ext_app_hi, ext_app_lo, ext_all, noTarget, codeZero, Sys2Proof.z, Nat.reduceSub, BitVec.reduceExtractLsb', BitVec.reduceToNat]
  try rfl)
theorem RoundTrip.cellrd p t : RoundTrip.Statement (.cellrd p t) := RoundTrip.of_loose (by
  show decodeLoose (0x55#7 ++ p ++ 0x0#14 ++ t) = _
  rw [op_55 _ (by simp (disch := decide) only [ext_app_hi, ext_all, Nat.reduceSub]; rfl)]
  simp (disch := decide) only [decode55, ext_app_hi, ext_app_lo, ext_all, noTarget, codeZero, Sys2Proof.z, Nat.reduceSub, BitVec.reduceExtractLsb', BitVec.reduceToNat]
  try rfl)
theorem RoundTrip.spawn p t : RoundTrip.Statement (.spawn p t) := RoundTrip.of_loose (by
  show decodeLoose (0x58#7 ++ p ++ 0x0#14 ++ t) = _
  rw [op_58 _ (by simp (disch := decide) only [ext_app_hi, ext_all, Nat.reduceSub]; rfl)]
  simp (disch := decide) only [decode58, ext_app_hi, ext_app_lo, ext_all, noTarget, codeZero, Sys2Proof.z, Nat.reduceSub, BitVec.reduceExtractLsb', BitVec.reduceToNat]
  try rfl)
theorem RoundTrip.dqpush p t : RoundTrip.Statement (.dqpush p t) := RoundTrip.of_loose (by
  show decodeLoose (0x59#7 ++ p ++ 0x0#14 ++ t) = _
  rw [op_59 _ (by simp (disch := decide) only [ext_app_hi, ext_all, Nat.reduceSub]; rfl)]
  simp (disch := decide) only [decode59, ext_app_hi, ext_app_lo, ext_all, noTarget, codeZero, Sys2Proof.z, Nat.reduceSub, BitVec.reduceExtractLsb', BitVec.reduceToNat]
  try rfl)
theorem RoundTrip.dqpop p t : RoundTrip.Statement (.dqpop p t) := RoundTrip.of_loose (by
  show decodeLoose (0x5A#7 ++ p ++ 0x0#14 ++ t) = _
  rw [op_5A _ (by simp (disch := decide) only [ext_app_hi, ext_all, Nat.reduceSub]; rfl)]
  simp (disch := decide) only [decode5A, ext_app_hi, ext_app_lo, ext_all, noTarget, codeZero, Sys2Proof.z, Nat.reduceSub, BitVec.reduceExtractLsb', BitVec.reduceToNat]
  try rfl)
theorem RoundTrip.qlen p k q t : RoundTrip.Statement (.qlen p k q t) := RoundTrip.of_loose (by
  show decodeLoose (0x5B#7 ++ p ++ 0x0#4 ++ k ++ 0x0#3 ++ q ++ t) = _
  rw [op_5B _ (by simp (disch := decide) only [ext_app_hi, ext_all, Nat.reduceSub]; rfl)]
  simp (disch := decide) only [decode5B, ext_app_hi, ext_app_lo, ext_all, noTarget, codeZero, Sys2Proof.z, Nat.reduceSub, BitVec.reduceExtractLsb', BitVec.reduceToNat]
  try rfl)
theorem RoundTrip.qrsv p k q t : RoundTrip.Statement (.qrsv p k q t) := RoundTrip.of_loose (by
  show decodeLoose (0x5C#7 ++ p ++ 0x0#4 ++ k ++ 0x0#3 ++ q ++ t) = _
  rw [op_5C _ (by simp (disch := decide) only [ext_app_hi, ext_all, Nat.reduceSub]; rfl)]
  simp (disch := decide) only [decode5C, ext_app_hi, ext_app_lo, ext_all, noTarget, codeZero, Sys2Proof.z, Nat.reduceSub, BitVec.reduceExtractLsb', BitVec.reduceToNat]
  try rfl)
theorem RoundTrip.semadd p t : RoundTrip.Statement (.semadd p t) := RoundTrip.of_loose (by
  show decodeLoose (0x5D#7 ++ p ++ 0x0#14 ++ t) = _
  rw [op_5D _ (by simp (disch := decide) only [ext_app_hi, ext_all, Nat.reduceSub]; rfl)]
  simp (disch := decide) only [decode5D, ext_app_hi, ext_app_lo, ext_all, noTarget, codeZero, Sys2Proof.z, Nat.reduceSub, BitVec.reduceExtractLsb', BitVec.reduceToNat]
  try rfl)
theorem RoundTrip.semset p : RoundTrip.Statement (.semset p) := RoundTrip.of_loose (by
  show decodeLoose (0x5E#7 ++ p ++ 0x1FF#23) = _
  rw [op_5E _ (by simp (disch := decide) only [ext_app_hi, ext_all, Nat.reduceSub]; rfl)]
  simp (disch := decide) only [decode5E, ext_app_hi, ext_app_lo, ext_all, noTarget, codeZero, Sys2Proof.z, Nat.reduceSub, BitVec.reduceExtractLsb', BitVec.reduceToNat]
  try rfl)
theorem RoundTrip.semrd p t : RoundTrip.Statement (.semrd p t) := RoundTrip.of_loose (by
  show decodeLoose (0x5F#7 ++ p ++ 0x0#14 ++ t) = _
  rw [op_5F _ (by simp (disch := decide) only [ext_app_hi, ext_all, Nat.reduceSub]; rfl)]
  simp (disch := decide) only [decode5F, ext_app_hi, ext_app_lo, ext_all, noTarget, codeZero, Sys2Proof.z, Nat.reduceSub, BitVec.reduceExtractLsb', BitVec.reduceToNat]
  try rfl)
theorem RoundTrip.vadd p d a b r y : RoundTrip.Statement (.vadd p d a b r y) := RoundTrip.of_loose (by
  show decodeLoose (0x60#7 ++ p ++ d ++ a ++ b ++ r ++ 0x0#2 ++ y) = _
  rw [op_60 _ (by simp (disch := decide) only [ext_app_hi, ext_all, Nat.reduceSub]; rfl)]
  simp (disch := decide) only [decode60, ext_app_hi, ext_app_lo, ext_all, noTarget, codeZero, Sys2Proof.z, Nat.reduceSub, BitVec.reduceExtractLsb', BitVec.reduceToNat]
  try rfl)
theorem RoundTrip.vsub p d a b r y : RoundTrip.Statement (.vsub p d a b r y) := RoundTrip.of_loose (by
  show decodeLoose (0x60#7 ++ p ++ d ++ a ++ b ++ r ++ 0x1#2 ++ y) = _
  rw [op_60 _ (by simp (disch := decide) only [ext_app_hi, ext_all, Nat.reduceSub]; rfl)]
  simp (disch := decide) only [decode60, ext_app_hi, ext_app_lo, ext_all, noTarget, codeZero, Sys2Proof.z, Nat.reduceSub, BitVec.reduceExtractLsb', BitVec.reduceToNat]
  try rfl)
theorem RoundTrip.vmul p d a b r y : RoundTrip.Statement (.vmul p d a b r y) := RoundTrip.of_loose (by
  show decodeLoose (0x60#7 ++ p ++ d ++ a ++ b ++ r ++ 0x2#2 ++ y) = _
  rw [op_60 _ (by simp (disch := decide) only [ext_app_hi, ext_all, Nat.reduceSub]; rfl)]
  simp (disch := decide) only [decode60, ext_app_hi, ext_app_lo, ext_all, noTarget, codeZero, Sys2Proof.z, Nat.reduceSub, BitVec.reduceExtractLsb', BitVec.reduceToNat]
  try rfl)
theorem RoundTrip.vdiv p d a b r y : RoundTrip.Statement (.vdiv p d a b r y) := RoundTrip.of_loose (by
  show decodeLoose (0x60#7 ++ p ++ d ++ a ++ b ++ r ++ 0x3#2 ++ y) = _
  rw [op_60 _ (by simp (disch := decide) only [ext_app_hi, ext_all, Nat.reduceSub]; rfl)]
  simp (disch := decide) only [decode60, ext_app_hi, ext_app_lo, ext_all, noTarget, codeZero, Sys2Proof.z, Nat.reduceSub, BitVec.reduceExtractLsb', BitVec.reduceToNat]
  try rfl)
theorem RoundTrip.vfma p d a b r y : RoundTrip.Statement (.vfma p d a b r y) := RoundTrip.of_loose (by
  show decodeLoose (0x61#7 ++ p ++ d ++ a ++ b ++ r ++ 0x0#2 ++ y) = _
  rw [op_61 _ (by simp (disch := decide) only [ext_app_hi, ext_all, Nat.reduceSub]; rfl)]
  simp (disch := decide) only [decode61, ext_app_hi, ext_app_lo, ext_all, noTarget, codeZero, Sys2Proof.z, Nat.reduceSub, BitVec.reduceExtractLsb', BitVec.reduceToNat]
  try rfl)
theorem RoundTrip.vfms p d a b r y : RoundTrip.Statement (.vfms p d a b r y) := RoundTrip.of_loose (by
  show decodeLoose (0x61#7 ++ p ++ d ++ a ++ b ++ r ++ 0x1#2 ++ y) = _
  rw [op_61 _ (by simp (disch := decide) only [ext_app_hi, ext_all, Nat.reduceSub]; rfl)]
  simp (disch := decide) only [decode61, ext_app_hi, ext_app_lo, ext_all, noTarget, codeZero, Sys2Proof.z, Nat.reduceSub, BitVec.reduceExtractLsb', BitVec.reduceToNat]
  try rfl)
theorem RoundTrip.vmin p d a b y : RoundTrip.Statement (.vmin p d a b y) := RoundTrip.of_loose (by
  show decodeLoose (0x61#7 ++ p ++ d ++ a ++ b ++ 0x2#4 ++ y) = _
  rw [op_61 _ (by simp (disch := decide) only [ext_app_hi, ext_all, Nat.reduceSub]; rfl)]
  simp (disch := decide) only [decode61, ext_app_hi, ext_app_lo, ext_all, noTarget, codeZero, Sys2Proof.z, Nat.reduceSub, BitVec.reduceExtractLsb', BitVec.reduceToNat]
  try rfl)
theorem RoundTrip.vmax p d a b y : RoundTrip.Statement (.vmax p d a b y) := RoundTrip.of_loose (by
  show decodeLoose (0x61#7 ++ p ++ d ++ a ++ b ++ 0x3#4 ++ y) = _
  rw [op_61 _ (by simp (disch := decide) only [ext_app_hi, ext_all, Nat.reduceSub]; rfl)]
  simp (disch := decide) only [decode61, ext_app_hi, ext_app_lo, ext_all, noTarget, codeZero, Sys2Proof.z, Nat.reduceSub, BitVec.reduceExtractLsb', BitVec.reduceToNat]
  try rfl)
theorem RoundTrip.vabs p d a y : RoundTrip.Statement (.vabs p d a y) := RoundTrip.of_loose (by
  show decodeLoose (0x62#7 ++ p ++ d ++ a ++ 0x0#9 ++ y) = _
  rw [op_62 _ (by simp (disch := decide) only [ext_app_hi, ext_all, Nat.reduceSub]; rfl)]
  simp (disch := decide) only [decode62, ext_app_hi, ext_app_lo, ext_all, noTarget, codeZero, Sys2Proof.z, Nat.reduceSub, BitVec.reduceExtractLsb', BitVec.reduceToNat]
  try rfl)
theorem RoundTrip.vneg p d a y : RoundTrip.Statement (.vneg p d a y) := RoundTrip.of_loose (by
  show decodeLoose (0x62#7 ++ p ++ d ++ a ++ 0x1#9 ++ y) = _
  rw [op_62 _ (by simp (disch := decide) only [ext_app_hi, ext_all, Nat.reduceSub]; rfl)]
  simp (disch := decide) only [decode62, ext_app_hi, ext_app_lo, ext_all, noTarget, codeZero, Sys2Proof.z, Nat.reduceSub, BitVec.reduceExtractLsb', BitVec.reduceToNat]
  try rfl)
theorem RoundTrip.vsqrt p d a r y : RoundTrip.Statement (.vsqrt p d a r y) := RoundTrip.of_loose (by
  show decodeLoose (0x62#7 ++ p ++ d ++ a ++ 0x0#5 ++ r ++ 0x2#2 ++ y) = _
  rw [op_62 _ (by simp (disch := decide) only [ext_app_hi, ext_all, Nat.reduceSub]; rfl)]
  simp (disch := decide) only [decode62, ext_app_hi, ext_app_lo, ext_all, noTarget, codeZero, Sys2Proof.z, Nat.reduceSub, BitVec.reduceExtractLsb', BitVec.reduceToNat]
  try rfl)
theorem RoundTrip.vrcp p d a r y : RoundTrip.Statement (.vrcp p d a r y) := RoundTrip.of_loose (by
  show decodeLoose (0x62#7 ++ p ++ d ++ a ++ 0x0#5 ++ r ++ 0x3#2 ++ y) = _
  rw [op_62 _ (by simp (disch := decide) only [ext_app_hi, ext_all, Nat.reduceSub]; rfl)]
  simp (disch := decide) only [decode62, ext_app_hi, ext_app_lo, ext_all, noTarget, codeZero, Sys2Proof.z, Nat.reduceSub, BitVec.reduceExtractLsb', BitVec.reduceToNat]
  try rfl)
theorem RoundTrip.vrsq p d a r y : RoundTrip.Statement (.vrsq p d a r y) := RoundTrip.of_loose (by
  show decodeLoose (0x63#7 ++ p ++ d ++ a ++ 0x0#5 ++ r ++ 0x0#2 ++ y) = _
  rw [op_63 _ (by simp (disch := decide) only [ext_app_hi, ext_all, Nat.reduceSub]; rfl)]
  simp (disch := decide) only [decode63, ext_app_hi, ext_app_lo, ext_all, noTarget, codeZero, Sys2Proof.z, Nat.reduceSub, BitVec.reduceExtractLsb', BitVec.reduceToNat]
  try rfl)
theorem RoundTrip.vexp2 p d a r y : RoundTrip.Statement (.vexp2 p d a r y) := RoundTrip.of_loose (by
  show decodeLoose (0x63#7 ++ p ++ d ++ a ++ 0x0#5 ++ r ++ 0x1#2 ++ y) = _
  rw [op_63 _ (by simp (disch := decide) only [ext_app_hi, ext_all, Nat.reduceSub]; rfl)]
  simp (disch := decide) only [decode63, ext_app_hi, ext_app_lo, ext_all, noTarget, codeZero, Sys2Proof.z, Nat.reduceSub, BitVec.reduceExtractLsb', BitVec.reduceToNat]
  try rfl)
theorem RoundTrip.vlog2 p d a r y : RoundTrip.Statement (.vlog2 p d a r y) := RoundTrip.of_loose (by
  show decodeLoose (0x63#7 ++ p ++ d ++ a ++ 0x0#5 ++ r ++ 0x2#2 ++ y) = _
  rw [op_63 _ (by simp (disch := decide) only [ext_app_hi, ext_all, Nat.reduceSub]; rfl)]
  simp (disch := decide) only [decode63, ext_app_hi, ext_app_lo, ext_all, noTarget, codeZero, Sys2Proof.z, Nat.reduceSub, BitVec.reduceExtractLsb', BitVec.reduceToNat]
  try rfl)
theorem RoundTrip.vcmp p d a b c y : RoundTrip.Statement (.vcmp p d a b c y) := RoundTrip.of_loose (by
  show decodeLoose (0x64#7 ++ p ++ d ++ a ++ b ++ c ++ 0x0#2 ++ y) = _
  rw [op_64 _ (by simp (disch := decide) only [ext_app_hi, ext_all, Nat.reduceSub]; rfl)]
  simp (disch := decide) only [decode64, ext_app_hi, ext_app_lo, ext_all, noTarget, codeZero, Sys2Proof.z, Nat.reduceSub, BitVec.reduceExtractLsb', BitVec.reduceToNat]
  try rfl)
theorem RoundTrip.vsel p d a b y : RoundTrip.Statement (.vsel p d a b y) := RoundTrip.of_loose (by
  show decodeLoose (0x65#7 ++ p ++ d ++ a ++ b ++ 0x0#4 ++ y) = _
  rw [op_65 _ (by simp (disch := decide) only [ext_app_hi, ext_all, Nat.reduceSub]; rfl)]
  simp (disch := decide) only [decode65, ext_app_hi, ext_app_lo, ext_all, noTarget, codeZero, Sys2Proof.z, Nat.reduceSub, BitVec.reduceExtractLsb', BitVec.reduceToNat]
  try rfl)
theorem RoundTrip.vand p d a b y : RoundTrip.Statement (.vand p d a b y) := RoundTrip.of_loose (by
  show decodeLoose (0x65#7 ++ p ++ d ++ a ++ b ++ 0x1#4 ++ y) = _
  rw [op_65 _ (by simp (disch := decide) only [ext_app_hi, ext_all, Nat.reduceSub]; rfl)]
  simp (disch := decide) only [decode65, ext_app_hi, ext_app_lo, ext_all, noTarget, codeZero, Sys2Proof.z, Nat.reduceSub, BitVec.reduceExtractLsb', BitVec.reduceToNat]
  try rfl)
theorem RoundTrip.vor p d a b y : RoundTrip.Statement (.vor p d a b y) := RoundTrip.of_loose (by
  show decodeLoose (0x65#7 ++ p ++ d ++ a ++ b ++ 0x2#4 ++ y) = _
  rw [op_65 _ (by simp (disch := decide) only [ext_app_hi, ext_all, Nat.reduceSub]; rfl)]
  simp (disch := decide) only [decode65, ext_app_hi, ext_app_lo, ext_all, noTarget, codeZero, Sys2Proof.z, Nat.reduceSub, BitVec.reduceExtractLsb', BitVec.reduceToNat]
  try rfl)
theorem RoundTrip.vxor p d a b y : RoundTrip.Statement (.vxor p d a b y) := RoundTrip.of_loose (by
  show decodeLoose (0x65#7 ++ p ++ d ++ a ++ b ++ 0x3#4 ++ y) = _
  rw [op_65 _ (by simp (disch := decide) only [ext_app_hi, ext_all, Nat.reduceSub]; rfl)]
  simp (disch := decide) only [decode65, ext_app_hi, ext_app_lo, ext_all, noTarget, codeZero, Sys2Proof.z, Nat.reduceSub, BitVec.reduceExtractLsb', BitVec.reduceToNat]
  try rfl)
theorem RoundTrip.vnot p d a y : RoundTrip.Statement (.vnot p d a y) := RoundTrip.of_loose (by
  show decodeLoose (0x66#7 ++ p ++ d ++ a ++ 0x0#9 ++ y) = _
  rw [op_66 _ (by simp (disch := decide) only [ext_app_hi, ext_all, Nat.reduceSub]; rfl)]
  simp (disch := decide) only [decode66, ext_app_hi, ext_app_lo, ext_all, noTarget, codeZero, Sys2Proof.z, Nat.reduceSub, BitVec.reduceExtractLsb', BitVec.reduceToNat]
  try rfl)
theorem RoundTrip.vshl p d a b y : RoundTrip.Statement (.vshl p d a b y) := RoundTrip.of_loose (by
  show decodeLoose (0x66#7 ++ p ++ d ++ a ++ b ++ 0x1#4 ++ y) = _
  rw [op_66 _ (by simp (disch := decide) only [ext_app_hi, ext_all, Nat.reduceSub]; rfl)]
  simp (disch := decide) only [decode66, ext_app_hi, ext_app_lo, ext_all, noTarget, codeZero, Sys2Proof.z, Nat.reduceSub, BitVec.reduceExtractLsb', BitVec.reduceToNat]
  try rfl)
theorem RoundTrip.vshr p d a b y : RoundTrip.Statement (.vshr p d a b y) := RoundTrip.of_loose (by
  show decodeLoose (0x66#7 ++ p ++ d ++ a ++ b ++ 0x2#4 ++ y) = _
  rw [op_66 _ (by simp (disch := decide) only [ext_app_hi, ext_all, Nat.reduceSub]; rfl)]
  simp (disch := decide) only [decode66, ext_app_hi, ext_app_lo, ext_all, noTarget, codeZero, Sys2Proof.z, Nat.reduceSub, BitVec.reduceExtractLsb', BitVec.reduceToNat]
  try rfl)
theorem RoundTrip.vsar p d a b y : RoundTrip.Statement (.vsar p d a b y) := RoundTrip.of_loose (by
  show decodeLoose (0x66#7 ++ p ++ d ++ a ++ b ++ 0x3#4 ++ y) = _
  rw [op_66 _ (by simp (disch := decide) only [ext_app_hi, ext_all, Nat.reduceSub]; rfl)]
  simp (disch := decide) only [decode66, ext_app_hi, ext_app_lo, ext_all, noTarget, codeZero, Sys2Proof.z, Nat.reduceSub, BitVec.reduceExtractLsb', BitVec.reduceToNat]
  try rfl)
theorem RoundTrip.viadd p d a b y : RoundTrip.Statement (.viadd p d a b y) := RoundTrip.of_loose (by
  show decodeLoose (0x67#7 ++ p ++ d ++ a ++ b ++ 0x0#4 ++ y) = _
  rw [op_67 _ (by simp (disch := decide) only [ext_app_hi, ext_all, Nat.reduceSub]; rfl)]
  simp (disch := decide) only [decode67, ext_app_hi, ext_app_lo, ext_all, noTarget, codeZero, Sys2Proof.z, Nat.reduceSub, BitVec.reduceExtractLsb', BitVec.reduceToNat]
  try rfl)
theorem RoundTrip.visub p d a b y : RoundTrip.Statement (.visub p d a b y) := RoundTrip.of_loose (by
  show decodeLoose (0x67#7 ++ p ++ d ++ a ++ b ++ 0x1#4 ++ y) = _
  rw [op_67 _ (by simp (disch := decide) only [ext_app_hi, ext_all, Nat.reduceSub]; rfl)]
  simp (disch := decide) only [decode67, ext_app_hi, ext_app_lo, ext_all, noTarget, codeZero, Sys2Proof.z, Nat.reduceSub, BitVec.reduceExtractLsb', BitVec.reduceToNat]
  try rfl)
theorem RoundTrip.vimul p d a b y : RoundTrip.Statement (.vimul p d a b y) := RoundTrip.of_loose (by
  show decodeLoose (0x67#7 ++ p ++ d ++ a ++ b ++ 0x2#4 ++ y) = _
  rw [op_67 _ (by simp (disch := decide) only [ext_app_hi, ext_all, Nat.reduceSub]; rfl)]
  simp (disch := decide) only [decode67, ext_app_hi, ext_app_lo, ext_all, noTarget, codeZero, Sys2Proof.z, Nat.reduceSub, BitVec.reduceExtractLsb', BitVec.reduceToNat]
  try rfl)
theorem RoundTrip.vcvt p d a s r y : RoundTrip.Statement (.vcvt p d a s r y) := RoundTrip.of_loose (by
  show decodeLoose (0x68#7 ++ p ++ d ++ a ++ 0x0#1 ++ s ++ r ++ 0x0#2 ++ y) = _
  rw [op_68 _ (by simp (disch := decide) only [ext_app_hi, ext_all, Nat.reduceSub]; rfl)]
  simp (disch := decide) only [decode68, ext_app_hi, ext_app_lo, ext_all, noTarget, codeZero, Sys2Proof.z, Nat.reduceSub, BitVec.reduceExtractLsb', BitVec.reduceToNat]
  try rfl)
theorem RoundTrip.vqnt p d a b n y : RoundTrip.Statement (.vqnt p d a b n y) := RoundTrip.of_loose (by
  show decodeLoose (0x69#7 ++ p ++ d ++ a ++ b ++ n ++ 0x0#2 ++ y) = _
  rw [op_69 _ (by simp (disch := decide) only [ext_app_hi, ext_all, Nat.reduceSub]; rfl)]
  simp (disch := decide) only [decode69, ext_app_hi, ext_app_lo, ext_all, noTarget, codeZero, Sys2Proof.z, Nat.reduceSub, BitVec.reduceExtractLsb', BitVec.reduceToNat]
  try rfl)
theorem RoundTrip.vdqnt p d a b n y : RoundTrip.Statement (.vdqnt p d a b n y) := RoundTrip.of_loose (by
  show decodeLoose (0x69#7 ++ p ++ d ++ a ++ b ++ n ++ 0x1#2 ++ y) = _
  rw [op_69 _ (by simp (disch := decide) only [ext_app_hi, ext_all, Nat.reduceSub]; rfl)]
  simp (disch := decide) only [decode69, ext_app_hi, ext_app_lo, ext_all, noTarget, codeZero, Sys2Proof.z, Nat.reduceSub, BitVec.reduceExtractLsb', BitVec.reduceToNat]
  try rfl)
theorem RoundTrip.vred p y a r o t : RoundTrip.Statement (.vred p y a r o t) := RoundTrip.of_loose (by
  show decodeLoose (0x6A#7 ++ p ++ 0x0#1 ++ y ++ a ++ r ++ o ++ t) = _
  rw [op_6A _ (by simp (disch := decide) only [ext_app_hi, ext_all, Nat.reduceSub]; rfl)]
  simp (disch := decide) only [ext_app_hi, ext_app_lo, ext_all, noTarget, codeZero, Sys2Proof.z, Nat.reduceSub, BitVec.reduceExtractLsb', BitVec.reduceToNat]
  try rfl)
theorem RoundTrip.vbcast p d a m y : RoundTrip.Statement (.vbcast p d a m y) := RoundTrip.of_loose (by
  show decodeLoose (0x6B#7 ++ p ++ d ++ a ++ 0x0#5 ++ m ++ 0x0#2 ++ y) = _
  rw [op_6B _ (by simp (disch := decide) only [ext_app_hi, ext_all, Nat.reduceSub]; rfl)]
  simp (disch := decide) only [decode6B, ext_app_hi, ext_app_lo, ext_all, noTarget, codeZero, Sys2Proof.z, Nat.reduceSub, BitVec.reduceExtractLsb', BitVec.reduceToNat]
  try rfl)
theorem RoundTrip.vshuf p d a b y : RoundTrip.Statement (.vshuf p d a b y) := RoundTrip.of_loose (by
  show decodeLoose (0x6C#7 ++ p ++ d ++ a ++ b ++ 0x0#4 ++ y) = _
  rw [op_6C _ (by simp (disch := decide) only [ext_app_hi, ext_all, Nat.reduceSub]; rfl)]
  simp (disch := decide) only [decode6C, ext_app_hi, ext_app_lo, ext_all, noTarget, codeZero, Sys2Proof.z, Nat.reduceSub, BitVec.reduceExtractLsb', BitVec.reduceToNat]
  try rfl)
theorem RoundTrip.vext p y a t : RoundTrip.Statement (.vext p y a t) := RoundTrip.of_loose (by
  show decodeLoose (0x6D#7 ++ p ++ 0x0#1 ++ y ++ a ++ 0x0#4 ++ t) = _
  rw [op_6D _ (by simp (disch := decide) only [ext_app_hi, ext_all, Nat.reduceSub]; rfl)]
  simp (disch := decide) only [decode6D, ext_app_hi, ext_app_lo, ext_all, noTarget, codeZero, Sys2Proof.z, Nat.reduceSub, BitVec.reduceExtractLsb', BitVec.reduceToNat]
  try rfl)
theorem RoundTrip.vins p d y : RoundTrip.Statement (.vins p d y) := RoundTrip.of_loose (by
  show decodeLoose (0x6E#7 ++ p ++ d ++ 0x0#14 ++ y) = _
  rw [op_6E _ (by simp (disch := decide) only [ext_app_hi, ext_all, Nat.reduceSub]; rfl)]
  simp (disch := decide) only [decode6E, ext_app_hi, ext_app_lo, ext_all, noTarget, codeZero, Sys2Proof.z, Nat.reduceSub, BitVec.reduceExtractLsb', BitVec.reduceToNat]
  try rfl)
theorem RoundTrip.vmov p d a : RoundTrip.Statement (.vmov p d a) := RoundTrip.of_loose (by
  show decodeLoose (0x6E#7 ++ p ++ d ++ a ++ 0x10#13) = _
  rw [op_6E _ (by simp (disch := decide) only [ext_app_hi, ext_all, Nat.reduceSub]; rfl)]
  simp (disch := decide) only [decode6E, ext_app_hi, ext_app_lo, ext_all, noTarget, codeZero, Sys2Proof.z, Nat.reduceSub, BitVec.reduceExtractLsb', BitVec.reduceToNat]
  try rfl)
theorem RoundTrip.vzero p d : RoundTrip.Statement (.vzero p d) := RoundTrip.of_loose (by
  show decodeLoose (0x6E#7 ++ p ++ d ++ 0x20#18) = _
  rw [op_6E _ (by simp (disch := decide) only [ext_app_hi, ext_all, Nat.reduceSub]; rfl)]
  simp (disch := decide) only [decode6E, ext_app_hi, ext_app_lo, ext_all, noTarget, codeZero, Sys2Proof.z, Nat.reduceSub, BitVec.reduceExtractLsb', BitVec.reduceToNat]
  try rfl)
theorem RoundTrip.mmac p s k : RoundTrip.Statement (.mmac p s k) := RoundTrip.of_loose (by
  show decodeLoose (0x70#7 ++ p ++ 0x0#10 ++ s ++ k ++ 0x1FF#9) = _
  rw [op_70 _ (by simp (disch := decide) only [ext_app_hi, ext_all, Nat.reduceSub]; rfl)]
  simp (disch := decide) only [decode70, ext_app_hi, ext_app_lo, ext_all, noTarget, codeZero, Sys2Proof.z, Nat.reduceSub, BitVec.reduceExtractLsb', BitVec.reduceToNat]
  try rfl)
theorem RoundTrip.minit p s k : RoundTrip.Statement (.minit p s k) := RoundTrip.of_loose (by
  show decodeLoose (0x71#7 ++ p ++ 0x0#10 ++ s ++ k ++ 0x1FF#9) = _
  rw [op_71 _ (by simp (disch := decide) only [ext_app_hi, ext_all, Nat.reduceSub]; rfl)]
  simp (disch := decide) only [decode71, ext_app_hi, ext_app_lo, ext_all, noTarget, codeZero, Sys2Proof.z, Nat.reduceSub, BitVec.reduceExtractLsb', BitVec.reduceToNat]
  try rfl)
theorem RoundTrip.mdrain p s k : RoundTrip.Statement (.mdrain p s k) := RoundTrip.of_loose (by
  show decodeLoose (0x71#7 ++ p ++ 0x40#10 ++ s ++ k ++ 0x1FF#9) = _
  rw [op_71 _ (by simp (disch := decide) only [ext_app_hi, ext_all, Nat.reduceSub]; rfl)]
  simp (disch := decide) only [decode71, ext_app_hi, ext_app_lo, ext_all, noTarget, codeZero, Sys2Proof.z, Nat.reduceSub, BitVec.reduceExtractLsb', BitVec.reduceToNat]
  try rfl)
theorem RoundTrip.mbudget p : RoundTrip.Statement (.mbudget p) := RoundTrip.of_loose (by
  show decodeLoose (0x72#7 ++ p ++ 0x1FF#23) = _
  rw [op_72 _ (by simp (disch := decide) only [ext_app_hi, ext_all, Nat.reduceSub]; rfl)]
  simp (disch := decide) only [decode72, ext_app_hi, ext_app_lo, ext_all, noTarget, codeZero, Sys2Proof.z, Nat.reduceSub, BitVec.reduceExtractLsb', BitVec.reduceToNat]
  try rfl)
theorem RoundTrip.mstat p e t : RoundTrip.Statement (.mstat p e t) := RoundTrip.of_loose (by
  show decodeLoose (0x72#7 ++ p ++ 0x100#12 ++ e ++ t) = _
  rw [op_72 _ (by simp (disch := decide) only [ext_app_hi, ext_all, Nat.reduceSub]; rfl)]
  simp (disch := decide) only [decode72, ext_app_hi, ext_app_lo, ext_all, noTarget, codeZero, Sys2Proof.z, Nat.reduceSub, BitVec.reduceExtractLsb', BitVec.reduceToNat]
  try rfl)
theorem RoundTrip.mgang p s k : RoundTrip.Statement (.mgang p s k) := RoundTrip.of_loose (by
  show decodeLoose (0x73#7 ++ p ++ 0x0#10 ++ s ++ k ++ 0x1FF#9) = _
  rw [op_73 _ (by simp (disch := decide) only [ext_app_hi, ext_all, Nat.reduceSub]; rfl)]
  simp (disch := decide) only [decode73, ext_app_hi, ext_app_lo, ext_all, noTarget, codeZero, Sys2Proof.z, Nat.reduceSub, BitVec.reduceExtractLsb', BitVec.reduceToNat]
  try rfl)
theorem RoundTrip.mgrant p s k : RoundTrip.Statement (.mgrant p s k) := RoundTrip.of_loose (by
  show decodeLoose (0x73#7 ++ p ++ 0x40#10 ++ s ++ k ++ 0x1FF#9) = _
  rw [op_73 _ (by simp (disch := decide) only [ext_app_hi, ext_all, Nat.reduceSub]; rfl)]
  simp (disch := decide) only [decode73, ext_app_hi, ext_app_lo, ext_all, noTarget, codeZero, Sys2Proof.z, Nat.reduceSub, BitVec.reduceExtractLsb', BitVec.reduceToNat]
  try rfl)
theorem RoundTrip.spat p s k : RoundTrip.Statement (.spat p s k) := RoundTrip.of_loose (by
  show decodeLoose (0x74#7 ++ p ++ 0x0#10 ++ s ++ k ++ 0x1FF#9) = _
  rw [op_74 _ (by simp (disch := decide) only [ext_app_hi, ext_all, Nat.reduceSub]; rfl)]
  simp (disch := decide) only [decode74, ext_app_hi, ext_app_lo, ext_all, noTarget, codeZero, Sys2Proof.z, Nat.reduceSub, BitVec.reduceExtractLsb', BitVec.reduceToNat]
  try rfl)
theorem RoundTrip.sstart p s k : RoundTrip.Statement (.sstart p s k) := RoundTrip.of_loose (by
  show decodeLoose (0x74#7 ++ p ++ 0x40#10 ++ s ++ k ++ 0x1FF#9) = _
  rw [op_74 _ (by simp (disch := decide) only [ext_app_hi, ext_all, Nat.reduceSub]; rfl)]
  simp (disch := decide) only [decode74, ext_app_hi, ext_app_lo, ext_all, noTarget, codeZero, Sys2Proof.z, Nat.reduceSub, BitVec.reduceExtractLsb', BitVec.reduceToNat]
  try rfl)
theorem RoundTrip.sacc p s k : RoundTrip.Statement (.sacc p s k) := RoundTrip.of_loose (by
  show decodeLoose (0x74#7 ++ p ++ 0x80#10 ++ s ++ k ++ 0x1FF#9) = _
  rw [op_74 _ (by simp (disch := decide) only [ext_app_hi, ext_all, Nat.reduceSub]; rfl)]
  simp (disch := decide) only [decode74, ext_app_hi, ext_app_lo, ext_all, noTarget, codeZero, Sys2Proof.z, Nat.reduceSub, BitVec.reduceExtractLsb', BitVec.reduceToNat]
  try rfl)
theorem RoundTrip.sstop p s k : RoundTrip.Statement (.sstop p s k) := RoundTrip.of_loose (by
  show decodeLoose (0x74#7 ++ p ++ 0xC0#10 ++ s ++ k ++ 0x1FF#9) = _
  rw [op_74 _ (by simp (disch := decide) only [ext_app_hi, ext_all, Nat.reduceSub]; rfl)]
  simp (disch := decide) only [decode74, ext_app_hi, ext_app_lo, ext_all, noTarget, codeZero, Sys2Proof.z, Nat.reduceSub, BitVec.reduceExtractLsb', BitVec.reduceToNat]
  try rfl)
theorem RoundTrip.sprog p t : RoundTrip.Statement (.sprog p t) := RoundTrip.of_loose (by
  show decodeLoose (0x74#7 ++ p ++ 0x1000#14 ++ t) = _
  rw [op_74 _ (by simp (disch := decide) only [ext_app_hi, ext_all, Nat.reduceSub]; rfl)]
  simp (disch := decide) only [decode74, ext_app_hi, ext_app_lo, ext_all, noTarget, codeZero, Sys2Proof.z, Nat.reduceSub, BitVec.reduceExtractLsb', BitVec.reduceToNat]
  try rfl)
theorem RoundTrip.copy p l k : RoundTrip.Statement (.copy p l k) := RoundTrip.of_loose (by
  show decodeLoose (0x75#7 ++ p ++ 0x0#6 ++ l ++ 0x0#1 ++ k ++ 0x1FF#9) = _
  rw [op_75 _ (by simp (disch := decide) only [ext_app_hi, ext_all, Nat.reduceSub]; rfl)]
  simp (disch := decide) only [decode75, ext_app_hi, ext_app_lo, ext_all, noTarget, codeZero, Sys2Proof.z, Nat.reduceSub, BitVec.reduceExtractLsb', BitVec.reduceToNat]
  try rfl)
theorem RoundTrip.copyD p s k : RoundTrip.Statement (.copyD p s k) := RoundTrip.of_loose (by
  show decodeLoose (0x75#7 ++ p ++ 0x10#10 ++ s ++ k ++ 0x1FF#9) = _
  rw [op_75 _ (by simp (disch := decide) only [ext_app_hi, ext_all, Nat.reduceSub]; rfl)]
  simp (disch := decide) only [decode75, ext_app_hi, ext_app_lo, ext_all, noTarget, codeZero, Sys2Proof.z, Nat.reduceSub, BitVec.reduceExtractLsb', BitVec.reduceToNat]
  try rfl)
theorem RoundTrip.copyQf p s k : RoundTrip.Statement (.copyQf p s k) := RoundTrip.of_loose (by
  show decodeLoose (0x75#7 ++ p ++ 0x20#10 ++ s ++ k ++ 0x1FF#9) = _
  rw [op_75 _ (by simp (disch := decide) only [ext_app_hi, ext_all, Nat.reduceSub]; rfl)]
  simp (disch := decide) only [decode75, ext_app_hi, ext_app_lo, ext_all, noTarget, codeZero, Sys2Proof.z, Nat.reduceSub, BitVec.reduceExtractLsb', BitVec.reduceToNat]
  try rfl)
theorem RoundTrip.copym p s k : RoundTrip.Statement (.copym p s k) := RoundTrip.of_loose (by
  show decodeLoose (0x75#7 ++ p ++ 0x40#10 ++ s ++ k ++ 0x1FF#9) = _
  rw [op_75 _ (by simp (disch := decide) only [ext_app_hi, ext_all, Nat.reduceSub]; rfl)]
  simp (disch := decide) only [decode75, ext_app_hi, ext_app_lo, ext_all, noTarget, codeZero, Sys2Proof.z, Nat.reduceSub, BitVec.reduceExtractLsb', BitVec.reduceToNat]
  try rfl)
theorem RoundTrip.tmove p s k : RoundTrip.Statement (.tmove p s k) := RoundTrip.of_loose (by
  show decodeLoose (0x75#7 ++ p ++ 0x80#10 ++ s ++ k ++ 0x1FF#9) = _
  rw [op_75 _ (by simp (disch := decide) only [ext_app_hi, ext_all, Nat.reduceSub]; rfl)]
  simp (disch := decide) only [decode75, ext_app_hi, ext_app_lo, ext_all, noTarget, codeZero, Sys2Proof.z, Nat.reduceSub, BitVec.reduceExtractLsb', BitVec.reduceToNat]
  try rfl)
theorem RoundTrip.tokrd p a k t : RoundTrip.Statement (.tokrd p a k t) := RoundTrip.of_loose (by
  show decodeLoose (0x76#7 ++ p ++ 0x0#10 ++ a ++ k ++ t) = _
  rw [op_76 _ (by simp (disch := decide) only [ext_app_hi, ext_all, Nat.reduceSub]; rfl)]
  simp (disch := decide) only [decode76, ext_app_hi, ext_app_lo, ext_all, noTarget, codeZero, Sys2Proof.z, Nat.reduceSub, BitVec.reduceExtractLsb', BitVec.reduceToNat]
  try rfl)
theorem RoundTrip.rboard p l s k : RoundTrip.Statement (.rboard p l s k) := RoundTrip.of_loose (by
  show decodeLoose (0x78#7 ++ p ++ 0x0#7 ++ l ++ s ++ k ++ 0x1FF#9) = _
  rw [op_78 _ (by simp (disch := decide) only [ext_app_hi, ext_all, Nat.reduceSub]; rfl)]
  simp (disch := decide) only [decode78, ext_app_hi, ext_app_lo, ext_all, noTarget, codeZero, Sys2Proof.z, Nat.reduceSub, BitVec.reduceExtractLsb', BitVec.reduceToNat]
  try rfl)
theorem RoundTrip.rdrop p s k : RoundTrip.Statement (.rdrop p s k) := RoundTrip.of_loose (by
  show decodeLoose (0x78#7 ++ p ++ 0x40#10 ++ s ++ k ++ 0x1FF#9) = _
  rw [op_78 _ (by simp (disch := decide) only [ext_app_hi, ext_all, Nat.reduceSub]; rfl)]
  simp (disch := decide) only [decode78, ext_app_hi, ext_app_lo, ext_all, noTarget, codeZero, Sys2Proof.z, Nat.reduceSub, BitVec.reduceExtractLsb', BitVec.reduceToNat]
  try rfl)
theorem RoundTrip.rwhere p l t : RoundTrip.Statement (.rwhere p l t) := RoundTrip.of_loose (by
  show decodeLoose (0x78#7 ++ p ++ 0x100#11 ++ l ++ t) = _
  rw [op_78 _ (by simp (disch := decide) only [ext_app_hi, ext_all, Nat.reduceSub]; rfl)]
  simp (disch := decide) only [decode78, ext_app_hi, ext_app_lo, ext_all, noTarget, codeZero, Sys2Proof.z, Nat.reduceSub, BitVec.reduceExtractLsb', BitVec.reduceToNat]
  try rfl)
theorem RoundTrip.rstat p t : RoundTrip.Statement (.rstat p t) := RoundTrip.of_loose (by
  show decodeLoose (0x78#7 ++ p ++ 0xC00#14 ++ t) = _
  rw [op_78 _ (by simp (disch := decide) only [ext_app_hi, ext_all, Nat.reduceSub]; rfl)]
  simp (disch := decide) only [decode78, ext_app_hi, ext_app_lo, ext_all, noTarget, codeZero, Sys2Proof.z, Nat.reduceSub, BitVec.reduceExtractLsb', BitVec.reduceToNat]
  try rfl)
theorem RoundTrip.rstatLane p l t : RoundTrip.Statement (.rstatLane p l t) := RoundTrip.of_loose (by
  show decodeLoose (0x78#7 ++ p ++ 0xC0#10 ++ l ++ 0x1#1 ++ t) = _
  rw [op_78 _ (by simp (disch := decide) only [ext_app_hi, ext_all, Nat.reduceSub]; rfl)]
  simp (disch := decide) only [decode78, ext_app_hi, ext_app_lo, ext_all, noTarget, codeZero, Sys2Proof.z, Nat.reduceSub, BitVec.reduceExtractLsb', BitVec.reduceToNat]
  try rfl)
theorem RoundTrip.rbind p l : RoundTrip.Statement (.rbind p l) := RoundTrip.of_loose (by
  show decodeLoose (0x79#7 ++ p ++ 0x0#11 ++ l ++ 0x1FF#9) = _
  rw [op_79 _ (by simp (disch := decide) only [ext_app_hi, ext_all, Nat.reduceSub]; rfl)]
  simp (disch := decide) only [decode79, ext_app_hi, ext_app_lo, ext_all, noTarget, codeZero, Sys2Proof.z, Nat.reduceSub, BitVec.reduceExtractLsb', BitVec.reduceToNat]
  try rfl)
theorem RoundTrip.rpace p l : RoundTrip.Statement (.rpace p l) := RoundTrip.of_loose (by
  show decodeLoose (0x79#7 ++ p ++ 0x80#11 ++ l ++ 0x1FF#9) = _
  rw [op_79 _ (by simp (disch := decide) only [ext_app_hi, ext_all, Nat.reduceSub]; rfl)]
  simp (disch := decide) only [decode79, ext_app_hi, ext_app_lo, ext_all, noTarget, codeZero, Sys2Proof.z, Nat.reduceSub, BitVec.reduceExtractLsb', BitVec.reduceToNat]
  try rfl)
theorem RoundTrip.xfence p m t : RoundTrip.Statement (.xfence p m t) := RoundTrip.of_loose (by
  show decodeLoose (0x7A#7 ++ p ++ 0x0#9 ++ m ++ t) = _
  rw [op_7A _ (by simp (disch := decide) only [ext_app_hi, ext_all, Nat.reduceSub]; rfl)]
  simp (disch := decide) only [decode7A, ext_app_hi, ext_app_lo, ext_all, noTarget, codeZero, Sys2Proof.z, Nat.reduceSub, BitVec.reduceExtractLsb', BitVec.reduceToNat]
  try rfl)
theorem RoundTrip.xwait p : RoundTrip.Statement (.xwait p) := RoundTrip.of_loose (by
  show decodeLoose (0x7A#7 ++ p ++ 0x801FF#23) = _
  rw [op_7A _ (by simp (disch := decide) only [ext_app_hi, ext_all, Nat.reduceSub]; rfl)]
  simp (disch := decide) only [decode7A, ext_app_hi, ext_app_lo, ext_all, noTarget, codeZero, Sys2Proof.z, Nat.reduceSub, BitVec.reduceExtractLsb', BitVec.reduceToNat]
  try rfl)
theorem RoundTrip.xsem p s k : RoundTrip.Statement (.xsem p s k) := RoundTrip.of_loose (by
  show decodeLoose (0x7A#7 ++ p ++ 0x80#10 ++ s ++ k ++ 0x1FF#9) = _
  rw [op_7A _ (by simp (disch := decide) only [ext_app_hi, ext_all, Nat.reduceSub]; rfl)]
  simp (disch := decide) only [decode7A, ext_app_hi, ext_app_lo, ext_all, noTarget, codeZero, Sys2Proof.z, Nat.reduceSub, BitVec.reduceExtractLsb', BitVec.reduceToNat]
  try rfl)
theorem RoundTrip.collReduce p m s k : RoundTrip.Statement (.collReduce p m s k) := RoundTrip.of_loose (by
  show decodeLoose (0x7B#7 ++ p ++ 0x0#6 ++ m ++ s ++ k ++ 0x1FF#9) = _
  rw [op_7B _ (by simp (disch := decide) only [ext_app_hi, ext_all, Nat.reduceSub]; rfl)]
  simp (disch := decide) only [decode7B, ext_app_hi, ext_app_lo, ext_all, noTarget, codeZero, Sys2Proof.z, Nat.reduceSub, BitVec.reduceExtractLsb', BitVec.reduceToNat]
  try rfl)
theorem RoundTrip.collBcast p m s k : RoundTrip.Statement (.collBcast p m s k) := RoundTrip.of_loose (by
  show decodeLoose (0x7B#7 ++ p ++ 0x4#6 ++ m ++ s ++ k ++ 0x1FF#9) = _
  rw [op_7B _ (by simp (disch := decide) only [ext_app_hi, ext_all, Nat.reduceSub]; rfl)]
  simp (disch := decide) only [decode7B, ext_app_hi, ext_app_lo, ext_all, noTarget, codeZero, Sys2Proof.z, Nat.reduceSub, BitVec.reduceExtractLsb', BitVec.reduceToNat]
  try rfl)
theorem RoundTrip.trap p n : RoundTrip.Statement (.trap p n) := RoundTrip.of_loose (by
  show decodeLoose (0x7C#7 ++ p ++ 0x0#10 ++ n ++ 0x1FF#9) = _
  rw [op_7C _ (by simp (disch := decide) only [ext_app_hi, ext_all, Nat.reduceSub]; rfl)]
  simp (disch := decide) only [decode7C, ext_app_hi, ext_app_lo, ext_all, noTarget, codeZero, Sys2Proof.z, Nat.reduceSub, BitVec.reduceExtractLsb', BitVec.reduceToNat]
  try rfl)
theorem RoundTrip.eretDiscard p r : RoundTrip.Statement (.eretDiscard p r) := RoundTrip.of_loose (by
  show decodeLoose (0x7C#7 ++ p ++ 0x80#11 ++ r ++ 0x1FF#11) = _
  rw [op_7C _ (by simp (disch := decide) only [ext_app_hi, ext_all, Nat.reduceSub]; rfl)]
  simp (disch := decide) only [decode7C, ext_app_hi, ext_app_lo, ext_all, noTarget, codeZero, Sys2Proof.z, Nat.reduceSub, BitVec.reduceExtractLsb', BitVec.reduceToNat]
  try rfl)
theorem RoundTrip.eretRetry p : RoundTrip.Statement (.eretRetry p) := RoundTrip.of_loose (by
  show decodeLoose (0x7C#7 ++ p ++ 0x803FF#23) = _
  rw [op_7C _ (by simp (disch := decide) only [ext_app_hi, ext_all, Nat.reduceSub]; rfl)]
  simp (disch := decide) only [decode7C, ext_app_hi, ext_app_lo, ext_all, noTarget, codeZero, Sys2Proof.z, Nat.reduceSub, BitVec.reduceExtractLsb', BitVec.reduceToNat]
  try rfl)
theorem RoundTrip.eretResume p : RoundTrip.Statement (.eretResume p) := RoundTrip.of_loose (by
  show decodeLoose (0x7C#7 ++ p ++ 0x805FF#23) = _
  rw [op_7C _ (by simp (disch := decide) only [ext_app_hi, ext_all, Nat.reduceSub]; rfl)]
  simp (disch := decide) only [decode7C, ext_app_hi, ext_app_lo, ext_all, noTarget, codeZero, Sys2Proof.z, Nat.reduceSub, BitVec.reduceExtractLsb', BitVec.reduceToNat]
  try rfl)
theorem RoundTrip.brk p g : RoundTrip.Statement (.brk p g) := RoundTrip.of_loose (by
  show decodeLoose (0x7C#7 ++ p ++ 0x8#6 ++ g ++ 0x1FF#9) = _
  rw [op_7C _ (by simp (disch := decide) only [ext_app_hi, ext_all, Nat.reduceSub]; rfl)]
  simp (disch := decide) only [decode7C, ext_app_hi, ext_app_lo, ext_all, noTarget, codeZero, Sys2Proof.z, Nat.reduceSub, BitVec.reduceExtractLsb', BitVec.reduceToNat]
  try rfl)
theorem RoundTrip.halt p : RoundTrip.Statement (.halt p) := RoundTrip.of_loose (by
  show decodeLoose (0x7C#7 ++ p ++ 0x1801FF#23) = _
  rw [op_7C _ (by simp (disch := decide) only [ext_app_hi, ext_all, Nat.reduceSub]; rfl)]
  simp (disch := decide) only [decode7C, ext_app_hi, ext_app_lo, ext_all, noTarget, codeZero, Sys2Proof.z, Nat.reduceSub, BitVec.reduceExtractLsb', BitVec.reduceToNat]
  try rfl)
theorem RoundTrip.csrr p c t : RoundTrip.Statement (.csrr p c t) := RoundTrip.of_loose (by
  show decodeLoose (0x7D#7 ++ p ++ 0x0#4 ++ c ++ t) = _
  rw [op_7D _ (by simp (disch := decide) only [ext_app_hi, ext_all, Nat.reduceSub]; rfl)]
  simp (disch := decide) only [decode7D, ext_app_hi, ext_app_lo, ext_all, noTarget, codeZero, Sys2Proof.z, Nat.reduceSub, BitVec.reduceExtractLsb', BitVec.reduceToNat]
  try rfl)
theorem RoundTrip.csrw p c : RoundTrip.Statement (.csrw p c) := RoundTrip.of_loose (by
  show decodeLoose (0x7D#7 ++ p ++ 0x1#4 ++ c ++ 0x1FF#9) = _
  rw [op_7D _ (by simp (disch := decide) only [ext_app_hi, ext_all, Nat.reduceSub]; rfl)]
  simp (disch := decide) only [decode7D, ext_app_hi, ext_app_lo, ext_all, noTarget, codeZero, Sys2Proof.z, Nat.reduceSub, BitVec.reduceExtractLsb', BitVec.reduceToNat]
  try rfl)
theorem RoundTrip.time p s t : RoundTrip.Statement (.time p s t) := RoundTrip.of_loose (by
  show decodeLoose (0x7D#7 ++ p ++ 0x400#13 ++ s ++ t) = _
  rw [op_7D _ (by simp (disch := decide) only [ext_app_hi, ext_all, Nat.reduceSub]; rfl)]
  simp (disch := decide) only [decode7D, ext_app_hi, ext_app_lo, ext_all, noTarget, codeZero, Sys2Proof.z, Nat.reduceSub, BitVec.reduceExtractLsb', BitVec.reduceToNat]
  try rfl)
theorem RoundTrip.moncfg p : RoundTrip.Statement (.moncfg p) := RoundTrip.of_loose (by
  show decodeLoose (0x7E#7 ++ p ++ 0x1FF#23) = _
  rw [op_7E _ (by simp (disch := decide) only [ext_app_hi, ext_all, Nat.reduceSub]; rfl)]
  simp (disch := decide) only [decode7E, ext_app_hi, ext_app_lo, ext_all, noTarget, codeZero, Sys2Proof.z, Nat.reduceSub, BitVec.reduceExtractLsb', BitVec.reduceToNat]
  try rfl)
theorem RoundTrip.monrd p i t : RoundTrip.Statement (.monrd p i t) := RoundTrip.of_loose (by
  show decodeLoose (0x7E#7 ++ p ++ 0x20#9 ++ i ++ t) = _
  rw [op_7E _ (by simp (disch := decide) only [ext_app_hi, ext_all, Nat.reduceSub]; rfl)]
  simp (disch := decide) only [decode7E, ext_app_hi, ext_app_lo, ext_all, noTarget, codeZero, Sys2Proof.z, Nat.reduceSub, BitVec.reduceExtractLsb', BitVec.reduceToNat]
  try rfl)
theorem RoundTrip.blockFetch x0 x1 : RoundTrip.Statement (.blockFetch x0 x1) := RoundTrip.of_event rfl
theorem RoundTrip.blockStart x0 x1 : RoundTrip.Statement (.blockStart x0 x1) := RoundTrip.of_event rfl
theorem RoundTrip.divideResult x0 x1 : RoundTrip.Statement (.divideResult x0 x1) := RoundTrip.of_event rfl
theorem RoundTrip.portPushPerform x0 x1 x2 : RoundTrip.Statement (.portPushPerform x0 x1 x2) := RoundTrip.of_event rfl
theorem RoundTrip.blockComplete x0 x1 : RoundTrip.Statement (.blockComplete x0 x1) := RoundTrip.of_event rfl
theorem RoundTrip.leaseLookupResult x0 x1 x2 : RoundTrip.Statement (.leaseLookupResult x0 x1 x2) := RoundTrip.of_event rfl
theorem RoundTrip.loadDataReturn x0 x1 x2 : RoundTrip.Statement (.loadDataReturn x0 x1 x2) := RoundTrip.of_event rfl
theorem RoundTrip.writeAck x0 x1 x2 : RoundTrip.Statement (.writeAck x0 x1 x2) := RoundTrip.of_event rfl
theorem RoundTrip.drainEntryPerform x0 x1 x2 : RoundTrip.Statement (.drainEntryPerform x0 x1 x2) := RoundTrip.of_event rfl
theorem RoundTrip.orderedCommit x0 x1 : RoundTrip.Statement (.orderedCommit x0 x1) := RoundTrip.of_event rfl
theorem RoundTrip.corePick x0 x1 : RoundTrip.Statement (.corePick x0 x1) := RoundTrip.of_event rfl
theorem RoundTrip.taskLaunch x0 x1 : RoundTrip.Statement (.taskLaunch x0 x1) := RoundTrip.of_event rfl
theorem RoundTrip.migrationStart x0 x1 x2 : RoundTrip.Statement (.migrationStart x0 x1 x2) := RoundTrip.of_event rfl
theorem RoundTrip.migrationCommit x0 : RoundTrip.Statement (.migrationCommit x0) := RoundTrip.of_event rfl
theorem RoundTrip.migrationTimeout x0 : RoundTrip.Statement (.migrationTimeout x0) := RoundTrip.of_event rfl
theorem RoundTrip.copyComplete x0 x1 : RoundTrip.Statement (.copyComplete x0 x1) := RoundTrip.of_event rfl
theorem RoundTrip.copyChunk x0 x1 : RoundTrip.Statement (.copyChunk x0 x1) := RoundTrip.of_event rfl
theorem RoundTrip.gatherElement x0 x1 : RoundTrip.Statement (.gatherElement x0 x1) := RoundTrip.of_event rfl
theorem RoundTrip.tmoveRow x0 x1 : RoundTrip.Statement (.tmoveRow x0 x1) := RoundTrip.of_event rfl
theorem RoundTrip.copymMmacPlace x0 x1 : RoundTrip.Statement (.copymMmacPlace x0 x1) := RoundTrip.of_event rfl
theorem RoundTrip.queueFenceComplete x0 x1 x2 : RoundTrip.Statement (.queueFenceComplete x0 x1 x2) := RoundTrip.of_event rfl
theorem RoundTrip.streamStart x0 x1 x2 x3 : RoundTrip.Statement (.streamStart x0 x1 x2 x3) := RoundTrip.of_event rfl
theorem RoundTrip.spatSlotWrite x0 x1 x2 : RoundTrip.Statement (.spatSlotWrite x0 x1 x2) := RoundTrip.of_event rfl
theorem RoundTrip.sstartComplete x0 x1 x2 : RoundTrip.Statement (.sstartComplete x0 x1 x2) := RoundTrip.of_event rfl
theorem RoundTrip.acceptComplete x0 x1 x2 : RoundTrip.Statement (.acceptComplete x0 x1 x2) := RoundTrip.of_event rfl
theorem RoundTrip.sstopHead x0 x1 x2 : RoundTrip.Statement (.sstopHead x0 x1 x2) := RoundTrip.of_event rfl
theorem RoundTrip.mmacHead x0 x1 : RoundTrip.Statement (.mmacHead x0 x1) := RoundTrip.of_event rfl
theorem RoundTrip.matrixLeaveGrant x0 x1 x2 : RoundTrip.Statement (.matrixLeaveGrant x0 x1 x2) := RoundTrip.of_event rfl
theorem RoundTrip.matrixAttemptStart x0 x1 : RoundTrip.Statement (.matrixAttemptStart x0 x1) := RoundTrip.of_event rfl
theorem RoundTrip.decryptTagCheck x0 x1 : RoundTrip.Statement (.decryptTagCheck x0 x1) := RoundTrip.of_event rfl
theorem RoundTrip.matrixAttemptEnd x0 x1 : RoundTrip.Statement (.matrixAttemptEnd x0 x1) := RoundTrip.of_event rfl
theorem RoundTrip.minitExecute x0 x1 : RoundTrip.Statement (.minitExecute x0 x1) := RoundTrip.of_event rfl
theorem RoundTrip.mdrainExecute x0 x1 : RoundTrip.Statement (.mdrainExecute x0 x1) := RoundTrip.of_event rfl
theorem RoundTrip.mdrainComplete x0 x1 : RoundTrip.Statement (.mdrainComplete x0 x1) := RoundTrip.of_event rfl
theorem RoundTrip.chainValueArrive x0 x1 : RoundTrip.Statement (.chainValueArrive x0 x1) := RoundTrip.of_event rfl
theorem RoundTrip.mgangJoin x0 x1 : RoundTrip.Statement (.mgangJoin x0 x1) := RoundTrip.of_event rfl
theorem RoundTrip.mgrantGranted x0 x1 x2 : RoundTrip.Statement (.mgrantGranted x0 x1 x2) := RoundTrip.of_event rfl
theorem RoundTrip.grantBalanceLapse x0 x1 x2 : RoundTrip.Statement (.grantBalanceLapse x0 x1 x2) := RoundTrip.of_event rfl
theorem RoundTrip.powerArbiterTick x0 : RoundTrip.Statement (.powerArbiterTick x0) := RoundTrip.of_event rfl
theorem RoundTrip.balancerSample x0 : RoundTrip.Statement (.balancerSample x0) := RoundTrip.of_event rfl
theorem RoundTrip.balancerIntervalEnd x0 : RoundTrip.Statement (.balancerIntervalEnd x0) := RoundTrip.of_event rfl
theorem RoundTrip.feederInject x0 : RoundTrip.Statement (.feederInject x0) := RoundTrip.of_event rfl
theorem RoundTrip.haloSlotPass x0 x1 x2 : RoundTrip.Statement (.haloSlotPass x0 x1 x2) := RoundTrip.of_event rfl
theorem RoundTrip.boardArm x0 x1 x2 : RoundTrip.Statement (.boardArm x0 x1 x2) := RoundTrip.of_event rfl
theorem RoundTrip.captureWrite x0 x1 x2 : RoundTrip.Statement (.captureWrite x0 x1 x2) := RoundTrip.of_event rfl
theorem RoundTrip.boardComplete x0 x1 x2 : RoundTrip.Statement (.boardComplete x0 x1 x2) := RoundTrip.of_event rfl
theorem RoundTrip.rdropHead x0 x1 : RoundTrip.Statement (.rdropHead x0 x1) := RoundTrip.of_event rfl
theorem RoundTrip.flitReceive x0 x1 : RoundTrip.Statement (.flitReceive x0 x1) := RoundTrip.of_event rfl
theorem RoundTrip.flitCrcReplay x0 : RoundTrip.Statement (.flitCrcReplay x0) := RoundTrip.of_event rfl
theorem RoundTrip.linkRetrain x0 : RoundTrip.Statement (.linkRetrain x0) := RoundTrip.of_event rfl
theorem RoundTrip.xsemAddPerform x0 x1 : RoundTrip.Statement (.xsemAddPerform x0 x1) := RoundTrip.of_event rfl
theorem RoundTrip.collExecute x0 x1 : RoundTrip.Statement (.collExecute x0 x1) := RoundTrip.of_event rfl
theorem RoundTrip.notify x0 x1 : RoundTrip.Statement (.notify x0 x1) := RoundTrip.of_event rfl
theorem RoundTrip.registerWrite x0 x1 x2 : RoundTrip.Statement (.registerWrite x0 x1 x2) := RoundTrip.of_event rfl
theorem RoundTrip.pktTask x0 : RoundTrip.Statement (.pktTask x0) := RoundTrip.of_event rfl
theorem RoundTrip.placeImage x0 : RoundTrip.Statement (.placeImage x0) := RoundTrip.of_event rfl
theorem RoundTrip.placeRelease x0 : RoundTrip.Statement (.placeRelease x0) := RoundTrip.of_event rfl
theorem RoundTrip.placeFreeze x0 : RoundTrip.Statement (.placeFreeze x0) := RoundTrip.of_event rfl
theorem RoundTrip.placeResume x0 : RoundTrip.Statement (.placeResume x0) := RoundTrip.of_event rfl
theorem RoundTrip.placeSave x0 : RoundTrip.Statement (.placeSave x0) := RoundTrip.of_event rfl
theorem RoundTrip.placeRestore x0 : RoundTrip.Statement (.placeRestore x0) := RoundTrip.of_event rfl
theorem RoundTrip.boundBlockLimit x0 : RoundTrip.Statement (.boundBlockLimit x0) := RoundTrip.of_event rfl
theorem RoundTrip.pktBarrier x0 : RoundTrip.Statement (.pktBarrier x0) := RoundTrip.of_event rfl
theorem RoundTrip.pktCopy x0 : RoundTrip.Statement (.pktCopy x0) := RoundTrip.of_event rfl
theorem RoundTrip.hostCopyComplete x0 x1 x2 : RoundTrip.Statement (.hostCopyComplete x0 x1 x2) := RoundTrip.of_event rfl
theorem RoundTrip.pktSignal x0 : RoundTrip.Statement (.pktSignal x0) := RoundTrip.of_event rfl
theorem RoundTrip.compact x0 : RoundTrip.Statement (.compact x0) := RoundTrip.of_event rfl
theorem RoundTrip.moveCutReached x0 : RoundTrip.Statement (.moveCutReached x0) := RoundTrip.of_event rfl
theorem RoundTrip.cutLimitExpiry x0 : RoundTrip.Statement (.cutLimitExpiry x0) := RoundTrip.of_event rfl
theorem RoundTrip.dieOpChange x0 x1 : RoundTrip.Statement (.dieOpChange x0 x1) := RoundTrip.of_event rfl
theorem RoundTrip.pllRelockDone x0 : RoundTrip.Statement (.pllRelockDone x0) := RoundTrip.of_event rfl
theorem RoundTrip.dieGate x0 : RoundTrip.Statement (.dieGate x0) := RoundTrip.of_event rfl
theorem RoundTrip.dieGateDrainDone x0 x1 : RoundTrip.Statement (.dieGateDrainDone x0 x1) := RoundTrip.of_event rfl
theorem RoundTrip.dieUngate x0 : RoundTrip.Statement (.dieUngate x0) := RoundTrip.of_event rfl
theorem RoundTrip.diePoweredUp x0 : RoundTrip.Statement (.diePoweredUp x0) := RoundTrip.of_event rfl
theorem RoundTrip.thermalThrottleEnter x0 : RoundTrip.Statement (.thermalThrottleEnter x0) := RoundTrip.of_event rfl
theorem RoundTrip.thermalThrottleExit x0 : RoundTrip.Statement (.thermalThrottleExit x0) := RoundTrip.of_event rfl
theorem RoundTrip.relreq x0 x1 : RoundTrip.Statement (.relreq x0 x1) := RoundTrip.of_event rfl
theorem RoundTrip.keySet x0 x1 x2 x3 : RoundTrip.Statement (.keySet x0 x1 x2 x3) := RoundTrip.of_event rfl
theorem RoundTrip.keyErase x0 x1 x2 : RoundTrip.Statement (.keyErase x0 x1 x2) := RoundTrip.of_event rfl
theorem RoundTrip.signkeySet x0 x1 : RoundTrip.Statement (.signkeySet x0 x1) := RoundTrip.of_event rfl
theorem RoundTrip.hbConfig x0 x1 x2 : RoundTrip.Statement (.hbConfig x0 x1 x2) := RoundTrip.of_event rfl
theorem RoundTrip.heartbeat x0 : RoundTrip.Statement (.heartbeat x0) := RoundTrip.of_event rfl
theorem RoundTrip.accept x0 x1 : RoundTrip.Statement (.accept x0 x1) := RoundTrip.of_event rfl
theorem RoundTrip.heartbeatTimeout x0 : RoundTrip.Statement (.heartbeatTimeout x0) := RoundTrip.of_event rfl
theorem RoundTrip.graceExpiry x0 : RoundTrip.Statement (.graceExpiry x0) := RoundTrip.of_event rfl
theorem RoundTrip.spdmNegotiateAlgorithms x0 x1 : RoundTrip.Statement (.spdmNegotiateAlgorithms x0 x1) := RoundTrip.of_event rfl
theorem RoundTrip.spdmKeyExchange x0 x1 : RoundTrip.Statement (.spdmKeyExchange x0 x1) := RoundTrip.of_event rfl
theorem RoundTrip.sessionLoss x0 : RoundTrip.Statement (.sessionLoss x0) := RoundTrip.of_event rfl
theorem RoundTrip.lockInterfaceRequest x0 : RoundTrip.Statement (.lockInterfaceRequest x0) := RoundTrip.of_event rfl
theorem RoundTrip.startInterfaceRequest x0 : RoundTrip.Statement (.startInterfaceRequest x0) := RoundTrip.of_event rfl
theorem RoundTrip.stopInterfaceRequest x0 : RoundTrip.Statement (.stopInterfaceRequest x0) := RoundTrip.of_event rfl
theorem RoundTrip.tdispError x0 : RoundTrip.Statement (.tdispError x0) := RoundTrip.of_event rfl
theorem RoundTrip.vfEnable x0 : RoundTrip.Statement (.vfEnable x0) := RoundTrip.of_event rfl
theorem RoundTrip.vfDisable x0 : RoundTrip.Statement (.vfDisable x0) := RoundTrip.of_event rfl
theorem RoundTrip.flrVf x0 : RoundTrip.Statement (.flrVf x0) := RoundTrip.of_event rfl
theorem RoundTrip.flrPf : RoundTrip.Statement (.flrPf) := RoundTrip.of_event rfl
theorem RoundTrip.hotReset : RoundTrip.Statement (.hotReset) := RoundTrip.of_event rfl
theorem RoundTrip.packageReset : RoundTrip.Statement (.packageReset) := RoundTrip.of_event rfl
theorem RoundTrip.periscopeArmDebug x0 x1 : RoundTrip.Statement (.periscopeArmDebug x0 x1) := RoundTrip.of_event rfl
theorem RoundTrip.periscopeHalt x0 : RoundTrip.Statement (.periscopeHalt x0) := RoundTrip.of_event rfl
theorem RoundTrip.periscopeResume x0 : RoundTrip.Statement (.periscopeResume x0) := RoundTrip.of_event rfl
theorem RoundTrip.periscopeStep x0 x1 : RoundTrip.Statement (.periscopeStep x0 x1) := RoundTrip.of_event rfl
theorem RoundTrip.periscopeRead x0 x1 x2 x3 : RoundTrip.Statement (.periscopeRead x0 x1 x2 x3) := RoundTrip.of_event rfl
theorem RoundTrip.periscopeWrite x0 x1 x2 x3 x4 : RoundTrip.Statement (.periscopeWrite x0 x1 x2 x3 x4) := RoundTrip.of_event rfl
theorem RoundTrip.switchOverWindow x0 : RoundTrip.Statement (.switchOverWindow x0) := RoundTrip.of_event rfl
theorem RoundTrip.leaseExtentRequest x0 x1 x2 x3 x4 x5 x6 : RoundTrip.Statement (.leaseExtentRequest x0 x1 x2 x3 x4 x5 x6) := RoundTrip.of_event rfl
theorem RoundTrip.linkRetrainDone x0 : RoundTrip.Statement (.linkRetrainDone x0) := RoundTrip.of_event rfl
theorem RoundTrip.periscopeUnlock x0 : RoundTrip.Statement (.periscopeUnlock x0) := RoundTrip.of_event rfl
theorem RoundTrip.measurementRequest x0 x1 : RoundTrip.Statement (.measurementRequest x0 x1) := RoundTrip.of_event rfl

end Sys2Proof.Laws
end

