-- ==== Sys2Proof/Laws/Scalar.lean ====
section
/-!
SUPPORT. Sys2Proof/Laws/Scalar.lean: what a multiply answers when it issues, when its product is due, and otherwise.
-/
namespace Sys2Proof.Machine

/-- A product with none of its cycle behind it lands alone (R49). -/
theorem landing_alone {p : Product} {ps : List Product} (h : ((ps.head?).all fun q => p.mate != some q.slot) = true) :
    landing (p :: ps) = [p] := by
  cases ps with
  | nil => rfl
  | cons q qs => simp only [List.head?_cons, Option.all_some, bne_iff_ne] at h; simp [landing, h]

/-- The products of one cycle land together (R48, R49). -/
theorem landing_mates {p q : Product} {qs : List Product} (h : p.mate = some q.slot) : landing (p :: q :: qs) = [p, q] := by
  simp [landing, h]

/-- The oldest product of a block is among those that land next. -/
theorem mem_landing (p : Product) (ps : List Product) : p ∈ landing (p :: ps) := by
  cases ps with
  | nil => simp [landing]
  | cons q qs => simp only [landing]; split <;> simp

/-- A multiply that can issue leaves its product on its way (R49). -/
theorem multiply_of_ready {i : Instr} {f : W64 → W64 → W64} {s : State} {b : BlockRun} {l r : W64}
    (hr : runOf s s.cur.rid s.cur.core = some b) (ha : coreActs s s.cur.rid s.cur.core = true) (hs : resolved b s.cur.slot = false)
    (hd : lowest i.details = none) (hq : readiness i b s.cur.slot = .ready l r)
    (hh : mayIssue (coreAt s s.cur.rid s.cur.core) b i s.cur.slot = true) :
    ∃ mate, multiply i f s = .next (setSlot (modRun s s.cur.rid s.cur.core fun b =>
      { b with products := b.products ++ [{ slot := s.cur.slot, val := f l r, mate := mate }] }) s.cur.rid s.cur.core s.cur.slot .fired) := by
  have hl : mayLand s = false := by simp [mayLand, hr, hs]
  refine ⟨flowPartner { b with slots := modAt b.slots s.cur.slot fun _ => .fired } s.cur.slot, ?_⟩
  simp only [multiply, hl, Bool.false_eq_true, if_false, issue_of_ready hr ha hs hd hq hh, startProduct, hr]

/-- A multiply whose product is the oldest delivers it, with that of its cycle's other multiply (R49, R52). -/
theorem multiply_of_due {i : Instr} {f : W64 → W64 → W64} {s : State} {b : BlockRun} {p : Product} {ps : List Product}
    (hr : runOf s s.cur.rid s.cur.core = some b) (ha : coreActs s s.cur.rid s.cur.core = true) (hf : b.fault = none)
    (hp : b.products = p :: ps) (hs : p.slot = s.cur.slot) (hd : resolved b p.slot = true) :
    multiply i f s = .next (landProducts s s.cur.rid s.cur.core) := by
  have hl : mayLand s = true := by
    simp only [mayLand, hr, ha, hf, ← hs, hd, hp, Option.isNone_none, Bool.true_and, List.any_eq_true, beq_iff_eq]
    exact ⟨p, mem_landing p ps, rfl⟩
  simp only [multiply, hl, if_true]

/-- A multiply that has issued and whose product does not land next waits. -/
theorem multiply_of_waiting {i : Instr} {f : W64 → W64 → W64} {s : State} {b : BlockRun}
    (hr : runOf s s.cur.rid s.cur.core = some b) (hs : resolved b s.cur.slot = true) (hq : quashing b s.cur.slot = false)
    (hl : ((landing b.products).any fun p => p.slot == s.cur.slot) = false) : multiply i f s = .next s := by
  have hn : mayLand s = false := by simp [mayLand, hr, hl]
  simp only [multiply, hn, Bool.false_eq_true, if_false, issue_of_idle hr (Or.inr ⟨hs, hq⟩)]

end Sys2Proof.Machine
end

