-- ==== Sys2Proof/Safety.lean ====
section
/-!
DEFINITION. Sys2Proof/Safety.lean: what a run is and when it is safe: no step of it is refused (R6).
-/
namespace Sys2Proof.Safety

/-- The state after n steps, where each answers a next state. -/
def run : Nat → Machine.State → Option Machine.State
  | 0, s => some s
  | n + 1, s =>
    match Machine.step s with
    | .next t => run n t
    | _ => none

/-- A state from which no run of any length stops (R6). -/
def NeverStops (s : Machine.State) : Prop := ∀ n, (run n s).isSome

end Sys2Proof.Safety
end

