-- ==== Sys2Proof/Tests/Slice0.lean ====
section
/-!
SUPPORT. Sys2Proof/Tests/Slice0.lean: the tests: words written out from the spec, ill-formed terms, and for each statement
a state and operands that meet its hypotheses.
-/
open Sys2Proof Sys2Proof.Machine Sys2Proof.Claims

namespace Sys2Proof.Tests

set_option Elab.async false

/-! ### Helpers -/

/-- Reset, with an instruction in the slot that step issues next and its operands complete with l and r. -/
def mk (i : Instr) (l r : W64) : State :=
  modRun (State.reset.withFetchWord 32 (encode i).toNat) 0 0 fun b =>
    { b with ops := [(opKey 0 0, ⟨0, some l⟩), (opKey 0 1, ⟨0, some r⟩), (opKey 0 2, ⟨0, some 1⟩)] }

/-- The same in handler mode. -/
def mkH (i : Instr) (l r : W64) : State := modCsr (mk i l r) 0 0 fun q => { q with hmode := true }

def readyB (i : Instr) (l r : W64) (s : State) : Bool :=
  coreActs s s.cur.rid s.cur.core && (lowest i.details).isNone &&
  match here s with
  | some b => !resolved b s.cur.slot && decide (readiness i b s.cur.slot = .ready l r) &&
      mayIssue (coreAt s s.cur.rid s.cur.core) b i s.cur.slot
  | none => false

theorem ready_of {i : Instr} {l r : W64} {s : State} (h : readyB i l r s = true) : Ready i l r s := by
  unfold readyB at h
  split at h
  · rename_i b hb
    simp only [Bool.and_eq_true, Bool.not_eq_true', Option.isNone_iff_eq_none, decide_eq_true_eq] at h
    exact ⟨h.1.1, h.1.2, b, hb, h.2.1.1, h.2.1.2, h.2.2⟩
  · simp at h

theorem ex_some {α : Type} {o : Option α} {P : α → Prop} [DecidablePred P]
    (h : (match o with | some b => decide (P b) | none => false) = true) : ∃ b, o = some b ∧ P b := by
  cases o with
  | none => simp at h
  | some b => exact ⟨b, rfl, by simpa using h⟩

/-- A rectangle with a stage, a task queue, value queues at a pop port and a push port, and windows on its die. -/
def fitted (s : State) : State := modRect s 0 fun r =>
  { r with
    stages := [(0, { queue := 0, ports := [⟨0, 1, true⟩, ⟨1, 2, false⟩] })],
    queues := [(0, { isTask := true, tile := 1, cap := 4 }), (1, { tile := 1, cap := 4, vals := [7, 8] }), (2, { tile := 1, cap := 4 })],
    dies := [(0, { nsem := 8, cellwin := 4096, dbwin := 4096 })], dieMap := [(0, 0)] }

def mkF (i : Instr) (l r : W64) : State := fitted (mk i l r)

/-- Change the block that core 0 runs. -/
def onRun (s : State) (f : BlockRun → BlockRun) : State := modRun s 0 0 f
def onCore (s : State) (f : Core → Core) : State := modCore s 0 0 f
def onCsr (s : State) (f : Csrs → Csrs) : State := modCsr s 0 0 f

theorem ok_of {e : Except Nat Unit} (h : e.isOk = true) : e = .ok () := by
  cases e with
  | error x => simp [Except.isOk, Except.toBool] at h
  | ok u => rfl

theorem tget_all {α : Type} {d : α} {p : α → Bool} : ∀ {t : Tab α} (_ : t.all (fun x => p x.2) = true) (_ : p d = true) (k : Nat),
    p (tget d t k) = true
  | [], _, hd, k => by simpa [tget, tfind] using hd
  | (j, x) :: t, h, hd, k => by
    simp only [List.all_cons, Bool.and_eq_true] at h
    have ih := tget_all h.2 hd k
    by_cases e : j = k
    · simpa [tget, tfind, e] using h.1
    · simpa [tget, tfind, e] using ih

theorem cores_all {p : Core → Bool} {s : State} {rid : Nat} (h : (rectAt s rid).cores.all (fun x => p x.2) = true) (hd : p {} = true)
    (c : Nat) : p (coreAt s rid c) = true := tget_all h hd c

theorem quiet_of {s : State} {rid : Nat} (h : (rectAt s rid).cores.all (fun x => x.2.causes.isEmpty) = true) : quiet s rid := by
  intro c
  simpa using cores_all (p := fun k => k.causes.isEmpty) h rfl c

theorem allPass_of {s : State} {allow : List Nat} {ps : List (W64 × Nat)}
    (h : (ps.all fun p => (checkLocal s (actor s) p.1 p.2 p.2 allow).isOk) = true) : allPass s allow ps := by
  intro p hp
  exact ok_of (List.all_eq_true.mp h p hp)

/-- With four granules of host memory leased to world 0. -/
def leased (s : State) : State :=
  { s with extents := [(5, { world := 0, tier := 2, rd := true, wr := true, pins := 0, vbase := 0, pbase := 0, len := 4 })] }

def mkG (i : Instr) (l r : W64) : State := leased (mkF i l r)

/-! ### Scalar instructions -/

/-- A block whose slot has a multiply that has issued; `ps` are the products on their way. -/
def multiplied (i : Instr) (ps : List Product) : State := onRun (mk i 3 4) fun b => { b with slots := [.fired], products := ps }

/-- A result; the four multiplies issue, and a product lands alone, with that of its cycle's other multiply, or waits behind another. -/
theorem witness_BinaryResults : (∃ i l r v s, binaryValue i l r = some v ∧ Ready i l r s) ∧
    ∀ x ∈ [(Instr.mul 0 0x1FF 0x1FF, (4 : W64)), (.mulh 0 0x1FF 0x1FF, 4), (.mulhz 0 0x1FF 0x1FF, 4), (.muli 0 4 0x1FF, 0)],
      (productValue x.1 3 x.2).isSome = true ∧ Ready x.1 3 x.2 (mk x.1 3 4) ∧
      (∀ ps ∈ [[], [⟨2, 9, none⟩]], coreActs (multiplied x.1 (⟨0, 12, none⟩ :: ps)) 0 0 = true ∧
        ∃ b, here (multiplied x.1 (⟨0, 12, none⟩ :: ps)) = some b ∧ b.fault = none ∧ b.products = ⟨0, 12, none⟩ :: ps ∧ resolved b 0 = true ∧
          ((ps.head?).all fun q => (none : Option Nat) != some q.slot) = true) ∧
      (∃ b, here (multiplied x.1 [⟨0, 12, some 2⟩, ⟨2, 9, none⟩]) = some b ∧ b.fault = none ∧
        b.products = [⟨0, 12, some 2⟩, ⟨2, 9, none⟩] ∧ resolved b 0 = true) ∧
      (∃ b, here (multiplied x.1 [⟨2, 9, none⟩, ⟨0, 12, none⟩]) = some b ∧ resolved b 0 = true ∧ quashing b 0 = false ∧
        ((landing b.products).any fun p => p.slot == 0) = false) := by
  refine ⟨⟨.add 0 0x1FF 0x1FF, 1, 2, 3, mk (.add 0 0x1FF 0x1FF) 1 2, by decide, ready_of (by decide)⟩, ?_⟩
  intro x h
  fin_cases h <;> exact ⟨by decide +kernel, ready_of (by decide +kernel),
    (by intro ps hp; fin_cases hp <;> exact ⟨by decide +kernel, ex_some (by decide +kernel)⟩), ex_some (by decide +kernel), ex_some (by decide +kernel)⟩

theorem witness_UnaryResults : ∃ i l r s, (∃ v, unarySays i l v) ∧ Ready i l r s :=
  ⟨.mov 0 0x1FF 0x1FF, 9, 0, mk (.mov 0 0x1FF 0x1FF) 9 0, ⟨9, rfl⟩, ready_of (by decide)⟩

theorem witness_DivideResults :
    (∃ i l r v s, divideValue i l r = some v ∧ Ready i l r s ∧ ∃ b, here s = some b ∧ b.divide = none) ∧
    (∃ i l r v s, divideValue i l r = some v ∧ Ready i l r s ∧ ∃ b, here s = some b ∧ b.divide.isSome = true) ∧
    (∃ s rid c, coreActs s rid c = true ∧ ∃ b, runOf s rid c = some b ∧ b.divide = some (0, 5)) :=
  ⟨⟨.div 0 0x1FF 0x1FF, 7, 2, 3, mk (.div 0 0x1FF 0x1FF) 7 2, by decide, ready_of (by decide), ex_some (by decide)⟩,
   ⟨.rem 0 0x1FF 0x1FF, 7, 2, 1, onRun (mk (.rem 0 0x1FF 0x1FF) 7 2) (fun b => { b with divide := some (9, 5) }), by decide, ready_of (by decide),
    ex_some (by decide)⟩,
   ⟨onRun (mk (.div 0 0x1FF 0x1FF) 7 2) (fun b => { b with divide := some (0, 5) }), 0, 0, by decide, ex_some (by decide)⟩⟩

theorem witness_ImmediateOps : ∃ i l r v s, immediateValue i l = some v ∧ Ready i l r s :=
  ⟨.addi 0 0x3FFF 0x1FF, 0, 0, -1, mk (.addi 0 0x3FFF 0x1FF) 0 0, by decide, ready_of (by decide)⟩

theorem witness_CompareResults : ∃ i l r v s, compareValue i l r = some v ∧ Ready i l r s :=
  ⟨.clt 0 0x1FF 0x1FF, -1, 0, 1, mk (.clt 0 0x1FF 0x1FF) (-1) 0, by decide, ready_of (by decide)⟩

theorem witness_FieldResults : (∃ i l r v s, fieldValue i l r = some v ∧ Ready i l r s) ∧
    (∃ p o n t l r s, Ready (.ins p o n t) l r s) :=
  ⟨⟨.extr 0 1 4 3 0x1FF, 0x80, 0, -8, mk (.extr 0 1 4 3 0x1FF) 0x80 0, by decide, ready_of (by decide)⟩,
   ⟨0, 8, 7, 0x1FF, 0, 0xFF, mk (.ins 0 8 7 0x1FF) 0 0xFF, ready_of (by decide)⟩⟩

theorem witness_GetAndNull :
    (∃ n u t l r s, n.toNat < 64 ∧ Ready (.get n u t) l r s) ∧
    (∃ n u t l r s, 64 ≤ n.toNat ∧ Ready (.get n u t) l r s ∧ taskSafe s s.cur.rid s.cur.core = true ∧
      ∃ pb, portBind s s.cur.rid s.cur.core (n.toNat - 64) = some pb ∧ pb.pop = true ∧
        (queueAt s s.cur.rid pb.queue).vals = 7 :: [8]) ∧
    (∃ p t u l r s, Ready (.null p t u) l r s) :=
  ⟨⟨63, 0x1FF, 0x1FF, 0, 0, mk (.get 63 0x1FF 0x1FF) 0 0, by decide, ready_of (by decide)⟩,
   ⟨64, 0x1FF, 0x1FF, 0, 0, mkF (.get 64 0x1FF 0x1FF) 0 0, by decide, ready_of (by decide), by decide, ex_some (by decide)⟩,
   ⟨0, 0x1FF, 0x1FF, 0, 0, mk (.null 0 0x1FF 0x1FF) 0 0, ready_of (by decide)⟩⟩

theorem witness_ComputeFrame : ∀ i ∈ [Instr.add 0 0x1FF 0x1FF, .popc 0 0x1FF 0x1FF, .ins 0 8 7 0x1FF],
    ((computes i 1 0).isSome ∨ describes i) ∧ Ready i 1 0 (mk i 1 0) ∧ (∀ t ∈ targetsOf i, target t = .none) ∧
    (∀ t u, targetsOf i = [t, u] → t = u → t = 0x1FF#9) ∧ (here (mk i 1 0)).isSome = true := by
  intro i hi
  fin_cases hi <;> exact ⟨by decide, ready_of (by decide), by decide, by simp [targetsOf], by decide⟩

/-! ### Exits, traps and blocks -/

theorem allowed_of {h : Bool} {t : Int} (e : (decide (0 ≤ t) && decide (t < if h then 16384 else 15360)) = true) : allowedTarget h t := by
  simpa [allowedTarget] using e

/-- The block the cursor's core runs. -/
def blk (s : State) : BlockRun := (here s).getD {}

/-- An exit can issue and is the first of its block. -/
def exitReady (i : Instr) (l r : W64) (s : State) (e : Exit) : Prop :=
  chooses i l r s (blk s) e ∧ Ready i l r s ∧ here s = some (blk s) ∧ (blk s).exit = none

theorem witness_ExitsChoose :
    exitReady (.br 0 5) 0 0 (mk (.br 0 5) 0 0) (.br 5) ∧ exitReady (.bri 0) 7 0 (mk (.bri 0) 7 0) (.br 7) ∧
    exitReady (.call 0 5) 0 0 (mk (.call 0 5) 0 0) (.call 5) ∧ exitReady (.calli 0) 7 0 (mk (.calli 0) 7 0) (.call 7) ∧
    exitReady (.ret 0) 0 0 (onCsr (mk (.ret 0) 0 0) fun q => { q with cdepth := 1 }) (.ret 0) ∧
    exitReady (.tend 0) 0 0 (mk (.tend 0) 0 0) .tend ∧
    exitReady (.park 0 5) 0xF300000000000000 0x100000001 (mkF (.park 0 5) 0xF300000000000000 0x100000001) (.park 5 0xF300000000000000 1 1) ∧
    exitReady (.tabort 0) 9 0 (mk (.tabort 0) 9 0) (.tabort 9) :=
  ⟨⟨⟨allowed_of (by decide), by decide⟩, ready_of (by decide), by decide, by decide⟩,
   ⟨⟨allowed_of (by decide), by decide⟩, ready_of (by decide), by decide, by decide⟩,
   ⟨⟨by decide, allowed_of (by decide), by decide⟩, ready_of (by decide), by decide, by decide⟩,
   ⟨⟨by decide, allowed_of (by decide), by decide⟩, ready_of (by decide), by decide, by decide⟩,
   ⟨⟨by decide, by decide, allowed_of (by decide), by decide⟩, ready_of (by decide), by decide, by decide⟩,
   ⟨⟨by decide, rfl⟩, ready_of (by decide), by decide, by decide⟩,
   ⟨⟨by decide, by decide, by decide, by decide, by rfl, by decide, allowed_of (by decide), by decide⟩, ready_of (by decide), by decide, by decide⟩,
   ⟨⟨by decide, by decide⟩, ready_of (by decide), by decide, by decide⟩⟩

theorem witness_ExitsChoose_handler :
    exitReady (.eretDiscard 0 0) 0 0 (mkH (.eretDiscard 0 0) 0 0) (.discard none) ∧ exitReady (.eretRetry 0) 0 0 (mkH (.eretRetry 0) 0 0) .retry ∧
    exitReady (.eretResume 0) 7 0 (mkH (.eretResume 0) 7 0) (.resume 7) ∧ exitReady (.halt 0) 0 0 (mkH (.halt 0) 0 0) .halt :=
  ⟨⟨⟨by decide, by decide⟩, ready_of (by decide), by decide, by decide⟩,
   ⟨⟨by decide, allowed_of (by decide), rfl⟩, ready_of (by decide), by decide, by decide⟩,
   ⟨⟨by decide, allowed_of (by decide), by decide⟩, ready_of (by decide), by decide, by decide⟩,
   ⟨⟨by decide, rfl⟩, ready_of (by decide), by decide, by decide⟩⟩

theorem witness_ExitTargetFaults :
    (∃ p o l r s, Ready (.br p o) l r s ∧ ∃ b, here s = some b ∧ b.h + o.toInt < 0) ∧
    (∃ p o l r s, Ready (.br p o) l r s ∧ ∃ b, here s = some b ∧ b.h + o.toInt = 15360) ∧
    (∃ p l r s, Ready (.bri p) l r s ∧ 16383 < l.toNat) ∧ (∃ p l r s, Ready (.bri p) l r s ∧ l.toNat = 16383) :=
  ⟨⟨0, -1, 0, 0, mk (.br 0 (-1)) 0 0, ready_of (by decide), ex_some (by decide)⟩,
   ⟨0, 15360, 0, 0, mk (.br 0 15360) 0 0, ready_of (by decide), ex_some (by decide)⟩,
   ⟨0, 16384, 0, mk (.bri 0) 16384 0, ready_of (by decide), by decide⟩,
   ⟨0, 16383, 0, mk (.bri 0) 16383 0, ready_of (by decide), by decide⟩⟩

/-- A PARK of semaphore 0, with the live registers of a mask. -/
def parking (mask : W64) (f : Csrs → Csrs) : State := onCsr (mkF (.park 0 15360) 0xF300000000000000 mask) f

theorem mayPark_of {l r : W64} {s : State} (h : (!(coreHere s).csr.hmode && decide (popcN 32 r.toNat ≤ 16) && (coreHere s).csr.cdepth == 0 &&
    (coreHere s).csr.depth == 0 && (checkSem s s.cur.rid s.cur.core l).isOk) = true) : mayPark l r s := by
  simp only [Bool.and_eq_true, Bool.not_eq_true', decide_eq_true_eq, beq_iff_eq] at h
  exact ⟨h.1.1.1.1, h.1.1.1.2, h.1.1.2, h.1.2, ok_of h.2⟩

theorem witness_ExitTargetFaults_exits :
    (∃ s, Ready (.call 0 (-1)) 0 0 s ∧ targetFails (.call 0 (-1)) 0 0 s (blk s) 0x00B) ∧
    (∃ s, Ready (.calli 0) 15360 0 s ∧ targetFails (.calli 0) 15360 0 s (blk s) 0x00C) ∧
    (∃ s, Ready (.ret 0) 0 0 s ∧ targetFails (.ret 0) 0 0 s (blk s) 0x00C) ∧
    (∃ s, Ready (.park 0 15360) 0xF300000000000000 1 s ∧ targetFails (.park 0 15360) 0xF300000000000000 1 s (blk s) 0x00C) ∧
    (∃ s, Ready (.eretRetry 0) 0 0 s ∧ targetFails (.eretRetry 0) 0 0 s (blk s) 0x00C) ∧
    (∃ s, Ready (.eretResume 0) 16384 0 s ∧ targetFails (.eretResume 0) 16384 0 s (blk s) 0x00B) :=
  ⟨⟨mk (.call 0 (-1)) 0 0, ready_of (by decide), by decide, .inl (by decide)⟩,
   ⟨mk (.calli 0) 15360 0, ready_of (by decide), by decide, .inr (by decide)⟩,
   ⟨writeNat (onCsr (mk (.ret 0) 0 0) fun q => { q with cdepth := 1 }) (frameKey 0 0 0) 8 15360, ready_of (by decide), by decide, by decide,
    .inr (by decide)⟩,
   ⟨parking 1 id, ready_of (by decide), mayPark_of (by decide), by decide, .inr (by decide)⟩,
   ⟨onCsr (mkH (.eretRetry 0) 0 0) fun q => { q with fblk := 15360 }, ready_of (by decide), by decide, .inr (by decide)⟩,
   ⟨mkH (.eretResume 0) 16384 0, ready_of (by decide), by decide, .inl (by decide)⟩⟩

theorem witness_ExitTargetFaults_park :
    (∃ s, Ready (.ret 0) 0 0 s ∧ (coreHere s).csr.hmode = false ∧ (coreHere s).csr.cdepth = 0) ∧
    (∃ l r s, Ready (.park 0 15360) l r s ∧ (coreHere s).csr.hmode = false ∧ 16 < popcN 32 r.toNat) ∧
    (∃ l r s, Ready (.park 0 15360) l r s ∧ (coreHere s).csr.hmode = false ∧ popcN 32 r.toNat ≤ 16 ∧ (coreHere s).csr.depth ≠ 0) ∧
    (∃ l r s, Ready (.park 0 15360) l r s ∧ mayPark l r s ∧ 32 ≤ (coreHere s).contUsed.length) :=
  ⟨⟨mk (.ret 0) 0 0, ready_of (by decide), by decide, by decide⟩,
   ⟨0xF300000000000000, 0x1FFFF, parking 0x1FFFF id, ready_of (by decide), by decide, by decide⟩,
   ⟨0xF300000000000000, 1, parking 1 fun q => { q with depth := 1 }, ready_of (by decide), by decide, by decide, by decide⟩,
   ⟨0xF300000000000000, 1, onCore (parking 1 id) fun k => { k with contUsed := List.range 32 }, ready_of (by decide), mayPark_of (by decide), by decide⟩⟩

theorem witness_ExitModeFaults :
    (∃ l r s, (coreHere s).csr.hmode = true ∧ Ready (.tend 0) l r s) ∧ (∃ l r s, (coreHere s).csr.hmode = false ∧ Ready (.halt 0) l r s) :=
  ⟨⟨0, 0, mkH (.tend 0) 0 0, by decide, ready_of (by decide)⟩, ⟨0, 0, mk (.halt 0) 0 0, by decide, ready_of (by decide)⟩⟩

theorem witness_TrapRaises : (∃ p n l r s, Ready (.trap p n) l r s) ∧
    (∃ p n l r s, Ready (.trap p n) l r s ∧ (coreHere s).csr.hmode = true ∧ here s = some (blk s) ∧ takesNow s (blk s)) :=
  ⟨⟨0, 5, 0, 0, mk (.trap 0 5) 0 0, ready_of (by decide)⟩, ⟨0, 15, 0, 0, mkH (.trap 0 15) 0 0, ready_of (by decide), by decide, by decide, ⟨by decide, by decide⟩⟩⟩

theorem witness_BrkRaises : ∃ p g l r s, Ready (.brk p g) l r s := ⟨0, 255, 0, 0, mk (.brk 0 255) 0 0, ready_of (by decide)⟩

theorem witness_TrapEntersHandler : ∃ s cause, Memory.wf s = true ∧ here s = some (blk s) ∧ takesNow s (blk s) ∧ (coreHere s).csr.hmode = false ∧
    plainTrap s cause ∧ (coreHere s).csr.hvec.getLsbD 63 = true ∧ 15360 ≤ (coreHere s).csr.hvec.toNat % 16384 :=
  ⟨onCsr (mk (.trap 0 5) 0 0) fun q => { q with hvec := 0x8000000000003C00 }, 0x155, by decide, by decide, ⟨by decide, by decide⟩, by decide,
   ⟨by decide, by decide⟩, by decide, by decide⟩

theorem witness_TrapDiscards : ∃ s cause, here s = some (blk s) ∧ takesNow s (blk s) ∧ (coreHere s).csr.hmode = false ∧ plainTrap s cause ∧
    (coreHere s).csr.hvec.getLsbD 63 = false ∧ cause < 384 :=
  ⟨mk (.trap 0 5) 0 0, 0x155, by decide, ⟨by decide, by decide⟩, by decide, ⟨by decide, by decide⟩, by decide, by decide⟩

/-- World 0 with an error queue of 64 entries at the start of its memory. -/
def queued : State := modWorld State.reset 0 fun q => { q with eqsize := 6, eqbase := 0x1000 }

theorem witness_RecordsPosted : (Memory.wf queued = true ∧ takesRecord queued 0) ∧ (Memory.wf State.reset = true ∧ ¬takesRecord State.reset 0) :=
  ⟨⟨by decide, (by and_intros <;> decide)⟩, ⟨by decide, fun h => absurd h.1 (by decide)⟩⟩

theorem witness_HandlerFaults : (∃ s, here s = some (blk s) ∧ takesNow s (blk s) ∧ (coreHere s).csr.hmode = true ∧ (coreHere s).csr.cread = false) ∧
    (∃ s, here s = some (blk s) ∧ takesNow s (blk s) ∧ (coreHere s).csr.hmode = true ∧ (coreHere s).csr.cread = true ∧ (coreHere s).csr.cause < 384) :=
  ⟨⟨mkH (.trap 0 5) 0 0, by and_intros <;> decide⟩,
   ⟨onCsr (mkH (.trap 0 5) 0 0) fun q => { q with cread := true }, by and_intros <;> decide⟩⟩

/-- The block of a state with its slot fired and an exit chosen. -/
def settled (s : State) (e : Exit) : State := onRun s fun b => { b with slots := [.fired], exit := some e }

theorem witness_EretReturns : ∀ e ∈ [Exit.retry, .resume 7], ∃ s, Settled s 0 0 (blk s) ∧ (blk s).exit = some e := by
  intro e he
  refine ⟨settled (mkH (.eretRetry 0) 0 0) e, ?_⟩
  fin_cases he <;> exact ⟨(by unfold Settled; decide), by decide⟩

theorem witness_BlocksComplete :
    (∀ e ∈ [Exit.br 5, .ret 5, .call 5], ∃ s, Settled s 0 0 (blk s) ∧ (blk s).exit = some e ∧ (coreAt s 0 0).csr.cdepth < 64) ∧
    (∃ s, Settled s 0 0 (blk s) ∧ (blk s).exit = some (.call 5) ∧ 64 ≤ (coreAt s 0 0).csr.cdepth) ∧
    (∃ s, Settled s 0 0 (blk s) ∧ (blk s).exit = none) := by
  refine ⟨?_, ⟨onCsr (settled (mk (.br 0 5) 0 0) (.call 5)) fun q => { q with cdepth := 64 }, (by unfold Settled; decide), by decide⟩,
    ⟨onRun (mk (.br 0 5) 0 0) fun b => { b with slots := [.fired] }, (by unfold Settled; decide), by decide⟩⟩
  intro e he
  refine ⟨settled (mk (.br 0 5) 0 0) e, ?_⟩
  fin_cases he <;> exact ⟨(by unfold Settled; decide), by decide, by decide⟩

/-- The place of a task in its ordered domain. -/
def outst (uid core : Nat) : Outst :=
  { uid := uid, rcd := 0, ts := 5, stage := 0, core := core, rerun := 0, started := true, finished := false, order := 0, committing := false,
    reads := [], writes := [], lines := [], wide := [] }

/-- A task whose block has settled with an exit; `out` are its places in the ordered domain. -/
def exiting (e : Exit) (out : List Outst) : State :=
  modRect (onCore (settled (mkF (.tend 0) 0 0) e) fun k => { k with task := some { uid := 3 } }) 0 fun r => { r with dom := { r.dom with out := out } }

/-- The same with a TEND and the task in its ordered domain. -/
def ordered1 : State := exiting .tend [outst 3 0]

theorem witness_ExitsApply :
    (∀ e ∈ [Exit.tend, .tabort 9, .discard none, .discard (some 9), .halt, .park 5 0xF300000000000000 1 1],
      Memory.wf (exiting e []) = true ∧ Settled (exiting e []) 0 0 (blk (exiting e [])) ∧
      (coreAt (exiting e []) 0 0).task = some { uid := 3 } ∧ (coreAt (exiting e []) 0 0).causes = [] ∧ (blk (exiting e [])).exit = some e ∧
      (coreAt (exiting e []) 0 0).csr.depth = 0 ∧ (∀ o ∈ (rectAt (exiting e []) 0).dom.out, o.uid ≠ 3) ∧ taskSafe (exiting e []) 0 0 = true ∧
      semRuns (exiting e []) 0 0 = true ∧
      (0 < 32 ∧ 0 ∉ (coreAt (exiting e []) 0 0).contUsed) ∧ (ldieAt (exiting e []) 0 0).conts = []) ∧
    (Memory.wf ordered1 = true ∧ Settled ordered1 0 0 (blk ordered1) ∧ (coreAt ordered1 0 0).task = some { uid := 3 } ∧
      (coreAt ordered1 0 0).causes = [] ∧ (blk ordered1).exit = some .tend ∧ (coreAt ordered1 0 0).csr.depth = 0 ∧
      ∃ o ∈ (rectAt ordered1 0).dom.out, o.uid = 3) := by
  refine ⟨?_, by decide +kernel, (by unfold Settled; decide +kernel), by decide +kernel, by decide +kernel, by decide +kernel, by decide +kernel, outst 3 0, by decide +kernel, rfl⟩
  intro e he
  fin_cases he <;> exact ⟨by decide +kernel, (by unfold Settled; decide +kernel), by decide +kernel, by decide +kernel, by decide +kernel, by decide +kernel, by decide +kernel, by decide +kernel, by decide +kernel, by decide +kernel, by decide +kernel⟩

/-- The same with an inline child at depth d + 1, whose parent chose an exit at depth d. -/
def childOf (d : Nat) (e : Exit) : State :=
  onCsr (onCore (exiting .tend []) fun k => { k with links := List.replicate (d + 1) { exit := some e, task := { uid := 3 }, cdepth := 2 } }) fun q =>
    { q with depth := d + 1 }

/-- An inline child ends: at the greatest depth, to a block of its parent, and at the least with its parent. -/
theorem witness_ExitsApply_child : ∀ x ∈ [(0, Exit.tend), (0, .br 5), (7, .br 5)],
    (let s := childOf x.1 x.2
     Memory.wf s = true ∧ Settled s 0 0 (blk s) ∧ (coreAt s 0 0).task = some { uid := 3 } ∧ (blk s).exit = some .tend ∧
      (coreAt s 0 0).csr.depth = x.1 + 1 ∧ (coreAt s 0 0).links[x.1]? = some { exit := some x.2, task := { uid := 3 }, cdepth := 2 } ∧
      (coreAt s 0 0).causes = [] ∧ ∀ o ∈ (rectAt s 0).dom.out, o.uid ≠ 3) := by
  intro x h
  fin_cases h <;> exact ⟨by decide +kernel, (by unfold Settled; decide +kernel), by decide +kernel, by decide +kernel, by decide +kernel, by decide +kernel,
    by decide +kernel, by decide +kernel⟩

/-- The task of `exiting` as one that is to be parked. -/
def waiting1 : State := onCore (exiting .tend []) fun k => { k with phase := .parking 5 0xF300000000000000 1 1 }

/-- A PARK that must wait for its task's safety, one whose task waits for it, and one that waits no more. -/
theorem witness_ExitsApply_park :
    (let s := exiting (.park 5 0xF300000000000000 1 1) [{ outst 2 1 with ts := 4 }, outst 3 0]
     Memory.wf s = true ∧ Settled s 0 0 (blk s) ∧ (coreAt s 0 0).task = some { uid := 3 } ∧ (coreAt s 0 0).causes = [] ∧
      (blk s).exit = some (.park 5 0xF300000000000000 1 1) ∧ (taskSafe s 0 0 = false ∨ semRuns s 0 0 = false)) ∧
    (let s := waiting1
     Memory.wf s = true ∧ coreActs s 0 0 = true ∧ (rectAt s 0).freeze = .running ∧ (coreAt s 0 0).phase = .parking 5 0xF300000000000000 1 1 ∧
      (coreAt s 0 0).task = some { uid := 3 } ∧ (coreAt s 0 0).causes = [] ∧ taskSafe s 0 0 = true ∧ semRuns s 0 0 = true ∧
      (0 < 32 ∧ 0 ∉ (coreAt s 0 0).contUsed) ∧ (ldieAt s 0 0).conts = []) ∧
    (let s := modRect waiting1 0 fun r => { r with dom := { r.dom with out := [{ outst 2 1 with ts := 4 }, outst 3 0] } }
     Memory.wf s = true ∧ coreActs s 0 0 = true ∧ (rectAt s 0).freeze = .running ∧ (coreAt s 0 0).phase = .parking 5 0xF300000000000000 1 1 ∧
      (coreAt s 0 0).task = some { uid := 3 } ∧ (coreAt s 0 0).causes = [] ∧ (taskSafe s 0 0 = false ∨ semRuns s 0 0 = false)) := by
  refine ⟨⟨by decide +kernel, (by unfold Settled; decide +kernel), by decide +kernel, by decide +kernel, by decide +kernel, ?_⟩,
    by decide +kernel, by decide +kernel, by decide +kernel, by decide +kernel, by decide +kernel, by decide +kernel, ?_⟩ <;> decide +kernel

/-- A core that is to fetch the block at an address; the block at 0 is one TEND. -/
def fetching (h : Nat) : State := onCore (mk (.tend 0) 0 0) fun k => { k with phase := .fetch h }

theorem witness_BlockFetches :
    (∃ s rid c h, goesOn s rid c ∧ (coreAt s rid c).phase = .fetch h ∧ (fetchBlock s rid c h).isOk = true) ∧
    (∃ s rid c h, goesOn s rid c ∧ (coreAt s rid c).phase = .fetch h ∧ (fetchBlock s rid c h).isOk = false) :=
  ⟨⟨fetching 0, 0, 0, 0, (by and_intros <;> decide), by decide, by decide⟩,
   ⟨fetching 9, 0, 0, 9, (by and_intros <;> decide), by decide, by decide⟩⟩

theorem witness_HeaderChecked :
    (∃ s rid c h, goesOn s rid c ∧ (coreAt s rid c).phase = .fetch h ∧ s.bad = [] ∧ (headerAt s rid c h).extractLsb' 28 4 ≠ 0xE#4) ∧
    (∃ s rid c h, goesOn s rid c ∧ (coreAt s rid c).phase = .fetch h ∧ s.bad = [] ∧ (headerAt s rid c h).extractLsb' 28 4 = 0xE#4 ∧
      (headerAt s rid c h).extractLsb' 24 2 ≠ 0#2) ∧
    (∃ s rid c h, goesOn s rid c ∧ (coreAt s rid c).phase = .fetch h ∧ s.bad = [] ∧ (headerAt s rid c h).extractLsb' 28 4 = 0xE#4 ∧
      (headerAt s rid c h).extractLsb' 24 2 = 0#2 ∧ (headerAt s rid c h).extractLsb' 6 10 = 0#10 ∧
      storeEnd s rid c < h + ((headerAt s rid c h).extractLsb' 0 6).toNat + 2) :=
  ⟨⟨fetching 9, 0, 0, 9, (by and_intros <;> decide), by and_intros <;> decide⟩,
   ⟨writeNat (fetching 9) (Place.key (.ist 0 0 36)) 4 0xE1000000, 0, 0, 9, (by and_intros <;> decide), by and_intros <;> decide⟩,
   ⟨writeNat (fetching 15359) (Place.key (.ist 0 0 61436)) 4 0xE0000000, 0, 0, 15359, (by and_intros <;> decide), by and_intros <;> decide⟩⟩

/-- A one-slot block of an instruction, fetched and ready. -/
def readyBlock (i : Instr) : BlockRun := { hdr := 0xE0000000, words := [encode i], slots := [.waiting] }

/-- A core that is to start a block. -/
def starting (i : Instr) : State := onCore (mkF i 0 0) fun k => { k with phase := .ready (readyBlock i) }

theorem witness_BlockStarts :
    (∀ i ∈ [Instr.tend 0, .get 64 0x1FF 0x1FF], goesOn (starting i) 0 0 ∧ (coreAt (starting i) 0 0).phase = .ready (readyBlock i) ∧
      mayStart (starting i) 0 0 (readyBlock i).hdr (!(portGets (blockInstrs (readyBlock i))).isEmpty) = true ∧
      portsFilled (starting i) 0 0 (portGets (blockInstrs (readyBlock i))) = true ∧ (coreAt (starting i) 0 0).causes = [] ∧
      breakpointAt (coreAt (starting i) 0 0) 0 = false ∧ getFault (starting i) 0 0 (blockInstrs (readyBlock i)) = none) ∧
    (∀ i ∈ blockInstrs (readyBlock (.tend 0)), ∀ r u t, i ≠ .get r u t) ∧
    breakpointAt (coreAt (onCsr (starting (.tend 0)) fun q => { q with bpa := [(0, 0x8000000000000000)] }) 0 0) 0 = true ∧
    (coreAt (onCore (starting (.tend 0)) fun k => { k with causes := [{ cause := 0x0C3, faddr := 0, task := 0, rcd := 0 }] }) 0 0).csr.hmode =
      false := by
  refine ⟨?_, ?_, by decide, by decide⟩
  · intro i hi
    fin_cases hi <;> exact ⟨(by and_intros <;> decide), by and_intros <;> decide +kernel⟩
  · have h : blockInstrs (readyBlock (.tend 0)) = [.tend 0] := by decide
    rw [h]; simp

/-- A spawn record of stage 0 with entry 0 and A1 = 9. -/
def rcd1 : BitVec 512 := BitVec.ofNat 512 (9 * 2 ^ 256)

/-- A free core of stage 0 whose queue holds the record. -/
def free1 : State := modQueue (onCore (mkF (.tend 0) 0 0) fun k => { k with phase := .idle, task := none }) 0 0 fun q => { q with recs := [rcd1] }

/-- A parent that waits for its inline child. -/
def link1 : InlineLink := { exit := none, task := {}, cdepth := 0 }

/-- A core that launches a task of the record. -/
def launch1 (ls : List InlineLink) : State :=
  onCore (mkF (.tend 0) 0 0) fun k => { k with phase := .launching, task := some { rcd := rcd1 }, links := ls }

/-- Cores 0, 2 and, busy, 1 of a stage; core 1's deque holds records. -/
def thieves (ds : List (BitVec 512)) : State :=
  modCore (modCore (modCore (mkF (.tend 0) 0 0) 0 0 fun k => { k with phase := .idle, task := none, stage := some 0 }) 0 1 fun k =>
    { k with phase := .fetch 0, task := some {}, stage := some 0, deque := ds }) 0 2 fun k => { k with stage := some 0 }

/-- R156: of two thieves at a deque of one record the lower takes it and the other finds the deque empty; of two records too, in that cycle;
the top goes first. -/
theorem test_theft :
    ((stealWork (thieves [rcd1]) 0 0 0).isSome, (stealWork (thieves [rcd1]) 0 2 0).isSome, (stealWork (thieves [0, rcd1]) 0 2 0).isSome) =
      (true, false, false) ∧
    ((stealWork (thieves [rcd1, 0]) 0 0 0).bind fun s => (coreAt s 0 0).task.map (·.rcd)) = some rcd1 ∧
    ((stealWork (modCore (thieves [rcd1, 0]) 0 0 fun k => { k with task := some {} }) 0 2 0).bind fun s => (coreAt s 0 2).task.map (·.rcd)) = some rcd1 := by
  decide +kernel

theorem witness_CorePicksAndLaunches :
    (goesOn free1 0 0 ∧ isFree (coreAt free1 0 0) = true ∧ 0 < coreCount (rectAt free1 0) ∧ (coreAt free1 0 0).newStage = none ∧
      (coreAt free1 0 0).stage = some 0 ∧ (coreAt free1 0 0).fin = [] ∧ ownCont free1 0 0 0 = none ∧
      (coreAt free1 0 0).deque = [] ∧ (stageAt free1 0 0).rerun = [] ∧ recOrdered rcd1 = false ∧
      queueRuns free1 0 (inputQueue free1 0 0) = true ∧
      (queueAt free1 0 (inputQueue free1 0 0)).spill = [] ∧ (popRecord (queueAt free1 0 (inputQueue free1 0 0)) 0).map (·.1) = some rcd1) ∧
    (∀ ls ∈ [[], [link1]], goesOn (launch1 ls) 0 0 ∧ (coreAt (launch1 ls) 0 0).phase = .launching ∧
      (coreAt (launch1 ls) 0 0).task = some { rcd := rcd1 } ∧
      (taskRegions (launch1 ls) 0 rcd1).all (fun g => resident (launch1 ls) 0 g) = true) := by
  refine ⟨⟨(by and_intros <;> decide), by and_intros <;> decide +kernel⟩, ?_⟩
  intro ls hl
  fin_cases hl <;> exact ⟨(by and_intros <;> decide), by and_intros <;> decide +kernel⟩
/-! ### Loads, stores, atomics -/

theorem witness_LoadsIssue :
    (∃ i l r s x, loadOf i l r = some x ∧ Ready i l r s ∧ allPass s [0, 0xF0, 0xF1, 0xF2, 0xF5] x.1 ∧
      ∀ p ∈ x.1, selector p.1 ≠ 0xF0 ∧ selector p.1 ≠ 0xF5) ∧
    (∃ i l r s x, loadOf i l r = some x ∧ Ready i l r s ∧ allPass s [0, 0xF0, 0xF1, 0xF2, 0xF5] x.1 ∧
      (∀ p ∈ x.1, selector p.1 = 0xF0 ∨ selector p.1 = 0xF5) ∧
      ∀ p ∈ x.1, readError s (worldOf s.cur.rid) (homeOf s (actor s) p.1) p.2 = none) :=
  ⟨⟨.ld 0 0 8 0x1FF, 0x100, 0, mkG (.ld 0 0 8 0x1FF) 0x100 0, ([(0x108, 1)], .scalar 1 false 0x1FF), by decide +kernel, ready_of (by decide +kernel),
    allPass_of (by decide +kernel), by decide +kernel⟩,
   ⟨.ld 0 0 8 0x1FF, 0xF000000000000100, 0, mkG (.ld 0 0 8 0x1FF) 0xF000000000000100 0, ([(0xF000000000000108, 1)], .scalar 1 false 0x1FF),
    by decide +kernel, ready_of (by decide +kernel), allPass_of (by decide +kernel), by decide +kernel, by decide +kernel⟩⟩

/-- A load of one byte that waits for its data. -/
def load1 : Load := { slot := 0, parts := [(0x100, 1)], own := [none], dst := .scalar 1 false 0x1FF }

/-- A load of two elements into v2, one of whose bytes the task stored. -/
def loads1 : Load := { slot := 0, parts := [(0x100, 1), (0x110, 1)], own := [none, some 7], dst := .vector 2 }

theorem partsB {s : State} {who : Who} {ps : List (W64 × Nat)}
    (h : (ps.all fun p => decide (0 < p.2) && (readError s (worldOf who.rid) (homeOf s who p.1) p.2).isNone) = true) : readsWell s who ps := by
  intro p hp
  simpa [Option.isNone_iff_eq_none] using List.all_eq_true.mp h p hp

theorem witness_LoadReturns : ∀ l ∈ [load1, loads1], ∃ s, coreActs s 0 0 = true ∧ l.own.length = partsLength l.parts ∧
    readsWell s (whoTask s 0 0) l.parts ∧
    ∃ b, runOf s 0 0 = some b ∧ b.loads[0]? = some l ∧ loadBehind s (whoTask s 0 0) ((coreAt s 0 0).vloads ++ b.loads.take 0) l = false ∧
      ∀ q ∈ b.lookups, q.slot ≠ l.slot := by
  intro l hl
  refine ⟨onRun (mkG (.ld 0 0 8 0x1FF) 0x100 0) fun b => { b with loads := [l] }, ?_⟩
  fin_cases hl <;> exact ⟨by decide +kernel, by decide +kernel, partsB (by decide +kernel), ex_some (by decide +kernel)⟩

/-- A vector load of 128 bytes into v2, whose lookup was answered before its block ended or was not. -/
def vload1 (a : W64) (un : Bool) : Load :=
  { slot := 3, parts := [(a, 128)], own := List.replicate 128 none, dst := .vector 2, unchecked := un }

/-- A core with a vector load whose block has ended. -/
def late1 (a : W64) (un : Bool) : State := onCore (mkG (.tend 0) 0 0) fun k => { k with phase := .fetch 0, vloads := [vload1 a un] }

theorem witness_LoadReturns_late :
    (∀ un ∈ [false, true], coreLives (late1 0x100 un) 0 0 = true ∧ (coreAt (late1 0x100 un) 0 0).vloads[0]? = some (vload1 0x100 un) ∧
      loadBehind (late1 0x100 un) (whoTask (late1 0x100 un) 0 0) ((coreAt (late1 0x100 un) 0 0).vloads.take 0) (vload1 0x100 un) = false ∧ (vload1 0x100 un).own.length = partsLength [(0x100, 128)] ∧
      firstCause (modCore (late1 0x100 un) 0 0 fun q => { q with vloads := dropAt q.vloads 0 }) (whoTask (late1 0x100 un) 0 0) .read [(0x100, 128)] = none ∧
      readsWell (late1 0x100 un) (whoTask (late1 0x100 un) 0 0) [(0x100, 128)]) ∧
    (coreLives (late1 0x800000 true) 0 0 = true ∧ (coreAt (late1 0x800000 true) 0 0).vloads[0]? = some (vload1 0x800000 true) ∧
      firstCause (modCore (late1 0x800000 true) 0 0 fun q => { q with vloads := dropAt q.vloads 0 }) (whoTask (late1 0x800000 true) 0 0) .read
        [(0x800000, 128)] ≠ none) := by
  refine ⟨?_, by and_intros <;> decide +kernel⟩
  intro un h
  fin_cases h <;> exact ⟨by decide +kernel, by decide +kernel, by decide +kernel, by decide +kernel, by decide +kernel, partsB (by decide +kernel)⟩

theorem witness_ScratchStores : ∃ i l r s ps, storeOf i l r s = some ps ∧ Ready i l r s ∧ Memory.wf s = true ∧
    (∃ b, here s = some b ∧ lookupsBelow b s.cur.slot = false) ∧ (coreHere s).task.isSome = true ∧
    allPass s [0, 0xF0, 0xF1, 0xF2] (ps.map fun p => (p.1, p.2.length)) ∧ (∀ p ∈ ps, selector p.1 = 0xF0) ∧ ps.length = 1 :=
  ⟨.st 0 0 0, 0xF000000000000100, 0x5A, mkG (.st 0 0 0) 0xF000000000000100 0x5A, [(0xF000000000000100, [0x5A])], by decide +kernel, ready_of (by decide +kernel),
   by decide +kernel, ex_some (by decide +kernel), by decide +kernel, allPass_of (by decide +kernel), by decide +kernel, by decide +kernel⟩

/-- A lookup of one byte. -/
def look (a : W64) : Lookup := { slot := 0, parts := [(a, 1)], acc := .read }

/-- A line entry of the running block and task 0 at 0x100. -/
def line1 : Entry := { id := 1, task := 0, blk := 0, addr := 0x100, kind := .line 0xF0 0 }

/-- A store of one byte at 0x100 with entries in the buffer; `wt` is write through. -/
def buffering (es : List Entry) (wt : Bool) : State :=
  onCore (mkG (.st 0 0 0) 0x100 0x5A) fun k => { k with entries := es, task := some { wt := wt } }

theorem nowhere_of {t : Task} {b : BlockRun} {ea : W64} {es : List Entry} (h : (es.all fun e => lineAddr e.addr != lineAddr ea) = true) :
    mergesNowhere t b ea es := by
  intro xs e ys m d he _ hm
  have := List.all_eq_true.mp h e (by simp [he])
  simp [hm.2.2.1] at this

theorem witness_BufferedStores_room : ∃ s, storeOf (.stv 0 1 0) 0x100 0 s = some [(0x100, List.replicate 128 0)] ∧ Ready (.stv 0 1 0) 0x100 0 s ∧
    (here s).isSome = true ∧ (∃ t, (coreHere s).task = some t ∧ t.wt = false) ∧ allPass s [0, 0xF0, 0xF1, 0xF2] [(0x100, 128)] ∧
    entriesUsed (coreHere s) + (splitLines 4 0x100 (List.replicate 128 0)).length ≤ 256 :=
  ⟨mkG (.stv 0 1 0) 0x100 0, by decide +kernel, ready_of (by decide +kernel), by decide +kernel, ex_some (by decide +kernel), allPass_of (by decide +kernel),
   by decide +kernel⟩

theorem witness_BufferedStores_merge : Ready (.st 0 0 0) 0x100 0x5A (buffering [line1] false) ∧
    allPass (buffering [line1] false) [0, 0xF0, 0xF1, 0xF2] [(0x100, 1)] ∧ (coreHere (buffering [line1] false)).task = some {} ∧
    here (buffering [line1] false) = some (blk (buffering [line1] false)) ∧ (coreHere (buffering [line1] false)).entries = [] ++ line1 :: [] ∧
    mergesInto {} (blk (buffering [line1] false)) 0x100 line1 [] :=
  ⟨ready_of (by decide +kernel), allPass_of (by decide +kernel), by decide +kernel, by decide +kernel, by decide +kernel,
   ⟨by decide +kernel, by decide +kernel, by decide +kernel, by simp⟩⟩

/-- Entries of another line. -/
def others (n : Nat) : List Entry := List.replicate n { line1 with addr := 0x200 }

/-- A full buffer; an earlier ordered task outstanding holds what must perform at once. -/
def full (held : Bool) : State := modRect (buffering (others 256) false) 0 fun r =>
  if held then { r with dom := { out := [outst 9 1, { outst 0 0 with ts := 6 }] } } else r

theorem witness_BufferedStores_new :
    (∀ n ∈ [0, 255], Ready (.st 0 0 0) 0x100 0x5A (buffering (others n) false) ∧ (coreHere (buffering (others n) false)).task = some {} ∧
      mergesNowhere {} (blk (buffering (others n) false)) 0x100 (coreHere (buffering (others n) false)).entries ∧
      allPass (buffering (others n) false) [0, 0xF0, 0xF1, 0xF2] [(0x100, 1)] ∧ entriesUsed (coreHere (buffering (others n) false)) < 256) ∧
    (∀ h ∈ [false, true], Ready (.st 0 0 0) 0x100 0x5A (full h) ∧ mergesNowhere {} (blk (full h)) 0x100 (coreHere (full h)).entries ∧
      allPass (full h) [0, 0xF0, 0xF1, 0xF2] [(0x100, 1)] ∧ 256 ≤ entriesUsed (coreHere (full h)) ∧ immediateHeld (full h) 0 0 = h) := by
  refine ⟨?_, ?_⟩
  rotate_left
  · intro h hh
    fin_cases hh <;> exact ⟨ready_of (by decide +kernel), nowhere_of (by decide +kernel), allPass_of (by decide +kernel), by decide +kernel, by decide +kernel⟩
  intro n hn
  fin_cases hn <;> exact ⟨ready_of (by decide +kernel), by decide +kernel, nowhere_of (by decide +kernel), allPass_of (by decide +kernel), by decide +kernel⟩

/-- A store that slot 1 makes, of a task that writes through or whose buffer is full. -/
def through : State := buffering [] true

theorem witness_BufferedStores_through : Ready (.st 0 0 0) 0x100 0x5A through ∧ allPass through [0, 0xF0, 0xF1, 0xF2] [(0x100, 1)] ∧
    (coreHere through).task = some { wt := true } ∧ lookupsBelow (blk through) 0 = false ∧ firstCause through (actor through) .write [(0x100, 1)] = none ∧
    writeHeld through (actor through) 0x100 1 = false ∧ drainingLine through (actor through) 0x100 1 = false ∧
    loadMeets through (actor through) 0x100 1 = false ∧ served through 0 (homeOf through (actor through) 0x100) 1 = true :=
  ⟨ready_of (by decide +kernel), allPass_of (by decide +kernel), by and_intros <;> decide +kernel⟩

theorem witness_StoreIsSeen : ∃ p y d l r s, Ready (.st p y d) l r s ∧ (here s).isSome = true ∧ (∃ t, (coreHere s).task = some t ∧ t.wt = false) ∧
    allPass s [0, 0xF0, 0xF1, 0xF2] [(addrPlus l d.toInt, widthOf y / 8)] ∧ selector (addrPlus l d.toInt) ≠ 0xF0 ∧
    entriesUsed (coreHere s) < 256 :=
  ⟨0, 0, 0, 0x100, 0x5A, mkG (.st 0 0 0) 0x100 0x5A, ready_of (by decide +kernel), by decide +kernel, ex_some (by decide +kernel), allPass_of (by decide +kernel), by decide +kernel,
   by decide +kernel⟩

theorem witness_LookupAnswers :
    (∃ s rid c l, coreActs s rid c = true ∧ (∃ b, runOf s rid c = some b ∧ b.lookups[0]? = some l) ∧ firstCause s (whoTask s rid c) l.acc l.parts = none) ∧
    (∃ s rid c l, coreActs s rid c = true ∧ (∃ b, runOf s rid c = some b ∧ b.lookups[0]? = some l) ∧
      firstCause s (whoTask s rid c) l.acc l.parts = some (0x064, 0x800000)) :=
  ⟨⟨onRun (mkG (.tend 0) 0 0) fun b => { b with lookups := [look 0x100] }, 0, 0, look 0x100, by decide +kernel, ex_some (by decide +kernel), by decide +kernel⟩,
   ⟨onRun (mkG (.tend 0) 0 0) fun b => { b with lookups := [look 0x800000] }, 0, 0, look 0x800000, by decide +kernel, ex_some (by decide +kernel), by decide +kernel⟩⟩

/-- The first half of the slot has performed. -/
def halved (s : State) : State := onRun s fun b => { b with part := [0] }

theorem witness_CommitAndFences :
    (∃ p l r s, Ready (.cmt p) l r s ∧ immediateHeld s s.cur.rid s.cur.core = false ∧ (coreHere s).task.isSome = true) ∧
    (∃ p e l r s, Ready (.fenceAcq p e) l r s ∧ loadsDelivered s = true) ∧
    (∃ p e l r s, Ready (.fenceRel p e) l r s ∧ immediateHeld s s.cur.rid s.cur.core = false ∧ partDone s = false) ∧
    (∃ p e l r s, Ready (.fenceRel p e) l r s ∧ immediateHeld s s.cur.rid s.cur.core = false ∧ partDone s = true ∧ releaseDone s (e == 4) = true) ∧
    (∃ p e l r s, Ready (.fenceSc p e) l r s ∧ immediateHeld s s.cur.rid s.cur.core = false ∧ partDone s = false) ∧
    (∃ p e l r s, Ready (.fenceSc p e) l r s ∧ immediateHeld s s.cur.rid s.cur.core = false ∧ partDone s = true ∧ releaseDone s (e == 4) = true ∧
      loadsDelivered s = true) :=
  ⟨⟨0, 0, 0, mkG (.cmt 0) 0 0, ready_of (by decide +kernel), by decide +kernel, by decide +kernel⟩,
   ⟨0, 0, 0, 0, mkG (.fenceAcq 0 0) 0 0, ready_of (by decide +kernel), by decide +kernel⟩,
   ⟨0, 0, 0, 0, mkG (.fenceRel 0 0) 0 0, ready_of (by decide +kernel), by decide +kernel, by decide +kernel⟩,
   ⟨0, 4, 0, 0, halved (mkG (.fenceRel 0 4) 0 0), ready_of (by decide +kernel), by and_intros <;> decide +kernel⟩,
   ⟨0, 0, 0, 0, mkG (.fenceSc 0 0) 0 0, ready_of (by decide +kernel), by decide +kernel, by decide +kernel⟩,
   ⟨0, 0, 0, 0, halved (mkG (.fenceSc 0 0) 0 0), ready_of (by decide +kernel), by and_intros <;> decide +kernel⟩⟩

theorem witness_SealWrites :
    (∃ p l r s, Memory.wf s = true ∧ quiet s s.cur.rid ∧ Ready (.seal p) l r s ∧ immediateHeld s s.cur.rid s.cur.core = false ∧ partDone s = false ∧
      translate s (actor s) l 8 8 .write [0, 0xF1, 0xF2] = .ok () ∧ watched s s.cur.rid s.cur.core l 8 .write = false) ∧
    (∃ p l r s, Memory.wf s = true ∧ quiet s s.cur.rid ∧ Ready (.seal p) l r s ∧ immediateHeld s s.cur.rid s.cur.core = false ∧ partDone s = true ∧
      releaseDone s true = true ∧ writeHeld s (actor s) l 8 = false ∧
      drainingLine s (actor s) l 8 = false ∧ loadMeets s (actor s) l 8 = false ∧
      served s (worldOf s.cur.rid) (homeOf s (actor s) l) 8 = true) :=
  ⟨⟨0, 0x100, 7, mkG (.seal 0) 0x100 7, by decide +kernel, quiet_of (by decide +kernel), ready_of (by decide +kernel), by decide +kernel, by decide +kernel, ok_of (by decide +kernel), by decide +kernel⟩,
   ⟨0, 0x100, 7, halved (mkG (.seal 0) 0x100 7), by decide +kernel, quiet_of (by decide +kernel), ready_of (by decide +kernel), by and_intros <;> decide +kernel⟩⟩

theorem witness_ProbeWord : (∃ p t l r s, Ready (.lprobe p t) l r s ∧ selector l = 0 ∧ (extentAt s (worldOf s.cur.rid) (l.toNat % 2 ^ 56)).isSome = true) ∧
    (∃ p t l r s, Ready (.lprobe p t) l r s ∧ selector l ≠ 0) :=
  ⟨⟨0, 0x1FF, 0x100, 0, mkG (.lprobe 0 0x1FF) 0x100 0, ready_of (by decide +kernel), by decide +kernel, by decide +kernel⟩,
   ⟨0, 0x1FF, 0x7700000000000000, 0, mkG (.lprobe 0 0x1FF) 0x7700000000000000 0, ready_of (by decide +kernel), by decide +kernel⟩⟩

theorem witness_AmoResults : ∃ p o w t l r s, Memory.wf s = true ∧ quiet s s.cur.rid ∧ Ready (.amo p o w t) l r s ∧
    immediateHeld s s.cur.rid s.cur.core = false ∧ atomicFree s l (wordBytes w) :=
  ⟨0, 0, 1, 0x1FF, 0x100, 7, mkG (.amo 0 0 1 0x1FF) 0x100 7, by decide +kernel, quiet_of (by decide +kernel), ready_of (by decide +kernel), by decide +kernel,
   ok_of (by decide +kernel), by and_intros <;> decide +kernel⟩

theorem witness_CasResults :
    (∃ p t l r s, Memory.wf s = true ∧ quiet s s.cur.rid ∧ Ready (.cas p 0 t) l r s ∧ immediateHeld s s.cur.rid s.cur.core = false ∧ atomicFree s l 4) ∧
    (∃ p t l r s, Memory.wf s = true ∧ quiet s s.cur.rid ∧ Ready (.cas p 1 t) l r s ∧ immediateHeld s s.cur.rid s.cur.core = false ∧ atomicFree s l 8 ∧
      checkLocal s (actor s) r 16 16 [0xF0] = .ok () ∧ readError s (worldOf s.cur.rid) (homeOf s (actor s) r) 16 = none) :=
  ⟨⟨0, 0x1FF, 0x100, 7, mkG (.cas 0 0 0x1FF) 0x100 7, by decide +kernel, quiet_of (by decide +kernel), ready_of (by decide +kernel), by decide +kernel,
    ok_of (by decide +kernel), by and_intros <;> decide +kernel⟩,
   ⟨0, 0x1FF, 0x100, 0xF000000000000200, mkG (.cas 0 1 0x1FF) 0x100 0xF000000000000200, by decide +kernel, quiet_of (by decide +kernel), ready_of (by decide +kernel), by decide +kernel,
    ⟨ok_of (by decide +kernel), by and_intros <;> decide +kernel⟩, ok_of (by decide +kernel), by decide +kernel⟩⟩

theorem witness_RedResults :
    (∃ p o w l r s, Memory.wf s = true ∧ Ready (.red p o w) l r s ∧ (∃ b, here s = some b ∧ lookupsBelow b s.cur.slot = false) ∧ selector l = 0xF0 ∧
      checkLocal s (actor s) l (wordBytes w) (wordBytes w) [0, 0xF0, 0xF1, 0xF2] = .ok () ∧ atomicFree s l (wordBytes w)) ∧
    (∃ p o w l r s, Ready (.red p o w) l r s ∧ (here s).isSome = true ∧ (∃ t, (coreHere s).task = some t ∧ t.wt = false) ∧ selector l ≠ 0xF0 ∧
      checkLocal s (actor s) l (wordBytes w) (wordBytes w) [0, 0xF0, 0xF1, 0xF2] = .ok () ∧ entriesUsed (coreHere s) < 256) :=
  ⟨⟨0, 0, 1, 0xF000000000000200, 7, mkG (.red 0 0 1) 0xF000000000000200 7, by decide +kernel, ready_of (by decide +kernel), ex_some (by decide +kernel), by decide +kernel,
    ok_of (by decide +kernel), ok_of (by decide +kernel), by and_intros <;> decide +kernel⟩,
   ⟨0, 0, 0, 0x100, 7, mkG (.red 0 0 0) 0x100 7, ready_of (by decide +kernel), by decide +kernel, ex_some (by decide +kernel), by decide +kernel, ok_of (by decide +kernel), by decide +kernel⟩⟩

/-- The address of cell 0 of die 0. -/
def cell0 : W64 := 0xF400000000000000

theorem witness_CellResults :
    (∃ p y l r s, Ready (.redf p y) l r s ∧ (here s).isSome = true ∧ (∃ t, (coreHere s).task = some t ∧ t.wt = false) ∧
      checkLocal s (actor s) l 32 32 [0xF4] = .ok () ∧ entriesUsed (coreHere s) < 256) ∧
    (∀ r ∈ [(-160 : W64), 127], ∃ p l s, Ready (.cellinit p) l r s ∧ (here s).isSome = true ∧ (∃ t, (coreHere s).task = some t ∧ t.wt = false) ∧
      checkLocal s (actor s) l 32 32 [0xF4] = .ok () ∧ -160 ≤ r.toInt ∧ r.toInt ≤ 127 ∧ entriesUsed (coreHere s) < 256) ∧
    (∃ p t l r s, Ready (.cellrd p t) l r s ∧ checkLocal s (actor s) l 32 32 [0xF4] = .ok () ∧ (cellNow s l).getLsbD 209 = false ∧
      dataError s (cellKey s.cur.rid (addrDie l) (addrOff l / 32)) 1 = none) ∧
    (∃ p t l r s, Ready (.cellrd p t) l r s ∧ checkLocal s (actor s) l 32 32 [0xF4] = .ok () ∧ (cellNow s l).getLsbD 209 = true ∧
      dataError s (cellKey s.cur.rid (addrDie l) (addrOff l / 32)) 1 = none) ∧
    (∃ p t l r s, Ready (.cellrd p t) l r s ∧ checkLocal s (actor s) l 32 32 [0xF4] = .ok () ∧
      dataError s (cellKey s.cur.rid (addrDie l) (addrOff l / 32)) 1 = some 0x082) := by
  refine ⟨⟨0, 8, cell0, 0x3F800000, mkG (.redf 0 8) cell0 0x3F800000, ready_of (by decide +kernel), by decide +kernel, ex_some (by decide +kernel), ok_of (by decide +kernel), by decide +kernel⟩,
    ?_, ⟨0, 0x1FF, cell0, 0, mkG (.cellrd 0 0x1FF) cell0 0, ready_of (by decide +kernel), ok_of (by decide +kernel), by and_intros <;> decide +kernel⟩,
    ⟨0, 0x1FF, cell0, 0, modLdie (mkG (.cellrd 0 0x1FF) cell0 0) 0 0 fun d => { d with cells := [(0, 1 <<< 209)] }, ready_of (by decide +kernel),
      ok_of (by decide +kernel), by and_intros <;> decide +kernel⟩,
    ⟨0, 0x1FF, cell0, 0, { mkG (.cellrd 0 0x1FF) cell0 0 with poison := [cellKey 0 0 0] }, ready_of (by decide +kernel), ok_of (by decide +kernel),
      by decide +kernel⟩⟩
  intro r hr
  refine ⟨0, cell0, mkG (.cellinit 0) cell0 r, ?_⟩
  fin_cases hr <;> exact ⟨ready_of (by decide +kernel), by decide +kernel, ex_some (by decide +kernel), ok_of (by decide +kernel), by and_intros <;> decide +kernel⟩

/-- One entry in the drain of core 0. -/
def draining (s : State) (a : W64) (k : EntKind) : State :=
  onCore s fun q => { q with drain := [{ entry := { id := 9, task := 0, blk := 1, addr := a, kind := k }, rcd := 0, commit := 8 }] }

/-- The oldest entry of a drain may perform. -/
def drains (s : State) (a : W64) (k : EntKind) : Prop :=
  coreUnit s 0 0 = true ∧ (coreAt s 0 0).replay = [] ∧ entryBehind s 0 0 [] { entry := { id := 9, task := 0, blk := 1, addr := a, kind := k }, rcd := 0, commit := 8 } = false ∧
  targetRuns s (whoEntry 0 0 { entry := { id := 9, task := 0, blk := 1, addr := a, kind := k }, rcd := 0, commit := 8 }) a = true ∧
  loadMeets s (whoEntry 0 0 { entry := { id := 9, task := 0, blk := 1, addr := a, kind := k }, rcd := 0, commit := 8 }) a 64 = false

/-- The same with the cell poisoned. -/
def badCell : State := { draining (mkG (.tend 0) 0 0) cell0 (.redf false 1) with poison := [cellKey 0 0 0] }

/-- The party of the entry of `draining` for the cell. -/
def whoCell (k : EntKind) : Who :=
  whoEntry 0 0 { entry := { id := 9, task := 0, blk := 1, addr := cell0, kind := k }, rcd := 0, commit := 8 }

theorem witness_CellDrains :
    (∀ k ∈ [EntKind.cellinit (-160), .cellinit 127, .redf false 0x3F800000, .redf false 1, .redf false 0x7F800000],
      drains (draining (mkG (.tend 0) 0 0) cell0 k) cell0 k ∧ loadMeets (draining (mkG (.tend 0) 0 0) cell0 k) (whoCell k) cell0 32 = false ∧ selector cell0 = 0xF4 ∧
      dataError (draining (mkG (.tend 0) 0 0) cell0 k) (cellKey 0 (addrDie cell0) (addrOff cell0 / 32)) 1 = none) ∧
    (drains badCell cell0 (.redf false 1) ∧ loadMeets badCell (whoCell (.redf false 1)) cell0 32 = false ∧ dataError badCell (cellKey 0 (addrDie cell0) (addrOff cell0 / 32)) 1 ≠ none) ∧
    contribution false 0x7FC00000 = .nan ∧ contribution false 0x7F800000 = .inf false ∧ contribution false 1 = .num false 1 (-149) false := by
  refine ⟨?_, ⟨⟨by decide +kernel, by decide +kernel, by decide +kernel, by decide +kernel, by decide +kernel⟩, by decide +kernel, by decide +kernel⟩, by decide +kernel, by decide +kernel,
    by decide +kernel⟩
  intro k hk
  fin_cases hk <;> exact ⟨⟨by decide +kernel, by decide +kernel, by decide +kernel, by decide +kernel, by decide +kernel⟩, by decide +kernel, by decide, by decide +kernel⟩

/-- The party of the drained entry. -/
def who1 (k : EntKind) : Who := whoEntry 0 0 { entry := { id := 9, task := 0, blk := 1, addr := 0x100, kind := k }, rcd := 0, commit := 8 }

/-- The home of the drained address 0x100. -/
def home1 (s : State) (k : EntKind) : Place :=
  homeOf s (whoEntry 0 0 { entry := { id := 9, task := 0, blk := 1, addr := 0x100, kind := k }, rcd := 0, commit := 8 }) 0x100

theorem witness_DrainPerforms : ∀ k ∈ [EntKind.line 1 7, .red 0 true 7], let s := draining (mkG (.tend 0) 0 0) 0x100 k
    Memory.wf s = true ∧ quiet s 0 ∧ drains s 0x100 k ∧ writeHeld s (who1 k) 0x100 64 = false ∧ writeHeld s (who1 k) 0x100 8 = false ∧
    loadMeets s (who1 k) 0x100 8 = false ∧ served s 0 (home1 s k) 64 = true ∧ readError s 0 (home1 s k) 8 = none := by
  intro k hk
  fin_cases hk <;> exact ⟨by decide +kernel, quiet_of (by decide +kernel),
    ⟨by decide +kernel, by decide +kernel, by decide +kernel, by decide +kernel, by decide +kernel⟩, by and_intros <;> decide +kernel⟩

theorem witness_AcknowledgementReleases :
    (∀ h ∈ [true, false], let s := onCore (mkG (.tend 0) 0 0) fun k => { k with acks := [⟨9, 0, 4, h, false⟩] }
      clockRuns s (coreDie (rectAt s 0) 0) = true ∧ (coreAt s 0 0).acks[0]? = some ⟨9, 0, 4, h, false⟩) ∧
    clockRuns (modDie (mkG (.tend 0) 0 0) 0 fun d => { d with relock := true }) 0 = false := by
  refine ⟨?_, by decide +kernel⟩
  intro h hh
  fin_cases hh <;> exact ⟨by decide +kernel, by decide +kernel⟩

/-! ### Tasks, queues, semaphores, CSRs, monitors -/

/-- The address of a record of zeros in the scratchpad: entry 0, stage 0. -/
def rcdAt : W64 := 0xF000000000000200

theorem spawning_of {s : State} (h : (here s).isSome = true) (ht : (coreHere s).task.isSome = true) (hr : readRecord s rcdAt = .ok 0)
    (hc : checkRecord s s.cur.rid 0 = none) : ∃ b t, here s = some b ∧ (coreHere s).task = some t ∧ spawning s rcdAt b t 0 := by
  obtain ⟨b, hb⟩ := Option.isSome_iff_exists.mp h
  obtain ⟨t, ht⟩ := Option.isSome_iff_exists.mp ht
  exact ⟨b, t, hb, ht, hb, ht, hr, hc⟩

/-- A state with SPAWN of that record, in which the queue and the task are changed. -/
def spawnState (f : Queue → Queue) (t : Task) (depthmax : Nat) : State :=
  onCore (onCsr (modQueue (mkG (.spawn 0 0x1FF) rcdAt 0) 0 0 f) fun q => { q with depthmax := depthmax }) fun k => { k with task := some t }

theorem witness_SpawnResults :
    (∃ s, Ready (.spawn 0 0x1FF) rcdAt 0 s ∧ (∃ b t, here s = some b ∧ (coreHere s).task = some t ∧ spawning s rcdAt b t 0) ∧
      (∃ t, (coreHere s).task = some t ∧ recOrdered t.rcd = false ∧ roomFor (queueAt s 0 (queueFor s 0)) t.uid = true) ∧
      immediateHeld s s.cur.rid s.cur.core = false ∧ recordDrains s rcdAt = false ∧ pushWaits s 0 (queueFor s 0) 0 = false ∧ (queueAt s 0 (queueFor s 0)).spill = []) ∧
    (∃ s, Ready (.spawn 0 0x1FF) rcdAt 0 s ∧ (∃ b t, here s = some b ∧ (coreHere s).task = some t ∧ spawning s rcdAt b t 0) ∧
      (∃ t, (coreHere s).task = some t ∧ recOrdered t.rcd = false ∧ roomFor (queueAt s 0 (queueFor s 0)) t.uid = false) ∧
      immediateHeld s s.cur.rid s.cur.core = false ∧ recordDrains s rcdAt = false ∧ (queueAt s 0 (queueFor s 0)).spill = [] ∧ recOrdered 0 = false ∧
      (coreHere s).csr.depth < (coreHere s).csr.depthmax ∧ ∃ b, here s = some b ∧ b.inl = none) ∧
    (∃ s, Ready (.spawn 0 0x1FF) rcdAt 0 s ∧ (∃ b t, here s = some b ∧ (coreHere s).task = some t ∧ spawning s rcdAt b t 0) ∧
      (∃ t, (coreHere s).task = some t ∧ recOrdered t.rcd = false) ∧ immediateHeld s s.cur.rid s.cur.core = false ∧ recordDrains s rcdAt = false ∧
      pushWaits s 0 (queueFor s 0) 0 = false ∧ (queueAt s 0 (queueFor s 0)).spill.length < 8 * (queueAt s 0 (queueFor s 0)).cap ∧ (queueAt s 0 (queueFor s 0)).spill ≠ [] ∧
      (spillPut (noteRecord s rcdAt) 0 (queueAt s 0 (queueFor s 0)) 0).isSome = true) ∧
    (∃ s, Ready (.spawn 0 0x1FF) rcdAt 0 s ∧ (∃ b t, here s = some b ∧ (coreHere s).task = some t ∧ spawning s rcdAt b t 0) ∧
      (∃ t, (coreHere s).task = some t ∧ recOrdered t.rcd = true ∧ t.wt = false) ∧ recOrdered 0 = false ∧ entriesUsed (coreHere s) < 256) :=
  ⟨⟨spawnState id {} 0, ready_of (by decide +kernel), spawning_of (by decide +kernel) (by decide +kernel) (by rfl) (by decide +kernel),
    ex_some (by decide +kernel), by and_intros <;> decide +kernel⟩,
   ⟨spawnState (fun q => { q with cap := 0 }) {} 1, ready_of (by decide +kernel), spawning_of (by decide +kernel) (by decide +kernel) (by rfl) (by decide +kernel),
    ex_some (by decide +kernel), by decide +kernel, by decide +kernel, by decide +kernel, by decide +kernel, by decide +kernel, ex_some (by decide +kernel)⟩,
   ⟨spawnState (fun q => { q with spill := [0] }) {} 0, ready_of (by decide +kernel), spawning_of (by decide +kernel) (by decide +kernel) (by rfl) (by decide +kernel),
    ex_some (by decide +kernel), by and_intros <;> decide +kernel⟩,
   ⟨spawnState id { rcd := 0x1000000 } 0, ready_of (by decide +kernel), spawning_of (by decide +kernel) (by decide +kernel) (by rfl) (by decide +kernel),
    ex_some (by decide +kernel), by decide +kernel, by decide +kernel⟩⟩

/-- A queue that spills to a granule of HBM4E that its world does not own. -/
def barred : State :=
  { spawnState (fun q => { q with spill := [0], spillGlobal := true, spillBase := 0 }) {} 0 with
    extents := [(5, { world := 0, tier := 0, rd := true, wr := true, pins := 0, vbase := 0, pbase := 0, len := 4 })], ranges := [] }

theorem witness_SpawnResults_refused : Ready (.spawn 0 0x1FF) rcdAt 0 barred ∧
    (∃ b t, here barred = some b ∧ (coreHere barred).task = some t ∧ spawning barred rcdAt b t 0) ∧
    immediateHeld barred 0 0 = false ∧ recordDrains barred rcdAt = false ∧ pushWaits barred 0 (queueFor barred 0) 0 = false ∧
    (queueAt barred 0 (queueFor barred 0)).spill ≠ [] ∧ (spillPut (noteRecord barred rcdAt) 0 (queueAt barred 0 (queueFor barred 0)) 0).isNone = true :=
  ⟨ready_of (by decide +kernel), spawning_of (by decide +kernel) (by decide +kernel) (by rfl) (by decide +kernel), by and_intros <;> decide +kernel⟩

theorem witness_DequeResults :
    (∃ s n, Ready (.dqpush 0 0x1FF) rcdAt 0 s ∧ (∃ b t, here s = some b ∧ (coreHere s).task = some t ∧ spawning s rcdAt b t 0) ∧
      immediateHeld s s.cur.rid s.cur.core = false ∧ recordDrains s rcdAt = false ∧ (coreHere s).stage = some (recStage 0) ∧ (coreHere s).deque.length = n ∧ n = 31) ∧
    (∃ s n, Ready (.dqpush 0 0x1FF) rcdAt 0 s ∧ (∃ b t, here s = some b ∧ (coreHere s).task = some t ∧ spawning s rcdAt b t 0) ∧
      immediateHeld s s.cur.rid s.cur.core = false ∧ recordDrains s rcdAt = false ∧ (coreHere s).stage = some (recStage 0) ∧ (coreHere s).deque.length = n ∧ n = 32) ∧
    (∃ s, Memory.wf s = true ∧ Ready (.dqpop 0 0x1FF) rcdAt 0 s ∧ (here s).isSome = true ∧ (coreHere s).task.isSome = true ∧
      immediateHeld s s.cur.rid s.cur.core = false ∧ checkLocal s (actor s) rcdAt 64 64 [0xF0, 0xF1] = .ok () ∧ (coreHere s).deque = []) ∧
    (∃ s, Memory.wf s = true ∧ Ready (.dqpop 0 0x1FF) rcdAt 0 s ∧ (here s).isSome = true ∧ (coreHere s).task.isSome = true ∧
      immediateHeld s s.cur.rid s.cur.core = false ∧ checkLocal s (actor s) rcdAt 64 64 [0xF0, 0xF1] = .ok () ∧ (coreHere s).deque = [] ++ [5]) :=
  ⟨⟨onCore (mkG (.dqpush 0 0x1FF) rcdAt 0) fun k => { k with deque := List.replicate 31 0 }, 31, ready_of (by decide +kernel),
    spawning_of (by decide +kernel) (by decide +kernel) (by rfl) (by decide +kernel), by decide +kernel, by decide +kernel, by decide +kernel, by decide +kernel, rfl⟩,
   ⟨onCore (mkG (.dqpush 0 0x1FF) rcdAt 0) fun k => { k with deque := List.replicate 32 0 }, 32, ready_of (by decide +kernel),
    spawning_of (by decide +kernel) (by decide +kernel) (by rfl) (by decide +kernel), by decide +kernel, by decide +kernel, by decide +kernel, by decide +kernel, rfl⟩,
   ⟨mkG (.dqpop 0 0x1FF) rcdAt 0, by decide +kernel, ready_of (by decide +kernel), by decide +kernel, by decide +kernel, by decide +kernel,
    ok_of (by decide +kernel), by decide +kernel⟩,
   ⟨onCore (mkG (.dqpop 0 0x1FF) rcdAt 0) fun k => { k with deque := [5] }, by decide +kernel, ready_of (by decide +kernel), by decide +kernel,
    by decide +kernel, by decide +kernel, ok_of (by decide +kernel), by decide +kernel⟩⟩

theorem witness_QueueReservations :
    (∃ p k q x l r s n, Ready (.qlen p k q x) l r s ∧ namedQueue s k q false = .ok n) ∧
    (∀ l ∈ [(1 : W64), 64], ∃ p k q x r s n, Ready (.qrsv p k q x) l r s ∧ namedQueue s k q true = .ok n ∧ immediateHeld s s.cur.rid s.cur.core = false ∧
      queueRuns s s.cur.rid n = true ∧ 1 ≤ l.toNat ∧ l.toNat ≤ 64) := by
  refine ⟨⟨0, 1, 0, 0x1FF, 0, 0, mkG (.qlen 0 1 0 0x1FF) 0 0, 0, ready_of (by decide +kernel), by rfl⟩, ?_⟩
  intro l hl
  refine ⟨0, 1, 0, 0x1FF, 0, mkG (.qrsv 0 1 0 0x1FF) l 0, 0, ?_⟩
  fin_cases hl <;> exact ⟨ready_of (by decide +kernel), by rfl, by and_intros <;> decide +kernel⟩

/-- The address of semaphore 2 of die 0. -/
def sem2 : W64 := 0xF300000000000008

theorem witness_SemaphoresChange :
    (∃ p x l r s, Ready (.semadd p x) l r s ∧ semFree s l ∧ replayEmpty s s.cur.rid s.cur.core = true ∧ semRuns s s.cur.rid (addrDie l) = true) ∧
    (∃ p l r s, Ready (.semset p) l r s ∧ semFree s l ∧ replayEmpty s s.cur.rid s.cur.core = true ∧ semRuns s s.cur.rid (addrDie l) = true) ∧
    (∃ p x l r s, Ready (.semrd p x) l r s ∧ semFree s l) :=
  ⟨⟨0, 0x1FF, sem2, 5, mkG (.semadd 0 0x1FF) sem2 5, ready_of (by decide +kernel), ⟨ok_of (by decide +kernel), by decide +kernel⟩, by decide +kernel, by decide +kernel⟩,
   ⟨0, sem2, 5, mkG (.semset 0) sem2 5, ready_of (by decide +kernel), ⟨ok_of (by decide +kernel), by decide +kernel⟩, by decide +kernel, by decide +kernel⟩,
   ⟨0, 0x1FF, sem2, 0, mkG (.semrd 0 0x1FF) sem2 0, ready_of (by decide +kernel), ok_of (by decide +kernel), by decide +kernel⟩⟩

theorem witness_SemaphoreSatisfies : ∃ p l r s, Ready (.semset p) l r s ∧ semFree s l ∧ replayEmpty s s.cur.rid s.cur.core = true ∧ semRuns s s.cur.rid (addrDie l) = true ∧
    (ldieAt s s.cur.rid (addrDie l)).conts ≠ [] :=
  ⟨0, sem2, 5, modLdie (mkG (.semset 0) sem2 5) 0 0 fun d => { d with conts := [⟨0, 0, 0, 2, 5, false, 0, 0, {}⟩] }, ready_of (by decide +kernel),
   ⟨ok_of (by decide +kernel), by decide +kernel⟩, by decide +kernel, by decide +kernel, by decide +kernel⟩

theorem witness_PushesPerform : ∃ s rid c pb, coreActs s rid c = true ∧ taskSafe s rid c = true ∧ portBind s rid c 1 = some pb ∧ pb.pop = false ∧
    queueRuns s rid pb.queue = true ∧ roomFor (queueAt s rid pb.queue) (coreUid s rid c) = true ∧
    ∃ b, runOf s rid c = some b ∧ b.pushes[0]? = some ⟨0, 1, .ready 9⟩ ∧ (∀ q ∈ b.pushes, q.port = 1 → q.slot < 0 → q.st = .past) ∧
      (∀ q ∈ b.lookups, 0 ≤ q.slot) ∧ fencePending b 0 = false :=
  ⟨onRun (mkG (.tend 0) 0 0) fun b => { b with pushes := [⟨0, 1, .ready 9⟩] }, 0, 0, ⟨1, 2, false⟩, by decide +kernel, by decide +kernel,
   by decide +kernel, by decide +kernel, by decide +kernel, by decide +kernel, ex_some (by decide +kernel)⟩

/-- One finished ordered record outstanding, of core 0. -/
def outstandingOne (committing : Bool) : State := modRect (mkG (.tend 0) 0 0) 0 fun r =>
  { r with dom := { out := [{ outst 3 0 with rcd := 0x1000000, finished := true, committing := committing }] } }

theorem witness_OrderedCommits : ∀ cm ∈ [false, true], ∃ s rid o, (rectAt s rid).dom.out.find? (fun o => o.uid == 3) = some o ∧ o.finished = true ∧
    (∀ p ∈ (rectAt s rid).dom.out, o.ts ≤ p.ts) ∧ (∀ p ∈ (rectAt s rid).dom.out, p.finished = true → p.ts = o.ts → o.order ≤ p.order) ∧
    arbiterRuns s rid = true ∧ clockRuns s (coreDie (rectAt s rid) o.core) = true ∧ o.committing = cm ∧ taskDrains (rectAt s rid) 3 = [] := by
  intro cm hcm
  refine ⟨outstandingOne cm, 0, _, rfl, rfl, ?_⟩
  fin_cases hcm <;> exact (by and_intros <;> decide +kernel)

theorem witness_BalancerChooses : (∃ s rid, (rectAt s rid).live = true ∧ arbiterRuns s rid = true ∧ (rectAt s rid).bal.samples.length < 8) ∧
    (∃ s rid, (rectAt s rid).live = true ∧ arbiterRuns s rid = true ∧ (rectAt s rid).bal.samples.length = 8) ∧ (∃ r c st, balanceMove r = some (c, st)) :=
  ⟨⟨mkG (.tend 0) 0 0, 0, by and_intros <;> decide +kernel⟩,
   ⟨modRect (mkG (.tend 0) 0 0) 0 fun r => { r with bal := { samples := List.replicate 8 [0] } }, 0, by and_intros <;> decide +kernel⟩,
   ⟨{ stages := [(0, { queue := 0, min := 1, max := 8 })], queues := [(0, { isTask := true, cap := 4 })], cores := [(0, { stage := some 0 }), (1, {}), (2, {})],
      bal := { samples := List.replicate 8 [1000] } }, 7, 0, by decide +kernel⟩⟩

theorem witness_CsrResults :
    (∃ p x l r s, Ready (.csrr p 0 x) l r s ∧ (here s).isSome = true) ∧
    (∃ p x l r s, Ready (.csrr p 0x020 x) l r s ∧ (here s).isSome = true ∧ (coreHere s).csr.hmode = true) ∧
    (∃ p c x l r s v, Ready (.csrr p c x) l r s ∧ (here s).isSome = true ∧ csrReads s c.toNat = some v) ∧
    (∃ p c l r s, Ready (.csrw p c) l r s ∧ isWritable (coreHere s).csr.hmode c.toNat = true ∧ (coreHere s).csr.hmode = false) ∧
    (∃ p c l r s, Ready (.csrw p c) l r s ∧ isWritable (coreHere s).csr.hmode c.toNat = true ∧ (coreHere s).csr.hmode = true ∧
      immediateHeld s s.cur.rid s.cur.core = false) :=
  ⟨⟨0, 0x1FF, 0, 0, mkG (.csrr 0 0 0x1FF) 0 0, ready_of (by decide +kernel), by decide +kernel⟩,
   ⟨0, 0x1FF, 0, 0, onCsr (mkG (.csrr 0 0x020 0x1FF) 0 0) fun q => { q with hmode := true }, ready_of (by decide +kernel), by decide +kernel, by decide +kernel⟩,
   ⟨0, 5, 0x1FF, 0, 0, mkG (.csrr 0 5 0x1FF) 0 0, 0, ready_of (by decide +kernel), by decide +kernel, by decide +kernel⟩,
   ⟨0, 0, 7, 0, mkG (.csrw 0 0) 7 0, ready_of (by decide +kernel), by decide +kernel, by decide +kernel⟩,
   ⟨0, 0x027, 7, 0, onCsr (mkG (.csrw 0 0x027) 7 0) fun q => { q with hmode := true }, ready_of (by decide +kernel), by and_intros <;> decide +kernel⟩⟩

theorem witness_CsrFaults :
    (∃ p c x l r s, Ready (.csrr p c x) l r s ∧ isCsr s.rev c.toNat = false) ∧ (∃ p c l r s, Ready (.csrw p c) l r s ∧ isCsr s.rev c.toNat = false) ∧
    (∃ p c x l r s, Ready (.csrr p c x) l r s ∧ isCsr s.rev c.toNat = true ∧ 0x020 ≤ c.toNat ∧ (coreHere s).csr.hmode = false) ∧
    (∃ p c l r s, Ready (.csrw p c) l r s ∧ isCsr s.rev c.toNat = true ∧ isWritable (coreHere s).csr.hmode c.toNat = false) :=
  ⟨⟨0, 0x034, 0x1FF, 0, 0, mkG (.csrr 0 0x034 0x1FF) 0 0, ready_of (by decide +kernel), by decide +kernel⟩,
   ⟨0, 8, 0, 0, mkG (.csrw 0 8) 0 0, ready_of (by decide +kernel), by decide +kernel⟩,
   ⟨0, 0x020, 0x1FF, 0, 0, mkG (.csrr 0 0x020 0x1FF) 0 0, ready_of (by decide +kernel), by and_intros <;> decide +kernel⟩,
   ⟨0, 7, 0, 0, mkG (.csrw 0 7) 0 0, ready_of (by decide +kernel), by decide +kernel, by decide +kernel⟩⟩

/-- Monitor 0 of die 0 given to rectangle 0. -/
def monitored (s : State) : State := { s with monAlloc := [(0, 0x080)] }

theorem witness_TimeAndMonitors :
    (∃ p x l r s, Ready (.time p 0 x) l r s) ∧ (∃ p x l r s, Ready (.time p 1 x) l r s) ∧
    (∃ p l r s n, Ready (.moncfg p) l r s ∧ immediateHeld s s.cur.rid s.cur.core = false ∧ monitorAt s s.cur.rid l = some n ∧
      checkLocal s (actor s) r 64 64 [0xF0] = .ok () ∧ readError s (worldOf s.cur.rid) (homeOf s (actor s) r) 64 = none ∧
      badMonitor (readKeys s (place s r) 64) = false ∧ clockRuns s (n / 32) = true) ∧
    (∃ p i x l r s n, Ready (.monrd p i x) l r s ∧ monitorAt s s.cur.rid l = some n ∧ (tget {} s.monitors n).src ∉ [1, 6, 7] ∧ i.toNat ≤ 9) :=
  ⟨⟨0, 0x1FF, 0, 0, mkG (.time 0 0 0x1FF) 0 0, ready_of (by decide +kernel)⟩, ⟨0, 0x1FF, 0, 0, mkG (.time 0 1 0x1FF) 0 0, ready_of (by decide +kernel)⟩,
   ⟨0, 0, rcdAt, monitored (mkG (.moncfg 0) 0 rcdAt), 0, ready_of (by decide +kernel), by decide +kernel, by decide +kernel, ok_of (by decide +kernel),
    by and_intros <;> decide +kernel⟩,
   ⟨0, 9, 0x1FF, 0, 0, monitored (mkG (.monrd 0 9 0x1FF) 0 0), 0, ready_of (by decide +kernel), by and_intros <;> decide +kernel⟩⟩

/-! ### Vectors -/

theorem witness_LaneResults :
    (∃ i d a b w rule l r s, LaneRule i d a b w rule ∧ Ready i l r s ∧ isFloat 8 = true) ∧ (∃ i d a b w rule l r s, LaneRule i d a b w rule ∧ Ready i l r s ∧ w = 8) :=
  ⟨⟨_, _, _, _, _, _, 0, 0, mk (.vadd 0 1 2 3 0 10) 0 0, .vadd 0 1 2 3 0 10, ready_of (by decide +kernel), by decide +kernel⟩,
   ⟨_, _, _, _, _, _, 0, 0, mk (.viadd 0 1 2 3 0) 0 0, .viadd 0 1 2 3 0, ready_of (by decide +kernel), by decide +kernel⟩⟩

theorem witness_ConvertsDo : ∃ p d a g m y l r s, Ready (.vcvt p d a g m y) l r s :=
  ⟨0, 1, 2, 10, 0, 8, 0, 0, mk (.vcvt 0 1 2 10 0 8) 0 0, ready_of (by decide +kernel)⟩

theorem witness_QuantResults : (∃ p d a b n y l r s, Ready (.vqnt p d a b n y) l r s) ∧ (∃ p d a b n y l r s, Ready (.vdqnt p d a b n y) l r s) :=
  ⟨⟨0, 1, 2, 4, 3, 12, 0, 0, mk (.vqnt 0 1 2 4 3 12) 0 0, ready_of (by decide +kernel)⟩,
   ⟨0, 2, 1, 4, 3, 13, 0, 0, mk (.vdqnt 0 2 1 4 3 13) 0 0, ready_of (by decide +kernel)⟩⟩

theorem witness_ReduceBoth : (∃ p y a m o x l r s, Ready (.vred p y a m o x) l r s ∧ isFloat y = false) ∧
    (∃ p y a m o x l r s, Ready (.vred p y a m o x) l r s ∧ isFloat y = true) :=
  ⟨⟨0, 4, 1, 0, 2, 0x1FF, 0, 0, mk (.vred 0 4 1 0 2 0x1FF) 0 0, ready_of (by decide +kernel), by decide +kernel⟩,
   ⟨0, 10, 1, 0, 0, 0x1FF, 0, 0, mk (.vred 0 10 1 0 0 0x1FF) 0 0, ready_of (by decide +kernel), by decide +kernel⟩⟩

theorem witness_LaneMoves :
    (∃ p d a y l r s, Ready (.vbcast p d a 0 y) l r s) ∧ (∃ p d a m y l r s, m ≠ 0 ∧ Ready (.vbcast p d a m y) l r s ∧ l.toNat < 1024 / widthOf y) ∧
    (∃ p d a b y l r s, Ready (.vshuf p d a b y) l r s) ∧ (∃ p d y l r s, Ready (.vins p d y) l r s ∧ l.toNat < 1024 / widthOf y) ∧
    (∃ p d a l r s, Ready (.vmov p d a) l r s) ∧ (∃ p d l r s, Ready (.vzero p d) l r s) ∧
    (∃ p y a x l r s, Ready (.vext p y a x) l r s ∧ l.toNat < 1024 / widthOf y) :=
  ⟨⟨0, 1, 0, 0, 7, 0, mk (.vbcast 0 1 0 0 0) 7 0, ready_of (by decide +kernel)⟩,
   ⟨0, 1, 2, 1, 0, 127, 0, mk (.vbcast 0 1 2 1 0) 127 0, by decide, ready_of (by decide +kernel), by decide +kernel⟩,
   ⟨0, 1, 2, 3, 0, 0, 0, mk (.vshuf 0 1 2 3 0) 0 0, ready_of (by decide +kernel)⟩,
   ⟨0, 1, 0, 127, 5, mk (.vins 0 1 0) 127 5, ready_of (by decide +kernel), by decide +kernel⟩,
   ⟨0, 1, 2, 0, 0, mk (.vmov 0 1 2) 0 0, ready_of (by decide +kernel)⟩, ⟨0, 1, 0, 0, mk (.vzero 0 1) 0 0, ready_of (by decide +kernel)⟩,
   ⟨0, 4, 1, 0x1FF, 127, 0, mk (.vext 0 4 1 0x1FF) 127 0, ready_of (by decide +kernel), by decide +kernel⟩⟩

theorem witness_LaneIndexFaults :
    (∃ p d a m y l r s, m ≠ 0 ∧ Ready (.vbcast p d a m y) l r s ∧ 1024 / widthOf y ≤ l.toNat) ∧
    (∃ p y a x l r s, Ready (.vext p y a x) l r s ∧ 1024 / widthOf y ≤ l.toNat) ∧ (∃ p d y l r s, Ready (.vins p d y) l r s ∧ 1024 / widthOf y ≤ l.toNat) :=
  ⟨⟨0, 1, 2, 1, 0, 128, 0, mk (.vbcast 0 1 2 1 0) 128 0, by decide, ready_of (by decide +kernel), by decide +kernel⟩,
   ⟨0, 4, 1, 0x1FF, 128, 0, mk (.vext 0 4 1 0x1FF) 128 0, ready_of (by decide +kernel), by decide +kernel⟩,
   ⟨0, 1, 0, 128, 5, mk (.vins 0 1 0) 128 5, ready_of (by decide +kernel), by decide +kernel⟩⟩


/-! ### The matrix array -/

/-- Core 2, at (1,1) of the page, with an array; its sources are tiles 4 and 1 and its drain goes to tile 6. -/
def arrayed (s : State) (a : MArray) : State := modCore s 0 2 fun k => { k with arr := a }

def idle2 (a : MArray) : State := arrayed (mkG (.tend 0) 0 0) a

/-- The slot of step's next instruction moved to core 2. -/
def mk2 (i : Instr) (l r : W64) : State :=
  let s := mkG i l r
  { modCore (modCore s 0 2 fun _ => coreAt s 0 0) 0 0 fun _ => {} with cur := { s.cur with core := 2 } }

/-- A pattern of one packet: header at 0 of the tile, 256 bytes of payload at 256. -/
def onePacket : BitVec 512 := BitVec.ofNat 512 (0xC0 * 2 ^ 8 + 2 ^ 16 + 256 * 2 ^ 32 + 31 * 2 ^ 128 + 8 * 2 ^ 160)

/-- Slot 0 of tiles 4 and 1 loaded with a packet of one row and one column of K = 1, the row's element being x. -/
def sourced (s : State) (x : Nat) : State :=
  let s := modSlot (modSlot s 0 4 0 fun p => { p with desc := onePacket, st := .loaded }) 0 1 0 fun p => { p with desc := onePacket, st := .loaded }
  let s := writeNat s (Place.key (.mt 0 4 0)) 64 (9 + 0x3F800000 * 2 ^ 128)
  let s := writeNat s (Place.key (.mt 0 1 0)) 64 (9 + 2 * 2 ^ 8)
  writeNat (writeNat s (Place.key (.mt 0 4 256)) 4 x) (Place.key (.mt 0 1 256)) 4 x

def h2 : Hdr := { core := 2 }

def minits (n : Nat) : List MCmd := List.replicate n { hdr := h2, work := .minit 0 }

/-- MMAC of K = 1,024 and MGRANT find the queue empty, MINIT finds it full. -/
theorem witness_MatrixCommandsQueue :
    (∃ s, MatrixWord s (.mmac 0 0 7) 0x40000 0 (.mmac 0x40000 false) 7 none ∧ Ready (.mmac 0 0 7) 0x40000 0 s ∧ cmdFree s 7 ∧
      arrayUnit s s.cur.rid (arrayHere s) = true ∧ (arrAt s s.cur.rid (arrayHere s)).q.length < 16) ∧
    (∃ s, MatrixWord s (.mgrant 0 0 7) 0xFFFFF 0 (.mgrant 0xFFFFF) 7 none ∧ Ready (.mgrant 0 0 7) 0xFFFFF 0 s ∧ cmdFree s 7 ∧
      arrayUnit s s.cur.rid (arrayHere s) = true ∧ (arrAt s s.cur.rid (arrayHere s)).q = []) ∧
    (∃ s, MatrixWord s (.minit 0 0 7) 0x3FF 0 (.minit 0x3FF) 7 none ∧ Ready (.minit 0 0 7) 0x3FF 0 s ∧ cmdFree s 7 ∧
      16 ≤ (arrAt s s.cur.rid (arrayHere s)).q.length) := by
  unfold cmdFree
  refine ⟨⟨mk2 (.mmac 0 0 7) 0x40000 0, ?_, ready_of ?_, ?_, ?_⟩, ⟨mk2 (.mgrant 0 0 7) 0xFFFFF 0, ?_, ready_of ?_, ?_, ?_⟩,
    ⟨arrayed (mk2 (.minit 0 0 7) 0x3FF 0) { q := minits 16 }, ?_, ready_of ?_, ?_, ?_⟩⟩
  case refine_1 => apply MatrixWord.mmac 0 0 7 0x40000 0 none <;> first | decide +kernel | (unfold Claims.semWord; decide +kernel)
  case refine_5 => apply MatrixWord.mgrant 0 0 7 0xFFFFF 0 none <;> first | decide +kernel | (unfold Claims.semWord; decide +kernel)
  case refine_9 => apply MatrixWord.minit 0 0 7 0x3FF 0 none <;> first | decide +kernel | (unfold Claims.semWord; decide +kernel)
  all_goals decide +kernel

/-- MDRAIN of 64 by 64 of type 8 at offset 0, MGANG of 6 by 3 and MGRANT of the largest amount are in range. -/
theorem witness_MatrixWords :
    (∃ s w k sem b, MatrixWord s (.mdrain 0 0 7) (BitVec.ofNat 64 (0x20 + 63 * 2 ^ 48 + 63 * 2 ^ 54)) b w k sem) ∧
    (∃ s w k sem b, MatrixWord s (.mgang 0 0 7) 0x1E b w k sem) ∧ (∃ s w k sem b, MatrixWord s (.mgrant 0 0 7) 0xFFFFF b w k sem) :=
  ⟨⟨mk2 (.mdrain 0 0 7) 0 0, _, _, none, 0, .mdrain 0 0 7 _ 0 none (by unfold Claims.semWord; decide +kernel) (by decide +kernel) (by decide +kernel)
     (by decide +kernel)⟩,
   ⟨mk2 (.mgang 0 0 7) 0 0, _, _, none, 0, .mgang 0 0 7 _ 0 none (by unfold Claims.semWord; decide +kernel) (by decide) (by decide) (by decide) (by decide)
     (by decide) (by decide)⟩,
   ⟨mk2 (.mgrant 0 0 7) 0 0, _, _, none, 0, .mgrant 0 0 7 _ 0 none (by unfold Claims.semWord; decide +kernel) (by decide) (by decide) (by decide)⟩⟩

theorem witness_BudgetQueues :
    (∃ p l r s, Ready (.mbudget p) l r s ∧ immediateHeld s s.cur.rid s.cur.core = false ∧ (coreHere s).arr.anchor = none ∧
      arrayUnit s s.cur.rid s.cur.core = true ∧ l.extractLsb' 59 5 = 0 ∧ r.extractLsb' 8 56 = 0 ∧ (coreHere s).arr.q = []) ∧
    (∃ p l r s, Ready (.mbudget p) l r s ∧ immediateHeld s s.cur.rid s.cur.core = false ∧ (coreHere s).arr.anchor = none ∧
      arrayUnit s s.cur.rid s.cur.core = true ∧ l.extractLsb' 59 5 = 0 ∧ r.extractLsb' 8 56 = 0 ∧ (coreHere s).arr.q ≠ [] ∧ (coreHere s).arr.q.length < 16) :=
  ⟨⟨0, 0x07FFFFFFFFFFFFFF, 0xFF, mk2 (.mbudget 0) 0x07FFFFFFFFFFFFFF 0xFF, ready_of (by decide +kernel), by decide +kernel⟩,
   ⟨0, 0, 0, arrayed (mk2 (.mbudget 0) 0 0) { q := minits 15 }, ready_of (by decide +kernel), by decide +kernel⟩⟩

theorem witness_MatrixStatus :
    (∃ p e x l r s, Ready (.mstat p e x) l r s ∧ ∃ q ∈ (arrAt s s.cur.rid (arrayHere s)).q, q.hdr.core = s.cur.core) ∧
    (∃ p e x l r s, Ready (.mstat p e x) l r s ∧ ∀ q ∈ (arrAt s s.cur.rid (arrayHere s)).q, q.hdr.core ≠ s.cur.core) :=
  ⟨⟨0, 0, 0x1FF, 0, 0, arrayed (mk2 (.mstat 0 0 0x1FF) 0 0) { q := minits 1 }, ready_of (by decide +kernel), by decide +kernel⟩,
   ⟨0, 2, 0x1FF, 0, 0, mk2 (.mstat 0 2 0x1FF) 0 0, ready_of (by decide +kernel), by decide +kernel⟩⟩

def mwork (w : MWork) (st : Ladder) : MArray := { q := [{ hdr := h2, work := w }], st := st }

theorem witness_InitExecutes : ∃ s rid c q qs e, headWork s rid c q qs ∧ q.work = .minit e ∧ alone s rid c ∧ plainSignal s rid q.hdr ∧ waitsAtHead qs :=
  ⟨idle2 (mwork (.minit 0x200) .idle), 0, 2, _, [], 0x200, ⟨by decide +kernel, rfl⟩, rfl, by unfold alone; decide +kernel, ⟨by decide +kernel, by decide +kernel, rfl⟩,
   by simp [waitsAtHead]⟩

theorem witness_LeaveIsAsked : ∃ s rid c q qs w v, headWork s rid c q qs ∧ q.work = .mmac w v ∧ (arrAt s rid c).st = .idle ∧ alone s rid c ∧
    sourcesExist s rid c = true ∧ (arrAt s rid q.hdr.core).anchor = none ∧ balancePays s rid c w = false ∧ coreDie (rectAt s rid) c < 4 :=
  ⟨idle2 (mwork (.mmac 0x100 false) .idle), 0, 2, _, [], 0x100, false, ⟨by decide +kernel, rfl⟩, rfl, rfl, by unfold alone; decide +kernel,
   by and_intros <;> decide +kernel⟩

/-- An MMAC of K = 1 at the head of core 2, at a rung of its ladder, its sources streaming x. -/
def mmacAt (w : W64) (st : Ladder) (x : Nat) : State := sourced (idle2 (mwork (.mmac w false) st)) x

/-- Die 0 with a limit and a request of core 2 at the head of its arbiter. -/
def asking (s : State) (limit tiles : Nat) (g : Bool) : State :=
  modDie s 0 fun d => { d with limit := limit, reqs := [{ rid := 0, core := 2, tiles := tiles, grant := g }] }

theorem witness_LeaveStartsOperation :
    (∃ s rid c q qs w v d rs, headWork s rid c q qs ∧ q.work = .mmac w v ∧ (arrAt s rid c).st = .leave [] false ∧ alone s rid c ∧
      d = coreDie (rectAt s rid) c ∧ d < 4 ∧ (dieAt s d).reqs = { rid := rid, core := c, tiles := 1, grant := false } :: rs ∧
      tilesUsed s d + 1 ≤ (dieAt s d).limit ∧ (∀ p ∈ operandSlots s rid c w, (slotAt s rid p.1 p.2).held = false) ∧
      sourceCause s rid c w = none ∧ (arrAt s rid c).frozenStep = none ∧ operandsDrain s rid c q w = false) ∧
    (∃ s rid c q qs w v d rs, headWork s rid c q qs ∧ q.work = .mmac w v ∧ (arrAt s rid c).st = .leave [] false ∧ alone s rid c ∧
      d = coreDie (rectAt s rid) c ∧ d < 4 ∧ (dieAt s d).reqs = { rid := rid, core := c, tiles := 1, grant := false } :: rs ∧
      (dieAt s d).limit < tilesUsed s d + 1) :=
  ⟨⟨asking (mmacAt 0x100 (.leave [] false) 0) 1 1 false, 0, 2, _, [], 0x100, false, 0, [], ⟨by decide +kernel, rfl⟩, rfl, by decide +kernel,
    by unfold alone; decide +kernel, by and_intros <;> decide +kernel⟩,
   ⟨asking (mmacAt 0x100 (.leave [] false) 0) 0 1 false, 0, 2, _, [], 0x100, false, 0, [], ⟨by decide +kernel, rfl⟩, rfl, by decide +kernel,
    by unfold alone; decide +kernel, by and_intros <;> decide +kernel⟩⟩

theorem witness_AttemptStarts :
    (∃ s rid c q qs w v step, headWork s rid c q qs ∧ q.work = .mmac w v ∧ attemptErr w (readOperands s rid c w) = none ∧
      (arrAt s rid c).st = .ready step) ∧
    (∃ s rid c q qs w v step, headWork s rid c q qs ∧ q.work = .mmac w v ∧ attemptErr w (readOperands s rid c w) = none ∧
      (arrAt s rid c).st = .run step false) :=
  ⟨⟨mmacAt 0x100 (.ready 0) 0x3C00, 0, 2, _, [], 0x100, false, 0, ⟨by decide +kernel, rfl⟩, rfl, by decide +kernel, by decide +kernel⟩,
   ⟨mmacAt 0x100 (.run 0 false) 0x3C00, 0, 2, _, [], 0x100, false, 0, ⟨by decide +kernel, rfl⟩, rfl, by decide +kernel, by decide +kernel⟩⟩

/-- What every clause of AttemptEnds takes, with its number of rows and of saturated elements. -/
def attempts (s : State) (w : W64) (step sat : Nat) : Prop :=
  headWork s 0 2 { hdr := h2, work := .mmac w false } [] ∧ (arrAt s 0 2).st = .run step true ∧ alone s 0 2 ∧
  attemptErr w (readOperands s 0 2 w) = none ∧ plainSignal s 0 h2 ∧ (enteringRows (readOperands s 0 2 w) step 0).length = 1 ∧
  (enteringCols (readOperands s 0 2 w) 0).length = 1 ∧ ((enteringRows (readOperands s 0 2 w) step 0).map (·.sat)).sum = sat ∧
  ((enteringRows (readOperands s 0 2 w) step 0).map (·.und)).sum = 0 ∧
  (attemptMember (arrAt s 0 2).e.toInt (arrAt s 0 2).cells (enteringRows (readOperands s 0 2 w) step 0)
    (enteringCols (readOperands s 0 2 w) 0)).filter (fun x => cancelled x.2 (arrAt s 0 2).budget.c) = []

/-- Within the budgets; past one below LMAX; past one at LMAX, without STRICT and under it. -/
theorem witness_AttemptEnds : (∃ s, attempts s 0x100 0 0) ∧ (∃ s, attempts s 0x400100 0 1 ∧ (arrAt s 0 2).budget.satb < 1) ∧
    (∀ st ∈ [false, true], ∃ s, attempts s 0x100 0 1 ∧ (arrAt s 0 2).budget.satb < 1 ∧ (arrAt s 0 2).budget.strict = st) := by
  refine
  ⟨⟨mmacAt 0x100 (.run 0 true) 0x3C00, ⟨by decide +kernel, by decide +kernel⟩, by decide +kernel, by unfold alone; decide +kernel, by decide +kernel,
    ⟨by decide +kernel, by decide +kernel, rfl⟩, by decide +kernel⟩,
   ⟨sourced (idle2 { mwork (.mmac 0x400100 false) (.run 0 true) with budget := { satb := 0 } }) 0x7BFF, ⟨⟨by decide +kernel, by decide +kernel⟩, by decide +kernel, by unfold alone; decide +kernel, by decide +kernel,
    ⟨by decide +kernel, by decide +kernel, rfl⟩, by decide +kernel⟩, by decide +kernel⟩,
   fun st h => ⟨sourced (idle2 { mwork (.mmac 0x100 false) (.run 0 true) with budget := { satb := 0, strict := st } }) 0x7BFF, ?_⟩⟩
  unfold attempts headWork alone plainSignal
  simp only [List.mem_cons, List.not_mem_nil, or_false] at h
  obtain rfl | rfl := h <;> decide +kernel

/-- A drain of 64 by 64 cells of type 8, 2 bytes each, at the last offset of the tile that takes it. -/
theorem witness_DrainExecutes : ∃ s rid c q qs w f t, Memory.wf s = true ∧ quiet s rid ∧ headWork s rid c q qs ∧ q.work = .mdrain w f ∧
    (arrAt s rid c).st = .idle ∧ alone s rid c ∧ chainComing s rid c = false ∧ drainTile (rectAt s rid) c (dwMode w) = some t ∧ dwMode w < 2 ∧
    (dwFmt w = 8 ∨ dwFmt w = 9 ∨ dwFmt w = 11) ∧ dwOff w + dwRows w * dwCols w * dwSize w = min (2 ^ 21) (tileAt s rid t).qbase ∧
    retainedAt s (.mt rid t (dwOff w)) (dwRows w * dwCols w * dwSize w) = false ∧ clockRuns s (tileDie (rectAt s rid) t) = true ∧ q.hdr.core = c ∧
    drainingLine s (whoCmd rid q.hdr) (tileAddr (rectAt s rid) c t (dwOff w)) (dwRows w * dwCols w * dwSize w) = false :=
  ⟨idle2 (mwork (.mdrain (BitVec.ofNat 64 (0x20 + (2 ^ 21 - 64 * 64 * (dwSize 0x20)) * 2 ^ 10 + 63 * 2 ^ 48 + 63 * 2 ^ 54)) 0) .idle), 0, 2, _, [], _, _, 6,
   by decide +kernel, quiet_of (by decide +kernel), ⟨by decide +kernel, rfl⟩, rfl, rfl, by unfold alone; decide +kernel, by decide +kernel,
   by and_intros <;> decide +kernel⟩

theorem witness_DrainsComplete :
    (∃ s rid c q qs, headWork s rid c q qs ∧ (arrAt s rid c).st = .drained ∧ plainSignal s rid q.hdr ∧ waitsAtHead qs) ∧
    (∀ left ∈ [1, 4096], ∃ s rid c q qs k, (arrAt s rid c).q = q :: qs ∧ (arrAt s rid c).st = .sending left ∧ chainTo (rectAt s rid) c = some k ∧ k ≠ c ∧
      clockRuns s (coreDie (rectAt s rid) c) = true ∧ clockRuns s (coreDie (rectAt s rid) k) = true ∧ (∀ n, (arrAt s rid k).st ≠ .sending n) ∧ plainSignal s rid q.hdr ∧ waitsAtHead qs) := by
  refine ⟨⟨idle2 (mwork (.mdrain 0 0) .drained), 0, 2, _, [], ⟨by decide +kernel, rfl⟩, rfl, ⟨by decide +kernel, by decide +kernel, rfl⟩, by simp [waitsAtHead]⟩, fun left h => ?_⟩
  have hn : ∀ n, (arrAt (idle2 (mwork (.mdrain 2 0) (.sending left))) 0 3).st ≠ .sending n := fun n => by
    rw [show (arrAt (idle2 (mwork (.mdrain 2 0) (.sending left))) 0 3).st = .idle from rfl]; simp
  refine ⟨idle2 (mwork (.mdrain 2 0) (.sending left)), 0, 2, _, [], 3, rfl, rfl, ?_, by decide, ?_, ?_, hn, ⟨?_, ?_, rfl⟩, by simp [waitsAtHead]⟩ <;>
    (simp only [List.mem_cons, List.not_mem_nil, or_false] at h; obtain rfl | rfl := h <;> decide +kernel)

/-- A gang of 2 by 1 from core 2, whose other member is core 3. -/
theorem witness_GangJoins : ∃ s rid c q qs x, headWork s rid c q qs ∧ q.work = .mgang x ∧ alone s rid c ∧ q.hdr.core = c ∧ plainSignal s rid q.hdr ∧
    waitsAtHead qs ∧ 1 < (x.extractLsb' 0 3).toNat * (x.extractLsb' 3 3).toNat ∧
    (∀ u v, u < (x.extractLsb' 0 3).toNat → v < (x.extractLsb' 3 3).toNat → ∃ m, memberAt (rectAt s rid) c u v = some m ∧
      (m ≠ c → (arrAt s rid m).q = [] ∧ (arrAt s rid m).anchor = none ∧ (arrAt s rid m).gw = 0)) := by
  refine ⟨idle2 (mwork (.mgang 0x0A) .idle), 0, 2, _, [], 0x0A, ⟨by decide +kernel, rfl⟩, rfl, by unfold alone; decide +kernel, rfl,
    ⟨by decide +kernel, by decide +kernel, rfl⟩, by simp [waitsAtHead], by decide, fun u v hu hv => ?_⟩
  have hu : u < 2 := hu
  have hv : v < 1 := hv
  obtain rfl : v = 0 := by omega
  obtain rfl | rfl : u = 0 ∨ u = 1 := by omega
  · exact ⟨2, by decide +kernel, fun h => absurd rfl h⟩
  · exact ⟨3, by decide +kernel, fun _ => by decide +kernel⟩

theorem witness_GrantsBalance : ∃ s rid c q qs x d rs n, headWork s rid c q qs ∧ q.work = .mgrant x ∧ alone s rid c ∧ d = coreDie (rectAt s rid) c ∧ d < 4 ∧
    (arrAt s rid c).grantDies = [] ∧ (dieAt s d).reqs = { rid := rid, core := c, tiles := n, grant := true } :: rs ∧
    tilesUsed s d + n ≤ (dieAt s d).limit ∧ plainSignal s rid q.hdr ∧ waitsAtHead qs ∧ clockRuns s (coreDie (rectAt s rid) c) = true :=
  ⟨asking (idle2 (mwork (.mgrant 1500) .idle)) 2 2 true, 0, 2, _, [], 1500, 0, [], 2, ⟨by decide +kernel, rfl⟩, rfl, by unfold alone; decide +kernel,
   by decide +kernel, by decide, by decide +kernel, by decide +kernel, by decide +kernel, ⟨by decide +kernel, by decide +kernel, rfl⟩, by simp [waitsAtHead], by decide +kernel⟩

/-- A pair that loses a floor, one with an invalid value, one whose floored product is too large, under an invalid factor. -/
theorem witness_CellSums : ∃ (ps : List (Option (Int × Int) × Option (Int × Int))) (a b : Entering), a.vals = ps.map (·.1) ∧ b.vals = ps.map (·.2) ∧ a.bad = true ∧
    (∃ x y, (some x, some y) ∈ ps ∧ x.2 + y.2 < 0 - 64 ∧ x.1 * y.1 % 2 ^ (-(x.2 + y.2 - (0 - 64))).toNat ≠ 0) ∧ (∃ p ∈ ps, p.1 = none) ∧
    ∃ x y : Int × Int, (some x, some y) ∈ ps ∧ 2 ^ 95 ≤ (x.1 * y.1 * 2 ^ (x.2 + y.2 - (0 - 64)).toNat).natAbs :=
  ⟨[(some (1, 0), some (3, -65)), (none, some (1, 0)), (some (1, 0), some (1, 31))],
   { vals := [some (1, 0), none, some (1, 0)], bad := true }, { vals := [some (3, -65), some (1, 0), some (1, 31)] }, rfl, rfl, rfl,
   ⟨(1, 0), (3, -65), by simp, by decide, by decide⟩, ⟨(none, some (1, 0)), by simp, rfl⟩, ⟨(1, 0), (1, 31), by simp, by decide⟩⟩

/-! ### Streams -/

/-- A state whose tile 1, the tile beside core 0, has the slots and stream queues given. -/
def tiled (s : State) (slots : Tab PSlot) (ports : Tab (List SCmd)) : State := modTile s 0 1 fun t => { t with slots := slots, ports := ports }

/-- The stream word of tile 1, port p and slot k. -/
def sw (p k : Nat) : W64 := BitVec.ofNat 64 (2 ^ 24 + p * 2 ^ 8 + k * 2 ^ 4)

/-- A walk of 32 elements of 8 bytes from 256 up, without headers. -/
def plainPat : BitVec 512 := BitVec.ofNat 512 (0xC0 * 2 ^ 8 + 256 * 2 ^ 32 + 31 * 2 ^ 128 + 8 * 2 ^ 160)

def streaming (w : SWork) (st : SlotPh) (started : Bool) (sent acc : Nat) (held : Bool) (cs : List SCmd) : State :=
  tiled (mkG (.tend 0) 0 0) [(5, { desc := plainPat, st := st, held := held })]
    [(0, { hdr := {}, work := w, started := started, sent := sent, accepted := acc } :: cs)]

theorem witness_StreamCommandsQueue : ∃ i l r s t w tok sem, StreamWork s i l r t w tok sem ∧ Ready i l r s ∧ cmdFree s tok ∧
    (portQ s s.cur.rid t (portOf l)).length < 8 ∧ clockRuns s (tileDie (rectAt s s.cur.rid) t) = true ∧ (∀ k, w ≠ .sstop k) ∧ (slotAt s s.cur.rid t (slotOf l)).held = false ∧
    (slotAt s s.cur.rid t (slotOf l)).st ≠ .empty :=
  ⟨.sstart 0 0 7, sw 3 15, 0x30, tiled (mkG (.sstart 0 0 7) (sw 3 15) 0x30) [(15, { desc := plainPat, st := .completed })] [], 1, .sstart 15 1 3, 7, none,
   .sstart 0 0 7 _ 0x30 1 1 none (by unfold StreamWord Claims.semWord; decide +kernel) (by decide) (by decide) (by decide) (by decide +kernel),
   ready_of (by decide +kernel), by unfold cmdFree; decide +kernel, by decide +kernel, by decide +kernel, by simp, by decide +kernel, by decide +kernel⟩

/-- SACC of slot 15 at port 3 and SSTOP at port 0 of tile 1 are in range. -/
theorem witness_StreamWords : (∃ s t w tok sem, StreamWork s (.sacc 0 0 7) (sw 3 15) 0 t w tok sem) ∧ (∃ s t w tok sem, StreamWork s (.sstop 0 0 7) (sw 0 0) 0 t w tok sem) :=
  ⟨⟨mkG (.sacc 0 0 7) 0 0, 1, _, _, none, .sacc 0 0 7 _ 0 1 none (by unfold StreamWord Claims.semWord; decide +kernel)⟩,
   ⟨mkG (.sstop 0 0 7) 0 0, 1, _, _, none, .sstop 0 0 7 _ 0 1 none (by unfold StreamWord Claims.semWord; decide +kernel)⟩⟩

/-- Core 0 with a task, and 64 bytes of its scratchpad written. -/
def withRec (s : State) (v : Nat) : State := writeNat (onCore s fun k => { k with task := some {} }) (Place.key (.scr 0 0 0x200)) 64 v

/-- What SPAT takes, with a descriptor in range or out of range. -/
def spats (v : Nat) (bad : Bool) : Prop :=
  ∃ p g k l r s tk t bs sem, Ready (.spat p g k) l r s ∧ (here s).isSome = true ∧ (coreHere s).task = some tk ∧ (coreHere s).csr.halted = false ∧
    cmdFree s k.toNat ∧ StreamWord s l g false t sem ∧ readDescriptor s r 64 64 [0xF0, 0xF1] = .ok bs ∧
    latestUser s s.cur.rid t (slotOf l) = none ∧ (slotAt s s.cur.rid t (slotOf l)).held = false ∧ replayEmpty s s.cur.rid s.cur.core = true ∧
    clockRuns s (tileDie (rectAt s s.cur.rid) t) = true ∧ (∀ x, sem = some x → semRuns s s.cur.rid x.1 = true) ∧
    badDescriptor (recOfBytes bs) = bad ∧ bs = bytesOf 64 v

theorem rd_of {ε α : Type} {e : Except ε α} {x : α} (h : e.toOption = some x) : e = .ok x := by
  cases e with
  | ok y => simp only [Except.toOption, Option.some.injEq] at h; rw [h]
  | error y => simp [Except.toOption] at h

theorem witness_SpatWrites : spats plainPat.toNat false ∧ spats (2 ^ 511) true :=
  ⟨⟨0, 0, 0, sw 0 15, rcdAt, withRec (mkG (.spat 0 0 0) (sw 0 15) rcdAt) plainPat.toNat, {}, 1, bytesOf 64 plainPat.toNat, none,
    ready_of (by decide +kernel), by decide +kernel, by decide +kernel, by decide +kernel, by unfold cmdFree; decide +kernel, by unfold StreamWord Claims.semWord; decide +kernel,
    rd_of (by decide +kernel), by decide +kernel, by decide +kernel, by decide +kernel, by decide +kernel, by simp, by decide +kernel, rfl⟩,
   ⟨0, 0, 0, sw 0 15, rcdAt, withRec (mkG (.spat 0 0 0) (sw 0 15) rcdAt) (2 ^ 511), {}, 1, bytesOf 64 (2 ^ 511), none,
    ready_of (by decide +kernel), by decide +kernel, by decide +kernel, by decide +kernel, by unfold cmdFree; decide +kernel, by unfold StreamWord Claims.semWord; decide +kernel,
    rd_of (by decide +kernel), by decide +kernel, by decide +kernel, by decide +kernel, by decide +kernel, by simp, by decide +kernel, rfl⟩⟩

theorem witness_SlotProgress : ∃ p x l r s t, Ready (.sprog p x) l r s ∧ StreamWord s l 0 false t none :=
  ⟨0, 0x1FF, sw 0 15, 0, mkG (.sprog 0 0x1FF) (sw 0 15) 0, 1, ready_of (by decide +kernel), by unfold StreamWord Claims.semWord; decide +kernel⟩

/-- An accept of slot 5 at the head, with the slot loaded, queued for it, or queued for a later command. -/
def startsAt (st : SlotPh) (last : Nat) : State :=
  tiled (mkG (.tend 0) 0 0) [(5, { desc := plainPat, st := st, last := last })] [(0, [{ hdr := {}, work := .sacc 5 }])]

theorem witness_StreamsStart :
    (∀ x ∈ [(SlotPh.loaded, 7), (.queued, 0), (.queued, 7)], ∃ c cs, streamHead (startsAt x.1 x.2) 0 1 0 c cs ∧ c.started = false ∧ c.work = .sacc 5 ∧
      startCause (startsAt x.1 x.2) 0 1 5 [0, 2] (some false) = none ∧
      (∀ j ∈ slotsOf (startsAt x.1 x.2) 0 1 c.work, (slotAt (startsAt x.1 x.2) 0 1 j).held = false) ∧ c.hdr.uid = 0 ∧
      (slotAt (startsAt x.1 x.2) 0 1 5).st = x.1 ∧ (slotAt (startsAt x.1 x.2) 0 1 5).last = x.2) ∧
    (∃ s rid tile p c cs k dt dk, streamHead s rid tile p c cs ∧ c.started = false ∧ c.work = .sstart k dt dk ∧
      (∀ j ∈ slotsOf s rid tile c.work, (slotAt s rid tile j).held = false) ∧ (slotAt s rid tile k).st = .empty) := by
  refine ⟨?_, streaming (.sstart 4 1 5) .queued false 0 0 false [], 0, 1, 0, _, [], 4, 1, 5, ⟨by decide +kernel, rfl⟩, rfl, rfl, by decide +kernel, by decide +kernel⟩
  intro x hx
  fin_cases hx <;> exact ⟨_, [], ⟨by decide +kernel, rfl⟩, rfl, rfl, by decide +kernel, by decide +kernel, rfl, by decide +kernel, by decide +kernel⟩

/-- Tile 1 with a stream of slot 5 at port 0, its first b bytes sent, and the accept of slot 6 armed at port 1. -/
def sends (b : Nat) : State :=
  tiled (mkG (.tend 0) 0 0) [(5, { desc := plainPat, st := .running }), (6, { desc := plainPat, st := .running })]
    [(0, [{ hdr := {}, work := .sstart 5 1 6, started := true, sent := b }]), (1, [{ hdr := {}, work := .sacc 6, started := true }])]

/-- The first flit of the stream and its last. -/
theorem witness_StreamsSend : ∀ b ∈ [0, 192], ∃ c : SCmd, streamHead (sends b) 0 1 0 c [] ∧ c.started = true ∧ c.work = .sstart 5 1 6 ∧
    c.sent = b ∧ armed (sends b) 0 1 6 = true ∧ clockRuns (sends b) (tileDie (rectAt (sends b) 0) 1) = true ∧
    let d := (slotAt (sends b) 0 1 5).desc
    ∀ j, j < min (64 * 1) (streamLen d - c.sent) → readWaits (sends b) 0 1 c d (c.sent + j) = false ∧
      ∃ w, streamByteAt (sends b) 0 1 d c.taken (c.sent + j) = .ok w ∧
        ∀ off, w = .byAt off → dataError (sends b) (Place.key (.mt 0 1 off)) 1 = none := by
  intro b hb
  simp only [List.mem_cons, List.not_mem_nil, or_false] at hb
  refine ⟨{ hdr := {}, work := .sstart 5 1 6, started := true, sent := b }, ⟨?_, rfl⟩, rfl, rfl, rfl, ?_, ?_, fun j hj => ?_⟩
  · obtain rfl | rfl := hb <;> decide +kernel
  · obtain rfl | rfl := hb <;> decide +kernel
  · obtain rfl | rfl := hb <;> decide +kernel
  · have reads : ∀ x < 64, readWaits (sends b) 0 1 { hdr := {}, work := .sstart 5 1 6, started := true, sent := b } plainPat (b + x) = false ∧
        (streamByteAt (sends b) 0 1 plainPat none (b + x)).toOption = some (.byAt (256 + b + x)) ∧
        dataError (sends b) (Place.key (.mt 0 1 (256 + b + x))) 1 = none := by
      obtain rfl | rfl := hb <;> decide +kernel
    obtain ⟨h1, h2, h3⟩ := reads j (lt_of_lt_of_le hj (min_le_left _ _))
    exact ⟨h1, _, rd_of h2, fun off e => WByte.byAt.inj e ▸ h3⟩

/-- A flit of three bytes arrives for a walk with two bytes left. -/
theorem witness_AcceptsTake : ∃ s rid tile p c cs k, ∃ off : Nat → Nat, Memory.wf s = true ∧ quiet s rid ∧ streamHead s rid tile p c cs ∧
    c.started = true ∧ c.work = .sacc k ∧ pMode (slotAt s rid tile k).desc ≠ 2 ∧
    min (flitOf (tget [] (tileAt s rid tile).inbound k)).length (payloadLen (slotAt s rid tile k).desc - c.sent) = 2 ∧
    ∀ j, j < 2 → payloadByte s rid tile (slotAt s rid tile k).desc c.taken (c.sent + j) = .ok (.byAt (off j)) ∧
      acceptWaits s rid tile c (slotAt s rid tile k).desc (c.sent + j) = false ∧
      homeOf s (whoCmd rid c.hdr) (tileAddr (rectAt s rid) c.hdr.core tile (off j)) = .mt rid tile (off j) := by
  refine ⟨modTile (streaming (.sacc 5) .running true 254 0 true []) 0 1 fun t => { t with inbound := [(5, [⟨9, 1, false⟩, ⟨8, 1, false⟩, ⟨7, 1, true⟩])] },
    0, 1, 0, _, [], 5, fun j => 510 + j, by decide +kernel, quiet_of (by decide +kernel), ⟨by decide +kernel, rfl⟩, rfl, rfl, by decide +kernel,
    by decide +kernel, fun j hj => ?_⟩
  obtain rfl | rfl : j = 0 ∨ j = 1 := by omega
  · exact ⟨rd_of (by decide +kernel), by decide +kernel, by decide +kernel⟩
  · exact ⟨rd_of (by decide +kernel), by decide +kernel, by decide +kernel⟩

theorem witness_StreamsComplete :
    (∃ s rid tile p c cs k dt dk, streamHead s rid tile p c cs ∧ plainSignal s rid c.hdr ∧ c.work = .sstart k dt dk ∧ c.started = true ∧
      c.sent = streamLen (slotAt s rid tile k).desc ∧ c.accepted = streamLen (slotAt s rid tile k).desc) ∧
    (∃ s rid tile p c cs k, streamHead s rid tile p c cs ∧ plainSignal s rid c.hdr ∧ c.work = .sacc k ∧ c.started = true ∧
      c.sent = payloadLen (slotAt s rid tile k).desc) ∧
    (∃ s rid tile p c cs k, streamHead s rid tile p c cs ∧ plainSignal s rid c.hdr ∧ c.work = .sstop k) ∧
    (∃ s rid tile p c cs k d, streamHead s rid tile p c cs ∧ plainSignal s rid c.hdr ∧ c.work = .spat k d ∧ (slotAt s rid tile k).held = false ∧
      badDescriptor d = false) :=
  ⟨⟨streaming (.sstart 5 1 6) .running true 256 256 true [], 0, 1, 0, _, [], 5, 1, 6, ⟨by decide +kernel, rfl⟩, ⟨by decide +kernel, by decide +kernel, rfl⟩, rfl, rfl,
    by and_intros <;> decide +kernel⟩,
   ⟨streaming (.sacc 5) .running true 256 0 true [], 0, 1, 0, _, [], 5, ⟨by decide +kernel, rfl⟩, ⟨by decide +kernel, by decide +kernel, rfl⟩, rfl, rfl,
    by decide +kernel⟩,
   ⟨streaming (.sstop 5) .completed false 0 0 false [], 0, 1, 0, _, [], 5, ⟨by decide +kernel, rfl⟩, ⟨by decide +kernel, by decide +kernel, rfl⟩, rfl⟩,
   ⟨streaming (.spat 5 plainPat) .completed false 0 0 false [], 0, 1, 0, _, [], 5, plainPat, ⟨by decide +kernel, rfl⟩, ⟨by decide +kernel, by decide +kernel, rfl⟩, rfl,
    by decide +kernel, by decide +kernel⟩⟩

theorem witness_StopCancels : ∃ s rid tile p c d cs k, streamHead s rid tile p c (d :: cs) ∧ ofSlot k c = true ∧ c.started = true ∧ d.work = .sstop k ∧
    allWritten s rid tile c = false ∧ shows s rid tile k c.hdr.uid ∧ plainSignal s rid d.hdr :=
  ⟨streaming (.sstart 5 1 6) .running true 8 0 true [{ hdr := {}, work := .sstop 5 }], 0, 1, 0, _, _, [], 5, ⟨by decide +kernel, rfl⟩, by decide +kernel,
   rfl, rfl, by decide +kernel, by unfold shows; decide +kernel, ⟨by decide +kernel, by decide +kernel, rfl⟩⟩

/-! ### Copies -/

/-- An address of the scratchpad of core 0 and one of tile 1. -/
def inScr (off : Nat) : W64 := BitVec.ofNat 64 (0xF0 * 2 ^ 56 + off)
def inTile (off : Nat) : W64 := BitVec.ofNat 64 (0xF1 * 2 ^ 56 + 2 ^ 40 + off)

/-- 32 bytes at 0x200 of the scratchpad: dst, src and the 16 bytes behind them. -/
def descAt (s : State) (dst src : W64) (rest : Nat) : State :=
  writeNat s (Place.key (.scr 0 0 0x200)) 32 (dst.toNat + src.toNat * 2 ^ 64 + rest * 2 ^ 128)

def descBytes (dst src : W64) (rest : Nat) : List Byte := bytesOf 32 (dst.toNat + src.toNat * 2 ^ 64 + rest * 2 ^ 128)

def copying (w : CopyWork) (started : Bool) (prog : Nat) : State :=
  onCore (mkG (.tend 0) 0 0) fun k => { k with copyq := [{ hdr := {}, work := w, started := started, prog := prog }] }

theorem witness_CopyCommandsQueue :
    (∃ i l r s w tok sem, CopyWord s i l r w tok sem ∧ Ready i l r s ∧ cmdFree s tok ∧ copiesHere s < 64) ∧
    (∃ i l r s w tok sem, CopyWord s i l r w tok sem ∧ Ready i l r s ∧ cmdFree s tok ∧ 64 ≤ copiesHere s) :=
  ⟨⟨.copyD 0 0 7, rcdAt, 0, descAt (mkG (.copyD 0 0 7) rcdAt 0) (inTile 0) (inScr 0) 0xFFFFFFFF, .copy (inTile 0) (inScr 0) 0xFFFFFFFF, 7, none,
    .copyD 0 0 7 _ 0 (descBytes (inTile 0) (inScr 0) 0xFFFFFFFF) none (rd_of (by decide +kernel)) (by decide +kernel) (by decide +kernel)
      (by unfold semField; decide +kernel), ready_of (by decide +kernel), by unfold cmdFree; decide +kernel, by decide +kernel⟩,
   ⟨.copy 0 24 0, inTile 0, inScr 0, onCore (mkG (.copy 0 24 0) (inTile 0) (inScr 0)) fun k => { k with copyq := List.replicate 64 { hdr := {}, work := .copy 0 0 1 } },
    _, 0, none, .copy 0 24 0 _ _, ready_of (by decide +kernel), by unfold cmdFree; decide +kernel, by decide +kernel⟩⟩

/-- COPYM at core 2, TMOVE of 65,536 rows, and VGATHER of 65,536 and VSCATTER of 1 elements are in range. -/
theorem witness_CopyWords :
    (∃ s w k sem, CopyWord s (.copym 0 0 7) (BitVec.ofNat 64 (0xF0 * 2 ^ 56 + 0x200)) 0x100 w k sem) ∧
    (∃ s w k sem, CopyWord s (.tmove 0 0 7) rcdAt 0 w k sem) ∧ (∃ s w k sem, CopyWord s (.vgather 0 3 0 7) rcdAt 0 w k sem) ∧
    (∃ s w k sem, CopyWord s (.vscatter 0 0 0 7) rcdAt 0 w k sem) :=
  ⟨⟨writeNat (mk2 (.copym 0 0 7) 0 0) (Place.key (.scr 0 2 0x200)) 32 (2 ^ 128), _, _, none,
    .copym 0 0 7 _ 0x100 (bytesOf 32 (2 ^ 128)) none (rd_of (by decide +kernel)) (by decide +kernel) (by decide +kernel) (by decide +kernel) (by rfl)⟩,
   ⟨descAt (mkG (.tmove 0 0 7) 0 0) 0 0 0xFFFFFFFF, _, _, none, .tmove 0 0 7 _ 0 (descBytes 0 0 0xFFFFFFFF) none (rd_of (by decide +kernel)) (by decide +kernel)
     (by unfold semField; decide +kernel)⟩,
   ⟨descAt (mkG (.vgather 0 3 0 7) 0 0) 0 0 (65536 * 2 ^ 64), _, _, none, .vgather 0 3 0 7 _ 0 (descBytes 0 0 (65536 * 2 ^ 64)) none (rd_of (by decide +kernel))
     (by decide +kernel) (by decide +kernel) (by decide +kernel) (by unfold gatherField; decide +kernel)⟩,
   ⟨descAt (mkG (.vscatter 0 0 0 7) 0 0) 0 0 (2 ^ 64), _, _, none, .vscatter 0 0 0 7 _ 0 (descBytes 0 0 (2 ^ 64)) none (rd_of (by decide +kernel))
     (by decide +kernel) (by decide +kernel) (by decide +kernel) (by unfold gatherField; decide +kernel)⟩⟩

/-- A queue fence of core 0 over every kind of queue: its commands, and its record with the ports of tile 1. -/
def fenceCmd (uid : Nat) : Hdr := { uid := uid }
def fencingOne (work : List MCmd) : State :=
  modRect (onCore (mkG (.tend 0) 0 0) fun k => { k with copyq := [{ hdr := fenceCmd 3, work := .fence }], arr := { k.arr with q := work } }) 0 fun r =>
    { r with fences := [(3, { hdr := fenceCmd 3, arr := 0, copy := true, matrix := false, ring := false, xdie := false, tile := 0, ports := [] })] }

/-- A fence of the copy queue alone at its head, before and after the MMAC of a COPYM that stood before it has retired. -/
theorem witness_QueueFences_copym : (∃ f, tfind (rectAt (fencingOne []) 0).fences 3 = some f ∧ f.copy = true ∧ f.matrix = false ∧
      (∃ h, (coreAt (fencingOne []) 0 0).copyq.head?.map (·.hdr) = some h ∧ h.uid = 3)) ∧
    coreUnit (fencingOne []) 0 0 = true ∧ copymOpen (fencingOne []) 0 0 = false ∧
    copymOpen (fencingOne [{ hdr := {}, work := .mmac 0x100 true }]) 0 0 = true :=
  ⟨⟨_, rfl, rfl, rfl, _, rfl, rfl⟩, by decide +kernel, by decide +kernel, by decide +kernel⟩

def fencing (uid : Nat) : State :=
  modRect (tiled (onCore (mkG (.tend 0) 0 0) fun k =>
    { k with copyq := [{ hdr := fenceCmd uid, work := .fence }], ringq := [{ hdr := fenceCmd 3, work := .fence }],
             xdieq := [{ hdr := fenceCmd 3, work := .fence }], arr := { k.arr with q := [{ hdr := fenceCmd 3, work := .fence }] } })
    [] [(0, [{ hdr := fenceCmd 3, work := .fence }]), (3, [{ hdr := fenceCmd 3, work := .fence }])]) 0 fun r =>
    { r with fences := [(3, { hdr := fenceCmd 3, arr := 0, copy := true, matrix := true, ring := true, xdie := true, tile := 1, ports := [0, 3] })] }

/-- Its entries stand at the heads of all its queues, or not at that of the copy queue. -/
theorem witness_QueueFences_complete : ∀ uid ∈ [3, 4], coreUnit (fencing uid) 0 0 = true ∧ (∃ f, tfind (rectAt (fencing uid) 0).fences 3 = some f ∧
    f.hdr.core = 0 ∧ f.hdr.uid = 3 ∧ (∃ h, (coreAt (fencing uid) 0 0).copyq.head?.map (·.hdr) = some h ∧ h.uid = uid) ∧
    (∃ h, (arrAt (fencing uid) 0 f.arr).q.head?.map (·.hdr) = some h ∧ h.uid = 3) ∧
    (∃ h, (coreAt (fencing uid) 0 0).ringq.head?.map (·.hdr) = some h ∧ h.uid = 3) ∧
    (∃ h, (coreAt (fencing uid) 0 0).xdieq.head?.map (·.hdr) = some h ∧ h.uid = 3) ∧
    (∀ p ∈ f.ports, ∃ h, (portQ (fencing uid) 0 f.tile p).head?.map (·.hdr) = some h ∧ h.uid = 3) ∧ fenceRuns (fencing uid) 0 f = true ∧
    plainSignal (fencing uid) 0 f.hdr ∧ (f.matrix = true → waitsAtHead ((arrAt (fencing uid) 0 f.arr).q.drop 1)) ∧ f.ports.Nodup) := by
  intro uid h
  fin_cases h <;>
    exact ⟨by decide +kernel, _, rfl, rfl, rfl, ⟨_, rfl, rfl⟩, ⟨_, rfl, rfl⟩, ⟨_, rfl, rfl⟩, ⟨_, rfl, rfl⟩,
      (by intro p hp; fin_cases hp <;> exact ⟨_, rfl, rfl⟩), by decide +kernel, ⟨by decide +kernel, by decide +kernel, rfl⟩,
      (by intro _; show waitsAtHead []; simp [waitsAtHead]), by decide⟩

/-- A fence word of the copy, matrix, ring and cross-die queues and ports 0 and 5 of tile 1, and one of the copy queue alone. -/
theorem witness_QueueFences : ∀ l ∈ [BitVec.ofNat 64 (0xF + 0x840 + 2 ^ 24), (0x1 : W64)], ∃ p g k r s sem t, Ready (.copyQf p g k) l r s ∧ cmdFree s k.toNat ∧
    Claims.semWord s l g sem ∧ l.extractLsb' 46 18 = 0 ∧ l.extractLsb' 12 4 = 0 ∧ l.extractLsb' 4 2 = 0 ∧
    (l.extractLsb' 0 4 ≠ 0 ∨ l.extractLsb' 6 6 ≠ 0) ∧ (l.extractLsb' 6 6 = 0 → l.extractLsb' 16 16 = 0) ∧
    (l.extractLsb' 6 6 ≠ 0 → clockRuns s (tileDie (rectAt s s.cur.rid) t) = true ∧
      tileFrom (rectAt s s.cur.rid) s.cur.core (l.extractLsb' 24 8).toInt (l.extractLsb' 16 8).toInt = some t) ∧
    (l.getLsbD 1 = true → arrayUnit s s.cur.rid (arrayHere s) = true ∧ (arrAt s s.cur.rid (arrayHere s)).q.length < 16) ∧
    (l.getLsbD 2 = true → (coreHere s).ringq.length < 16) ∧ (∀ n, n < 6 → l.getLsbD (6 + n) = true → (portQ s s.cur.rid t n).length < 8) := by
  intro l hl
  refine ⟨0, 0, 7, 0, mkG (.copyQf 0 0 7) l 0, none, 1, ?_⟩
  fin_cases hl <;> exact ⟨ready_of (by decide +kernel), by unfold cmdFree; decide +kernel, by unfold Claims.semWord; decide +kernel, by and_intros <;> decide +kernel⟩

theorem witness_TokensRead : (∃ p k x l r s, Ready (.tokrd p 0 k x) l r s) ∧ (∃ p k x l r s, Ready (.tokrd p 1 k x) l r s) :=
  ⟨⟨0, 7, 0x1FF, 0, 0, mkG (.tokrd 0 0 7 0x1FF) 0 0, ready_of (by decide +kernel)⟩,
   ⟨0, 0, 0x1FF, 0, 0, onCore (mkG (.tokrd 0 1 0 0x1FF) 0 0) fun k => { k with tok := [(3, 1023)] }, ready_of (by decide +kernel)⟩⟩

/-- A copy that has moved its bytes, behind a COPYM whose MMAC stands in the matrix queue. -/
def behind1 : State := onCore (copying (.copy (inTile 0) (inScr 0) 4097) true 4097) fun k =>
  { k with arr := { k.arr with q := [{ hdr := {}, work := .mmac 0x100 true }] } }

theorem witness_CopiesMove :
    (∃ s rid c q qs dst src len, copyHead s rid c q qs ∧ q.work = .copy dst src len ∧ q.started = false ∧ selector dst ≠ 0 ∧ selector src ≠ 0 ∧ q.pins = [] ∧
      checkEnds s rid q.hdr dst src len [0, 0xF0, 0xF1, 0xF2] = none) ∧
    (∃ s rid c q qs dst src len, copyHead s rid c q qs ∧ q.work = .copy dst src len ∧ Memory.wf s = true ∧ quiet s rid ∧ q.started = true ∧ q.prog < len ∧
      moveFree s rid q.hdr (addrPlus dst (Int.ofNat q.prog)) (addrPlus src (Int.ofNat q.prog)) (min 4096 (len - q.prog))) ∧
    (∀ open_ ∈ [false, true], ∃ s rid c q qs, copyHead s rid c q qs ∧ q.started = true ∧ copyTotal q.work = some q.prog ∧ plainSignal s rid q.hdr ∧
      copymOpen s rid c = open_) ∧
    (∃ s rid c q qs dst src len w, copyHead s rid c q qs ∧ q.work = .copym dst src len w ∧ q.started = true ∧ q.prog = len ∧
      (arrAt s rid c).anchor = none ∧ arrayUnit s rid c = true ∧ (arrAt s rid c).q.length < 16) :=
  ⟨⟨copying (.copy (inTile 0) (inScr 0) 4097) false 0, 0, 0, _, [], inTile 0, inScr 0, 4097, ⟨by decide +kernel, rfl⟩, rfl, rfl, by decide, by decide, rfl, by decide +kernel⟩,
   ⟨copying (.copy (inTile 0) (inScr 0) 4097) true 4096, 0, 0, _, [], inTile 0, inScr 0, 4097, ⟨by decide +kernel, rfl⟩, rfl, by decide +kernel, quiet_of (by decide +kernel),
    rfl, by decide, by unfold moveFree; decide +kernel⟩,
   (by
      intro o h
      fin_cases h
      · exact ⟨copying (.copy (inTile 0) (inScr 0) 4097) true 4097, 0, 0, _, [], ⟨by decide +kernel, rfl⟩, rfl, rfl,
          ⟨by decide +kernel, by decide +kernel, rfl⟩, by decide +kernel⟩
      · exact ⟨behind1, 0, 0, _, [], ⟨by decide +kernel, rfl⟩, rfl, rfl, ⟨by decide +kernel, by decide +kernel, rfl⟩, by decide +kernel⟩),
   ⟨copying (.copym (inTile 0) (inScr 0) 4097 0x100) true 4097, 0, 0, _, [], inTile 0, inScr 0, 4097, 0x100, ⟨by decide +kernel, rfl⟩, rfl, rfl, rfl, rfl, by decide +kernel, by decide +kernel⟩⟩

/-- A copy from global memory whose extent has a number of pins. -/
def pinning (n : Nat) : State :=
  let s := copying (.copy (inTile 0) 0x100 64) false 0
  { s with extents := s.extents.map fun e => (e.1, { e.2 with pins := n }) }

theorem witness_CopiesMove_pins : ∀ n ∈ [510, 511], ∃ q, copyHead (pinning n) 0 0 q [] ∧ q.work = .copy (inTile 0) 0x100 64 ∧ q.started = false ∧ q.pins = [] ∧
    checkEnds (pinning n) 0 q.hdr (inTile 0) 0x100 64 [0, 0xF0, 0xF1, 0xF2] = none ∧ extentsOf (pinning n) 0 [0x100, inTile 0] = [5] ∧
    (tfind (pinning n).extents 5).map (·.pins) = some n := by
  intro n h
  fin_cases h <;> exact ⟨_, ⟨by decide +kernel, rfl⟩, rfl, rfl, rfl, by decide +kernel, by decide +kernel, by decide +kernel⟩

/-- The last element of a gather and of a scatter, and the last row of a move. -/
theorem witness_ElementsMove :
    (∃ s rid c q qs dst src idx n cnt, Memory.wf s = true ∧ quiet s rid ∧ copyHead s rid c q qs ∧ q.prog < cnt ∧
      selector dst ≠ 0 ∧ selector src ≠ 0 ∧ selector idx ≠ 0 ∧
      translate s (mover rid q.hdr) (addrPlus idx (Int.ofNat (4 * q.prog))) 4 0 .read [0, 0xF0, 0xF1, 0xF2] = .ok () ∧
      drainingLine s (mover rid q.hdr) (addrPlus idx (Int.ofNat (4 * q.prog))) 4 = false ∧
      readError s (worldOf rid) (homeOf s (mover rid q.hdr) (addrPlus idx (Int.ofNat (4 * q.prog)))) 4 = none ∧
      readNat s (homeOf s (mover rid q.hdr) (addrPlus idx (Int.ofNat (4 * q.prog)))).key 4 = 2 ∧ q.work = .gather dst src idx n cnt ∧
      checkEnds s rid q.hdr (addrPlus dst (Int.ofNat (n * q.prog))) (addrPlus src (Int.ofNat (n * 2))) n [0, 0xF0, 0xF1, 0xF2] = none ∧
      moveFree s rid q.hdr (addrPlus dst (Int.ofNat (n * q.prog))) (addrPlus src (Int.ofNat (n * 2))) n) ∧
    (∃ s rid c q qs dst src idx n cnt, Memory.wf s = true ∧ quiet s rid ∧ copyHead s rid c q qs ∧ q.prog < cnt ∧
      selector dst ≠ 0 ∧ selector src ≠ 0 ∧ selector idx ≠ 0 ∧
      translate s (mover rid q.hdr) (addrPlus idx (Int.ofNat (4 * q.prog))) 4 0 .read [0, 0xF0, 0xF1, 0xF2] = .ok () ∧
      drainingLine s (mover rid q.hdr) (addrPlus idx (Int.ofNat (4 * q.prog))) 4 = false ∧
      readError s (worldOf rid) (homeOf s (mover rid q.hdr) (addrPlus idx (Int.ofNat (4 * q.prog)))) 4 = none ∧
      readNat s (homeOf s (mover rid q.hdr) (addrPlus idx (Int.ofNat (4 * q.prog)))).key 4 = 2 ∧ q.work = .scatter dst src idx n cnt ∧
      checkEnds s rid q.hdr (addrPlus dst (Int.ofNat (n * 2))) (addrPlus src (Int.ofNat (n * q.prog))) n [0, 0xF0, 0xF1, 0xF2] = none ∧
      moveFree s rid q.hdr (addrPlus dst (Int.ofNat (n * 2))) (addrPlus src (Int.ofNat (n * q.prog))) n) ∧
    (∃ s rid c q qs dst src rows rb dp sp, Memory.wf s = true ∧ quiet s rid ∧ copyHead s rid c q qs ∧
      q.work = .tmove dst src rows rb dp sp ∧ q.started = true ∧ q.prog < rows ∧
      moveFree s rid q.hdr (addrPlus dst (Int.ofNat q.prog * dp)) (addrPlus src (Int.ofNat q.prog * sp)) rb) :=
  ⟨⟨writeNat (copying (.gather (inTile 0) (inScr 0) (inScr 0x400) 8 4) true 3) (Place.key (.scr 0 0 0x40C)) 4 2, 0, 0, _, [], inTile 0, inScr 0, inScr 0x400, 8, 4,
    by decide +kernel, quiet_of (by decide +kernel), ⟨by decide +kernel, rfl⟩, by decide, by decide, by decide, by decide, ok_of (by decide +kernel),
    by decide +kernel, by decide +kernel, by decide +kernel, rfl, by decide +kernel, by unfold moveFree; decide +kernel⟩,
   ⟨writeNat (copying (.scatter (inTile 0) (inScr 0) (inScr 0x400) 8 4) true 3) (Place.key (.scr 0 0 0x40C)) 4 2, 0, 0, _, [], inTile 0, inScr 0, inScr 0x400, 8, 4,
    by decide +kernel, quiet_of (by decide +kernel), ⟨by decide +kernel, rfl⟩, by decide, by decide, by decide, by decide, ok_of (by decide +kernel),
    by decide +kernel, by decide +kernel, by decide +kernel, rfl, by decide +kernel, by unfold moveFree; decide +kernel⟩,
   ⟨copying (.tmove (inTile 0x1000) (inScr 0) 2 64 (-64) 64) true 1, 0, 0, _, [], inTile 0x1000, inScr 0, 2, 64, -64, 64, by decide +kernel, quiet_of (by decide +kernel),
    ⟨by decide +kernel, rfl⟩, rfl, rfl, by decide, by unfold moveFree; decide +kernel⟩⟩

/-! ### The Halo -/

theorem ex_ok {ε α : Type} {e : Except ε α} {p : α → Prop} [DecidablePred p]
    (h : (match e with | .ok x => decide (p x) | .error _ => false) = true) : ∃ x, e = .ok x ∧ p x := by
  cases e with
  | ok y => exact ⟨y, rfl, by simpa using h⟩
  | error y => simp at h

/-- Lane n bound to world w with 2 layers. -/
def bound (s : State) (n w : Nat) : State := modLane s n fun l => { l with bound := some { world := w, table := 0, nl := 2 } }

theorem witness_BoardsQueue :
    (∃ p n g k l r s t sem b, Ready (.rboard p n g k) l r s ∧ cmdFree s k.toNat ∧ (coreHere s).ringq.length < 16 ∧ BoardWord s l g t sem ∧
      r.extractLsb' 16 48 = 0 ∧ (laneAt s n.toNat).bound = some b ∧ b.world = worldOf s.cur.rid ∧ (r.extractLsb' 0 16).toNat < b.nl ∧
      clockRuns s (tileDie (rectAt s s.cur.rid) t) = true) ∧
    (∃ p n g k l r s t sem, Ready (.rboard p n g k) l r s ∧ cmdFree s k.toNat ∧ (coreHere s).ringq.length < 16 ∧ BoardWord s l g t sem ∧
      r.extractLsb' 16 48 = 0 ∧ (laneAt s n.toNat).bound = none) ∧
    (∃ p n g k l r s t sem b, Ready (.rboard p n g k) l r s ∧ cmdFree s k.toNat ∧ (coreHere s).ringq.length < 16 ∧ BoardWord s l g t sem ∧
      r.extractLsb' 16 48 = 0 ∧ (laneAt s n.toNat).bound = some b ∧ b.world ≠ worldOf s.cur.rid) ∧
    (∃ p n g k l r s t sem b, Ready (.rboard p n g k) l r s ∧ cmdFree s k.toNat ∧ (coreHere s).ringq.length < 16 ∧ BoardWord s l g t sem ∧
      r.extractLsb' 16 48 = 0 ∧ (laneAt s n.toNat).bound = some b ∧ b.world = worldOf s.cur.rid ∧ b.nl ≤ (r.extractLsb' 0 16).toNat) ∧
    (∃ p g k l r s t sem, Ready (.rdrop p g k) l r s ∧ cmdFree s k.toNat ∧ (coreHere s).ringq.length < 16 ∧ BoardWord s l g t sem) :=
  ⟨⟨0, 7, 0, 7, sw 0 15, 1, bound (mkG (.rboard 0 7 0 7) (sw 0 15) 1) 7 0, 1, none, { world := 0, table := 0, nl := 2 }, ready_of (by decide +kernel),
    by unfold cmdFree; decide +kernel, by decide +kernel, by unfold BoardWord Claims.semWord; decide +kernel, by decide, by decide +kernel⟩,
   ⟨0, 7, 0, 7, sw 0 15, 1, mkG (.rboard 0 7 0 7) (sw 0 15) 1, 1, none, ready_of (by decide +kernel),
    by unfold cmdFree; decide +kernel, by decide +kernel, by unfold BoardWord Claims.semWord; decide +kernel, by decide, by decide +kernel⟩,
   ⟨0, 7, 0, 7, sw 0 15, 1, bound (mkG (.rboard 0 7 0 7) (sw 0 15) 1) 7 1, 1, none, { world := 1, table := 0, nl := 2 }, ready_of (by decide +kernel),
    by unfold cmdFree; decide +kernel, by decide +kernel, by unfold BoardWord Claims.semWord; decide +kernel, by decide, by decide +kernel⟩,
   ⟨0, 7, 0, 7, sw 0 15, 2, bound (mkG (.rboard 0 7 0 7) (sw 0 15) 2) 7 0, 1, none, { world := 0, table := 0, nl := 2 }, ready_of (by decide +kernel),
    by unfold cmdFree; decide +kernel, by decide +kernel, by unfold BoardWord Claims.semWord; decide +kernel, by decide, by decide +kernel⟩,
   ⟨0, 0, 7, sw 0 0, 0, mkG (.rdrop 0 0 7) (sw 0 0) 0, 1, none, ready_of (by decide +kernel), by unfold cmdFree; decide +kernel, by decide +kernel,
    by unfold BoardWord Claims.semWord; decide +kernel⟩⟩

/-- An instruction of world 1, which holds rectangle 8 in place of rectangle 0. -/
def mkW (i : Instr) (l r : W64) : State :=
  let s := mkG i l r
  { modRect s 8 fun _ => rectAt s 0 with cur := { s.cur with rid := 8 }, worlds := [(0, { st := .opened }), (1, { st := .opened })] }

/-- The station of die 0 for lane 3 has seen a tile. -/
def seenAt (s : State) : State := modLane s 3 fun l => { l with stations := [(0, { seen := true, lap := 0x12345, layer := 3, tidx := 65535, age := 65535 })] }

theorem witness_HaloStatus :
    (∃ p n x l r s, Ready (.rwhere p n x) l r s ∧ ¬asks s n.toNat) ∧
    (∃ p n x l r s, Ready (.rwhere p n x) l r s ∧ asks s n.toNat ∧ (station s n.toNat).seen = false) ∧
    (∃ p n x l r s, Ready (.rwhere p n x) l r s ∧ asks s n.toNat ∧ (station s n.toNat).seen = true ∧ (station s n.toNat).age < 65536) ∧
    (∃ p x l r s t, Ready (.rstat p x) l r s ∧ BoardWord s l 0 t none) ∧
    (∃ p n x l r s, Ready (.rstatLane p n x) l r s ∧ asks s n.toNat) ∧ (∃ p n x l r s, Ready (.rstatLane p n x) l r s ∧ ¬asks s n.toNat) :=
  ⟨⟨0, 3, 0x1FF, 0, 0, mkW (.rwhere 0 3 0x1FF) 0 0, ready_of (by decide +kernel), fun h => h.elim (by decide +kernel) fun ⟨b, h, _⟩ => by
      have e : (laneAt (mkW (.rwhere 0 3 0x1FF) 0 0) (3 : BitVec 3).toNat).bound = none := by decide +kernel
      rw [e] at h; simp at h⟩,
   ⟨0, 3, 0x1FF, 0, 0, mkG (.rwhere 0 3 0x1FF) 0 0, ready_of (by decide +kernel), .inl (by decide +kernel), by decide +kernel⟩,
   ⟨0, 3, 0x1FF, 0, 0, seenAt (mkG (.rwhere 0 3 0x1FF) 0 0), ready_of (by decide +kernel), .inl (by decide +kernel), by decide +kernel⟩,
   ⟨0, 0x1FF, sw 0 15, 0, mkG (.rstat 0 0x1FF) (sw 0 15) 0, 1, ready_of (by decide +kernel), by unfold BoardWord Claims.semWord; decide +kernel⟩,
   ⟨0, 3, 0x1FF, 0, 0, bound (mkW (.rstatLane 0 3 0x1FF) 0 0) 3 1, ready_of (by decide +kernel), .inr ⟨{ world := 1, table := 0, nl := 2 }, by decide +kernel, by decide +kernel⟩⟩,
   ⟨0, 3, 0x1FF, 0, 0, mkW (.rstatLane 0 3 0x1FF) 0 0, ready_of (by decide +kernel), fun h => h.elim (by decide +kernel) fun ⟨b, h, _⟩ => by
      have e : (laneAt (mkW (.rstatLane 0 3 0x1FF) 0 0) (3 : BitVec 3).toNat).bound = none := by decide +kernel
      rw [e] at h; simp at h⟩⟩

theorem witness_LanesBind :
    (∃ l r s p n, immediateHeld s s.cur.rid s.cur.core = false ∧ worldOf s.cur.rid ≠ 0 ∧ Ready (.rpace p n) l r s) ∧
    (∃ l r s p n, immediateHeld s s.cur.rid s.cur.core = false ∧ worldOf s.cur.rid ≠ 0 ∧ Ready (.rbind p n) l r s) ∧
    (∀ l ∈ [0, 8, 222, 7, 223], ∃ r s p n, immediateHeld s s.cur.rid s.cur.core = false ∧ worldOf s.cur.rid = 0 ∧ Ready (.rpace p n) l r s) ∧
    (∃ l r s p n b, immediateHeld s s.cur.rid s.cur.core = false ∧ worldOf s.cur.rid = 0 ∧ Ready (.rbind p n) l r s ∧
      checkLocal s (actor s) l 64 64 [0xF0] = .ok () ∧ readError s 0 (homeOf s (actor s) l) 64 = none ∧
      bindingOf s (readKeys s (place s l) 64) = some b ∧ (laneAt s n.toNat).bound = none ∧ b.unbind = false) ∧
    (∃ l r s p n b, immediateHeld s s.cur.rid s.cur.core = false ∧ worldOf s.cur.rid = 0 ∧ Ready (.rbind p n) l r s ∧
      checkLocal s (actor s) l 64 64 [0xF0] = .ok () ∧ readError s 0 (homeOf s (actor s) l) 64 = none ∧
      bindingOf s (readKeys s (place s l) 64) = some b ∧ (laneAt s n.toNat).bound ≠ none) := by
  refine ⟨⟨0, 0, mkW (.rpace 0 7) 0 0, 0, 7, by decide +kernel, by decide +kernel, ready_of (by decide +kernel)⟩,
    ⟨0, 0, mkW (.rbind 0 7) 0 0, 0, 7, by decide +kernel, by decide +kernel, ready_of (by decide +kernel)⟩, fun l h => ?_,
    ⟨rcdAt, 0, mkG (.rbind 0 7) rcdAt 0, 0, 7, { world := 0, table := 0, nl := 1 }, by decide +kernel, by decide +kernel, ready_of (by decide +kernel),
     ok_of (by decide +kernel), by decide +kernel, by decide +kernel, by decide +kernel, rfl⟩,
    ⟨rcdAt, 0, bound (mkG (.rbind 0 7) rcdAt 0) 7 0, 0, 7, { world := 0, table := 0, nl := 1 }, by decide +kernel, by decide +kernel,
     ready_of (by decide +kernel), ok_of (by decide +kernel), by and_intros <;> decide +kernel⟩⟩
  refine ⟨0, mkG (.rpace 0 7) l 0, 0, 7, ?_, ?_, ready_of ?_⟩ <;>
    (simp only [List.mem_cons, List.not_mem_nil, or_false] at h; rcases h with rfl | rfl | rfl | rfl | rfl <;> decide +kernel)

/-- A lane of two layers whose entry of 2 tiles, their records at 0 of global memory, is read, with tile n due, at a pace and period. -/
def feeding (layer n pace period : Nat) (pending : Option Binding) : State :=
  modLane (bound (mkG (.tend 0) 0 0) 7 0) 7 fun l =>
    { l with entry := some (0, 2, 3), layer := layer, tidx := n, pace := pace, period := period, pending := pending }

/-- The first tile of the lap, and the last one, with none, a new or an empty binding pending; the slowest pace in the period that takes a
tile. -/
theorem witness_FeederInjects : ∀ x ∈ [(0, 0, 0, 0, none), (1, 1, 0, 0, none), (1, 1, 222, 1, some { world := 0, table := 64, nl := 1 }),
    (1, 1, 8, 27, some { world := 0, table := 0, nl := 1, unbind := true })], let s := feeding x.1 x.2.1 x.2.2.1 x.2.2.2.1 x.2.2.2.2
    ∃ b src nt home bs, (laneAt s 7).bound = some b ∧ paceGoes (laneAt s 7).pace (laneAt s 7).period = true ∧
    (laneAt s 7).entry = some (src, nt, home) ∧ (∀ t ∈ (laneAt s 7).ring, home ∉ t.2) ∧ (dieAt s home).gate ≠ .gated ∧
    (dieAt s home).gate ≠ .powering ∧ feederRead s b.world 67 (addrPlus src (Int.ofNat (4224 * (laneAt s 7).tidx))) 4224 = .ok bs ∧
    (bytesAt bs 4160 1 < 16 ∧ bytesAt bs 4161 1 < 2 ∧ bytesAt bs 4162 62 = 0) ∧ (laneAt s 7).pending = x.2.2.2.2 := by
  intro x hx
  obtain ⟨bs, h1, h2⟩ : ∃ bs, feederRead (feeding x.1 x.2.1 x.2.2.1 x.2.2.2.1 x.2.2.2.2) 0 67
      (addrPlus 0 (Int.ofNat (4224 * (laneAt (feeding x.1 x.2.1 x.2.2.1 x.2.2.2.1 x.2.2.2.2) 7).tidx))) 4224 = .ok bs ∧
      (bytesAt bs 4160 1 < 16 ∧ bytesAt bs 4161 1 < 2 ∧ bytesAt bs 4162 62 = 0) := by
    simp only [List.mem_cons, List.not_mem_nil, or_false] at hx
    obtain rfl | rfl | rfl | rfl := hx <;> exact ex_ok (by decide +kernel)
  refine ⟨{ world := 0, table := 0, nl := 2 }, 0, 2, 3, bs, ?_, ?_, ?_, ?_, ?_, ?_, h1, h2, ?_⟩ <;>
    (simp only [List.mem_cons, List.not_mem_nil, or_false] at hx; obtain rfl | rfl | rfl | rfl := hx <;> decide +kernel)

/-- A period that the slowest pace lets pass. -/
theorem witness_FeederInjects_pace : ∃ b, (laneAt (feeding 0 0 8 26 none) 7).bound = some b ∧
    paceGoes (laneAt (feeding 0 0 8 26 none) 7).pace (laneAt (feeding 0 0 8 26 none) 7).period = false :=
  ⟨{ world := 0, table := 0, nl := 2 }, by decide +kernel, by decide +kernel⟩

/-- A tile of lane 7, layer 1 of 2, lap 5. -/
def rtile (tidx : Nat) (good aux : Bool) : RingTile :=
  { lane := 7, world := 0, lap := 5, layer := 1, nl := 2, tidx := tidx, nt := 2, beats := 1, aux := aux, good := good, gen := 0, header := 0,
    payload := List.replicate 256 7, feeder := 0 }

/-- A tile before the station of die 3, which has the gate state g. -/
def passing (t : RingTile) (g : GateSt) : State :=
  modDie (modLane (bound (mkG (.tend 0) 0 0) 7 0) 7 fun l => { l with ring := [(t, [3])] }) 3 fun d => { d with gate := g }

theorem witness_TilesPass :
    (∃ s lane die t ds rs, (laneAt s lane).ring = (t, die :: ds) :: rs ∧ (dieAt s die).gate = .gated) ∧
    (∃ s lane die t ds rs, (laneAt s lane).ring = (t, die :: ds) :: rs ∧ t.gen ≠ (laneAt s lane).gen) ∧
    (∃ s lane die t ds rs, (laneAt s lane).ring = (t, die :: ds) :: rs ∧ (dieAt s die).gate ≠ .gated ∧ t.gen = (laneAt s lane).gen ∧
      t.good = true ∧ t.layer + 1 = t.nl ∧ t.tidx + 1 = t.nt) ∧
    (∃ s lane die t ds rs, (laneAt s lane).ring = (t, die :: ds) :: rs ∧ (dieAt s die).gate ≠ .gated ∧ t.gen = (laneAt s lane).gen ∧
      t.good = false) :=
  ⟨⟨passing (rtile 0 true true) .gated, 7, 3, rtile 0 true true, [], [], by and_intros <;> decide +kernel⟩,
   ⟨passing { rtile 0 true true with gen := 9 } .up, 7, 3, { rtile 0 true true with gen := 9 }, [], [], by and_intros <;> decide +kernel⟩,
   ⟨passing (rtile 1 true true) .up, 7, 3, rtile 1 true true, [], [], by and_intros <;> decide +kernel⟩,
   ⟨passing (rtile 0 false true) .up, 7, 3, rtile 0 false true, [], [], by and_intros <;> decide +kernel⟩⟩

/-- A walk of 512 bytes in mode 3 for lane 7. -/
def ringPat : BitVec 512 := BitVec.ofNat 512 (3 + 0xC0 * 2 ^ 8 + 7 * 2 ^ 21 + 256 * 2 ^ 32 + 63 * 2 ^ 128 + 8 * 2 ^ 160)
def board7 (st : BoardSt) : Board := { lane := 7, layer := 1, tile := 1, slot := 5, st := st, lap := 5 }

theorem witness_BoardsCapture :
    (∃ (b : Board) (t : RingTile), b.ending = false ∧ t.lane = b.lane ∧ b.st = .queued ∧ t.tidx = 0 ∧ t.layer = b.layer ∧ b.missedLap = some t.lap) ∧
    (∃ (b : Board) (t : RingTile), b.ending = false ∧ t.lane = b.lane ∧ b.st = .armed ∧ (t.tidx ≠ 0 ∨ t.layer ≠ b.layer)) ∧
    (∃ (b : Board) (t : RingTile), b.ending = false ∧ t.lane = b.lane ∧ b.st = .armed ∧ t.tidx = 0 ∧ t.layer = b.layer) ∧
    (∃ (b : Board) (t : RingTile), b.ending = false ∧ t.lane = b.lane ∧ b.st = .capturing ∧ (t.lap ≠ b.lap ∨ t.layer ≠ b.layer)) :=
  ⟨⟨{ board7 .queued with missedLap := some 5 }, rtile 0 true true, by and_intros <;> decide +kernel⟩,
   ⟨board7 .armed, rtile 1 true true, by decide +kernel⟩, ⟨board7 .armed, rtile 0 true true, by and_intros <;> decide +kernel⟩,
   ⟨{ board7 .capturing with lap := 4 }, rtile 1 true true, by decide +kernel⟩⟩

/-- A capturing board and a tile of its layer and lap. -/
def captures (b : Board) (t : RingTile) : Prop :=
  b.ending = false ∧ t.lane = b.lane ∧ b.st = .capturing ∧ t.lap = b.lap ∧ t.layer = b.layer

/-- The tile finds the buffer full, the walk filled, fills it or overruns it by a byte, and disagrees. -/
theorem witness_BoardsCapture_tiles :
    (∃ b t, captures b t ∧ b.buf.length = 8) ∧
    (∃ b t, ∃ d : BitVec 512, captures b t ∧ b.buf.length < 8 ∧ payloadLen d = b.walk) ∧
    (∃ b t, ∃ d : BitVec 512, captures b t ∧ b.buf.length < 8 ∧ b.walk < payloadLen d ∧ t.aux = true ∧ payloadLen d = b.walk + 256 * t.beats) ∧
    (∃ b t, ∃ d : BitVec 512, captures b t ∧ b.buf.length < 8 ∧ b.walk < payloadLen d ∧ t.aux = true ∧ payloadLen d + 1 = b.walk + 256 * t.beats) ∧
    (∃ b t, ∃ d : BitVec 512, captures b t ∧ b.buf.length < 8 ∧ b.walk < payloadLen d ∧ t.aux = false ∧ (hKey t.header ≠ pKey d ∨ ivLayer t.header ≠ t.layer)) := by
  unfold captures
  exact ⟨⟨{ board7 .capturing with buf := List.replicate 8 (rtile 0 true true, 0, 0) }, rtile 1 true true, by decide +kernel⟩,
    ⟨{ board7 .capturing with walk := 512 }, rtile 1 true true, ringPat, by decide +kernel⟩,
    ⟨{ board7 .capturing with walk := 256 }, rtile 1 true true, ringPat, by decide +kernel⟩,
    ⟨{ board7 .capturing with walk := 257 }, rtile 1 true true, ringPat, by decide +kernel⟩,
    ⟨board7 .capturing, rtile 1 true false, ringPat, by decide +kernel⟩⟩

/-- A ring command at core 0 whose slot is slot 5 of tile 1. -/
def ringing (w : RingWork) (st : SlotPh) (held : Bool) (uid : Nat) : State :=
  onCore (tiled (mkG (.tend 0) 0 0) [(5, { desc := ringPat, st := st, held := held, boardUid := uid })] []) fun k =>
    { k with ringq := [{ hdr := {}, work := w }] }

/-- A tile before the station of die 0, at which an armed, a capturing and a queued board stand. -/
theorem witness_TilesPass_boards : ∀ st ∈ [BoardSt.armed, .capturing, .queued],
    let s := modLane (ringing (.board (board7 st)) .running true 0) 7 fun l => { l with ring := [(rtile 0 true true, [0])] }
    (laneAt s 7).ring = [(rtile 0 true true, [0])] ∧ (allBoards s).Nodup ∧ (boardAt s 0 0 0).map (·.2) = some (board7 st) ∧
    (dieAt s 0).gate ≠ .gated ∧ worldOf 0 = 0 ∧ enginesAct s 0 = true ∧ tileDie (rectAt s 0) 1 = 0 := by
  intro st h
  simp only [List.mem_cons, List.not_mem_nil, or_false] at h
  obtain rfl | rfl | rfl := h <;> exact ⟨rfl, by decide +kernel, by decide +kernel, by decide +kernel, rfl, by decide +kernel, by decide +kernel⟩

/-- A queued and a stopped board that may arm. -/
theorem witness_BoardsArm : ∀ st ∈ [BoardSt.queued, .stopped], ∃ s rid c k q b, boardUnit s rid c b = true ∧ boardIs s rid c k q b ∧ b.st = st ∧
    (slotAt s rid b.tile b.slot).held = false ∧ b.failed = none ∧ boardBlocked (coreAt s rid c).ringq k = false ∧
    boardsActive (coreAt s rid c).ringq < 4 ∧ boardCause s rid b = none := by
  intro st h
  refine ⟨modWorld (ringing (.board (board7 st)) .queued false 0) 0 fun w => { w with keys := [(0, 1)] }, 0, 0, 0,
    { hdr := {}, work := .board (board7 st) }, board7 st, ?_⟩
  simp only [List.mem_cons, List.not_mem_nil, or_false] at h
  unfold boardIs
  obtain rfl | rfl := h <;> decide +kernel

theorem witness_BoardsComplete :
    (∃ s rid c q b qs, boardUnit s rid c b = true ∧ (coreAt s rid c).ringq = q :: qs ∧ q.work = .board b ∧ b.ending = true ∧ b.buf = [] ∧
      b.st ≠ .queued ∧ b.failed = none ∧ plainSignal s rid q.hdr ∧ (slotAt s rid b.tile b.slot).boardUid = q.hdr.uid) ∧
    (∃ s rid c q b qs x, boardUnit s rid c b = true ∧ (coreAt s rid c).ringq = q :: qs ∧ q.work = .board b ∧ b.ending = true ∧ b.buf = [] ∧
      b.failed = some x) ∧
    (∃ s rid c q qs t k, coreUnit s rid c = true ∧ tileUnit s rid t = true ∧ q.work = .rdrop t k ∧ plainSignal s rid q.hdr ∧ (coreAt s rid c).ringq = q :: qs) ∧
    (∃ s rid c p q qs t k b, coreUnit s rid c = true ∧ tileUnit s rid t = true ∧ q.work = .rdrop t k ∧ plainSignal s rid q.hdr ∧ (coreAt s rid c).ringq = p :: q :: qs ∧
      p.work = .board b ∧ b.tile = t ∧ b.slot = k ∧ b.failed = none ∧ b.st ≠ .queued) :=
  ⟨⟨ringing (.board { board7 .capturing with ending := true }) .running true 0, 0, 0, _, _, [], by decide +kernel, rfl, rfl, rfl, rfl, by decide, rfl,
    ⟨by decide +kernel, by decide +kernel, rfl⟩, by decide +kernel⟩,
   ⟨ringing (.board { board7 .queued with ending := true, failed := some (0x101, 0) }) .queued false 0, 0, 0, _, _, [], (0x101, 0),
    by decide +kernel, rfl, rfl, rfl, rfl, rfl⟩,
   ⟨ringing (.rdrop 1 5) .completed false 0, 0, 0, _, [], 1, 5, by decide +kernel, by decide +kernel, rfl, ⟨by decide +kernel, by decide +kernel, rfl⟩, rfl⟩,
   ⟨onCore (ringing (.rdrop 1 5) .running true 0) fun k => { k with ringq := { hdr := {}, work := .board (board7 .capturing) } :: k.ringq },
    0, 0, _, _, [], 1, 5, _, by decide +kernel, by decide +kernel, rfl, ⟨by decide +kernel, by decide +kernel, rfl⟩, rfl, rfl, rfl, rfl, rfl, by decide⟩⟩

/-- The same walk with headers from 4096 up. -/
def headPat : BitVec 512 := BitVec.ofNat 512 (3 + 0xC0 * 2 ^ 8 + 2 ^ 16 + 7 * 2 ^ 21 + 256 * 2 ^ 32 + 4096 * 2 ^ 64 + 63 * 2 ^ 128 + 8 * 2 ^ 160)

/-- A board of slot 5 with the walk d, whose oldest buffered tile t stands at byte 256 of the walk and place 1 of the header area. -/
def held (d : BitVec 512) (t : RingTile) : State :=
  onCore (tiled (mkG (.tend 0) 0 0) [(5, { desc := d, st := .running, held := true })] []) fun k =>
    { k with ringq := [{ hdr := {}, work := .board { board7 .capturing with buf := [(t, 256, 1)] } }] }

/-- Nothing holds the write of an offset of tile 1. -/
def openAt (s : State) (o : Nat) : Bool :=
  !boardsAhead s 0 0 0 1 [o] && !retainedAt s (.mt 0 1 o) 1 && !drainingLine s (whoCmd 0 {}) (tileAddr (rectAt s 0) 0 1 o) 1 &&
  decide (homeOf s (whoCmd 0 {}) (tileAddr (rectAt s 0) 0 1 o) = .mt 0 1 o)

theorem open_of {s : State} {o : Nat} (h : openAt s o = true) :
    boardsAhead s 0 0 0 1 [o] = false ∧ retainedAt s (.mt 0 1 o) 1 = false ∧ drainingLine s (whoCmd 0 {}) (tileAddr (rectAt s 0) 0 1 o) 1 = false ∧
    homeOf s (whoCmd 0 {}) (tileAddr (rectAt s 0) 0 1 o) = .mt 0 1 o := by
  simpa [openAt, and_assoc] using h

/-- A tile that fills the walk, an auxiliary one without and a data tile with its header. -/
theorem witness_CaptureWrites : ∀ x ∈ [(ringPat, true), (headPat, false)], let s := held x.1 (rtile 1 true x.2)
    Memory.wf s = true ∧ quiet s 0 ∧ tileUnit s 0 1 = true ∧ (slotAt s 0 1 5).desc = x.1 ∧
    boardIs s 0 0 0 { hdr := {}, work := .board { board7 .capturing with buf := [(rtile 1 true x.2, 256, 1)] } }
      { board7 .capturing with buf := [(rtile 1 true x.2, 256, 1)] } ∧
    min (rtile 1 true x.2).payload.length (payloadLen x.1 - 256) = 256 ∧
    (∀ j, j < 256 → payloadByte s 0 1 x.1 none (256 + j) = .ok (.byAt (512 + j)) ∧ openAt s (512 + j) = true) ∧
    (x.2 = false → pHdrBase x.1 + 64 * 1 = 4160 ∧ 4160 + 64 ≤ (tileAt s 0 1).qbase ∧ ∀ j, j < 64 → openAt s (4160 + j) = true) := by
  intro x hx
  have bytes : (∀ j, j < 256 → (payloadByte (held x.1 (rtile 1 true x.2)) 0 1 x.1 none (256 + j)).toOption = some (.byAt (512 + j)) ∧
      openAt (held x.1 (rtile 1 true x.2)) (512 + j) = true) := by
    simp only [List.mem_cons, List.not_mem_nil, or_false] at hx
    obtain rfl | rfl := hx <;> decide +kernel
  refine ⟨?_, quiet_of ?_, ?_, ?_, by unfold boardIs; exact ⟨rfl, rfl⟩, ?_, fun j hj => ⟨rd_of (bytes j hj).1, (bytes j hj).2⟩, ?_⟩ <;>
    (simp only [List.mem_cons, List.not_mem_nil, or_false] at hx; obtain rfl | rfl := hx <;> decide +kernel)

/-! ### Dies and links -/

/-- XFENCE of die 0 by a task whose core holds n fence records. -/
def xfencing (n : Nat) : State := onCore (mkG (.xfence 0 1 0x1FF) 0 0) fun k =>
  { k with task := some {}, fences := (List.range n).map fun j => (j, ⟨0, 1, 0, []⟩) }

/-- XWAIT of record 15 of task 0, which counts the writes ws for the mask m. -/
def awaiting (m : BitVec 5) (ws : List (Nat × Nat)) : State := onCore (mkG (.xwait 0) 0xF001 0) fun k => { k with fences := [(15, ⟨0, m, 0, ws⟩)] }

theorem witness_SplitFences :
    (∀ i ∈ [0, 15], Ready (.xfence 0 1 0x1FF) 0 0 (xfencing i) ∧ immediateHeld (xfencing i) 0 0 = false ∧ (coreHere (xfencing i)).task = some {} ∧
      tfind (coreHere (xfencing i)).fences i = none ∧ (∀ j, j < i → tfind (coreHere (xfencing i)).fences j ≠ none)) ∧
    (∀ s ∈ [xfencing 16, halved (xfencing 16)], Ready (.xfence 0 1 0x1FF) 0 0 s ∧ immediateHeld s 0 0 = false ∧ (coreHere s).task = some {} ∧
      (∀ j, j < 16 → tfind (coreHere s).fences j ≠ none)) ∧
    partDone (xfencing 16) = false ∧ partDone (halved (xfencing 16)) = true := by
  refine ⟨fun i hi => ?_, fun s hs => ?_, by decide +kernel, by decide +kernel⟩
  · simp only [List.mem_cons, List.not_mem_nil, or_false] at hi
    obtain rfl | rfl := hi
    · exact ⟨ready_of (by decide +kernel), by decide +kernel, by decide +kernel, by decide +kernel, fun j h => by omega⟩
    · exact ⟨ready_of (by decide +kernel), by decide +kernel, by decide +kernel, by decide +kernel, by decide +kernel⟩
  · simp only [List.mem_cons, List.not_mem_nil, or_false] at hs
    obtain rfl | rfl := hs <;> exact ⟨ready_of (by decide +kernel), by decide +kernel, by decide +kernel, by decide +kernel⟩

/-- XWAIT finds its record done, still counting, and with another mask; it names no record; a reserved bit is set. -/
theorem witness_SplitFences_wait :
    (∀ s ∈ [awaiting 1 [], awaiting 1 [(0, 4)], awaiting 2 []], Ready (.xwait 0) 0xF001 0 s ∧ ∃ f,
      tfind (coreHere s).fences ((0xF001 : W64).extractLsb' 12 4).toNat = some f ∧ f.task = actorUid s ∧ f.seq = (0xF001 : W64).extractLsb' 32 32) ∧
    (Ready (.xwait 0) 0xF001 0 (mkG (.xwait 0) 0xF001 0) ∧
      tfind (coreHere (mkG (.xwait 0) 0xF001 0)).fences ((0xF001 : W64).extractLsb' 12 4).toNat = none) ∧
    (∀ l ∈ [(2 ^ 16 : W64), 2 ^ 5], Ready (.xwait 0) l 0 (mkG (.xwait 0) l 0)) := by
  refine ⟨fun s hs => ?_, ⟨ready_of (by decide +kernel), by decide +kernel⟩, fun l hl => ready_of ?_⟩
  · simp only [List.mem_cons, List.not_mem_nil, or_false] at hs
    obtain rfl | rfl | rfl := hs
    · exact ⟨ready_of (by decide +kernel), _, rfl, by decide +kernel, by decide⟩
    · exact ⟨ready_of (by decide +kernel), _, rfl, by decide +kernel, by decide⟩
    · exact ⟨ready_of (by decide +kernel), _, rfl, by decide +kernel, by decide⟩
  · simp only [List.mem_cons, List.not_mem_nil, or_false] at hl
    obtain rfl | rfl := hl <;> decide +kernel

theorem witness_CrossDieQueues :
    (∃ p g k l r s sem, Ready (.xsem p g k) l r s ∧ cmdFree s k.toNat ∧ checkLocal s (actor s) l 4 4 [0xF3] = .ok () ∧
      r.extractLsb' 46 18 = 0 ∧ Claims.semWord s r g sem) ∧
    (∃ p m g k l r s sem, Ready (.collReduce p m g k) l r s ∧ cmdFree s k.toNat ∧
      checkLocal s (actor s) l (32 * ((r.extractLsb' 0 16).toNat + 1)) 32 [0xF4] = .ok () ∧ r.extractLsb' 16 16 = 0 ∧ r.extractLsb' 46 18 = 0 ∧
      Claims.semWord s r g sem ∧ (∀ d, d < 4 → m.getLsbD d = true → d ≠ addrDie l →
        addrOff l + 32 * ((r.extractLsb' 0 16).toNat + 1) ≤ (ldieAt s s.cur.rid d).cellwin)) :=
  ⟨⟨0, 1, 7, sem2, 0x700000000, mkG (.xsem 0 1 7) sem2 0x700000000, some (0, 7), ready_of (by decide +kernel), by unfold cmdFree; decide +kernel,
    ok_of (by decide +kernel), by decide, by unfold Claims.semWord; decide +kernel⟩,
   ⟨0, 1, 0, 7, cell0, 127, mkG (.collReduce 0 1 0 7) cell0 127, none, ready_of (by decide +kernel), by unfold cmdFree; decide +kernel,
    ok_of (by decide +kernel), by decide, by decide, by unfold Claims.semWord; decide +kernel, by decide +kernel⟩⟩

/-- A cross-die command at core 0, with two cells of L = 1 on die 0 and two on die 1, the second of L = l1. -/
def crossing (w : XWork) (l1 : Nat) : State :=
  modRect (onCore (mkG (.tend 0) 0 0) fun k => { k with xdieq := [{ hdr := {}, work := w }] }) 0 fun r =>
    { r with dies := [(0, { nsem := 8, cellwin := 4096, cells := [(126, BitVec.ofNat 256 (3 + 2 ^ 192)), (127, BitVec.ofNat 256 (5 + 2 ^ 192 + 2 ^ 208))] }),
                      (1, { nsem := 8, cellwin := 4096, cells := [(126, BitVec.ofNat 256 (4 + 2 ^ 192)), (127, BitVec.ofNat 256 (7 + l1 * 2 ^ 192))] })] }

theorem witness_CollectivesExecute_xsem : ∃ s rid c q qs d i delta, coreUnit s rid c = true ∧ (coreAt s rid c).xdieq = q :: qs ∧ q.work = .xsem d i delta ∧
    q.waits = [] ∧ plainSignal s rid q.hdr ∧ semRuns s rid d = true :=
  ⟨crossing (.xsem 1 7 3) 1, 0, 0, _, [], 1, 7, 3, by decide +kernel, rfl, rfl, rfl, ⟨by decide +kernel, by decide +kernel, rfl⟩, by decide +kernel⟩

/-- What a collective of dies 0 and 1 over two cells, up to the end of the window, takes. -/
def collects (s : State) (red : Bool) : Prop :=
  coreUnit s 0 0 = true ∧ (coreAt s 0 0).xdieq = [{ hdr := {}, work := .coll red 0 4032 2 3 }] ∧ plainSignal s 0 {} ∧
  (∀ d, d < 4 → semRuns s 0 d = true) ∧ (∀ d, d < 4 → drainingLine s (mover 0 {}) (cellAddr d 4032) 64 = false)

def takes3 (d : Nat) : Prop := d < 4 ∧ (3 : BitVec 5).getLsbD d = true ∧ d ≠ 0

theorem collects_of {s : State} {red : Bool} (h : (coreUnit s 0 0 && decide ((coreAt s 0 0).xdieq = [{ hdr := {}, work := .coll red 0 4032 2 3 }]) &&
    replayEmpty s 0 0 && clockRuns s (coreDie (rectAt s 0) 0) && (List.range 4).all (fun d => semRuns s 0 d) &&
    (List.range 4).all fun d => !drainingLine s (mover 0 {}) (cellAddr d 4032) 64) = true) : collects s red := by
  simp only [Bool.and_eq_true, decide_eq_true_eq, List.all_eq_true, List.mem_range, Bool.not_eq_true'] at h
  exact ⟨h.1.1.1.1.1, h.1.1.1.1.2, ⟨h.1.1.1.2, h.1.1.2, rfl⟩, h.1.2, h.2⟩

/-- Weights agree; they do not; a cell is poisoned. -/
theorem witness_CollectivesExecute :
    (∀ red ∈ [true, false], collects (crossing (.coll red 0 4032 2 3) 1) red ∧
      (∀ i < 2, ∀ d < 4, dataError (crossing (.coll red 0 4032 2 3) 1) (cellKey 0 d (4032 / 32 + i)) 1 = none) ∧
      (∀ i < 2, (dieCell (crossing (.coll red 0 4032 2 3) 1) 0 1 (4032 + 32 * i)).extractLsb' 192 16 =
        (dieCell (crossing (.coll red 0 4032 2 3) 1) 0 0 (4032 + 32 * i)).extractLsb' 192 16)) ∧
    (collects (crossing (.coll true 0 4032 2 3) 2) true ∧ takes3 1 ∧
      (∀ i < 2, ∀ d < 4, dataError (crossing (.coll true 0 4032 2 3) 2) (cellKey 0 d (4032 / 32 + i)) 1 = none) ∧
      (dieCell (crossing (.coll true 0 4032 2 3) 2) 0 1 4032).extractLsb' 192 16 = (dieCell (crossing (.coll true 0 4032 2 3) 2) 0 0 4032).extractLsb' 192 16 ∧
      (dieCell (crossing (.coll true 0 4032 2 3) 2) 0 1 (4032 + 32 * 1)).extractLsb' 192 16 ≠
        (dieCell (crossing (.coll true 0 4032 2 3) 2) 0 0 (4032 + 32 * 1)).extractLsb' 192 16) ∧
    (collects { crossing (.coll true 0 4032 2 3) 1 with poison := [cellKey 0 1 127] } true ∧ takes3 1 ∧
      (∀ d < 4, dataError { crossing (.coll true 0 4032 2 3) 1 with poison := [cellKey 0 1 127] } (cellKey 0 d (4032 / 32)) 1 = none) ∧
      (∀ i < 2, (dieCell { crossing (.coll true 0 4032 2 3) 1 with poison := [cellKey 0 1 127] } 0 1 (4032 + 32 * i)).extractLsb' 192 16 =
        (dieCell { crossing (.coll true 0 4032 2 3) 1 with poison := [cellKey 0 1 127] } 0 0 (4032 + 32 * i)).extractLsb' 192 16) ∧
      dataError { crossing (.coll true 0 4032 2 3) 1 with poison := [cellKey 0 1 127] } (cellKey 0 1 (4032 / 32 + 1)) 1 ≠ none) := by
  refine ⟨?_, ⟨collects_of (by decide +kernel), by unfold takes3; decide, by decide +kernel, by decide +kernel, by decide +kernel⟩,
    collects_of (by decide +kernel), by unfold takes3; decide, by decide +kernel, by decide +kernel, by decide +kernel⟩
  intro red h
  fin_cases h <;> exact ⟨collects_of (by decide +kernel), by decide +kernel, by decide +kernel⟩

/-- A flit of a world to the tile dx to the right of the tile of page (0,0) that sends it, after n failed CRCs. -/
def flit (w : Nat) (dx : Int) (n : Nat) : Flit :=
  { world := w, dx := dx, srcX := 0, srcY := 0, dieNet := false, port := 0, enterX := 0, enterY := 0, owner := none, fails := n }
def linked (fs : List Flit) (re : Bool) : State := modLink (mkG (.tend 0) 0 0) 3 fun l => { l with flits := fs, retraining := re }

/-- A flit that may leave link 3, at place k of it. -/
def leaves (s : State) (k : Nat) (f : Flit) : Prop :=
  (linkAt s 3).flits[k]? = some f ∧ (linkAt s 3).retraining = false ∧ (∀ g ∈ (linkAt s 3).flits, g.fails < 17) ∧ linkRuns s 3 = true ∧
  ∀ j g, j < k → (linkAt s 3).flits[j]? = some g → (g.vc, g.srcX, g.srcY, g.dx, g.dy) ≠ (f.vc, f.srcX, f.srcY, f.dx, f.dy)

theorem leaves_first {s : State} {f : Flit} (h : (linkAt s 3).flits[0]? = some f)
    (o : (linkAt s 3).retraining = false ∧ (∀ g ∈ (linkAt s 3).flits, g.fails < 17) ∧ linkRuns s 3 = true) : leaves s 0 f :=
  ⟨h, o.1, o.2.1, o.2.2, fun j _ hj => absurd hj (Nat.not_lt_zero j)⟩

/-- A flit passes, one of the next channel passes it, one of another world and one to a tile outside are dropped; a flit stands at its
first failed replay, and before its sixteenth; one whose sixteenth has failed stops the link. -/
theorem witness_LinksCarry :
    (linkAt (linked [flit 0 0 0] true) 3).retraining = true ∧
    (leaves (linked [flit 0 3 0] false) 0 (flit 0 3 0) ∧ portPasses (linked [flit 0 3 0] false) (flit 0 3 0) = true) ∧
    leaves (linked [flit 0 3 0, { flit 0 3 0 with vc := 1 }] false) 1 { flit 0 3 0 with vc := 1 } ∧
    (∀ f ∈ [flit 1 3 0, flit 0 4 0, flit 0 (-1) 0], leaves (linked [f] false) 0 f ∧ portPasses (linked [f] false) f = false ∧ f.owner = none ∧ clocksRun (linked [f] false) = true) ∧
    (∀ f ∈ [flit 0 3 1, flit 0 3 16], leaves (linked [f] false) 0 f ∧ 0 < f.fails) ∧
    ((linkAt (linked [flit 0 3 17] false) 3).retraining = false ∧ (∃ f ∈ (linkAt (linked [flit 0 3 17] false) 3).flits, 17 ≤ f.fails) ∧
      linkRuns (linked [flit 0 3 17] false) 3 = true ∧ ∃ d ∈ linkDies 3, (dieAt (modDie State.reset 2 fun x => { x with relock := true }) d).relock = true) := by
  refine ⟨by decide +kernel, ⟨leaves_first rfl (by decide +kernel), by decide +kernel⟩, ⟨rfl, by decide +kernel, by decide +kernel, by decide +kernel, ?_⟩,
    fun f h => ?_, fun f h => ?_, by decide +kernel, by decide +kernel, by decide +kernel, by decide +kernel⟩
  · intro j g hj e
    obtain rfl : j = 0 := by omega
    obtain rfl : flit 0 3 0 = g := Option.some.inj e
    decide
  · simp only [List.mem_cons, List.not_mem_nil, or_false] at h
    obtain rfl | rfl | rfl := h <;> exact ⟨leaves_first rfl (by decide +kernel), by decide +kernel, rfl, by decide +kernel⟩
  · simp only [List.mem_cons, List.not_mem_nil, or_false] at h
    obtain rfl | rfl := h <;> exact ⟨leaves_first rfl (by decide +kernel), by decide⟩

/-! ### Leases -/

/-- Two granules of tier 0 given to world 0 at 4 of its addresses. -/
def ext1 : Extent := { world := 0, tier := 0, rd := true, wr := true, pins := 0, vbase := 4, pbase := 0, len := 2, granted := true }

def extents1 (e : Extent) : State := { State.reset with extents := [(9, e)] }

/-- A migration of it to granules 8 and 9. -/
def mig1 (window : Bool) (v : BitVec 32) : Migr := ⟨0, 8, [v, 0], window⟩

/-- World 3 in a state, with a session. -/
def world3 (st : WState) : State := modWorld State.reset 3 fun w => { w with st := st, session := true }

/-- World 3 runs protected and holds those granules. -/
def extents3 : State := { world3 .run with extents := [(9, { ext1 with world := 3 })] }

/-- The granules are free; they have a range entry; the extent is unused; it is pinned; its entry is protected; its world is. -/
theorem witness_ExtentRequests :
    (∃ s w tier vbase pbase len, noneLeaving s ∧ clocksRun s = true ∧ (worldAt s w).st ≠ .disabled ∧ w < 64 ∧ 0 < len ∧ len ≤ 1048576 ∧ vbase + len = 2 ^ 35 ∧
      (∀ x ∈ s.extents, x.2.world = w → vbase + len ≤ x.2.vbase ∨ x.2.vbase + x.2.len ≤ vbase) ∧ s.extents.length < 16384 ∧ freeRun s tier pbase len) ∧
    (∀ p ∈ [false, true], ∃ s w tier vbase pbase len, noneLeaving s ∧ clocksRun s = true ∧ (worldAt s w).st ≠ .disabled ∧ w < 64 ∧ 0 < len ∧ len ≤ 1048576 ∧ vbase + len ≤ 2 ^ 35 ∧
      (∀ x ∈ s.extents, x.2.world = w → vbase + len ≤ x.2.vbase ∨ x.2.vbase + x.2.len ≤ vbase) ∧ s.extents.length < 16384 ∧
      granulesExist s tier pbase len = true ∧ stackUp s tier pbase = true ∧ tableFull s tier pbase len = false ∧ entriesOn s tier pbase len ≠ [] ∧
      ∃ x ∈ entriesOn s tier pbase len, x.prot = p) ∧
    (∃ s, noneLeaving s ∧ clocksRun s = true ∧ stackUp s 0 0 = false) ∧ (∃ s, clocksRun s = false) ∧
    (∀ n ∈ [0, 1], ∃ s w e b, noneLeaving s ∧ clocksRun s = true ∧ extentOf s w b = some (9, e) ∧ e.pins = n ∧ isProtected s w = false ∧ unused s e = decide (n = 0) ∧
      (∀ x ∈ entriesOn s e.tier e.pbase e.len, x.world = w → x.prot = false) ∧ protEntry s e = false ∧
      (∀ x ∈ entriesOn s 0 8 e.len, x.prot = false)) ∧
    (∃ s w n e b, noneLeaving s ∧ clocksRun s = true ∧ extentOf s w b = some (n, e) ∧ ∃ x ∈ entriesOn s 0 8 e.len, x.prot = true) ∧
    (∃ s w n e b, noneLeaving s ∧ clocksRun s = true ∧ extentOf s w b = some (n, e) ∧ protEntry s e = true) ∧
    (∃ s w n e b, noneLeaving s ∧ clocksRun s = true ∧ extentOf s w b = some (n, e) ∧ isProtected s w = true) := by
  unfold noneLeaving freeRun
  refine ⟨⟨extents1 ext1, 0, 0, 2 ^ 35 - 2, 8, 2, by decide +kernel⟩,
    fun p hp => ⟨{ extents1 ext1 with ranges := [(0, [⟨1, p, 0, 1⟩])] }, 0, 0, 8, 0, 2, ?_⟩,
    ⟨modDie (extents1 ext1) 0 fun d => { d with gate := .draining }, by decide +kernel⟩,
    ⟨modDie (extents1 ext1) 0 fun d => { d with relock := true }, by decide +kernel⟩, fun n hn => ?_,
    ⟨{ extents1 ext1 with ranges := [(channelOf 8, [⟨1, true, 8, 9⟩])] }, 0, 9, ext1, 4, by decide +kernel⟩,
    ⟨{ extents1 ext1 with ranges := [(0, [⟨0, true, 0, 1⟩])] }, 0, 9, ext1, 4, by decide +kernel⟩,
    ⟨extents3, 3, 9, { ext1 with world := 3 }, 4, by decide +kernel⟩⟩
  · fin_cases hp <;> decide +kernel
  refine ⟨extents1 { ext1 with pins := n }, 0, { ext1 with pins := n }, 4, ?_⟩
  simp only [List.mem_cons, List.not_mem_nil, or_false] at hn
  obtain rfl | rfl := hn <;> decide +kernel

theorem witness_MigrationsRun :
    (∃ s n e tier base, tfind s.extents n = some e ∧ e.granted = true ∧ e.mig = none ∧ e.leaving = false ∧ freeRun s tier base e.len ∧ clocksRun s = true) ∧
    (∃ (s : State) (n : Nat) (e : Extent) (m : Migr), tfind s.extents n = some e ∧ e.mig = some m) ∧
    (∃ s n e m, Memory.wf s = true ∧ noneParked s ∧ tfind s.extents n = some e ∧ e.mig = some m ∧ m.window = true ∧ stacksRun s e m = true ∧ e.pins = 0 ∧
      m.versions = ((List.range e.len).map fun i => tget 0 s.versions (versionKey e.tier (e.pbase + i)))) ∧
    (∃ s n e m, Memory.wf s = true ∧ noneParked s ∧ tfind s.extents n = some e ∧ e.mig = some m ∧ m.window = true ∧ stacksRun s e m = true ∧ e.pins = 0 ∧
      m.versions ≠ ((List.range e.len).map fun i => tget 0 s.versions (versionKey e.tier (e.pbase + i)))) ∧
    (∃ s n e m, Memory.wf s = true ∧ noneParked s ∧ tfind s.extents n = some e ∧ e.mig = some m ∧ m.window = true ∧ stacksRun s e m = true ∧ e.pins ≠ 0) ∧
    (∃ s n e m, noneParked s ∧ tfind s.extents n = some e ∧ e.mig = some m ∧ m.window = false ∧ clocksRun s = true) := by
  unfold freeRun noneParked
  exact ⟨⟨extents1 ext1, 9, ext1, 0, 8, by decide +kernel⟩, ⟨extents1 { ext1 with mig := some (mig1 false 0) }, 9, { ext1 with mig := some (mig1 false 0) }, mig1 false 0, by decide +kernel⟩,
    ⟨extents1 { ext1 with mig := some (mig1 true 0) }, 9, { ext1 with mig := some (mig1 true 0) }, mig1 true 0, by decide +kernel⟩,
    ⟨extents1 { ext1 with mig := some (mig1 true 1) }, 9, { ext1 with mig := some (mig1 true 1) }, mig1 true 1, by decide +kernel⟩,
    ⟨extents1 { ext1 with pins := 1, mig := some (mig1 true 0) }, 9, { ext1 with pins := 1, mig := some (mig1 true 0) }, mig1 true 0, by decide +kernel⟩,
    ⟨extents1 { ext1 with mig := some (mig1 false 0) }, 9, { ext1 with mig := some (mig1 false 0) }, mig1 false 0, by decide +kernel⟩⟩

theorem witness_ReleasesAsked :
    (∃ s w n, 0 < w ∧ w < 64 ∧ 0 < n ∧ n < 2 ^ 32 ∧ (worldAt s w).st ≠ .disabled ∧ (worldAt s w).st ≠ .frozen) ∧
    (∃ s w n, 0 < w ∧ w < 64 ∧ 0 < n ∧ n < 2 ^ 32 ∧ (worldAt s w).st ≠ .disabled ∧ (worldAt s w).st = .frozen) ∧
    (∃ s w, noneLeaving s ∧ clocksRun s = true ∧ (worldAt s w).session = true ∧ (worldAt s w).st ≠ .disabled ∧
      (∃ x ∈ s.extents, x.2.world = w ∧ (x.2.vbase, x.2.len) = (4, 2) ∧ x.2.granted = true ∧ x.2.tier ≠ 2) ∧
      (∀ x ∈ s.extents, x.2.world = w → (x.2.vbase, x.2.len) ∈ [(4, 2)] → unused s x.2 = true)) := by
  unfold noneLeaving
  exact ⟨⟨world3 .run, 3, 2 ^ 32 - 1, by decide +kernel⟩, ⟨world3 .frozen, 3, 1, by decide +kernel⟩, ⟨extents3, 3, by decide +kernel⟩⟩

/-! ### The launch queue -/

/-- World 0 with a packet at the head of its launch queue of 64 entries, at 0 of host memory. -/
def launching (s : State) (v : Nat) : State :=
  writeNat (modWorld s 0 fun w => { w with lqsize := 6, lqtail := 1 }) (Place.key (.glob 2 0)) 64 v

def base : State := mkG (.tend 0) 0 0

/-- Byte 15 of a packet of a kind that raises vector 0, and byte 14 with its rectangle. -/
def pk (kind rect : Nat) : Nat := rect * 2 ^ 112 + (16 + kind) * 2 ^ 120

theorem witness_RegistersWrite :
    (∃ s fn v, fn < 64 ∧ (worldAt s fn).st ≠ .disabled ∧
      (BitVec.ofNat 32 v - (worldAt s fn).lqhead).toNat = 2 ^ (worldAt s fn).lqsize ∧ 6 ≤ (worldAt s fn).lqsize ∧ (worldAt s fn).lqsize ≤ 16) ∧
    (∃ s fn v, fn < 64 ∧ (worldAt s fn).st ≠ .disabled ∧ 2 ^ (worldAt s fn).lqsize + 1 = (BitVec.ofNat 32 v - (worldAt s fn).lqhead).toNat ∧
      (worldAt s fn).lqsize = 6) ∧
    (∃ s fn, fn < 64 ∧ (worldAt s fn).st ≠ .disabled ∧ (worldAt s fn).lqhead = (worldAt s fn).lqtail ∧ (worldAt s fn).eqhead = (worldAt s fn).eqtail) :=
  ⟨⟨modWorld (world3 .run) 3 fun w => { w with lqsize := 16, lqhead := 0xFFFFFFFF }, 3, 65535, by decide +kernel⟩,
   ⟨modWorld (world3 .run) 3 fun w => { w with lqsize := 6 }, 3, 65, by decide +kernel⟩, ⟨world3 .run, 3, by decide +kernel⟩⟩

/-- A packet stands at the head and its rectangle does not move. -/
def atHead (s : State) (kind v : Nat) : Prop := isMoving s (pktRid 0 (bytesOf 64 v)) = false ∧ headIs s 0 kind (bytesOf 64 v)

/-- A SIGNAL of semaphore 7, a BARRIER that is met, one that holds the queue, and a COPY at the head. -/
theorem witness_PacketsTaken :
    (atHead (launching base (pk 4 0 + 0x8007 * 2 ^ 128 + 5 * 2 ^ 160)) 4 (pk 4 0 + 0x8007 * 2 ^ 128 + 5 * 2 ^ 160) ∧
      Machine.semWord (field (bytesOf 64 (pk 4 0 + 0x8007 * 2 ^ 128 + 5 * 2 ^ 160)) 16 2) = some (0, 7) ∧ semRuns (launching base (pk 4 0 + 0x8007 * 2 ^ 128 + 5 * 2 ^ 160)) 0 0 = true) ∧
    (∃ s v, atHead s 2 v ∧ counts s 0 < 16 ∧ barrierConds (bytesOf 64 v) ≠ [] ∧
      ∀ c ∈ barrierConds (bytesOf 64 v), (c.2.2).toInt ≤ (semAt s (pktRid 0 (bytesOf 64 v)) c.1 c.2.1).toInt) ∧
    (∃ s v, atHead s 2 v ∧ pktHold (bytesOf 64 v) = true ∧
      ∃ c ∈ barrierConds (bytesOf 64 v), (semAt s (pktRid 0 (bytesOf 64 v)) c.1 c.2.1).toInt < (c.2.2).toInt) ∧
    (∃ s v, atHead s 3 v ∧ counts s 0 < 16) := by
  unfold atHead headIs
  exact ⟨by decide +kernel, ⟨launching base (pk 2 0 + 0x8007 * 2 ^ 128), pk 2 0 + 0x8007 * 2 ^ 128, by decide +kernel⟩,
    ⟨launching base (pk 34 0 + 0x8007 * 2 ^ 128 + 2 ^ 160), pk 34 0 + 0x8007 * 2 ^ 128 + 2 ^ 160, by decide +kernel, by decide +kernel,
     (0, 7, 1), by decide +kernel, by decide +kernel⟩,
    ⟨launching base (pk 3 0 + 0x1000 + 0x2000 * 2 ^ 128 + 64 * 2 ^ 192), pk 3 0 + 0x1000 + 0x2000 * 2 ^ 128 + 64 * 2 ^ 192, by decide +kernel⟩⟩

/-- The queue that the TASK packet of rectangle 0 goes to, with n records in its spill area. -/
def spilling (n : Nat) : State :=
  modRect (launching base (pk 0 0)) 0 fun r => { r with queues := r.queues.map fun q => (q.1, { q.2 with spill := List.replicate n 0 }) }

/-- A TASK whose queue has room, and one whose queue holds a record in its spill area. -/
theorem witness_TasksTaken : ∀ n ∈ [0, 1], let bs := bytesOf 64 (pk 0 0)
    atHead (spilling n) 0 (pk 0 0) ∧ taskWaits (spilling n) 0 bs = false ∧ checkRecord (spilling n) (pktRid 0 bs) (packetRecord bs) = none ∧
    let q := queueAt (spilling n) (pktRid 0 bs) (recordQueue (spilling n) (pktRid 0 bs) (packetRecord bs))
    (n = 0 → q.spill = [] ∧ roomFor q 0 = true) ∧ (n = 1 → q.spill ≠ [] ∧ q.spill.length < 8 * q.cap) := by
  unfold atHead headIs
  intro n hn
  simp only [List.mem_cons, List.not_mem_nil, or_false] at hn
  obtain rfl | rfl := hn <;> decide +kernel

/-- A host COPY of 4,096 bytes, checked, with the bytes of its ends' offsets and its progress given. -/
def copies (off prog : Nat) : State :=
  modWorld base 0 fun w => { w with pkts := [⟨1, .copy 0 (BitVec.ofNat 64 (0x7FF000 + off)) 0x1000 4096 none prog true, none⟩] }

/-- An aligned copy is asked for 13 bytes and moves 8, an unaligned one moves 13, and one goes through its last 8. -/
theorem witness_HostCopies : ∀ x ∈ [(0, 0, 8), (1, 0, 13), (0, 4088, 8)], let s := copies x.1 x.2.1
    let dst : W64 := BitVec.ofNat 64 (0x7FF000 + x.1)
    let a := addrPlus 0x1000 (Int.ofNat x.2.1)
    let b := addrPlus dst (Int.ofNat x.2.1)
    let ask := if dst.toNat % 8 = 0 ∧ (0x1000 : W64).toNat % 8 = 0 then max 8 (13 / 8 * 8) else 13
    Memory.wf s = true ∧ (worldAt s 0).pkts[0]? = some ⟨1, .copy 0 dst 0x1000 4096 none x.2.1 true, none⟩ ∧ isMoving s 0 = false ∧
    (worldAt s 0).st ≠ .frozen ∧ x.2.1 < 4096 ∧
    min (min ask 4096) (min (4096 - x.2.1) (min (extentRest s 0 a) (extentRest s 0 b))) = x.2.2 ∧ writeHeld s (whoHost 0) b x.2.2 = false ∧
    readError s 0 (homeOf s (whoHost 0) a) x.2.2 = none ∧ served s 0 (homeOf s (whoHost 0) b) x.2.2 = true := by
  intro x hx
  simp only [List.mem_cons, List.not_mem_nil, or_false] at hx
  obtain rfl | rfl | rfl := hx <;> decide +kernel

/-! ### Rectangles -/

/-- An image of one page by R317 to R319: a stage of 1 to 8 cores over a task queue of 16 at tile (1,0), a block of one TEND, and the
place of a signature. -/
def imageNat : Nat := 0x71400000E000000000000000000000000000000000000000000000000000000000000000000000000000000000000000000000000000000000000000000000000000001000010001000000000000000000000000000000000000000000000000000000000000000000000000000000000000000000000000000000000000000000000008010000000000000000000140000012400000000B0000000000000100000000400000000700000000000000C00000001000000002000000000000008000000010000000010000000000000000000000000000000000000000000000000000000000000000000000000000000000000000000013800000000400010101000100014C4E4D49
def imageBs : List Byte := bytesOf 4992 imageNat

/-- The container and its records are well formed. -/
theorem test_image_container : badContainer imageBs = false ∧ badRecords imageBs = false ∧ (imageOf imageBs).refused = false ∧
    (imageOf imageBs).overflows = false ∧ (imageOf imageBs).stages = [⟨0, 0, 1, 8, 0⟩] ∧ (imageOf imageBs).queues = [⟨1, 0, true, false, 16⟩] := by
  decide +kernel

/-- A PLACE of an OP for rectangle 1 with its result at 0x1000 of world 0, and the image at 0x10000 of host memory. -/
def placePk (op rect : Nat) : Nat := 0x10000 + pk 1 rect + 0x1000 * 2 ^ 192 + op * 2 ^ 256
def placing (op rect : Nat) : State := writeNat (launching base (placePk op rect)) (Place.key (.glob 2 0x10000)) 320 imageNat

theorem ready_place {s : State} {op rect : Nat}
    (h : (Memory.wf s && (headPacket s 0 == some (bytesOf 64 (placePk op rect))) && (pktKind (bytesOf 64 (placePk op rect)) == 1) &&
      !badPacket s 0 (bytesOf 64 (placePk op rect)) && (placeOp (bytesOf 64 (placePk op rect)) == op) &&
      ((rectAt s (pktRid 0 (bytesOf 64 (placePk op rect)))).live == decide (op ≠ 0)) && !placeWaits s 0 (bytesOf 64 (placePk op rect)) &&
      (translate s (whoHost 0) (pktRes (bytesOf 64 (placePk op rect))) 8 8 .write [0]).isOk &&
      served s 0 (homeOf s (whoHost 0) (pktRes (bytesOf 64 (placePk op rect)))) 8) = true) : placeReady s 0 op (bytesOf 64 (placePk op rect)) := by
  simp only [Bool.and_eq_true, Bool.not_eq_true', beq_iff_eq] at h
  exact ⟨h.1.1.1.1.1.1.1.1, by omega, ⟨h.1.1.1.1.1.1.1.2, h.1.1.1.1.1.1.2, h.1.1.1.1.1.2⟩, h.1.1.1.1.2, h.1.1.1.2, h.1.1.2, ok_of h.1.2, h.2⟩

/-- What the records of that image say. -/
def image1 : Image :=
  { w := 1, h := 1, seam := false, dbwin := 0, cellwin := 0, nsem := 0, stages := [⟨0, 0, 1, 8, 0⟩], queues := [⟨1, 0, true, false, 16⟩], ports := [],
    patterns := [], regions := [], requires := [], code := bytesOf 64 0x71400000E0000000, handler := none, data := [] }

theorem image_loads : ∃ img, readWorld (placing 0 1) 0 0x10000 4992 = some img ∧ (sectionOf img 11 = some ⟨11, 320, 4672⟩ ∧ field img 4 2 = 1 ∧
    field img 6 1 = 1 ∧ (badContainer img || badRecords img || (imageOf img).stages.length != field img 10 1 || (imageOf img).refused) = false ∧
    (imageOf img).overflows = false ∧ imageOf img = image1) := ex_some (by decide +kernel)

theorem image_head : ∃ hd, readWorld (placing 0 1) 0 0x10000 64 = some hd ∧ field hd 16 8 = 4992 := ex_some (by decide +kernel)

/-- Where a verifier accepts the signature, the image is placed at page (1,0); where none does, the image is refused. -/
theorem witness_PlaceImages :
    ((∀ k d g, Config.mldsaAccepts k d g = true) → ∃ s w bs m bases c r, placeReady s w 0 bs ∧ placeable s w bs m bases c r) ∧
    (∃ s w bs, placeReady s w 0 bs ∧ ∀ m bases c r, ¬placeable s w bs m bases c r) := by
  obtain ⟨img, e2, e3, a, b, e6, e7, e8⟩ := image_loads
  obtain ⟨hd, e1, n⟩ := image_head
  refine ⟨fun h => ⟨placing 0 1, 0, bytesOf 64 (placePk 0 1), image1, [], 1, 0, ready_place (by decide +kernel), ⟨img, ?_⟩, by and_intros <;> decide +kernel⟩,
    ⟨launching base (placePk 0 1), 0, bytesOf 64 (placePk 0 1), ready_place (by decide +kernel), fun m bases c r g => ?_⟩⟩
  · rw [e8] at e6 e7
    have e4 : signed (placing 0 1) 0 img ⟨11, 320, 4672⟩ = true := by simp [signed, signerOf, h]
    rw [show (BitVec.ofNat 64 (field (bytesOf 64 (placePk 0 1)) 0 8)) = 0x10000 by decide +kernel]
    simp only [loadImage, e1, n, e2, e3, e4, e6, e7, e8, a, b, Bool.not_true, Bool.false_eq_true, if_false, ne_eq, not_true_eq_false, or_self]
  · obtain ⟨⟨img, e⟩, -⟩ := g
    have n : (loadImage (launching base (placePk 0 1)) 0 (BitVec.ofNat 64 (field (bytesOf 64 (placePk 0 1)) 0 8))).isOk = false := by decide +kernel
    rw [e] at n
    simp [Except.isOk, Except.toBool] at n

/-- A PLACE of an OP for rectangle 0. -/
def placing0 (op : Nat) (f : Rect → Rect) : State := modRect (launching base (placePk op 0)) 0 f

/-- Core 0 runs a bound block. -/
def boundCore (s : State) : State := onRun s fun b => { b with bound := true }

theorem witness_PlaceReleases : ∃ s w bs, placeReady s w 1 bs ∧ resKey s w bs + 8 ≤ 2 ^ 70 ∧ isMoving s (pktRid w bs) = false :=
  ⟨placing0 1 id, 0, bytesOf 64 (placePk 1 0), ready_place (by decide +kernel), by decide +kernel, by decide +kernel⟩

/-- A rectangle that stops for a PLACE Freeze. -/
def awaited (p : Placing) : State := modWorld (modRect base 0 fun r => { r with freeze := .stopping }) 0 fun w => { w with placing := some p }

theorem witness_PlaceStops :
    (∃ s w bs c b, placeReady s w 2 bs ∧ (rectAt s (pktRid w bs)).freeze = .running ∧ isMoving s (pktRid w bs) = false ∧
      (c, (coreAt s (pktRid w bs) c)) ∈ (rectAt s (pktRid w bs)).cores ∧ runOf s (pktRid w bs) c = some b ∧ b.bound = true ∧
      (coreAt s (pktRid w bs) c).csr.halted = false) ∧
    (∃ s rid, (rectAt s rid).live = true ∧ (rectAt s rid).freeze = .stopping ∧ isMoving s rid = false ∧ runningCores s rid ≠ [] ∧
      (worldAt s (worldOf rid)).placing = none) ∧
    (∃ s rid p, Memory.wf s = true ∧ (rectAt s rid).live = true ∧ (rectAt s rid).freeze = .stopping ∧ isMoving s rid = false ∧
      runningCores s rid ≠ [] ∧ (worldAt s (worldOf rid)).placing = some p ∧ 8 * worldOf rid + p.slot = rid ∧
      translate s (whoHost (worldOf rid)) p.res 8 8 .write [0] = .ok () ∧
      served s (worldOf rid) (homeOf s (whoHost (worldOf rid)) p.res) 8 = true ∧ p.result = none ∧
      writeHeld s (whoHost (worldOf rid)) p.res 8 = false) ∧
    (∃ s rid p, (rectAt s rid).live = true ∧ (rectAt s rid).freeze = .stopping ∧ isMoving s rid = false ∧
      runningCores s rid ≠ [] ∧ (worldAt s (worldOf rid)).placing = some p ∧ 8 * worldOf rid + p.slot = rid ∧ p.result = none ∧
      writeHeld s (whoHost (worldOf rid)) p.res 8 = true) ∧
    (∃ s w p v, Memory.wf s = true ∧ (worldAt s w).placing = some p ∧ p.result = some v ∧ writeHeld s (whoHost w) p.res 8 = false ∧
      translate s (whoHost w) p.res 8 8 .write [0] = .ok () ∧ served s w (homeOf s (whoHost w) p.res) 8 = true ∧ v = 11) ∧
    (∃ s w bs, placeReady s w 3 bs ∧ (rectAt s (pktRid w bs)).freeze = .frozen ∧ isMoving s (pktRid w bs) = false ∧ (worldAt s w).st ≠ .frozen ∧
      (∀ c, (coreAt s (pktRid w bs) c).csr.tpend = false ∧ (coreAt s (pktRid w bs) c).arr.q = [])) := by
  refine ⟨?_, ⟨modRect base 0 fun r => { r with freeze := .stopping }, 0, by decide +kernel⟩,
    ⟨awaited { slot := 0, irq := none, res := 0x1000 }, 0, { slot := 0, irq := none, res := 0x1000 },
     by decide +kernel, by decide +kernel, by decide +kernel, by decide +kernel, by decide +kernel, rfl, rfl, rd_of (by decide +kernel), by and_intros <;> decide +kernel⟩,
    ⟨{ awaited { slot := 0, irq := none, res := 0x1000 } with extents := (awaited { slot := 0, irq := none, res := 0x1000 }).extents.map fun e => (e.1, { e.2 with mig := some (mig1 true 0) }) }, 0, { slot := 0, irq := none, res := 0x1000 }, by and_intros <;> decide +kernel⟩,
    ⟨awaited { slot := 0, irq := none, res := 0x1000, result := some 11 }, 0, { slot := 0, irq := none, res := 0x1000, result := some 11 }, 11, by decide +kernel, rfl, rfl, by decide +kernel,
     rd_of (by decide +kernel), by and_intros <;> decide +kernel⟩,
    ⟨placing0 3 fun r => { r with freeze := .frozen }, 0, bytesOf 64 (placePk 3 0), ready_place (by decide +kernel), by decide +kernel, by decide +kernel,
     by decide +kernel, fun c => ?_⟩⟩
  · obtain ⟨b, h, g⟩ : ∃ b, runOf (boundCore (placing0 2 id)) 0 0 = some b ∧ b.bound = true := ex_some (by decide +kernel)
    have e : pktRid 0 (bytesOf 64 (placePk 2 0)) = 0 := by decide +kernel
    refine ⟨boundCore (placing0 2 id), 0, bytesOf 64 (placePk 2 0), 0, b, ready_place (by decide +kernel), ?_⟩
    rw [e]
    exact ⟨by decide +kernel, by decide +kernel, by decide +kernel, h, g, by decide +kernel⟩
  · have h := cores_all (p := fun k => !k.csr.tpend && k.arr.q.isEmpty) (s := placing0 3 fun r => { r with freeze := .frozen })
      (rid := pktRid 0 (bytesOf 64 (placePk 3 0))) (by decide +kernel) rfl c
    simpa using h

theorem witness_PlaceContexts :
    (∃ s w bs, placeReady s w 4 bs ∧ (rectAt s (pktRid w bs)).freeze = .frozen ∧ isProtected s w = false ∧ field bs 0 8 < 2 ^ 56) ∧
    (∃ s w bs, placeReady s w 5 bs ∧ (rectAt s (pktRid w bs)).freeze = .frozen) :=
  ⟨⟨placing0 4 fun r => { r with freeze := .frozen }, 0, bytesOf 64 (placePk 4 0), ready_place (by decide +kernel), by and_intros <;> decide +kernel⟩,
   ⟨placing0 5 fun r => { r with freeze := .frozen }, 0, bytesOf 64 (placePk 5 0), ready_place (by decide +kernel), by decide +kernel⟩⟩

/-- Rectangle 0 stands at page (5,3), and may move to page (0,0). -/
def standing (f : Rect → Rect) : State := modRect base 0 fun r => f { r with ax := 5, ay := 3 }

theorem witness_CompactionMoves :
    (∃ s : State, s.pass.moving = none ∧ s.pass.todo = [] ∧ byAge s ≠ [] ∧ clocksRun s = false) ∧
    (∃ s set rid rest c r, clocksRun s = true ∧ s.pass.moving = none ∧ s.pass.todo = [] ∧ byAge s = rid :: rest ∧ (rectAt s rid).live = true ∧
      eligible (rectAt s rid) (BitVec.ofNat 4 set) = true ∧ moveTarget s rid (BitVec.ofNat 4 set) = some (c, r)) ∧
    (∃ s : State, s.pass.moving = none ∧ s.pass.todo = [] ∧ byAge s = []) ∧
    (∃ s rid c r, s.pass.moving = some (rid, c, r) ∧ s.pass.todo = [] ∧ cutReached s rid = true ∧ clocksRun s = true ∧ wantsStop s rid = false) ∧
    (∃ s rid c r, s.pass.moving = some (rid, c, r) ∧ s.pass.todo = [] ∧ cutReached s rid = false ∧ wantsStop s rid = false ∧ (rectAt s rid).live = true ∧
      clocksRun s = true) :=
  ⟨⟨modDie base 3 fun d => { d with relock := true }, by decide +kernel⟩, ⟨standing id, 15, 0, [], 0, 0, by decide +kernel⟩, ⟨State.reset, by decide +kernel⟩,
   ⟨{ standing (fun r => { r with freeze := .stopping, cores := [] }) with pass := { moving := some (0, 0, 0) } }, 0, 0, 0, by decide +kernel⟩,
   ⟨{ standing (fun r => { r with freeze := .stopping }) with pass := { moving := some (0, 0, 0) } }, 0, 0, 0, by decide +kernel⟩⟩

/-! ### Power, worlds, sessions and the Periscope -/

def gated (g : GateSt) : State := modDie State.reset 3 fun d => { d with gate := g }

theorem witness_PowerAndGating :
    (∃ s d op, d < 4 ∧ op < 16 ∧ op ≠ (dieAt s d).op ∧ (dieAt s d).gate ≠ .gated) ∧
    (∃ s, clocksRun s = true) ∧ (∃ s : State, s.pass.moving ≠ none) ∧ (∃ s d e, e < 4 ∧ e ≠ d ∧ (dieAt s e).relock = true) ∧
    (∃ s : State, s.pass.moving = none ∧ s.pass.todo ≠ [] ∧ ∀ e, e < 4 → e ≠ 3 → (dieAt s e).relock = false) ∧
    (∃ s d, d < 4 ∧ (dieAt s d).gate = .up ∧ holdsPage s d = true) ∧ (∃ s d, d < 4 ∧ (dieAt s d).gate = .up ∧ laneHome s d = true) ∧
    (∃ s d, d < 4 ∧ (dieAt s d).gate = .up ∧ moveTouches s d = true) ∧
    (∃ s d, d < 4 ∧ (dieAt s d).gate = .up ∧ holdsPage s d = false ∧ laneHome s d = false ∧ moveTouches s d = false) ∧
    (∃ s d, d < 4 ∧ (dieAt s d).gate = .draining ∧ (dieAt s d).relock = false ∧ gateBarred s d = false ∧ Memory.wf s = true ∧ s.extents ≠ [] ∧ (∀ e ∈ s.extents, e.2.granted = true →
      ¬(e.2.tier = 0 ∧ e.2.pbase / 32768 / 3 = d) ∧ ∀ m, e.2.mig = some m → ¬(m.tier = 0 ∧ m.base / 32768 / 3 = d))) ∧
    (∃ s d, d < 4 ∧ (dieAt s d).gate = .draining ∧ (dieAt s d).relock = false ∧ gateBarred s d = true) ∧
    (∃ s d, d < 4 ∧ (dieAt s d).gate = .gated) ∧ (∃ s d, d < 4 ∧ (dieAt s d).gate = .powering ∧ (dieAt s d).relock = false) ∧
    (∃ s d, d < 4 ∧ (dieAt s d).gate = .up ∧ (dieAt s d).throttle = false ∧ (dieAt s d).relock = false) :=
  ⟨⟨State.reset, 3, 15, by decide +kernel⟩, ⟨State.reset, by decide +kernel⟩, ⟨{ base with pass := { moving := some (0, 0, 0) } }, by decide +kernel⟩,
   ⟨modDie base 3 fun d => { d with relock := true }, 0, 3, by decide +kernel⟩,
   ⟨{ modDie base 3 fun d => { d with relock := true } with pass := { todo := [0] } }, by decide +kernel⟩, ⟨base, 0, by decide +kernel⟩, ⟨bound base 0 0, 0, by decide +kernel⟩, ⟨{ base with pass := { moving := some (0, 0, 0) } }, 0, by decide +kernel⟩,
   ⟨State.reset, 3, by decide +kernel⟩,
   ⟨{ gated .draining with extents := [(9, { ext1 with pbase := 98302 })] }, 3, by decide +kernel, by decide +kernel, by decide +kernel, by decide +kernel, by decide +kernel, by simp, by
      simp [ext1]⟩, ⟨modDie (bound base 0 0) 0 fun d => { d with gate := .draining }, 0, by decide +kernel⟩,
   ⟨gated .gated, 3, by decide +kernel⟩, ⟨gated .powering, 3, by decide +kernel⟩, ⟨State.reset, 3, by decide +kernel⟩⟩

theorem witness_WorldStates :
    (∃ s w, 1 ≤ w ∧ w = 63 ∧ (worldAt s w).st = .disabled ∧ (worldAt s 0).st ≠ .disabled) ∧
    (∃ s w, w ≠ 0 ∧ (worldAt s w).st = .opened ∧ (worldAt s w).session = true ∧ (worldAt s w).requester ≠ 0) ∧
    (∃ s w, (worldAt s w).st = .locked) ∧ (∃ s w, (worldAt s w).st = .run ∧ (worldAt s w).placing = none ∧ clocksRun s = true) :=
  ⟨⟨State.reset, 63, by decide +kernel⟩, ⟨modWorld (world3 .opened) 3 fun w => { w with requester := 1 }, 3, by decide +kernel⟩,
   ⟨world3 .locked, 3, by decide +kernel⟩, ⟨world3 .run, 3, by decide +kernel⟩⟩

/-- A world in each state. -/
theorem witness_WorldsEnd : ∀ st ∈ [WState.opened, .locked, .run, .frozen], ∃ s w, w ≠ 0 ∧ w < 64 ∧ (worldAt s w).st = st ∧ (worldAt s w).session = true := by
  intro st h
  refine ⟨world3 st, 3, by decide, by decide, ?_⟩
  simp only [List.mem_cons, List.not_mem_nil, or_false] at h
  rcases h with rfl | rfl | rfl | rfl <;> decide +kernel

theorem witness_SessionsAndKeys :
    (∃ s w, (worldAt s w).st ≠ .disabled ∧ (worldAt s w).negotiated = true) ∧
    (∃ s w k, w < 64 ∧ k = 15 ∧ (worldAt s w).st ≠ .disabled ∧ (worldAt s w).session = true ∧ (rectsOf s w).flatMap (keyedOps s) = []) ∧
    (∃ s w, w < 64 ∧ (worldAt s w).st = .opened ∧ (rectsOf s w).flatMap (keyedOps s) = []) ∧
    (∃ s w, (worldAt s w).session = true ∧ (worldAt s w).st ≠ .frozen) ∧
    (∃ s w, (worldAt s w).session = true ∧ (worldAt s w).st = .frozen ∧ (worldAt s w).renewed = false) ∧
    (∃ s w, (worldAt s w).session = true ∧ (worldAt s w).st = .frozen ∧ (worldAt s w).renewed = true ∧ clocksRun s = true) :=
  ⟨⟨modWorld (world3 .frozen) 3 fun w => { w with negotiated := true }, 3, by decide +kernel⟩, ⟨world3 .run, 3, 15, by decide +kernel⟩,
   ⟨base, 0, by decide +kernel⟩, ⟨world3 .run, 3, by decide +kernel⟩, ⟨world3 .frozen, 3, by decide +kernel⟩,
   ⟨modWorld (world3 .frozen) 3 fun w => { w with renewed := true }, 3, by decide +kernel⟩⟩

/-- The world of rectangle 0 unlocked, core 0 between blocks, in debug halt or halted. -/
def unlockedAt (dbg halted : Bool) : State :=
  onCore (modWorld base 0 fun w => { w with session := true, unlocked := true }) fun k =>
    { k with phase := .idle, csr := { k.csr with dbg := dbg, halted := halted } }

theorem witness_PeriscopeActs :
    (∃ s w, (worldAt s w).session = true ∧ (worldAt s w).unlocked = true) ∧
    (∃ s rid c, (worldAt s (worldOf rid)).unlocked = true ∧ (rectAt s rid).live = true ∧ c + 1 = coreCount (rectAt s rid) ∧ clocksRun s = true ∧
      (∀ k, (coreAt s rid k).csr.halted = false) ∧ inDebug s rid = true ∧ (coreAt s rid c).causes = []) ∧
    (∃ s rid c, (worldAt s (worldOf rid)).unlocked = true ∧ (rectAt s rid).live = true ∧ c < coreCount (rectAt s rid) ∧ clocksRun s = true ∧
      inDebug s rid = true ∧ (coreAt s rid c).causes = [] ∧ (coreAt s rid c).csr.halted = true) ∧
    (∀ h ∈ [true, false], seen (unlockedAt (!h) h) 0 0) ∧
    (∃ s rid c n v, seen s rid c ∧ monitorAt s rid 0 = some n ∧ monItem (s.rev == .b0) (tget {} (sampleMonitor s rid n).monitors n) 9 = some v) := by
  refine ⟨⟨unlockedAt true false, 0, by decide +kernel⟩,
   ⟨unlockedAt true false, 0, 7, by decide +kernel, by decide +kernel, by decide +kernel, by decide +kernel, fun k => by
      simpa using cores_all (p := fun k => !k.csr.halted) (s := unlockedAt true false) (rid := 0) (by decide +kernel) rfl k, by decide +kernel, by decide +kernel⟩,
   ⟨unlockedAt true true, 0, 0, by decide +kernel⟩, ?_,
   ⟨{ unlockedAt true false with monAlloc := [(31, 0x80)] }, 0, 0, 31, 0, by unfold seen inHalt; decide +kernel, by decide +kernel, by decide +kernel⟩⟩
  unfold seen inHalt
  decide +kernel
/-! ### Words: match bits of each row of the opcode table (R58, R59) with field values of R55 to R57 written into them -/

/-- ADD to AND. -/
theorem test_words_1 :
    (decode 0x00968840).toOption = some (.add 1 0x5A 0x42) ∧
    (decode 0x00968841).toOption = some (.sub 1 0x5A 0x42) ∧
    (decode 0x00968842).toOption = some (.mul 1 0x5A 0x42) ∧
    (decode 0x00968843).toOption = some (.mulh 1 0x5A 0x42) ∧
    (decode 0x00968844).toOption = some (.mulhz 1 0x5A 0x42) ∧
    (decode 0x00968845).toOption = some (.div 1 0x5A 0x42) ∧
    (decode 0x00968846).toOption = some (.divz 1 0x5A 0x42) ∧
    (decode 0x00968847).toOption = some (.rem 1 0x5A 0x42) ∧
    (decode 0x00968848).toOption = some (.remz 1 0x5A 0x42) ∧
    (decode 0x00968849).toOption = some (.and 1 0x5A 0x42) := by decide +kernel

/-- OR to MAX. -/
theorem test_words_2 :
    (decode 0x0096884A).toOption = some (.or 1 0x5A 0x42) ∧
    (decode 0x0096884B).toOption = some (.xor 1 0x5A 0x42) ∧
    (decode 0x0096884C).toOption = some (.andn 1 0x5A 0x42) ∧
    (decode 0x0096884D).toOption = some (.orn 1 0x5A 0x42) ∧
    (decode 0x0096884E).toOption = some (.shl 1 0x5A 0x42) ∧
    (decode 0x0096884F).toOption = some (.shr 1 0x5A 0x42) ∧
    (decode 0x00968850).toOption = some (.sar 1 0x5A 0x42) ∧
    (decode 0x00968851).toOption = some (.ror 1 0x5A 0x42) ∧
    (decode 0x00968852).toOption = some (.min 1 0x5A 0x42) ∧
    (decode 0x00968853).toOption = some (.max 1 0x5A 0x42) := by decide +kernel

/-- MINZ to CLT. -/
theorem test_words_3 :
    (decode 0x00968854).toOption = some (.minz 1 0x5A 0x42) ∧
    (decode 0x00968855).toOption = some (.maxz 1 0x5A 0x42) ∧
    (decode 0x00968856).toOption = some (.mov 1 0x5A 0x42) ∧
    (decode 0x00968857).toOption = some (.clz 1 0x5A 0x42) ∧
    (decode 0x00968858).toOption = some (.ctz 1 0x5A 0x42) ∧
    (decode 0x00968859).toOption = some (.popc 1 0x5A 0x42) ∧
    (decode 0x0096885A).toOption = some (.brev 1 0x5A 0x42) ∧
    (decode 0x02968840).toOption = some (.ceq 1 0x5A 0x42) ∧
    (decode 0x02968841).toOption = some (.cne 1 0x5A 0x42) ∧
    (decode 0x02968842).toOption = some (.clt 1 0x5A 0x42) := by decide +kernel

/-- CLE to SHRI. -/
theorem test_words_4 :
    (decode 0x02968843).toOption = some (.cle 1 0x5A 0x42) ∧
    (decode 0x02968844).toOption = some (.cltz 1 0x5A 0x42) ∧
    (decode 0x02968845).toOption = some (.clez 1 0x5A 0x42) ∧
    (decode 0x20D5B65A).toOption = some (.addi 1 0x2ADB 0x5A) ∧
    (decode 0x22D5B65A).toOption = some (.muli 1 0x2ADB 0x5A) ∧
    (decode 0x24D5B65A).toOption = some (.andi 1 0x2ADB 0x5A) ∧
    (decode 0x26D5B65A).toOption = some (.ori 1 0x2ADB 0x5A) ∧
    (decode 0x28D5B65A).toOption = some (.xori 1 0x2ADB 0x5A) ∧
    (decode 0x2A80365A).toOption = some (.shli 1 0x1B 0x5A) ∧
    (decode 0x2C80365A).toOption = some (.shri 1 0x1B 0x5A) := by decide +kernel

/-- SARI to ZEXT. -/
theorem test_words_5 :
    (decode 0x2E80365A).toOption = some (.sari 1 0x1B 0x5A) ∧
    (decode 0x30D5B65A).toOption = some (.ceqi 1 0x2ADB 0x5A) ∧
    (decode 0x32D5B65A).toOption = some (.cnei 1 0x2ADB 0x5A) ∧
    (decode 0x34D5B65A).toOption = some (.clti 1 0x2ADB 0x5A) ∧
    (decode 0x36D5B65A).toOption = some (.clei 1 0x2ADB 0x5A) ∧
    (decode 0x38D5B65A).toOption = some (.cltzi 1 0x2ADB 0x5A) ∧
    (decode 0x3AD5B65A).toOption = some (.clezi 1 0x2ADB 0x5A) ∧
    (decode 0x3CBADA5A).toOption = some (.lea 1 3 0x56D 0x5A) ∧
    (decode 0x3E80365A).toOption = some (.sext 1 0x1B 0x5A) ∧
    (decode 0x4080365A).toOption = some (.zext 1 0x1B 0x5A) := by decide +kernel

/-- EXTR to CALLI. -/
theorem test_words_6 :
    (decode 0x42D6EC5A).toOption = some (.extr 1 1 0x2D 0x36 0x5A) ∧
    (decode 0x448DDA5A).toOption = some (.ins 1 0x1B 0x2D 0x5A) ∧
    (decode 0x605A6ADB).toOption = some (.constI 0x5A 0x6ADB) ∧
    (decode 0x625A6ADB).toOption = some (.consth 0x5A 0x6ADB) ∧
    (decode 0x6504845A).toOption = some (.get 0x41 0x42 0x5A) ∧
    (decode 0x66968840).toOption = some (.null 1 0x5A 0x42) ∧
    (decode 0x70116ADB).toOption = some (.br 1 0x16ADB) ∧
    (decode 0x70500000).toOption = some (.bri 1) ∧
    (decode 0x70916ADB).toOption = some (.call 1 0x16ADB) ∧
    (decode 0x70D00000).toOption = some (.calli 1) := by decide +kernel

/-- RET to STVS. -/
theorem test_words_7 :
    (decode 0x71100000).toOption = some (.ret 1) ∧
    (decode 0x71500000).toOption = some (.tend 1) ∧
    (decode 0x71916ADB).toOption = some (.park 1 0x16ADB) ∧
    (decode 0x71D00000).toOption = some (.tabort 1) ∧
    (decode 0x80CADA5A).toOption = some (.ld 1 9 0x16D 0x5A) ∧
    (decode 0x82CADBFF).toOption = some (.st 1 9 0x16D) ∧
    (decode 0x8486DBFF).toOption = some (.ldv 1 0x1B 0xD) ∧
    (decode 0x8686DBFF).toOption = some (.stv 1 0x1B 0xD) ∧
    (decode 0x88CB41FF).toOption = some (.ldvs 1 9 0xD) ∧
    (decode 0x8ACB41FF).toOption = some (.stvs 1 9 0xD) := by decide +kernel

/-- VGATHER to CAS. -/
theorem test_words_8 :
    (decode 0x8C807DFF).toOption = some (.vgather 1 3 1 6) ∧
    (decode 0x8E807DFF).toOption = some (.vscatter 1 3 1 6) ∧
    (decode 0x908001FF).toOption = some (.cmt 1) ∧
    (decode 0x928001FF).toOption = some (.seal 1) ∧
    (decode 0x948007FF).toOption = some (.fenceAcq 1 3) ∧
    (decode 0x948807FF).toOption = some (.fenceRel 1 3) ∧
    (decode 0x949007FF).toOption = some (.fenceSc 1 3) ∧
    (decode 0x9680005A).toOption = some (.lprobe 1 0x5A) ∧
    (decode 0xA0C0025A).toOption = some (.amo 1 8 1 0x5A) ∧
    (decode 0xA280025A).toOption = some (.cas 1 1 0x5A) := by decide +kernel

/-- RED to SEMADD. -/
theorem test_words_9 :
    (decode 0xA4C003FF).toOption = some (.red 1 8 1) ∧
    (decode 0xA6C801FF).toOption = some (.redf 1 9) ∧
    (decode 0xA88001FF).toOption = some (.cellinit 1) ∧
    (decode 0xAA80005A).toOption = some (.cellrd 1 0x5A) ∧
    (decode 0xB080005A).toOption = some (.spawn 1 0x5A) ∧
    (decode 0xB280005A).toOption = some (.dqpush 1 0x5A) ∧
    (decode 0xB480005A).toOption = some (.dqpop 1 0x5A) ∧
    (decode 0xB6841A5A).toOption = some (.qlen 1 1 0xD 0x5A) ∧
    (decode 0xB8841A5A).toOption = some (.qrsv 1 1 0xD 0x5A) ∧
    (decode 0xBA80005A).toOption = some (.semadd 1 0x5A) := by decide +kernel

/-- SEMSET to VMAX. -/
theorem test_words_10 :
    (decode 0xBC8001FF).toOption = some (.semset 1) ∧
    (decode 0xBE80005A).toOption = some (.semrd 1 0x5A) ∧
    (decode 0xC0EDB6C9).toOption = some (.vadd 1 0x1B 0xD 0x16 3 9) ∧
    (decode 0xC0EDB6D9).toOption = some (.vsub 1 0x1B 0xD 0x16 3 9) ∧
    (decode 0xC0EDB6E9).toOption = some (.vmul 1 0x1B 0xD 0x16 3 9) ∧
    (decode 0xC0EDB6F9).toOption = some (.vdiv 1 0x1B 0xD 0x16 3 9) ∧
    (decode 0xC2EDB6C9).toOption = some (.vfma 1 0x1B 0xD 0x16 3 9) ∧
    (decode 0xC2EDB6D9).toOption = some (.vfms 1 0x1B 0xD 0x16 3 9) ∧
    (decode 0xC2EDB627).toOption = some (.vmin 1 0x1B 0xD 0x16 7) ∧
    (decode 0xC2EDB639).toOption = some (.vmax 1 0x1B 0xD 0x16 9) := by decide +kernel

/-- VABS to VAND. -/
theorem test_words_11 :
    (decode 0xC4EDA005).toOption = some (.vabs 1 0x1B 0xD 5) ∧
    (decode 0xC4EDA015).toOption = some (.vneg 1 0x1B 0xD 5) ∧
    (decode 0xC4EDA0A9).toOption = some (.vsqrt 1 0x1B 0xD 2 9) ∧
    (decode 0xC4EDA0B9).toOption = some (.vrcp 1 0x1B 0xD 2 9) ∧
    (decode 0xC6EDA089).toOption = some (.vrsq 1 0x1B 0xD 2 9) ∧
    (decode 0xC6EDA099).toOption = some (.vexp2 1 0x1B 0xD 2 9) ∧
    (decode 0xC6EDA0A9).toOption = some (.vlog2 1 0x1B 0xD 2 9) ∧
    (decode 0xC8EDB6C3).toOption = some (.vcmp 1 0x1B 0xD 0x16 3 3) ∧
    (decode 0xCAEDB609).toOption = some (.vsel 1 0x1B 0xD 0x16 9) ∧
    (decode 0xCAEDB619).toOption = some (.vand 1 0x1B 0xD 0x16 9) := by decide +kernel

/-- VOR to VCVT. -/
theorem test_words_12 :
    (decode 0xCAEDB629).toOption = some (.vor 1 0x1B 0xD 0x16 9) ∧
    (decode 0xCAEDB639).toOption = some (.vxor 1 0x1B 0xD 0x16 9) ∧
    (decode 0xCCEDA009).toOption = some (.vnot 1 0x1B 0xD 9) ∧
    (decode 0xCCEDB615).toOption = some (.vshl 1 0x1B 0xD 0x16 5) ∧
    (decode 0xCCEDB625).toOption = some (.vshr 1 0x1B 0xD 0x16 5) ∧
    (decode 0xCCEDB635).toOption = some (.vsar 1 0x1B 0xD 0x16 5) ∧
    (decode 0xCEEDB606).toOption = some (.viadd 1 0x1B 0xD 0x16 6) ∧
    (decode 0xCEEDB616).toOption = some (.visub 1 0x1B 0xD 0x16 6) ∧
    (decode 0xCEEDB626).toOption = some (.vimul 1 0x1B 0xD 0x16 6) ∧
    (decode 0xD0EDABC4).toOption = some (.vcvt 1 0x1B 0xD 0xB 3 4) := by decide +kernel

/-- VQNT to MMAC. -/
theorem test_words_13 :
    (decode 0xD2EF56CC).toOption = some (.vqnt 1 0x1B 0x1A 0x16 3 0xC) ∧
    (decode 0xD2D1B6DD).toOption = some (.vdqnt 1 0x14 0xD 0x16 3 0xD) ∧
    (decode 0xD4A9A85A).toOption = some (.vred 1 0xA 0xD 5 0 0x5A) ∧
    (decode 0xD6EDA049).toOption = some (.vbcast 1 0x1B 0xD 1 9) ∧
    (decode 0xD8EDB609).toOption = some (.vshuf 1 0x1B 0xD 0x16 9) ∧
    (decode 0xDAA5A05A).toOption = some (.vext 1 9 0xD 0x5A) ∧
    (decode 0xDCEC0009).toOption = some (.vins 1 0x1B 9) ∧
    (decode 0xDCEDA010).toOption = some (.vmov 1 0x1B 0xD) ∧
    (decode 0xDCEC0020).toOption = some (.vzero 1 0x1B) ∧
    (decode 0xE0801BFF).toOption = some (.mmac 1 1 5) := by decide +kernel

/-- MINIT to SSTOP. -/
theorem test_words_14 :
    (decode 0xE2801BFF).toOption = some (.minit 1 1 5) ∧
    (decode 0xE2881BFF).toOption = some (.mdrain 1 1 5) ∧
    (decode 0xE48001FF).toOption = some (.mbudget 1) ∧
    (decode 0xE488045A).toOption = some (.mstat 1 2 0x5A) ∧
    (decode 0xE6801BFF).toOption = some (.mgang 1 1 5) ∧
    (decode 0xE6881BFF).toOption = some (.mgrant 1 1 5) ∧
    (decode 0xE8801BFF).toOption = some (.spat 1 1 5) ∧
    (decode 0xE8881BFF).toOption = some (.sstart 1 1 5) ∧
    (decode 0xE8901BFF).toOption = some (.sacc 1 1 5) ∧
    (decode 0xE8981BFF).toOption = some (.sstop 1 1 5) := by decide +kernel

/-- SPROG to RWHERE. -/
theorem test_words_15 :
    (decode 0xE8A0005A).toOption = some (.sprog 1 0x5A) ∧
    (decode 0xEA816BFF).toOption = some (.copy 1 0xB 5) ∧
    (decode 0xEA821BFF).toOption = some (.copyD 1 1 5) ∧
    (decode 0xEA841BFF).toOption = some (.copyQf 1 1 5) ∧
    (decode 0xEA881BFF).toOption = some (.copym 1 1 5) ∧
    (decode 0xEA901BFF).toOption = some (.tmove 1 1 5) ∧
    (decode 0xEC800A5A).toOption = some (.tokrd 1 0 5 0x5A) ∧
    (decode 0xF0807DFF).toOption = some (.rboard 1 3 1 6) ∧
    (decode 0xF0881BFF).toOption = some (.rdrop 1 1 5) ∧
    (decode 0xF090065A).toOption = some (.rwhere 1 3 0x5A) := by decide +kernel

/-- RSTAT to TRAP. -/
theorem test_words_16 :
    (decode 0xF098005A).toOption = some (.rstat 1 0x5A) ∧
    (decode 0xF0980E5A).toOption = some (.rstatLane 1 3 0x5A) ∧
    (decode 0xF28007FF).toOption = some (.rbind 1 3) ∧
    (decode 0xF28807FF).toOption = some (.rpace 1 3) ∧
    (decode 0xF480365A).toOption = some (.xfence 1 0x1B 0x5A) ∧
    (decode 0xF48801FF).toOption = some (.xwait 1) ∧
    (decode 0xF4901BFF).toOption = some (.xsem 1 1 5) ∧
    (decode 0xF6817DFF).toOption = some (.collReduce 1 0xB 1 6) ∧
    (decode 0xF6897DFF).toOption = some (.collBcast 1 0xB 1 6) ∧
    (decode 0xF88017FF).toOption = some (.trap 1 0xB) := by decide +kernel

/-- ERET_DISCARD to MONRD. -/
theorem test_words_17 :
    (decode 0xF88809FF).toOption = some (.eretDiscard 1 1) ∧
    (decode 0xF88803FF).toOption = some (.eretRetry 1) ∧
    (decode 0xF88805FF).toOption = some (.eretResume 1) ∧
    (decode 0xF891B7FF).toOption = some (.brk 1 0xDB) ∧
    (decode 0xF89801FF).toOption = some (.halt 1) ∧
    (decode 0xFA85B65A).toOption = some (.csrr 1 0x2DB 0x5A) ∧
    (decode 0xFA8DB7FF).toOption = some (.csrw 1 0x2DB) ∧
    (decode 0xFA90025A).toOption = some (.time 1 1 0x5A) ∧
    (decode 0xFC8001FF).toOption = some (.moncfg 1) ∧
    (decode 0xFC88365A).toOption = some (.monrd 1 0x1B 0x5A) := by decide +kernel

/-! ### Words that the spec works out -/

/-- The worked words of R184 and R185, and of the handler of R301 to R307. -/
theorem test_worked_words :
    (decode 0xCE082126).toOption = some (.vimul 0 2 1 1 6) ∧ (decode 0xD4184004).toOption = some (.vred 0 6 2 0 0 4) ∧
    (decode 0xD008280B).toOption = some (.vcvt 0 2 1 8 0 11) ∧ (decode 0xD010690B).toOption = some (.vcvt 0 4 3 9 0 11) ∧
    (decode 0xC214C748).toOption = some (.vfma 0 5 6 7 1 8) ∧ (decode 0xC8044385).toOption = some (.vcmp 0 1 2 3 2 5) ∧
    (decode 0xD220494C).toOption = some (.vqnt 0 8 2 9 1 12) ∧ (decode 0xFA004008).toOption = some (.csrr 0 0x020 8) ∧
    (decode 0x2C000A10).toOption = some (.shri 0 5 16) ∧ (decode 0x30000E18).toOption = some (.ceqi 0 7 24) ∧
    (decode 0x00088556).toOption = some (.mov 0 0x022 0x02A) := by decide +kernel

/-- CAUSE is read in the handler; ERET.RETRY if and ERET.DISCARD ifn; TRAP 5 and HALT. -/
theorem test_worked_exits :
    (decode 0xF88803FF).toOption = some (.eretRetry 1) ∧ (decode 0xF90801FF).toOption = some (.eretDiscard 2 0) ∧
    (decode 0xF8000BFF).toOption = some (.trap 0 5) ∧ (decode 0xF81801FF).toOption = some (.halt 0) := by decide +kernel

/-! ### Words that R61 refuses, with their causes -/

theorem refused_of {w : BitVec 32} {d : Nat} (h : (match decode w with | .error e => e == d | .ok _ => false) = true) : decode w = .error d := by
  split at h
  · rename_i e he; rw [he]; simp at h; rw [h]
  · simp at h

theorem test_unassigned : decode 0x04000000 = .error 0x020 ∧ decode 0x1FFFFFFF = .error 0x020 := ⟨refused_of (by decide +kernel), refused_of (by decide +kernel)⟩
/-- xop 31 of opcode 0x00. -/
theorem test_bad_xop : decode 0x0000001F = .error 0x021 := refused_of (by decide +kernel)
/-- A two-bit PR of 3. -/
theorem test_bad_pr : decode 0x018043E0 = .error 0x023 ∧ (Instr.add 3 0x1FF 0x1FF).wellFormed = false := ⟨refused_of (by decide +kernel), by decide +kernel⟩
/-- GET of register 127. -/
theorem test_bad_register : decode 0x65FFFFFF = .error 0x024 ∧ (Instr.get 127 0x1FF 0x1FF).wellFormed = false := ⟨refused_of (by decide +kernel), by decide +kernel⟩
/-- A target of kind 5, of kind 6, of kind 7 below 63, and of kind 4 at 63. -/
theorem test_bad_targets : ∀ t ∈ [0x02D, 0x02E, 0x1F7, 0x1FC], (Instr.add 0 t 0x1FF).wellFormed = false := by decide +kernel
/-- Vectors of a type that they do not take; a rounding mode where none is taken; a 4-bit form on an odd register. -/
theorem test_bad_types : (Instr.vadd 0 1 2 3 0 7).wellFormed = false ∧ (Instr.vimul 0 1 2 3 8).wellFormed = false ∧
    (Instr.vred 0 4 1 1 0 0x1FF).wellFormed = false ∧ (Instr.vqnt 0 1 3 4 0 12).wellFormed = false ∧ (Instr.vqnt 0 1 2 4 0 11).wellFormed = false := by
  decide +kernel
/-- Reserved selections: QLEN of port 16, MSTAT 3, TOKRD of all with a token, VRED 3. -/
theorem test_bad_fields : (Instr.qlen 0 1 16 0x1FF).wellFormed = false ∧ (Instr.mstat 0 3 0x1FF).wellFormed = false ∧
    (Instr.tokrd 0 1 1 0x1FF).wellFormed = false ∧ (Instr.vred 0 8 1 0 3 0x1FF).wellFormed = false := by decide +kernel
/-- An event has no word. -/
theorem test_event_words : (Instr.packageReset).wellFormed = false ∧ (Instr.corePick 0 0).wellFormed = false := by decide

/-! ### Worked values of the spec -/

/-- R66 and R33 at their corners. -/
theorem test_divide : divS (BitVec.ofInt 64 (-(2 ^ 63))) (-1) = (BitVec.ofInt 64 (-(2 ^ 63)), 0) ∧ divS (-7) 2 = (-3, -1) ∧ divS 5 0 = (-1, 5) ∧ divZ 5 0 = (-1, 5) := by
  decide +kernel

/-- The example of R179 with step 1: 0.3, -1.2, 0.0625, 0.875 and -0.6 as Q4U and as Q4N, with SAT, NX and UF. -/
theorem test_quantise :
    ([0x3E99999A, 0xBF99999A, 0x3D800000, 0x3F600000, 0xBF19999A].map fun x =>
      let r := quantise false (valueOf fp32 x) 1 0; (r.1, r.2.bits)) = [(2, 0x10), (8, 0x30), (0, 0x18), (7, 0), (11, 0x10)] ∧
    ([0x3E99999A, 0xBF99999A, 0x3D800000, 0x3F600000, 0xBF19999A].map fun x =>
      let r := quantise true (valueOf fp32 x) 1 0; (r.1, r.2.bits)) = [(10, 0x10), (0, 0x30), (8, 0x10), (14, 0x10), (2, 0x10)] := by decide +kernel

/-- The double rounding of R187, and the VDQNT of R190. -/
theorem test_convert : (cvtOne 8 11 .rne 0x3F884000).1 = 0x41 ∧ (cvtOne 8 9 .rne 0x3F884000).1 = 0x3F88 ∧ (cvtOne 9 11 .rne 0x3F88).1 = 0x40 ∧
    (encodeVal fp32 .rne (q4Value false 0xE 63 0x3F000000)).1 = 0xBD000000 := by decide +kernel

/-- The VRED.ADD.BF16 of R191. -/
theorem test_reduce : (let r := redTree 9 0 .rne 7 ([0x4380, 0x3F80, 0x3F80, 0x3F80] ++ List.replicate 60 0); (r.1, r.2.bits)) = (0x4381, 0x10) := by decide +kernel

/-- The cell of R127 and R128. -/
theorem test_cell : (let x := [0x40200000, 0xBD000000, 0xBF800000].foldl (fun x v => contribute x (valueOf fp32 v)) (cellOf 0 (-4) 0)
    (cellW x, bitsOf x.toNat 210 208, (readCell x).1)) = (23, 1, 0x3FB80000) := by decide +kernel

/-- The window walk of R226: beat 0 of row 0, beat 0 of row 4, and beat 4 of row 8; value v of the image stands at 2 (v - 1). -/
def windowPat : BitVec 512 := BitVec.ofNat 512 (0x4001 + 0x22000000050005 * 2 ^ 128 + 0x0811 * 2 ^ 192 + 0x11 * 2 ^ 184 + 8 * 2 ^ 288)
theorem test_window : badDescriptor windowPat = false ∧ streamLen windowPat = 1280 ∧
    ((windowByte (2 ^ 21) windowPat 0).toOption, (windowByte (2 ^ 21) windowPat 16).toOption, (windowByte (2 ^ 21) windowPat 18).toOption,
      (windowByte (2 ^ 21) windowPat (4 * 256 + 32)).toOption, (windowByte (2 ^ 21) windowPat (4 * 256 + 34)).toOption) =
    (some .zero, some (.byAt 14), some (.byAt 16), some (.byAt 70), some .zero) := by decide +kernel

/-! ### Steps -/

/-- What a step leaves. -/
def after (s : State) : Option State := match step s with | .next t => some t | _ => none

/-- From reset with a word placed, a step runs it: ADD resolves its slot, HALT outside the handler is taken as a trap. -/
theorem test_step_add : ((after (State.reset.withFetchWord 32 0x007FFFE0)).bind here).map (·.slots) = some [.fired] := by decide +kernel
/-- R49: MUL leaves its product on its way, and a later issue of its slot delivers it. -/
theorem test_step_mul : ((after (mk (.mul 0 0x1FF 0x1FF) 3 4)).bind here).map (·.products.map (·.val)) = some [12] ∧
    ((after (multiplied (.mul 0 0x1FF 0x1FF) [⟨0, 12, none⟩])).bind here).map (·.products) = some [] := by decide +kernel
/-- VIMUL.S32 V2, V1, V1 of lanes of -3 writes lanes of 9. -/
theorem test_step_vimul : ((after (onCore (State.reset.withFetchWord 32 0xCE082126) fun k => { k with v := [(1, ofLanes 32 (List.replicate 32 (2 ^ 32 - 3)))] })).map
    fun t => (lane (tget 0 (coreAt t 0 0).v 2) 31 32)) = some 9 := by decide +kernel
/-- TRAP 5 enters the handler with cause 0x150 + 5, its slot and its block (R301). -/
theorem test_step_trap : ((after (onCsr (State.reset.withFetchWord 32 0xF8000BFF) fun q => { q with hvec := 0x8000000000003C00 })).map
    fun t => ((coreAt t 0 0).csr.cause, (coreAt t 0 0).csr.hmode, (coreAt t 0 0).csr.fblk)) = some (0x155, true, 0) := by decide +kernel
/-- The first move of the machine after reset, with nothing placed: core 0 of rectangle 0, which is not live, picks nothing. -/
theorem test_step_reset : after State.reset = some State.reset := by decide +kernel

/-! ### Faults that wait, images, the ring, the streams -/

/-- R52: a block whose fault of slot 4 waits for XFENCE in slot 2 ends by the fault of slot 2 when that faults itself. -/
theorem test_kept_fault : (laterFault (0x009, 0, some 4) (0x122, 0, some 2) { n := 5, slots := List.replicate 5 .waiting, part := [2] }).fault =
    some (0x122, 0, some 2) ∧
    (laterFault (0x009, 0, some 4) (0x122, 0, some 3) { n := 5, slots := List.replicate 5 .waiting, part := [2] }).fault = some (0x009, 0, some 4) := by
  decide +kernel

/-- R31: TRAP 16, INS at position 64 and an exit of offset −524,288 are outside their ranges, TRAP 15 and INS at 63 within. -/
theorem test_immediate_range :
    badImmediate (encode (.trap 0 15) + 512) = true ∧ badImmediate (encode (.trap 0 15)) = false ∧
    badImmediate 0x44200000 = true ∧ badImmediate 0x441F8000 = false ∧ badImmediate 0x70080000 = true ∧ badImmediate 0x70080001 = false := by
  decide +kernel

/-- R31, R151: QLEN of stage 16 is out of range, of stage 15 within, and with K = 0 port 16 is. -/
theorem test_stage_range :
    badImmediate 0xB60421FF = true ∧ badImmediate 0xB6041FFF = false ∧ badImmediate 0xB60021FF = false := by decide +kernel

/-- R78, R60: a target at the right operand of SHLI, which takes none, is 0x005 at its own slot, also where SHLI has a bit set that must
be zero. -/
theorem test_target_of_bad_shli :
    (match checkSlots 2 [encode (.csrr 0 0 9), 0x2A0081FF] with | .error e => decide (e = (5, 0)) | .ok _ => false) = true ∧
    (match checkSlots 2 [encode (.csrr 0 0 8), 0x2A0081FF] with | .error e => decide (e = (0x022, 1)) | .ok _ => false) = true := by
  decide +kernel

/-- R254: the station of the feeder's own die has seen the tile when it leaves, the other three are to see it. -/
theorem test_own_station : (match execFeederInject 7 (feeding 0 0 0 0 none) with
    | .next s => (tget {} (laneAt s 7).stations 3).seen && decide ((laneAt s 7).ring.map (·.2) = [[2, 0, 1]])
    | _ => false) = true := by decide +kernel

/-- R237: a waiting SPAT of the stopped slot is cancelled with the commands ahead. -/
theorem test_spat_of_slot : ofSlot 5 { hdr := {}, work := .spat 5 0 } = true ∧ ofSlot 4 { hdr := {}, work := .spat 5 0 } = false := by decide +kernel

/-! ### The step and the encoding -/

/-- What the clauses on a running block take. -/
def runs (s : State) (b : BlockRun) : Prop :=
  s.agenda = [] ∧ here s = some b ∧ b.divide = none ∧ b.lookups = [] ∧ b.loads = [] ∧ b.pushes = []

theorem dec_of {w : BitVec 32} {i : Instr} (h : (decode w).toOption = some i) : decode w = .ok i := rd_of h

theorem runs_of {s : State} (h : s.agenda.isEmpty && (match here s with
    | some b => b.divide.isNone && b.lookups.isEmpty && b.loads.isEmpty && b.pushes.isEmpty | none => false) = true) : runs s (blk s) := by
  cases e : here s with
  | none => simp [e] at h
  | some b =>
    simp only [e, Bool.and_eq_true, List.isEmpty_iff, Option.isNone_iff_eq_none, decide_eq_true_eq] at h
    exact ⟨h.1, by simp [blk, e], by simpa [blk, e] using h.2.1.1.1, by simpa [blk, e] using h.2.1.1.2, by simpa [blk, e] using h.2.1.2,
      by simpa [blk, e] using h.2.2⟩

/-- A block of two slots whose operands are all there. -/
def pair (a b : Instr) : State := onRun (mkG a 1 1) fun r =>
  { r with n := 2, regs := [(0, 1)], words := [encode a, encode b], slots := [.waiting, .waiting],
           ops := r.ops ++ [(opKey 1 0, ⟨0, some 1⟩), (opKey 1 1, ⟨0, some 1⟩), (opKey 1 2, ⟨0, some 1⟩)] }

/-- SEMRD of an address that is no semaphore faults in slot 1; ADD in slot 0 faults too where its target has its
value already: a register names slot 0, an operand of slot 1 names slot 1. -/
theorem witness_issues : ∀ x ∈ [((0x1FF : BitVec 9), none), (0x008, none), (0x003, some 0)], ∃ b, here (pair (.add 0 x.1 0x1FF) (.semrd 0 0x1FF)) = some b ∧
    endedBlock (exec (.semrd 0 0x1FF) { pair (.add 0 x.1 0x1FF) (.semrd 0 0x1FF) with cur := ⟨0, 0, 1⟩ }) 0 0 = true ∧
    lowerFault (pair (.add 0 x.1 0x1FF) (.semrd 0 0x1FF)) 0 0 b 1 = x.2 := by
  intro x hx
  refine ⟨blk (pair (.add 0 x.1 0x1FF) (.semrd 0 0x1FF)), ?_⟩
  simp only [List.mem_cons, List.not_mem_nil, or_false] at hx
  obtain rfl | rfl | rfl := hx <;> decide +kernel

theorem witness_StepRunsDecoded :
    (∃ (s : State) (i : Instr) (rest : List Sched), s.agenda = .event i :: rest) ∧
    (∃ (s : State) (rid c k : Nat) (rest : List Sched) (b : BlockRun) (i : Instr), s.agenda = .issue rid c k :: rest ∧ runOf s rid c = some b ∧ decode (wordOf b k) = .ok i) ∧
    (∃ s : State, s.agenda = [] ∧ (coreHere s).vloads ≠ []) ∧
    (∃ s : State, s.agenda = [] ∧ (coreHere s).phase = .idle) ∧ (∃ s : State, s.agenda = [] ∧ (coreHere s).phase = .launching) ∧
    (∃ (s : State) (t : Nat) (l : W64) (th m : BitVec 32), s.agenda = [] ∧ (coreHere s).phase = .parking t l th m) ∧
    (∃ (s : State) (h : Nat), s.agenda = [] ∧ (coreHere s).phase = .fetch h) ∧ (∃ (s : State) (b : BlockRun), s.agenda = [] ∧ (coreHere s).phase = .ready b) ∧
    (∃ s b k i, runs s b ∧ (coreHere s).vloads = [] ∧ nextSlot (coreHere s) b false = some k ∧ decode (wordOf b k) = .ok i) ∧
    (∃ s b k i, runs s b ∧ (coreHere s).vloads = [] ∧ nextSlot (coreHere s) b false = none ∧ nextProduct b = some k ∧ decode (wordOf b k) = .ok i) ∧
    (∃ s b k i, runs s b ∧ (coreHere s).vloads = [] ∧ nextSlot (coreHere s) b false = none ∧ nextProduct b = none ∧ (coreHere s).drain = [] ∧ (coreHere s).acks = [] ∧
      nextSlot (coreHere s) b true = some k ∧ decode (wordOf b k) = .ok i) ∧
    (∃ s b, runs s b ∧ (coreHere s).vloads = [] ∧ nextSlot (coreHere s) b false = none ∧ nextProduct b = none ∧ (coreHere s).drain = [] ∧ (coreHere s).acks = [] ∧
      nextSlot (coreHere s) b true = none) := by
  refine ⟨⟨{ State.reset with agenda := [.event .packageReset] }, _, [], rfl⟩, ?_, ⟨late1 0x100 false, rfl, by decide +kernel⟩, ⟨State.reset, rfl, by decide +kernel⟩,
    ⟨onCore base fun k => { k with phase := .launching }, rfl, by decide +kernel⟩,
    ⟨onCore base fun k => { k with phase := .parking 5 0 1 1 }, 5, 0, 1, 1, rfl, by decide +kernel⟩, ⟨onCore base fun k => { k with phase := .fetch 9 }, 9, rfl, by decide +kernel⟩,
    ⟨onCore base fun k => { k with phase := .ready {} }, {}, rfl, by decide +kernel⟩,
    ⟨mk (.add 0 0x1FF 0x1FF) 0 0, blk _, 0, _, runs_of (by decide +kernel), by decide +kernel, by decide +kernel, dec_of (i := .add 0 0x1FF 0x1FF) (by decide +kernel)⟩,
    ⟨multiplied (.mul 0 0x1FF 0x1FF) [⟨0, 12, none⟩], blk _, 0, .mul 0 0x1FF 0x1FF, runs_of (by decide +kernel), by decide +kernel, by decide +kernel,
      by decide +kernel, dec_of (by decide +kernel)⟩,
    ⟨mk (.csrr 0 0 0x1FF) 0 0, blk _, 0, .csrr 0 0 0x1FF, runs_of (by decide +kernel), ?_⟩,
    ⟨onRun base fun b => { b with slots := [.fired] }, blk _, runs_of (by decide +kernel), by and_intros <;> decide +kernel⟩⟩
  · exact ⟨{ mk (.add 0 0x1FF 0x1FF) 0 0 with agenda := [.issue 0 0 0] }, 0, 0, 0, [], blk (mk (.add 0 0x1FF 0x1FF) 0 0), .add 0 0x1FF 0x1FF, rfl,
      by decide +kernel, dec_of (by decide +kernel)⟩
  · refine ⟨?_, ?_, ?_, ?_, ?_, ?_, dec_of ?_⟩ <;> decide +kernel

theorem witness_DecodeAndEncodeAgree : (∃ i : Instr, i.wellFormed = true) ∧ (∃ w i, decode w = .ok i) ∧ (∃ w : BitVec 32, (w.extractLsb' 25 7).toNat = 0x7F) :=
  ⟨⟨.halt 0, by decide +kernel⟩, ⟨0xF81801FF, .halt 0, dec_of (by decide +kernel)⟩, ⟨0xFE000000, by decide⟩⟩

theorem witness_MemoryFormKept : ∃ s s', Memory.wf s = true ∧ step s = .next s' :=
  ⟨State.reset, State.reset, by decide +kernel, by
    have h := test_step_reset
    unfold after at h
    split at h
    · rename_i t e; rw [e]; simp only [Option.some.injEq] at h; rw [h]
    · simp at h⟩

end Sys2Proof.Tests
end

section
/-!
PROOF. PLACE of images, releases, saves and restores (O51). A PLACE that is ready is taken (`servePlace_of_ready`); its work leaves the leases
that the address of its result was checked with (`footing`); the result word is then written, the last of all (`answered_placeResult`).
-/
open Sys2Proof Sys2Proof.Machine Sys2Proof.Claims

namespace Sys2Proof.Rectangles

/-! ### Loops, tables and numbers -/

/-- What no turn of a loop changes, the loop leaves. -/
theorem foldl_keeps {α β : Type} (g : State → β) {f : State → α → State} (l : List α) (s : State) (hf : ∀ s x, g (f s x) = g s) :
    g (l.foldl f s) = g s :=
  List.foldlRecOn l f (motive := fun t => g t = g s) rfl fun t ht x _ => (hf t x).trans ht

theorem tget_tdel {α : Type} (d : α) (t : Tab α) (k j : Nat) : tget d (tdel t k) j = if j = k then d else tget d t j := by
  induction t with
  | nil => simp [tdel, tget, tfind]
  | cons e t ih =>
    obtain ⟨i, x⟩ := e
    unfold tget at ih ⊢
    by_cases hik : i = k
    · subst hik
      by_cases hj : j = i
      · simpa [tdel, hj] using ih
      · simpa [tdel, tfind, hj, Ne.symm hj] using ih
    · by_cases hij : i = j
      · subst hij; simp [tdel, tfind, hik]
      · simpa [tdel, tfind, hik, hij] using ih

theorem tget_map_of_mem {α : Type} (d : α) (f : Nat → α) {l : List Nat} {k : Nat} (h : k ∈ l) : tget d (l.map fun k => (k, f k)) k = f k := by
  induction l with
  | nil => cases h
  | cons j l ih =>
    unfold tget at ih ⊢
    by_cases hj : j = k
    · subst hj; simp [tfind]
    · simpa [tfind, hj] using ih (by simpa [Ne.symm hj] using h)

theorem natOf_lt (bs : List Byte) : natOf bs < 256 ^ bs.length := by
  induction bs with
  | nil => simp [natOf]
  | cons b bs ih =>
    rw [natOf, List.length_cons, Nat.pow_succ]
    have := b.isLt
    omega

theorem field_lt (bs : List Byte) (i n : Nat) : field bs i n < 256 ^ n :=
  (natOf_lt _).trans_le (Nat.pow_le_pow_right (by omega) (List.length_take_le ..))

/-! ### What the answer of a PLACE rests on (R97, R333, R346, R347) -/

/-- An extent with another count of pins: no check of an access looks at the pins. -/
def repin (p : Nat) (x : Nat × Extent) : Nat × Extent := (x.1, { x.2 with pins := p })

/-- What the answer of a world's PLACE rests on: the leases that check its address, and the place of its packet in the queue. -/
def footing (w : Nat) (s : State) : List (Nat × Extent) × Tab (List RangeEnt) × Nat × BitVec 32 :=
  (s.extents.map (repin 0), s.ranges, s.turn, (worldAt s w).lqhead)

/-- The footing, and every rectangle. -/
def ground (w : Nat) (s : State) : (List (Nat × Extent) × Tab (List RangeEnt) × Nat × BitVec 32) × Tab Rect := (footing w s, s.rects)

/-- The bytes of the machine and the errors in them. -/
def store (s : State) : List Host.Cell × List Nat × List Nat := (s.mem, s.bad, s.poison)

theorem footing_of_ground {w : Nat} {s u : State} (h : ground w u = ground w s) : footing w u = footing w s := congrArg Prod.fst h
theorem rects_of_ground {w : Nat} {s u : State} (h : ground w u = ground w s) : u.rects = s.rects := congrArg Prod.snd h
theorem rectAt_of_ground {w : Nat} {s u : State} (h : ground w u = ground w s) (rid : Nat) : rectAt u rid = rectAt s rid := by
  rw [rectAt, rectAt, rects_of_ground h]

/-- Two states with one footing find one extent at an address, but for its pins. -/
theorem extentAt_of_footing {w : Nat} {s u : State} (h : footing w u = footing w s) (v a : Nat) :
    ∃ p, extentAt u v a = (extentAt s v a).map (repin p) := by
  have found : ∀ t : State, (extentAt t v a).map (repin 0) = (t.extents.map (repin 0)).find? fun e => e.2.covers v a :=
    fun t => by rw [List.find?_map]; rfl
  have same : (extentAt u v a).map (repin 0) = (extentAt s v a).map (repin 0) := by
    rw [found, found, show u.extents.map (repin 0) = s.extents.map (repin 0) from congrArg Prod.fst h]
  cases hu : extentAt u v a with
  | none =>
    cases hs : extentAt s v a with
    | none => exact ⟨0, rfl⟩
    | some y => simp [hu, hs] at same
  | some x =>
    cases hs : extentAt s v a with
    | none => simp [hu, hs] at same
    | some y =>
      simp only [hu, hs, Option.map_some, Option.some.injEq] at same
      have back : ∀ z : Nat × Extent, z = repin z.2.pins (repin 0 z) := fun _ => rfl
      exact ⟨x.2.pins, by rw [back x, same]; rfl⟩

/-- An access that is allowed in global memory alone goes there. -/
theorem selector_of_translate {s : State} {who : Who} {a : W64} {n align : Nat} {acc : Acc}
    (h : translate s who a n align acc [0] = .ok ()) : selector a = 0 := by
  by_contra hne
  have refused : ∃ e, checkLocal s who a n align [0] = .error e := by
    unfold checkLocal
    dsimp only
    split
    · exact ⟨_, rfl⟩
    split
    · exact ⟨_, rfl⟩
    rw [if_pos (by simp [hne])]
    exact ⟨_, rfl⟩
  obtain ⟨e, he⟩ := refused
  simp [Machine.translate, he] at h

/-- The checks at the core of a global access look at its alignment alone. -/
theorem checkLocal_global (s : State) (who : Who) {a : W64} (n align : Nat) (h : selector a = 0) :
    checkLocal s who a n align [0] = if align ≠ 0 ∧ a.toNat % align ≠ 0 then .error 0x062 else .ok () := by
  simp [checkLocal, h, isSpace, zeroBitsOk]

theorem lookupGlobal_of_footing {w : Nat} {s u : State} (h : footing w u = footing w s) (who : Who) (a n : Nat) (acc : Acc) :
    lookupGlobal u who a n acc = lookupGlobal s who a n acc := by
  obtain ⟨p, hp⟩ := extentAt_of_footing h (worldOf who.rid) a
  unfold lookupGlobal
  rw [hp]
  cases extentAt s (worldOf who.rid) a <;> rfl

theorem translate_of_footing {w : Nat} {s u : State} (h : footing w u = footing w s) (who : Who) {a : W64} (n align : Nat) (acc : Acc)
    (ha : selector a = 0) : translate u who a n align acc [0] = translate s who a n align acc [0] := by
  simp only [Machine.translate, checkLocal_global _ who n align ha, ha, if_true, lookupGlobal_of_footing h]

theorem homeOf_of_footing {w : Nat} {s u : State} (h : footing w u = footing w s) (who : Who) {a : W64} (ha : selector a = 0) :
    homeOf u who a = homeOf s who a := by
  obtain ⟨p, hp⟩ := extentAt_of_footing h (worldOf who.rid) (a.toNat % 2 ^ 56)
  simp only [homeOf, ha, hp]
  cases extentAt s (worldOf who.rid) (a.toNat % 2 ^ 56) <;> rfl

theorem served_of_footing {w : Nat} {s u : State} (h : footing w u = footing w s) (v : Nat) (p : Place) (n : Nat) :
    served u v p n = served s v p n := by
  have tables : u.ranges = s.ranges := congrArg (fun x => x.2.1) h
  have channel : channelServes u v = channelServes s v := by
    funext q
    unfold channelServes
    rw [tables]
  simp only [served, channel]

/-! ### What the operations of a state leave -/

@[simp] theorem ground_emit (w : Nat) (s : State) (o : Out) : ground w (emit s o) = ground w s := rfl
@[simp] theorem ground_tick (w : Nat) (s : State) : ground w (tick s) = ground w s := rfl
@[simp] theorem ground_modDie (w : Nat) (s : State) (d : Nat) (f : Die → Die) : ground w (modDie s d f) = ground w s := rfl
@[simp] theorem ground_scrubRect (w : Nat) (s : State) (rid : Nat) : ground w (scrubRect s rid) = ground w s := rfl
@[simp] theorem ground_scrubMonitors (w : Nat) (s : State) (rid : Nat) : ground w (scrubMonitors s rid) = ground w s := rfl
@[simp] theorem ground_writeKey (w : Nat) (s : State) (k : Nat) (b : Byte) : ground w (writeKey s k b) = ground w s := rfl

@[simp] theorem ground_writeKeys (w : Nat) (bs : List Byte) (s : State) (k : Nat) : ground w (writeKeys s k bs) = ground w s := by
  induction bs generalizing s k with
  | nil => rfl
  | cons b bs ih => rw [writeKeys, ih, ground_writeKey]

@[simp] theorem ground_writeNat (w : Nat) (s : State) (k n v : Nat) : ground w (writeNat s k n v) = ground w s := ground_writeKeys w _ s k

@[simp] theorem ground_bumpVersion (w : Nat) (s : State) (p : Place) : ground w (bumpVersion s p) = ground w s := by
  cases p <;> rfl

@[simp] theorem ground_bumpRange (w : Nat) (s : State) (p : Place) (n : Nat) : ground w (bumpRange s p n) = ground w s := by
  cases p with
  | glob t a => unfold bumpRange; dsimp only; split <;> simp only [ground_bumpVersion]
  | _ => rfl

@[simp] theorem store_bumpRange (s : State) (p : Place) (n : Nat) : store (bumpRange s p n) = store s := by
  cases p with
  | glob t a => unfold bumpRange; dsimp only; split <;> rfl
  | _ => rfl

/-- A change of a world that leaves LQHEAD leaves the footing. -/
theorem ground_modWorld (w : Nat) (s : State) (v : Nat) (f : World → World) (hf : ∀ q, (f q).lqhead = q.lqhead) :
    ground w (modWorld s v f) = ground w s := by
  have head : (worldAt (modWorld s v f) w).lqhead = (worldAt s w).lqhead := by
    simp only [worldAt, modWorld_worlds, tget_tset]
    split
    · next h => rw [hf, h]
    · rfl
  simp only [ground, footing, head, modWorld_extents, modWorld_ranges, modWorld_turn, modWorld_rects]

@[simp] theorem ground_post (w : Nat) (s : State) (v : Nat) (e : ErrRec) : ground w (post s v e) = ground w s := by
  unfold post
  dsimp only
  split
  · rw [ground_modWorld, ground_tick]
    intro q; rfl
  · split
    · rw [ground_emit, ground_modWorld, ground_writeKeys, ground_tick]
      intro q; rfl
    · rw [ground_modWorld, ground_writeKeys, ground_tick]
      intro q; rfl

@[simp] theorem ground_raiseIrq (w : Nat) (s : State) (v : Nat) (irq : Option Nat) : ground w (raiseIrq s v irq) = ground w s := by
  cases irq <;> rfl

@[simp] theorem store_raiseIrq (s : State) (v : Nat) (irq : Option Nat) : store (raiseIrq s v irq) = store s := by
  cases irq <;> rfl

@[simp] theorem ground_placeResult (w : Nat) (s : State) (v : Nat) (res : W64) (x : Nat) (irq : Option Nat) :
    ground w (placeResult s v res x irq) = ground w s := by
  unfold placeResult
  dsimp only
  rw [ground_raiseIrq]
  split
  · exact ground_post ..
  · split
    · exact ground_post ..
    · rw [ground_bumpRange, ground_writeNat]

/-- Completed packets change neither the ground nor a byte (R345). -/
theorem ground_completePkts (w : Nat) (s : State) (v : Nat) (p : Pkt → Bool) : ground w (completePkts s v p) = ground w s := by
  unfold completePkts
  dsimp only
  rw [foldl_keeps (ground w), ground_modWorld]
  · intro q; rfl
  · intro t k
    cases k.irq <;> rfl

theorem store_completePkts (s : State) (v : Nat) (p : Pkt → Bool) : store (completePkts s v p) = store s := by
  unfold completePkts
  dsimp only
  rw [foldl_keeps store]
  · rfl
  · intro t k
    cases k.irq <;> rfl

@[simp] theorem ground_checkBarriers (w : Nat) (s : State) (rid : Nat) : ground w (checkBarriers s rid) = ground w s :=
  ground_completePkts ..

@[simp] theorem store_checkBarriers (s : State) (rid : Nat) : store (checkBarriers s rid) = store s := store_completePkts ..

@[simp] theorem ground_answerKeys (w : Nat) (s : State) (v : Nat) (uids : List Nat) : ground w (answerKeys s v uids) = ground w s := by
  unfold answerKeys
  dsimp only
  rw [foldl_keeps (ground w), ground_modWorld]
  · intro q; rfl
  · intro t k; rfl

@[simp] theorem ground_dropPins (w : Nat) (s : State) (pins : List Nat) : ground w (dropPins s pins) = ground w s := by
  have same : (dropPins s pins).extents.map (repin 0) = s.extents.map (repin 0) := by
    simp only [dropPins, List.map_map]
    refine List.map_congr_left fun e _ => ?_
    simp only [Function.comp_apply]
    split <;> rfl
  simp only [ground, footing, same]
  rfl

/-! ### Bytes that a filter, a scrub or a write leaves (R98, R339) -/

theorem cellAt_filter (p : Nat → Bool) (m : List Host.Cell) (k : Nat) :
    cellAt (m.filter fun c => p c.1) k = if p k then cellAt m k else 0 := by
  induction m with
  | nil => simp [cellAt]
  | cons e m ih =>
    obtain ⟨j, b⟩ := e
    rw [List.filter_cons]
    by_cases hj : j = k
    · subst hj; cases h : p j <;> simp [cellAt, h, ih]
    · cases h : p j <;> simp [cellAt, hj, ih]

theorem readKey_scrub_in {s : State} {lo hi k : Nat} (hlo : lo ≤ k) (hhi : k < hi) : readKey (scrub s lo hi) k = 0 :=
  (cellAt_filter (fun k => decide (k < lo) || decide (hi ≤ k)) s.mem k).trans (if_neg (by simp; omega))

/-- A byte that reads 0 reads 0 after a scrub. -/
theorem readKey_scrub_zero {s : State} (lo hi : Nat) {k : Nat} (h : readKey s k = 0) : readKey (scrub s lo hi) k = 0 := by
  have := cellAt_filter (fun k => decide (k < lo) || decide (hi ≤ k)) s.mem k
  rw [show cellAt s.mem k = 0 from h, ite_self] at this
  exact this

/-- A key of a place that the scrub of a rectangle clears. -/
def ofRect (rid k : Nat) : Prop :=
  (Place.key (.scr rid 0 0) ≤ k ∧ k < Place.key (.scr (rid + 1) 0 0)) ∨ (Place.key (.mt rid 0 0) ≤ k ∧ k < Place.key (.mt (rid + 1) 0 0)) ∨
  (Place.key (.db rid 0 0) ≤ k ∧ k < Place.key (.db (rid + 1) 0 0)) ∨ (Place.key (.ist rid 0 0) ≤ k ∧ k < Place.key (.ist (rid + 1) 0 0))

theorem readKey_scrubRect {s : State} {rid k : Nat} (h : ofRect rid k) : readKey (scrubRect s rid) k = 0 := by
  unfold scrubRect
  obtain ⟨lo, hi⟩ | ⟨lo, hi⟩ | ⟨lo, hi⟩ | ⟨lo, hi⟩ := h
  · exact readKey_scrub_zero _ _ (readKey_scrub_zero _ _ (readKey_scrub_zero _ _ (readKey_scrub_in lo hi)))
  · exact readKey_scrub_zero _ _ (readKey_scrub_zero _ _ (readKey_scrub_in lo hi))
  · exact readKey_scrub_zero _ _ (readKey_scrub_in lo hi)
  · exact readKey_scrub_in lo hi

theorem cellKey_scrubRect {s : State} {rid d ix : Nat} (hd : d < 4) (hix : ix < 2 ^ 22) :
    cellKey rid d ix ∉ (scrubRect s rid).bad ∧ cellKey rid d ix ∉ (scrubRect s rid).poison := by
  have inside : cellKey rid 0 0 ≤ cellKey rid d ix ∧ cellKey rid d ix < cellKey (rid + 1) 0 0 := by
    unfold cellKey; omega
  simp only [scrubRect, scrub_bad, scrub_poison, scrubCells, List.mem_filter, inside, decide_true, Bool.and_self, Bool.not_true,
    Bool.false_eq_true, and_false, false_and, not_false_eq_true, and_self]

/-- A write makes no data error. -/
theorem clean_writeKeys (bs : List Byte) {s : State} {k x : Nat} (h : x ∉ s.bad ∧ x ∉ s.poison) :
    x ∉ (writeKeys s k bs).bad ∧ x ∉ (writeKeys s k bs).poison := by
  induction bs generalizing s k with
  | nil => exact h
  | cons b bs ih => exact ih (s := writeKey s k b) ⟨fun hx => h.1 (List.mem_filter.1 hx).1, fun hx => h.2 (List.mem_filter.1 hx).1⟩

/-! ### A PLACE is served and answered (R346, R347) -/

theorem selector_pktRes {s : State} {w op : Nat} {bs : List Byte} (h : placeReady s w op bs) : selector (pktRes bs) = 0 := by
  obtain ⟨-, -, -, -, -, -, ht, -⟩ := h
  exact selector_of_translate ht

/-- A PLACE that is ready is taken and performed. -/
theorem servePlace_of_ready {s : State} {w op : Nat} {bs : List Byte} (h : placeReady s w op bs) (hop : op < 6) {ops : Nat → Bool}
    (hops : ops op = true) (f : List Byte → Nat → State → State) :
    servePlace s w ops f = f bs (pktRid w bs) (takeHead s w) := by
  obtain ⟨-, -, ⟨hhead, hkind, hgood⟩, rfl, hlive, hwaits, -, -⟩ := h
  have right : ((placeOp bs == 0) == (rectAt (takeHead s w) (pktRid w bs)).live) = false := by
    rw [show rectAt (takeHead s w) (pktRid w bs) = rectAt s (pktRid w bs) from rfl, hlive]
    cases hz : placeOp bs == 0 <;> simp_all
  simp only [servePlace, serveHead, hhead, hkind, hgood, hops, hwaits, ne_eq, not_true_eq_false, false_and, if_false, Bool.false_eq_true,
    Bool.not_true, Bool.or_self, show ¬6 ≤ placeOp bs by omega, decide_false, Bool.false_or]
  rw [show 8 * w + pktRect bs = pktRid w bs from rfl, right]
  rfl

/-- A state to which the answer of a PLACE of a world is written: its packet has been taken, and the leases are those it was checked with. -/
def Answerable (s u : State) (w : Nat) : Prop := MemOk u ∧ footing w u = footing w (takeHead s w)

theorem taken_of_footing {s u : State} {w : Nat} (h : footing w u = footing w (takeHead s w)) : taken s u w := by
  have turn : u.turn = w := congrArg (fun x => x.2.2.1) h
  have head : (worldAt u w).lqhead = (worldAt (takeHead s w) w).lqhead := congrArg (fun x => x.2.2.2) h
  exact ⟨head.trans (by simp [takeHead, worldAt]), turn⟩

/-- The result word of a PLACE that is ready is written, and the vector raised. -/
theorem placeResult_of_ready {s u : State} {w op : Nat} {bs : List Byte} (h : placeReady s w op bs)
    (hu : footing w u = footing w (takeHead s w)) (v : Nat) :
    placeResult u w (pktRes bs) v (pktIrq bs) =
      raiseIrq (bumpRange (writeNat u (resKey s w bs) 8 v) (homeOf s (whoHost w) (pktRes bs)) 8) w (pktIrq bs) := by
  have hsel := selector_pktRes h
  obtain ⟨-, -, -, -, -, -, ht, hs⟩ := h
  have translated : Machine.translate u (whoHost w) (pktRes bs) 8 8 .write [0] = .ok () :=
    (translate_of_footing hu _ _ _ _ hsel).trans ht
  have home : homeOf u (whoHost w) (pktRes bs) = homeOf s (whoHost w) (pktRes bs) := homeOf_of_footing hu _ hsel
  have hserved : served u w (homeOf s (whoHost w) (pktRes bs)) 8 = true := (served_of_footing hu _ _ _).trans hs
  simp only [placeResult, translated, home, hserved, Bool.not_true, Bool.false_eq_true, if_false]
  rfl

theorem resKey_of_footing {s u : State} {w op : Nat} {bs : List Byte} (h : placeReady s w op bs)
    (hu : footing w u = footing w (takeHead s w)) : resKey u w bs = resKey s w bs :=
  congrArg Place.key (homeOf_of_footing (s := takeHead s w) hu (whoHost w) (selector_pktRes h))

theorem outs_raiseIrq (s : State) (w : Nat) (bs : List Byte) : (raiseIrq s w (pktIrq bs)).outs = s.outs ++ irqOf w bs := by
  unfold raiseIrq irqOf
  cases pktIrq bs <;> simp

/-- The bytes after the answer of a PLACE: its result word alone has been written. -/
theorem store_placeResult {s u : State} {w op : Nat} {bs : List Byte} (h : placeReady s w op bs)
    (hu : footing w u = footing w (takeHead s w)) (v : Nat) :
    store (placeResult u w (pktRes bs) v (pktIrq bs)) = store (writeNat u (resKey s w bs) 8 v) := by
  rw [placeResult_of_ready h hu, store_raiseIrq, store_bumpRange]

theorem readKey_of_store {s t : State} (h : store t = store s) (k : Nat) : readKey t k = readKey s k := by
  rw [readKey, readKey, show t.mem = s.mem from congrArg Prod.fst h]

theorem readKeys_of_store {s t : State} (h : store t = store s) (k n : Nat) : readKeys t k n = readKeys s k n := by
  induction n generalizing k with
  | zero => rfl
  | succ n ih => rw [readKeys, readKeys, readKey_of_store h, ih]

theorem answered_placeResult {s u : State} {w op v : Nat} {bs : List Byte} (h : placeReady s w op bs) (hu : Answerable s u w)
    (hv : v < 2 ^ 64) : answered s (placeResult u w (pktRes bs) v (pktIrq bs)) w bs v := by
  obtain ⟨hwf, hf⟩ := hu
  refine ⟨?_, taken_of_footing ((footing_of_ground (ground_placeResult ..)).trans hf), ?_⟩
  · rw [readNat, readKeys_of_store (store_placeResult h hf v), ← readNat, readNat_writeNat _ _ _ hwf]
    exact Nat.mod_eq_of_lt (by omega)
  · rw [placeResult_of_ready h hf]
    exact ⟨_, outs_raiseIrq ..⟩

theorem readKey_placeResult {s u : State} {w op v k : Nat} {bs : List Byte} (h : placeReady s w op bs)
    (hu : footing w u = footing w (takeHead s w)) (hk : k < resKey s w bs ∨ resKey s w bs + 8 ≤ k) :
    readKey (placeResult u w (pktRes bs) v (pktIrq bs)) k = readKey u k := by
  rw [readKey_of_store (store_placeResult h hu v), writeNat, readKey_writeKeys_other]
  rwa [length_bytesOf]

theorem onlyResult_placeResult {s u : State} {w op v : Nat} {bs : List Byte} (h : placeReady s w op bs)
    (hu : footing w u = footing w (takeHead s w)) : onlyResult u (placeResult u w (pktRes bs) v (pktIrq bs)) w bs := by
  intro k hk
  rw [resKey_of_footing h hu] at hk
  exact readKey_placeResult h hu hk

/-- The answer of a PLACE makes no data error. -/
theorem clean_placeResult {s u : State} {w op v k : Nat} {bs : List Byte} (h : placeReady s w op bs)
    (hu : footing w u = footing w (takeHead s w)) (hk : k ∉ u.bad ∧ k ∉ u.poison) :
    k ∉ (placeResult u w (pktRes bs) v (pktIrq bs)).bad ∧ k ∉ (placeResult u w (pktRes bs) v (pktIrq bs)).poison := by
  have same := store_placeResult h hu v
  rw [show (placeResult u w (pktRes bs) v (pktIrq bs)).bad = _ from congrArg (fun x => x.2.1) same,
    show (placeResult u w (pktRes bs) v (pktIrq bs)).poison = _ from congrArg (fun x => x.2.2) same]
  exact clean_writeKeys _ hk

theorem rectAt_placeResult (s : State) (w : Nat) (res : W64) (v : Nat) (irq : Option Nat) (rid : Nat) :
    rectAt (placeResult s w res v irq) rid = rectAt s rid := rectAt_of_ground (ground_placeResult w s w res v irq) rid

/-! ### Releasing a rectangle (R339, R346) -/

/-- The commands of a rectangle are cancelled: pins, leaves and requests are given up, and keys answered (R339 step 1). -/
def cancelled (s : State) (rid : Nat) : State :=
  let s' := (rectAt s rid).cores.foldl (fun s k => k.2.copyq.foldl (fun s q => dropPins s q.pins) s) s
  let s' := (List.range 4).foldl (fun s d => modDie s d fun x =>
    { x with leaves := x.leaves.filter (fun l => l.rid != rid), reqs := x.reqs.filter (fun l => l.rid != rid) }) s'
  answerKeys s' (worldOf rid) (keyedOps s' rid)

/-- What `cancelled` keeps: anything that dropPins, modDie and answerKeys all keep. -/
theorem cancelled_keeps {β : Type} (g : State → β) (s : State) (rid : Nat) (hp : ∀ s pins, g (dropPins s pins) = g s)
    (hd : ∀ s d f, g (modDie s d f) = g s) (hk : ∀ s v uids, g (answerKeys s v uids) = g s) : g (cancelled s rid) = g s := by
  unfold cancelled
  dsimp only
  rw [hk, foldl_keeps g, foldl_keeps g]
  · exact fun s k => foldl_keeps g _ _ fun s q => hp s q.pins
  · exact fun s d => hd s d _

theorem ground_cancelled (w : Nat) (s : State) (rid : Nat) : ground w (cancelled s rid) = ground w s :=
  cancelled_keeps _ s rid (ground_dropPins w) (ground_modDie w) (ground_answerKeys w)

/-- A move of the rectangle is abandoned (R328). -/
def abandonMove (s : State) (rid : Nat) : State :=
  if isMoving s rid then
    { s with pass := { s.pass with moving := none }, host := { s.host with compAband := min 255 (s.host.compAband + 1) } }
  else s

/-- The rectangle leaves the list of rectangles and a pass over them. -/
def unlist (s : State) (rid : Nat) : State :=
  { s with rects := tdel s.rects rid, pass := { s.pass with todo := s.pass.todo.filter (· != rid) } }

/-- A release cancels the commands of the rectangle, scrubs it, abandons a move of it, and takes it out. -/
theorem releaseRect_eq (s : State) (rid : Nat) :
    releaseRect s rid = unlist (abandonMove (scrubMonitors (scrubRect (cancelled s rid) rid) rid) rid) rid := rfl

theorem ground_abandonMove (w : Nat) (s : State) (rid : Nat) : ground w (abandonMove s rid) = ground w s := by
  unfold abandonMove; split <;> rfl

theorem store_abandonMove (s : State) (rid : Nat) : store (abandonMove s rid) = store s := by
  unfold abandonMove; split <;> rfl

theorem store_scrubMonitors (s : State) (rid : Nat) : store (scrubMonitors s rid) = store s := rfl
theorem store_unlist (s : State) (rid : Nat) : store (unlist s rid) = store s := rfl

theorem ground_releaseRect (w : Nat) (s : State) (rid : Nat) : ground w (releaseRect s rid) = (footing w s, tdel s.rects rid) := by
  have scrubbed : ground w (abandonMove (scrubMonitors (scrubRect (cancelled s rid) rid) rid) rid) = ground w s := by
    rw [ground_abandonMove, ground_scrubMonitors, ground_scrubRect, ground_cancelled]
  rw [releaseRect_eq, ← footing_of_ground scrubbed, ← rects_of_ground scrubbed]
  rfl

theorem footing_releaseRect (w : Nat) (s : State) (rid : Nat) : footing w (releaseRect s rid) = footing w s :=
  congrArg Prod.fst (ground_releaseRect w s rid)

theorem rects_releaseRect (s : State) (rid : Nat) : (releaseRect s rid).rects = tdel s.rects rid :=
  congrArg Prod.snd (ground_releaseRect 0 s rid)

theorem rectAt_releaseRect (s : State) (rid q : Nat) : rectAt (releaseRect s rid) q = if q = rid then {} else rectAt s q := by
  rw [rectAt, rects_releaseRect, tget_tdel, rectAt]

theorem store_releaseRect (s : State) (rid : Nat) : store (releaseRect s rid) = store (scrubRect (cancelled s rid) rid) := by
  rw [releaseRect_eq, store_unlist, store_abandonMove, store_scrubMonitors]

theorem cellKey_releaseRect {s : State} {rid d ix : Nat} (hd : d < 4) (hix : ix < 2 ^ 22) :
    cellKey rid d ix ∉ (releaseRect s rid).bad ∧ cellKey rid d ix ∉ (releaseRect s rid).poison := by
  have same := store_releaseRect s rid
  rw [show (releaseRect s rid).bad = _ from congrArg (fun x => x.2.1) same,
    show (releaseRect s rid).poison = _ from congrArg (fun x => x.2.2) same]
  exact cellKey_scrubRect hd hix

theorem execPlaceRelease_of_ready {s : State} {w : Nat} {bs : List Byte} (h : placeReady s w 1 bs) (hm : isMoving s (pktRid w bs) = false) :
    exec (.placeRelease w) s = .next (placeResult (releaseRect (takeHead s w) (pktRid w bs)) w (pktRes bs) 0 (pktIrq bs)) := by
  rw [show exec (.placeRelease w) s = execPlaceRelease w s from rfl, execPlaceRelease, servePlace_of_ready h (by omega) rfl,
    show isMoving (takeHead s w) (pktRid w bs) = false from hm]
  rfl

theorem placeReleases : PlaceReleases := by
  intro s w bs h hres hm
  have hf : footing w (releaseRect (takeHead s w) (pktRid w bs)) = footing w (takeHead s w) := footing_releaseRect ..
  have ready : Answerable s (releaseRect (takeHead s w) (pktRid w bs)) w := ⟨kept_releaseRect _ (kept_takeHead w h.1), hf⟩
  have cleared : ∀ k, 2 ^ 70 ≤ k → ofRect (pktRid w bs) k →
      readKey (placeResult (releaseRect (takeHead s w) (pktRid w bs)) w (pktRes bs) 0 (pktIrq bs)) k = 0 := fun k hk hin => by
    rw [readKey_placeResult h hf (by omega), readKey_of_store (store_releaseRect ..), readKey_scrubRect hin]
  refine ⟨_, execPlaceRelease_of_ready h hm, answered_placeResult h ready (by omega), ?_, ?_, ?_, ?_, ?_, ?_, ?_⟩
  · rw [rectAt_placeResult, rectAt_releaseRect, if_pos rfl]
  · exact fun d ix hd hix => clean_placeResult h hf (cellKey_releaseRect hd hix)
  · exact fun c off hc ho => cleared _ (by simp only [Place.key]; omega) (.inl (by simp only [Place.key]; omega))
  · exact fun c off hc ho => cleared _ (by simp only [Place.key]; omega) (.inr (.inl (by simp only [Place.key]; omega)))
  · exact fun c off hc ho => cleared _ (by simp only [Place.key]; omega) (.inr (.inr (.inl (by simp only [Place.key]; omega))))
  · exact fun c off hc ho => cleared _ (by simp only [Place.key]; omega) (.inr (.inr (.inr (by simp only [Place.key]; omega))))
  · intro rid hne
    rw [rectAt_placeResult, rectAt_releaseRect, if_neg hne]
    rfl

/-! ### Global memory read and written in spans (R97, R98, R321) -/

/-- A state with the launch queues, the free number and the saved images of another: no access to memory looks at these. -/
def rebook (s u : State) : State := { s with worlds := u.worlds, turn := u.turn, free := u.free, saved := u.saved }

theorem takeHead_rebook (s : State) (w : Nat) : takeHead s w = rebook s (takeHead s w) := rfl

theorem readSpan_rebook (s u : State) (w fuel a n : Nat) : readSpan (rebook s u) w fuel a n = readSpan s w fuel a n := by
  induction fuel generalizing a n with
  | zero => rfl
  | succ fuel ih =>
    have keys : ∀ k m, readKeys (rebook s u) k m = readKeys s k m := readKeys_of_store (s := s) (t := rebook s u) rfl
    simp only [readSpan, ih, keys]
    rfl

theorem readWorld_rebook (s u : State) (w : Nat) (a : W64) (n : Nat) : readWorld (rebook s u) w a n = readWorld s w a n := by
  simp only [readWorld, readSpan_rebook]

theorem coveredBy_rebook (s u : State) (w : Nat) (rd wr : Bool) (fuel a n : Nat) :
    coveredBy (rebook s u) w rd wr fuel a n = coveredBy s w rd wr fuel a n := by
  induction fuel generalizing a n with
  | zero => cases n <;> rfl
  | succ fuel ih =>
    cases n with
    | zero => rfl
    | succ n => simp only [coveredBy, ih]; rfl

theorem writeKeys_rebook (bs : List Byte) (s u : State) (k : Nat) : writeKeys (rebook s u) k bs = rebook (writeKeys s k bs) u := by
  induction bs generalizing s k with
  | nil => rfl
  | cons b bs ih => exact ih (writeKey s k b) (k + 1)

theorem bumpRange_rebook (s u : State) (p : Place) (n : Nat) : bumpRange (rebook s u) p n = rebook (bumpRange s p n) u := by
  cases p with
  | glob t a => unfold bumpRange; dsimp only; split <;> rfl
  | _ => rfl

theorem writeSpan_rebook (s u : State) (w fuel a : Nat) (bs : List Byte) :
    writeSpan (rebook s u) w fuel a bs = (rebook (writeSpan s w fuel a bs).1 u, (writeSpan s w fuel a bs).2) := by
  induction fuel generalizing s a bs with
  | zero => rfl
  | succ fuel ih =>
    unfold writeSpan
    rw [show extentAt (rebook s u) w a = extentAt s w a from rfl]
    split
    · rfl
    · split
      · rfl
      · next e he =>
        have guard : ∀ p n, served (rebook s u) w p n = served s w p n ∧ badIn (rebook s u) p.key n = badIn s p.key n := fun _ _ => ⟨rfl, rfl⟩
        simp only [writeKeys_rebook, bumpRange_rebook, ih, guard]
        split <;> rfl

theorem ground_writeSpan (v : Nat) (s : State) (w fuel a : Nat) (bs : List Byte) : ground v (writeSpan s w fuel a bs).1 = ground v s := by
  induction fuel generalizing s a bs with
  | zero => rfl
  | succ fuel ih =>
    unfold writeSpan
    split
    · rfl
    · split
      · rfl
      · dsimp only
        split
        · rfl
        · rw [ih, ground_bumpRange, ground_writeKeys]

/-! ### Saving a context (R310, R335, R346) -/

theorem selector_of_lt {n : Nat} (h : n < 2 ^ 56) : selector (BitVec.ofNat 64 n) = 0 ∧ (BitVec.ofNat 64 n).toNat = n := by
  have value : (BitVec.ofNat 64 n).toNat = n := by rw [BitVec.toNat_ofNat]; omega
  exact ⟨by rw [selector, value]; omega, value⟩

/-- The state in which a Save lays out its image: the packet taken, and a free value spent on the result that is not stated. -/
def saving (s : State) (w : Nat) : State := { takeHead s w with free := s.free + 1 }

/-- The image that a Save writes under a key, and the write of the plain one. -/
def imageUnder (s : State) (w : Nat) (bs : List Byte) (key : Option (BitVec 256)) : List Byte :=
  imageBytes (saving s w) (pktRid w bs) (sectionsOf (saving s w) (pktRid w bs)) key
def imageWritten (s : State) (w : Nat) (bs : List Byte) : State × Bool :=
  writeSpan (saving s w) w ((imageUnder s w bs none).length / 0x200000 + 2) (field bs 0 8) (imageUnder s w bs none)

/-- The state with that image among the saved ones. -/
def filed (s : State) (w : Nat) (bs : List Byte) : State :=
  { saving s w with
    free := (saving s w).free + (sectionsOf (saving s w) (pktRid w bs)).length,
    saved := (saving s w).saved ++ [{ bytes := (sectionsOf (saving s w) (pktRid w bs)).flatMap fun x => x.header ++ x.body,
                                      shot := snapshot (saving s w) (pktRid w bs) }] }

theorem isProtected_takeHead (s : State) (w : Nat) : isProtected (takeHead s w) w = isProtected s w := by
  simp only [isProtected, takeHead, worldAt, modWorld_worlds, tget_tset_same]

/-- A Save of a frozen rectangle of an unprotected world writes the image, then its result: 0 where all of it was written. -/
theorem execPlaceSave_of_ready {s : State} {w : Nat} {bs : List Byte} (h : placeReady s w 4 bs)
    (hfrozen : (rectAt s (pktRid w bs)).freeze = .frozen) (hprot : isProtected s w = false) (ha : field bs 0 8 < 2 ^ 56) :
    ∃ v, exec (.placeSave w) s = .next (placeResult (rebook (imageWritten s w bs).1 (filed s w bs)) w (pktRes bs) v (pktIrq bs)) ∧
      ((imageWritten s w bs).2 = true → v = 0) := by
  obtain ⟨hsel, haddr⟩ := selector_of_lt ha
  have plain : isProtected (saving s w) w = false := (isProtected_takeHead s w).trans hprot
  have key : (if isProtected (saving s w) w then (worldAt (saving s w) w).ctxKey else none) = none := by rw [plain]; rfl
  have written : writeSpan (filed s w bs) w ((imageUnder s w bs none).length / 0x200000 + 2) (field bs 0 8) (imageUnder s w bs none) =
      (rebook (imageWritten s w bs).1 (filed s w bs), (imageWritten s w bs).2) := writeSpan_rebook (saving s w) (filed s w bs) w _ _ _
  refine ⟨if (imageWritten s w bs).2 then 0 else Config.openResult s.free % 2 ^ 32, ?_, fun hw => if_pos hw⟩
  rw [show exec (.placeSave w) s = execPlaceSave w s from rfl, execPlaceSave, servePlace_of_ready h (by omega) rfl]
  dsimp only
  split
  · next refused =>
    obtain hf | hk | hs := refused
    · exact absurd hfrozen hf
    · have needsKey : (isProtected (saving s w) w && (worldAt (saving s w) w).ctxKey.isNone) = true := hk
      rw [plain] at needsKey
      exact absurd needsKey Bool.false_ne_true
    · exact absurd hsel hs
  · change Host.Outcome.next (match writeSpan (filed s w bs) w
      ((imageUnder s w bs (if isProtected (saving s w) w then (worldAt (saving s w) w).ctxKey else none)).length / 0x200000 + 2)
      (BitVec.ofNat 64 (field bs 0 8)).toNat (imageUnder s w bs (if isProtected (saving s w) w then (worldAt (saving s w) w).ctxKey else none)) with
      | (u, true) => placeResult u w (pktRes bs) 0 (pktIrq bs)
      | (u, false) => placeResult u w (pktRes bs) (Config.openResult s.free % 2 ^ 32) (pktIrq bs)) = _
    rw [key, haddr, written]
    cases (imageWritten s w bs).2 <;> rfl

theorem onlyResult_of_rebook {s u t : State} {w : Nat} {bs : List Byte} (h : onlyResult (rebook s u) t w bs) : onlyResult s t w bs := h

/-- Other bookkeeping with the same launch queues leaves the ground. -/
theorem ground_rebook {w : Nat} {s t u : State} (h : ground w t = ground w s) (hw : u.worlds = s.worlds) (hturn : u.turn = s.turn) :
    ground w (rebook t u) = ground w s := by
  simp only [ground, footing, Prod.mk.injEq] at h ⊢
  obtain ⟨⟨hext, hranges, -, -⟩, hrects⟩ := h
  exact ⟨⟨hext, hranges, hturn, congrArg (fun ws => (tget {} ws w).lqhead) hw⟩, hrects⟩

theorem ground_imageWritten (s : State) (w : Nat) (bs : List Byte) :
    ground w (rebook (imageWritten s w bs).1 (filed s w bs)) = ground w (takeHead s w) :=
  ground_rebook (s := takeHead s w) (ground_writeSpan w (saving s w) ..) rfl rfl

theorem savesContexts (s : State) (w : Nat) (bs : List Byte) (h : placeReady s w 4 bs) (hfrozen : (rectAt s (pktRid w bs)).freeze = .frozen)
    (hprot : isProtected s w = false) (ha : field bs 0 8 < 2 ^ 56) :
    ∃ t, exec (.placeSave w) s = .next t ∧ rectAt t (pktRid w bs) = rectAt s (pktRid w bs) ∧
      ((imageWritten s w bs).2 = true → answered s t w bs 0 ∧ onlyResult (imageWritten s w bs).1 t w bs) := by
  obtain ⟨v, hexec, hv⟩ := execPlaceSave_of_ready h hfrozen hprot ha
  have hg := ground_imageWritten s w bs
  have hwf : MemOk (rebook (imageWritten s w bs).1 (filed s w bs)) := kept_writeSpan w _ _ _ (s := saving s w) (kept_takeHead w h.1)
  refine ⟨_, hexec, ?_, fun hw => ?_⟩
  · rw [rectAt_placeResult, rectAt_of_ground hg]
    rfl
  · rw [hv hw]
    exact ⟨answered_placeResult h ⟨hwf, footing_of_ground hg⟩ (by omega),
      onlyResult_of_rebook (onlyResult_placeResult h (footing_of_ground hg))⟩

/-! ### Restoring a context (R312, R313) -/

/-- The section that an image lacks is one of the ten. -/
theorem missing_le {r : Rect} {feat id : Nat} {xs : List CSection} (h : missing r feat xs = some id) : id ≤ 10 := by
  have listed := (List.mem_filter.1 (List.mem_of_find?_eq_some h)).1
  simp only [List.mem_cons, List.not_mem_nil, or_false] at listed
  omega

/-- The status that refuses a section is 3 or 4, with its ID. -/
theorem sectionStatus_some {s : State} {rid : Nat} {x : CSection} {e : Nat × Nat} (h : sectionStatus s rid x = some e) :
    (e.1 = 3 ∨ e.1 = 4) ∧ e.2 = x.id := by
  unfold sectionStatus at h
  dsimp only at h
  split at h
  · split at h
    · cases h; exact ⟨.inl rfl, rfl⟩
    · cases h
  · split at h
    · cases h; exact ⟨.inr rfl, rfl⟩
    · cases h

/-- A status word of R313: not 0, and no wider than the result word of a PLACE. -/
def Refusing (v : Nat) : Prop := v ≠ 0 ∧ v < 2 ^ 64

theorem refusing_sections {s : State} {rid : Nat} {xs : List (List Byte × List Byte)} {e : Nat × Nat}
    (h : (xs.map toCSection).findSome? (sectionStatus s rid) = some e) : Refusing (e.1 + 65536 * e.2) := by
  obtain ⟨x, hx, hs⟩ := List.exists_of_findSome?_eq_some h
  obtain ⟨y, -, rfl⟩ := List.mem_map.1 hx
  obtain ⟨hcode, hid⟩ := sectionStatus_some hs
  have : e.2 < 256 ^ 2 := hid ▸ field_lt y.1 0 2
  exact ⟨by omega, by omega⟩

/-- A restore is refused with a status and changes nothing, or it writes the image and its status is 0: all of it or none. -/
theorem restore_cases (s : State) (w rid : Nat) (a : W64) :
    ((restore s w rid a).1 = s ∧ Refusing (restore s w rid a).2) ∨ ∃ feat xs, restore s w rid a = (writeShot s rid feat xs, 0) := by
  have small : ∀ v, v ≠ 0 → v < 2 ^ 64 → ((s, v).1 = s ∧ Refusing (s, v).2) ∨ ∃ feat xs, (s, v) = (writeShot s rid feat xs, 0) :=
    fun v h0 h1 => .inl ⟨rfl, h0, h1⟩
  unfold restore
  split
  · exact small 1 (by omega) (by omega)
  split
  · exact small 1 (by omega) (by omega)
  dsimp only
  split
  · exact small 1 (by omega) (by omega)
  split
  · exact small 2 (by omega) (by omega)
  split
  · next id hid => exact small _ (by omega) (by have := missing_le hid; omega)
  split
  · next e he => exact .inl ⟨rfl, refusing_sections he⟩
  split
  · exact small 5 (by omega) (by omega)
  · exact .inr ⟨_, _, rfl⟩

theorem ground_putCells (w : Nat) (s : State) (rid : Nat) (cs : List (Nat × Nat × Byte)) : ground w (putCells s rid cs) = ground w s :=
  foldl_keeps (ground w) _ _ fun _ _ => rfl

theorem ground_putMonitors (w : Nat) (s : State) (rid : Nat) (xs : List CSection) (ms : List (Nat × List Monitor)) :
    ground w (putMonitors s rid xs ms) = ground w s := by
  unfold putMonitors
  refine foldl_keeps (ground w) _ _ fun s d => ?_
  dsimp only
  refine foldl_keeps (ground w) _ _ fun s i => ?_
  split <;> rfl

theorem footing_modRect (w : Nat) (s : State) (rid : Nat) (f : Rect → Rect) : footing w (modRect s rid f) = footing w s := rfl

theorem footing_writeShot (w : Nat) (s : State) (rid feat : Nat) (xs : List CSection) : footing w (writeShot s rid feat xs) = footing w s := by
  unfold writeShot
  dsimp only
  rw [footing_of_ground (ground_putMonitors ..), footing_modRect, foldl_keeps (footing w), footing_of_ground (ground_putCells ..),
    foldl_keeps (footing w)]
  · exact fun _ _ => rfl
  · intro t x
    split
    · exact footing_of_ground (ground_writeKeys ..)
    · rfl

theorem footing_restore (w : Nat) (s : State) (v rid : Nat) (a : W64) : footing w (restore s v rid a).1 = footing w s := by
  obtain ⟨h, -⟩ | ⟨feat, xs, h⟩ := restore_cases s v rid a
  · rw [h]
  · rw [h, footing_writeShot]

/-- What a Restore leaves before its result: barriers see the semaphores that it has set, and a refusal is posted (R299, R345). -/
def restored (s : State) (w rid : Nat) (a : W64) : State :=
  if (restore s w rid a).2 = 0 then checkBarriers (restore s w rid a).1 rid
  else post (restore s w rid a).1 w { cause := 0x164, kind := 7, status := (restore s w rid a).2 }

theorem ground_restored (w : Nat) (s : State) (v rid : Nat) (a : W64) : ground w (restored s v rid a) = ground w (restore s v rid a).1 := by
  unfold restored
  split
  · exact ground_checkBarriers ..
  · exact ground_post ..

theorem kept_restored {s : State} (w rid : Nat) (a : W64) (h : MemOk s) : MemOk (restored s w rid a) := by
  unfold restored
  split
  · exact kept_checkBarriers _ (kept_restore w rid a h)
  · exact kept_post _ _ (kept_restore w rid a h)

theorem execPlaceRestore_of_ready {s : State} {w : Nat} {bs : List Byte} (h : placeReady s w 5 bs)
    (hfrozen : (rectAt s (pktRid w bs)).freeze = .frozen) :
    exec (.placeRestore w) s = .next (placeResult (restored (takeHead s w) w (pktRid w bs) (BitVec.ofNat 64 (field bs 0 8))) w (pktRes bs)
      (restore (takeHead s w) w (pktRid w bs) (BitVec.ofNat 64 (field bs 0 8))).2 (pktIrq bs)) := by
  rw [show exec (.placeRestore w) s = execPlaceRestore w s from rfl, execPlaceRestore, servePlace_of_ready h (by omega) rfl,
    if_neg (not_not_intro (show (rectAt (takeHead s w) (pktRid w bs)).freeze = .frozen from hfrozen))]
  rfl

theorem onlyResult_of_store {s u t : State} {w : Nat} {bs : List Byte} (hr : resKey u w bs = resKey s w bs) (hs : store u = store s)
    (h : onlyResult u t w bs) : onlyResult s t w bs := by
  intro k hk
  rw [h k (hr ▸ hk), readKey_of_store hs]

theorem restoresContexts (s : State) (w : Nat) (bs : List Byte) (h : placeReady s w 5 bs)
    (hfrozen : (rectAt s (pktRid w bs)).freeze = .frozen) :
    let x := restore (takeHead s w) w (pktRid w bs) (BitVec.ofNat 64 (field bs 0 8))
    ∃ t, exec (.placeRestore w) s = .next t ∧ answered s t w bs x.2 ∧ rectAt t (pktRid w bs) = rectAt x.1 (pktRid w bs) ∧
      (x.2 ≠ 0 → rectAt t (pktRid w bs) = rectAt s (pktRid w bs)) ∧ (x.2 = 0 → onlyResult x.1 t w bs) := by
  intro x
  have hx : footing w x.1 = footing w (takeHead s w) := footing_restore ..
  have hg : ground w (restored (takeHead s w) w (pktRid w bs) (BitVec.ofNat 64 (field bs 0 8))) = ground w x.1 := ground_restored ..
  have hu : Answerable s (restored (takeHead s w) w (pktRid w bs) (BitVec.ofNat 64 (field bs 0 8))) w :=
    ⟨kept_restored _ _ _ (kept_takeHead w h.1), (footing_of_ground hg).trans hx⟩
  have cases := restore_cases (takeHead s w) w (pktRid w bs) (BitVec.ofNat 64 (field bs 0 8))
  have hv : x.2 < 2 ^ 64 := by
    obtain ⟨-, -, hlt⟩ | ⟨feat, xs, e⟩ := cases
    · exact hlt
    · rw [show x = _ from e]; omega
  have stays : x.2 ≠ 0 → x.1 = takeHead s w := fun h0 => by
    obtain ⟨same, -⟩ | ⟨feat, xs, e⟩ := cases
    · exact same
    · exact absurd (congrArg Prod.snd e) h0
  refine ⟨_, execPlaceRestore_of_ready h hfrozen, answered_placeResult h hu hv, ?_, fun h0 => ?_, fun h0 => ?_⟩
  · rw [rectAt_placeResult, rectAt_of_ground hg]
  · rw [rectAt_placeResult, rectAt_of_ground hg, stays h0]
    rfl
  · have passed : restored (takeHead s w) w (pktRid w bs) (BitVec.ofNat 64 (field bs 0 8)) = checkBarriers x.1 (pktRid w bs) := if_pos h0
    refine onlyResult_of_store ?_ (passed ▸ store_checkBarriers ..) (onlyResult_placeResult h hu.2)
    rw [resKey_of_footing h hu.2, resKey_of_footing h hx]

theorem placeContexts : PlaceContexts := ⟨savesContexts, restoresContexts⟩

/-! ### The checks of an image look at nothing that taking its packet changes (R321) -/

theorem readWorld_takeHead (s : State) (v w : Nat) (a : W64) (n : Nat) : readWorld (takeHead s v) w a n = readWorld s w a n := by
  rw [takeHead_rebook, readWorld_rebook]

theorem loadImage_takeHead (s : State) (w : Nat) (a : W64) : loadImage (takeHead s w) w a = loadImage s w a := by
  have signer : signerOf (takeHead s w) w = signerOf s w := by
    simp only [signerOf, takeHead, worldAt, modWorld_worlds, tget_tset_same]
  have signature : ∀ img x, signed (takeHead s w) w img x = signed s w img x := fun img x => by rw [signed, signed, signer]
  simp only [loadImage, readWorld_takeHead, signature]

theorem basesOf_takeHead (s : State) (w : Nat) (m : Image) (a : W64) : basesOf (takeHead s w) w m a = basesOf s w m a := by
  simp only [basesOf, readWorld_takeHead]

theorem placeCause_takeHead (s : State) (w : Nat) (m : Image) (bases : List Nat) :
    placeCause (takeHead s w) w m bases = placeCause s w m bases := by
  have keys : (worldAt (takeHead s w) w).keys = (worldAt s w).keys := by
    simp only [takeHead, worldAt, modWorld_worlds, tget_tset_same]
  have covered : ∀ base len rd wr, baseOk (takeHead s w) w base len rd wr = baseOk s w base len rd wr := fun base len rd wr => by
    rw [baseOk, rangeCovered, takeHead_rebook, coveredBy_rebook]
    rfl
  simp only [placeCause, keys, covered]
  rfl

theorem writeRegions_rebook (s u : State) (w : Nat) (m : Image) (bases : List Nat) :
    writeRegions (rebook s u) w m bases = (rebook (writeRegions s w m bases).1 u, (writeRegions s w m bases).2) := by
  unfold writeRegions
  refine List.foldl_hom (fun x : State × Bool => (rebook x.1 u, x.2)) (init := (s, true)) fun x d => ?_
  dsimp only
  split
  · rfl
  · exact writeSpan_rebook ..

theorem placeable_takeHead {s : State} {w c r : Nat} {bs : List Byte} {m : Image} {bases : List Nat} :
    placeable (takeHead s w) w bs m bases c r ↔ placeable s w bs m bases c r := by
  have regions : (writeRegions (takeHead s w) w m bases).2 = (writeRegions s w m bases).2 := by rw [takeHead_rebook, writeRegions_rebook]
  simp only [placeable, loadImage_takeHead, basesOf_takeHead, placeCause_takeHead, regions]
  rfl

/-! ### An image that is refused (R321) -/

/-- An image is refused with a status of 1 to 9 (R321 step 1). -/
theorem loadImage_error {s : State} {w e : Nat} {a : W64} (h : loadImage s w a = .error e) : 1 ≤ e ∧ e ≤ 9 := by
  unfold loadImage at h
  repeat' split at h
  all_goals cases h
  all_goals omega

/-- Step 2 of R321 refuses with 5, 6 or 8. -/
theorem placeCause_some {s : State} {w e : Nat} {m : Image} {bases : List Nat} (h : placeCause s w m bases = some e) : 1 ≤ e ∧ e ≤ 9 := by
  unfold placeCause at h
  dsimp only at h
  repeat' split at h
  all_goals cases h
  all_goals omega

theorem ground_writeRegions (v : Nat) (s : State) (w : Nat) (m : Image) (bases : List Nat) :
    ground v (writeRegions s w m bases).1 = ground v s := by
  unfold writeRegions
  refine List.foldlRecOn m.data _ (motive := fun x : State × Bool => ground v x.1 = ground v s) rfl fun x hx d _ => ?_
  split
  · exact hx
  · exact (ground_writeSpan ..).trans hx

/-- What a refusal of an image answers: a status of 1 to 9, of the image's own checks first, over the rectangles as they were. -/
structure Refused (s : State) (w : Nat) (bs : List Byte) (x : State × Nat) : Prop where
  status : 1 ≤ x.2 ∧ x.2 ≤ 9
  kept : MemOk s → MemOk x.1
  ground : ground w x.1 = ground w s
  first : ∀ e, loadImage s w (BitVec.ofNat 64 (field bs 0 8)) = .error e → x.2 = e

theorem placeImage_refused {s : State} {w : Nat} {bs : List Byte} (rid : Nat) (h : ∀ m bases c r, ¬placeable s w bs m bases c r) :
    Refused s w bs (placeImage s w rid bs) := by
  unfold placeImage
  cases hload : loadImage s w (BitVec.ofNat 64 (field bs 0 8)) with
  | error e => exact ⟨loadImage_error hload, id, rfl, fun x hx => by rw [hload] at hx; cases hx; rfl⟩
  | ok p =>
    obtain ⟨img, m⟩ := p
    have later : ∀ e, 1 ≤ e ∧ e ≤ 9 → Refused s w bs (s, e) := fun e he => ⟨he, id, rfl, fun x hx => by rw [hload] at hx; cases hx⟩
    dsimp only
    split
    · exact later 8 (by omega)
    next bases hbases =>
    split
    · next e he => exact later e (placeCause_some he)
    next hcause =>
    split
    · exact later 4 (by omega)
    next c r hanchor =>
    split
    · exact later 7 (by omega)
    next hfits =>
    split
    · exact later 9 (by omega)
    next hpatterns =>
    split
    · next u hwritten =>
      refine ⟨by omega, fun hm => ?_, ?_, fun x hx => by rw [hload] at hx; cases hx⟩
      · exact (congrArg Prod.fst hwritten) ▸ kept_writeRegions w m bases hm
      · exact (congrArg Prod.fst hwritten) ▸ ground_writeRegions w s w m bases
    · next u hwritten =>
      refine absurd ⟨⟨img, hload⟩, hbases, hcause, hanchor, ?_, ?_, congrArg Prod.snd hwritten⟩ (h m bases c r)
      · simpa using hfits
      · simpa using hpatterns

/-! ### An image that is placed (R144, R321, R322) -/

/-- The loader's steps 5 and 6: a new rectangle over scrubbed storage, its instruction stores and memory tiles written. -/
def loaded (s : State) (rid : Nat) (m : Image) (r : Rect) : State :=
  writeTiles (writeStores (fresh (setRect (scrubRect s rid) rid r)).2 rid m) rid m

theorem placeImage_placed {s : State} {w c r : Nat} {bs : List Byte} {m : Image} {bases : List Nat} (rid : Nat)
    (h : placeable s w bs m bases c r) : ∃ digest bint hops bl cl, placeImage s w rid bs =
      (loaded (writeRegions s w m bases).1 rid m (newRect (writeRegions s w m bases).1 m bases c r digest bint hops bl cl), c * 256 + r * 65536) := by
  obtain ⟨⟨img, hload⟩, hbases, hcause, hanchor, hfits, hpatterns, hwritten⟩ := h
  have regions : writeRegions s w m bases = ((writeRegions s w m bases).1, true) := Prod.ext rfl hwritten
  refine ⟨Config.sha3_512 (img.take (((sectionOf img 11).map (·.off)).getD 0)), field bs 33 1, field bs 34 2, field bs 36 2, field bs 38 2, ?_⟩
  simp only [placeImage, hload, hbases, hcause, hanchor, hfits, hpatterns, Bool.not_true, Bool.false_eq_true, if_false]
  rw [regions]
  rfl

theorem ground_writeStores (w : Nat) (s : State) (rid : Nat) (m : Image) : ground w (writeStores s rid m) = ground w s := by
  unfold writeStores
  exact foldl_keeps (ground w) _ _ fun t k => (ground_writeKeys ..).trans (ground_writeKeys ..)

theorem ground_writeTiles (w : Nat) (s : State) (rid : Nat) (m : Image) : ground w (writeTiles s rid m) = ground w s := by
  unfold writeTiles
  refine foldl_keeps (ground w) _ _ fun t d => ?_
  split
  · exact ground_writeKeys ..
  · rfl

theorem ground_setRect_fresh (w : Nat) (s : State) (rid : Nat) (r : Rect) :
    ground w (fresh (setRect s rid r)).2 = (footing w s, tset s.rects rid r) := rfl

theorem ground_loaded (w : Nat) (s : State) (rid : Nat) (m : Image) (r : Rect) :
    ground w (loaded s rid m r) = (footing w s, tset s.rects rid r) := by
  have scrubbed := ground_scrubRect w s rid
  rw [loaded, ground_writeTiles, ground_writeStores, ground_setRect_fresh, footing_of_ground scrubbed, rects_of_ground scrubbed]

theorem rectAt_loaded (s : State) (rid : Nat) (m : Image) (r : Rect) : rectAt (loaded s rid m r) rid = r := by
  rw [rectAt, show (loaded s rid m r).rects = _ from congrArg Prod.snd (ground_loaded 0 s rid m r), tget_tset_same]

theorem kept_loaded {s : State} (rid : Nat) (m : Image) (r : Rect) (h : MemOk s) : MemOk (loaded s rid m r) :=
  kept_writeTiles _ _ (kept_writeStores _ _ (kept_fresh (kept_setRect (kept_scrubRect rid h))))

/-- Each core of a new rectangle is as the loader writes it. -/
theorem coreOf_newRect {s : State} {m : Image} {bases : List Nat} {c r bint hops bl cl k : Nat} {digest : BitVec 512} (hk : k < 8 * m.w * m.h) :
    coreOf (newRect s m bases c r digest bint hops bl cl) k = newCore m k := by
  unfold coreOf
  exact tget_map_of_mem _ (newCore m) (List.mem_range.2 hk)

/-- An anchor is a page of the package (R8, R322). -/
theorem firstAnchor_lt {s : State} {m : Image} {c r : Nat} (h : firstAnchor s m = some (c, r)) : c < 12 ∧ r < 8 := by
  obtain ⟨k, hk, he⟩ := List.mem_map.1 (List.mem_of_find?_eq_some h)
  have := List.mem_range.1 hk
  simp only [pageOfRank, Prod.mk.injEq] at he
  omega

theorem execPlaceImage_of_ready {s : State} {w : Nat} {bs : List Byte} (h : placeReady s w 0 bs) :
    exec (.placeImage w) s = .next (placeResult (placeImage (takeHead s w) w (pktRid w bs) bs).1 w (pktRes bs)
      (placeImage (takeHead s w) w (pktRid w bs) bs).2 (pktIrq bs)) := by
  rw [show exec (.placeImage w) s = execPlaceImage w s from rfl, execPlaceImage, servePlace_of_ready h (by omega) rfl]

theorem placesImage {s : State} {w c r : Nat} {bs : List Byte} {m : Image} {bases : List Nat} (h : placeReady s w 0 bs)
    (hp : placeable s w bs m bases c r) : ∃ t, exec (.placeImage w) s = .next t ∧
      answered s t w bs (c * 256 + r * 65536) ∧ (rectAt t (pktRid w bs)).live = true ∧
      (rectAt t (pktRid w bs)).ax = c ∧ (rectAt t (pktRid w bs)).ay = r ∧
      (rectAt t (pktRid w bs)).w = m.w ∧ (rectAt t (pktRid w bs)).h = m.h ∧
      ∀ k, k < 8 * m.w * m.h → (coreAt t (pktRid w bs) k).stage = stageOfCore m.stages (8 * m.w * m.h) k ∧
        (coreAt t (pktRid w bs) k).csr.hvec = 0x8000000000003C00 ∧ (coreAt t (pktRid w bs) k).g = [] ∧
        (coreAt t (pktRid w bs) k).v = [] ∧ (coreAt t (pktRid w bs) k).phase = .idle := by
  have anchor : c < 12 ∧ r < 8 := by
    obtain ⟨-, -, -, hanchor, -⟩ := hp
    exact firstAnchor_lt hanchor
  obtain ⟨digest, bint, hops, bl, cl, e⟩ := placeImage_placed (pktRid w bs) (placeable_takeHead.2 hp)
  generalize hu : (writeRegions (takeHead s w) w m bases).1 = u at e
  have hground : ground w u = ground w (takeHead s w) := hu ▸ ground_writeRegions ..
  have hwf : MemOk u := hu ▸ kept_writeRegions w m bases (kept_takeHead w h.1)
  have hexec := execPlaceImage_of_ready h
  rw [e] at hexec
  generalize hr : newRect u m bases c r digest bint hops bl cl = q at hexec
  have ready : Answerable s (loaded u (pktRid w bs) m q) w :=
    ⟨kept_loaded _ _ _ hwf, (congrArg Prod.fst (ground_loaded ..)).trans (footing_of_ground hground)⟩
  have placed : rectAt (placeResult (loaded u (pktRid w bs) m q) w (pktRes bs) (c * 256 + r * 65536) (pktIrq bs)) (pktRid w bs) = q := by
    rw [rectAt_placeResult, rectAt_loaded]
  refine ⟨_, hexec, answered_placeResult h ready (by omega), ?_⟩
  simp only [coreAt, placed]
  subst hr
  refine ⟨rfl, rfl, rfl, rfl, rfl, fun k hk => ?_⟩
  rw [coreOf_newRect hk]
  exact ⟨rfl, rfl, rfl, rfl, rfl⟩

theorem refusesImage {s : State} {w : Nat} {bs : List Byte} (h : placeReady s w 0 bs)
    (hp : ∀ m bases c r, ¬placeable s w bs m bases c r) : ∃ t e, exec (.placeImage w) s = .next t ∧ 1 ≤ e ∧ e ≤ 9 ∧
      answered s t w bs e ∧ (rectAt t (pktRid w bs)).live = false ∧
      ∀ x, loadImage s w (BitVec.ofNat 64 (field bs 0 8)) = .error x → e = x := by
  obtain ⟨⟨hlo, hhi⟩, hwf, hground, hfirst⟩ :=
    placeImage_refused (s := takeHead s w) (pktRid w bs) fun m bases c r g => hp m bases c r (placeable_takeHead.1 g)
  have ready : Answerable s (placeImage (takeHead s w) w (pktRid w bs) bs).1 w :=
    ⟨hwf (kept_takeHead w h.1), footing_of_ground hground⟩
  refine ⟨_, _, execPlaceImage_of_ready h, hlo, hhi, answered_placeResult h ready (by omega), ?_, fun x hx => hfirst x (by rwa [loadImage_takeHead])⟩
  obtain ⟨-, -, -, -, hlive, -⟩ := h
  rw [rectAt_placeResult, rectAt_of_ground hground]
  exact hlive

theorem placeImages : PlaceImages := fun _ _ _ h => ⟨fun _ _ _ _ hp => placesImage h hp, fun hp => refusesImage h hp⟩

/-- Settles O51: each PLACE is taken and performed (`servePlace_of_ready`), its work leaves the leases that its result word was checked
with (`footing`), and the result is written last (`answered_placeResult`). -/
theorem rectanglesPlaced : Obligations.RectanglesPlaced := ⟨placeImages, placeReleases, placeContexts⟩

end Sys2Proof.Rectangles
end

section
/-!
PROOF. Divides (O2) and the immediate, compare, address, bit-field and constant results (O3). Every one of these instructions issues with an
effect that its operands settle (`Performs`); what is left of each row is an equation between the value that the model computes and the one
that the row names.
-/
open Sys2Proof Sys2Proof.Machine Sys2Proof.Claims

namespace Sys2Proof.Scalars

/-! ### An instruction that can issue -/

/-- The instruction issues, and with the operands l and r its effect is act. -/
def Performs (i : Instr) (l r : W64) (act : State → Act) : Prop :=
  ∃ f, (∀ s, exec i s = issue i f s) ∧ ∀ s, f l r s = act s

/-- With the operands l and r the instruction changes nothing itself and delivers v. -/
def Sends (i : Instr) (l r v : W64) : Prop := Performs i l r fun s => .send s v

theorem Sends.of_eq {i : Instr} {l r v w : W64} (h : Sends i l r w) (e : v = w) : Sends i l r v := e ▸ h

/-- What the effect of an instruction that can issue comes to (R47, R48). -/
def settled (i : Instr) (s : State) : Act → State
  | .hold => s
  | .done s' => fired s s'
  | .send s' v => answer i (some v) s s'
  | .sendNull s' => answer i none s s'
  | .later s' => s'
  | .trap cause a => raises s cause a

theorem exec_of_performs {i : Instr} {l r : W64} {act : State → Act} {s : State} (h : Performs i l r act) (hr : Ready i l r s) :
    exec i s = .next (settled i s (act s)) := by
  obtain ⟨f, hexec, hact⟩ := h
  obtain ⟨hacts, hfields, b, hrun, hopen, hready, hissue⟩ := hr
  rw [hexec, issue_of_ready hrun hacts hopen hfields hready hissue, hact]
  cases act s <;> rfl

theorem exec_of_sends {i : Instr} {l r v : W64} {s : State} (h : Sends i l r v) (hr : Ready i l r s) :
    exec i s = .next (answer i (some v) s s) := exec_of_performs h hr

/-! ### Divides (R66, R67) -/

theorem startDivide_of_free {s : State} {b : BlockRun} (v : W64) (hb : here s = some b) (hd : b.divide = none) :
    startDivide s v = .done (modHere s fun b => { b with divide := some (s.cur.slot, v) }) := by
  have hrun : runOf s s.cur.rid s.cur.core = some b := hb
  simp only [startDivide, hrun, hd, Option.isSome_none, Bool.false_eq_true, if_false, modHere]

theorem startDivide_of_taken {s : State} {b : BlockRun} (v : W64) (hb : here s = some b) (hd : b.divide.isSome = true) :
    startDivide s v = .hold := by
  have hrun : runOf s s.cur.rid s.cur.core = some b := hb
  simp only [startDivide, hrun, hd, if_true]

/-- The signed overflow of R66, -2^63 by -1, needs no case of its own: its quotient wraps to -2^63, and its remainder is 0. -/
theorem divS_eq (a b : W64) : divS a b =
    if b = 0 then (-1, a) else (BitVec.ofInt 64 (a.toInt.tdiv b.toInt), BitVec.ofInt 64 (a.toInt.tmod b.toInt)) := by
  unfold divS
  split
  · rfl
  · split
    · next h => obtain ⟨rfl, rfl⟩ := h; decide
    · rfl

/-- A divide takes the divider with the result of R66. -/
theorem performs_of_divideValue {i : Instr} {l r v : W64} (h : divideValue i l r = some v) : Performs i l r fun s => startDivide s v := by
  unfold divideValue at h
  split at h
  case h_5 => cases h
  all_goals
    cases h
    refine ⟨_, fun _ => rfl, fun s => ?_⟩
  case h_1 => rw [divS_eq, apply_ite Prod.fst] -- DIV
  case h_2 => rw [divZ, apply_ite Prod.fst] -- DIVZ
  case h_3 => rw [divS_eq, apply_ite Prod.snd] -- REM
  case h_4 => rw [divZ, apply_ite Prod.snd] -- REMZ

theorem exec_divide {i : Instr} {l r v : W64} {s : State} (hv : divideValue i l r = some v) (hr : Ready i l r s) :
    exec i s = .next (settled i s (startDivide s v)) := exec_of_performs (performs_of_divideValue hv) hr

theorem exec_divideResult {s : State} {rid c slot : Nat} {b : BlockRun} {v : W64} (hb : runOf s rid c = some b)
    (hd : b.divide = some (slot, v)) (ha : coreActs s rid c = true) :
    exec (.divideResult rid c) s =
      .next (deliverAll (modRun s rid c fun b => { b with divide := none }) rid c slot (some v) (slotTargets b slot)) := by
  change execDivideResult rid c s = _
  simp only [execDivideResult, hb, hd, ha, if_true]

/-- Settles O2: a divide comes to what `startDivide` answers for the result of its row, and that turns on the divider alone. -/
theorem divideResults : Obligations.DivideResults := by
  refine ⟨fun i l r v s b hv hr hb hd => ?_, fun i l r v s b hv hr hb hd => ?_, fun s rid c b slot v hb hd ha => exec_divideResult hb hd ha⟩
  · rw [exec_divide hv hr, startDivide_of_free v hb hd, settled]
  · rw [exec_divide hv hr, startDivide_of_taken v hb hd, settled]

/-! ### Immediate operations (R69) -/

theorem ofInt_toInt_add (a b : W64) : BitVec.ofInt 64 (a.toInt + b.toInt) = a + b := by
  rw [BitVec.ofInt_add, BitVec.ofInt_toInt, BitVec.ofInt_toInt]

theorem ofNat_mul_two_pow (a : W64) (k : Nat) : BitVec.ofNat 64 (a.toNat * 2 ^ k) = a <<< k := by
  apply BitVec.eq_of_toNat_eq
  simp [Nat.shiftLeft_eq]

theorem ofNat_div_two_pow (a : W64) (k : Nat) : BitVec.ofNat 64 (a.toNat / 2 ^ k) = a >>> k := by
  rw [← Nat.shiftRight_eq_div_pow, ← BitVec.toNat_ushiftRight, BitVec.ofNat_toNat, BitVec.setWidth_eq]

theorem ofInt_div_two_pow (a : W64) (k : Nat) : BitVec.ofInt 64 (a.toInt / 2 ^ k) = a.sshiftRight k := by
  rw [BitVec.sshiftRight, Int.shiftRight_eq_div_pow]
  norm_cast

/-- Each immediate operation delivers the value of its row. -/
theorem sends_of_immediateValue {i : Instr} {l v : W64} (r : W64) (h : immediateValue i l = some v) : Sends i l r v := by
  unfold immediateValue at h
  split at h <;> cases h
  all_goals refine Sends.of_eq ⟨_, fun _ => rfl, fun _ => rfl⟩ ?_
  case h_1 p k t => rw [← BitVec.toInt_signExtend_of_le (x := k) (v := 64) (by decide), ofInt_toInt_add] -- ADDI
  case h_2 | h_3 | h_4 => rfl -- ANDI, ORI, XORI
  case h_5 => exact ofNat_mul_two_pow .. -- SHLI
  case h_6 => exact ofNat_div_two_pow .. -- SHRI
  case h_7 => exact ofInt_div_two_pow .. -- SARI

/-! ### Compares (R70) -/

theorem flag_eq_truth {p : Prop} [Decidable p] {c : Bool} (h : p ↔ c = true) : flag p = truth c := by
  simp only [flag, truth, h]

theorem eq_iff_toInt_imm (a : W64) (i : BitVec 14) : a.toInt = i.toInt ↔ a = i.signExtend 64 := by
  rw [← BitVec.toInt_signExtend_of_le (x := i) (v := 64) (by decide), BitVec.toInt_inj]

/-- Each compare delivers whether its relation holds. -/
theorem sends_of_compareValue {i : Instr} {l r v : W64} (h : compareValue i l r = some v) : Sends i l r v := by
  unfold compareValue at h
  split at h <;> cases h
  all_goals refine Sends.of_eq ⟨_, fun _ => rfl, fun _ => rfl⟩ (flag_eq_truth ?_)
  case h_1 => exact beq_iff_eq.symm -- CEQ
  case h_2 => exact bne_iff_ne.symm -- CNE
  case h_3 | h_4 | h_5 | h_6 => exact decide_eq_true_iff.symm -- CLT, CLE, CLTZ, CLEZ
  case h_7 p k t => rw [eq_iff_toInt_imm, beq_iff_eq] -- CEQI
  case h_8 p k t => rw [ne_eq, eq_iff_toInt_imm, bne_iff_ne] -- CNEI
  case h_9 p k t | h_10 p k t => rw [decide_eq_true_iff, BitVec.toInt_signExtend_of_le (by decide)] -- CLTI, CLEI
  case h_11 p k t | h_12 p k t => rw [decide_eq_true_iff, BitVec.toNat_setWidth_of_le (by decide)] -- CLTZI, CLEZI

/-! ### Addresses, fields and constants (R71 to R75) -/

theorem wrap_eq_toNat (n : Nat) (x : Int) : wrap n x = (BitVec.ofInt n x).toNat := (BitVec.toNat_ofInt x).symm

theorem selector_eq_toNat (a : W64) : selector a = (a.extractLsb' 56 8).toNat := by
  rw [BitVec.extractLsb'_toNat, Nat.shiftRight_eq_div_pow, Nat.mod_eq_of_lt]
  · rfl
  · have := a.isLt; omega

theorem ofNat_mul_add_eq_append (x : BitVec 8) (y : BitVec 56) : BitVec.ofNat 64 (x.toNat * 2 ^ 56 + y.toNat) = x ++ y := by
  rw [← Nat.shiftLeft_eq, Nat.shiftLeft_add_eq_or_of_lt y.isLt, ← BitVec.toNat_append]
  exact (BitVec.ofNat_toNat ..).trans (BitVec.setWidth_eq _)

/-- LEA keeps the selector, bits 63:56, and wraps the rest within 56 bits (R71). -/
theorem addrPlus_eq_append (a : W64) (d : Int) :
    addrPlus a d = a.extractLsb' 56 8 ++ BitVec.ofInt 56 ((a.extractLsb' 0 56).toNat + d) := by
  rw [addrPlus, selector_eq_toNat, wrap_eq_toNat, ofNat_mul_add_eq_append, BitVec.extractLsb'_toNat, Nat.shiftRight_zero]

/-- The signed value of a field of m bits. -/
theorem sext_eq_toInt {m : Nat} (hm : 0 < m) (v : Nat) : sext m v = (BitVec.ofNat m v).toInt := by
  obtain ⟨k, rfl⟩ : ∃ k, m = k + 1 := ⟨m - 1, by omega⟩
  rw [sext, BitVec.toInt_eq_toNat_cond, BitVec.toNat_ofNat, Nat.add_sub_cancel, Nat.pow_succ]
  refine if_congr (by omega) rfl rfl

theorem sext_mod (m v : Nat) : sext m (v % 2 ^ m) = sext m v := by
  simp only [sext, Nat.mod_mod]

/-- The low n + 1 bits, shifted to the top and back with the sign, are extended with their sign (R72, R73). -/
theorem sshiftRight_shiftLeft_eq_sext (a : W64) (n : BitVec 6) :
    (a <<< (63 - n.toNat)).sshiftRight (63 - n.toNat) = BitVec.ofInt 64 (sext (n.toNat + 1) a.toNat) := by
  have hn : n.toNat < 64 := n.isLt
  rw [sext_eq_toInt (by omega), BitVec.ofNat_toNat]
  change _ = (a.setWidth (n.toNat + 1)).signExtend 64
  have hsign : (a <<< (63 - n.toNat)).msb = (a.setWidth (n.toNat + 1)).msb := by
    have hlast : 64 - 1 - (63 - n.toNat) = n.toNat := by omega
    have hword : 63 - n.toNat < 64 := by omega
    simp [BitVec.msb_shiftLeft, BitVec.getMsbD, BitVec.msb_setWidth, hlast, hword, hn]
  refine BitVec.eq_of_getLsbD_eq fun k hk => ?_
  rw [BitVec.getLsbD_sshiftRight, BitVec.getLsbD_signExtend, hsign]
  by_cases hin : k < n.toNat + 1
  · have hlow : 63 - n.toNat + k < 64 := by omega
    simp [hin, hlow, hk]
  · have hhigh : ¬63 - n.toNat + k < 64 := by omega
    simp [hin, hhigh, hk, Nat.not_le.2 hk]

/-- The low m bits of a number stand from bit o on, and every other bit of the field's value is 0. -/
theorem getLsbD_field (v m o : Nat) {k : Nat} (hk : k < 64) :
    (BitVec.ofNat 64 (v % 2 ^ m) <<< o).getLsbD k = (decide (o ≤ k ∧ k < o + m) && v.testBit (k - o)) := by
  rw [BitVec.getLsbD_shiftLeft, BitVec.getLsbD_ofNat, Nat.testBit_mod_two_pow]
  by_cases ho : o ≤ k
  · have hlen : k - o < m ↔ k < o + m := by omega
    have hword : k - o < 64 := by omega
    simp [hk, ho, hlen, hword, Nat.not_lt.2 ho]
  · simp [ho, Nat.lt_of_not_le ho]

theorem getLsbD_mask (m o : Nat) {k : Nat} (hk : k < 64) :
    (BitVec.ofNat 64 (2 ^ m - 1) <<< o).getLsbD k = decide (o ≤ k ∧ k < o + m) := by
  have hmask : 2 ^ m - 1 = (2 ^ m - 1) % 2 ^ m := (Nat.mod_eq_of_lt (Nat.sub_lt (Nat.two_pow_pos m) Nat.one_pos)).symm
  rw [hmask, getLsbD_field _ _ _ hk, Nat.testBit_two_pow_sub_one, ← Bool.decide_and, decide_eq_decide]
  omega

/-- INS takes each bit from the field of b or from a (R74). -/
theorem getLsbD_insOf (a b : W64) (o n : BitVec 6) {k : Nat} (hk : k < 64) : (insOf a b o n).getLsbD k = insertedBit a b o n k := by
  have hfield : k < o.toNat + (n.toNat + 1) ↔ k ≤ o.toNat + n.toNat := by omega
  rw [insOf, BitVec.getLsbD_or, BitVec.getLsbD_and, BitVec.getLsbD_not, getLsbD_mask _ _ hk, getLsbD_field _ _ _ hk, BitVec.testBit_toNat]
  simp only [hfield, insertedBit]
  split
  · next h => simp [h]
  · next h => simp [h, hk]

theorem consth_eq (a : W64) (i : BitVec 16) : BitVec.ofNat 64 (a.toNat * 65536 + i.toNat) = (a <<< 16) + i.setWidth 64 := by
  rw [BitVec.ofNat_add, BitVec.ofNat_toNat, ← ofNat_mul_two_pow _ 16]
  rfl

/-- Each address, bit-field and constant instruction of `fieldValue` delivers the value of its row. -/
theorem sends_of_fieldValue {i : Instr} {l r v : W64} (h : fieldValue i l r = some v) : Sends i l r v := by
  unfold fieldValue at h
  split at h <;> cases h
  all_goals refine Sends.of_eq ⟨_, fun _ => rfl, fun _ => rfl⟩ ?_
  case h_1 p k o t => rw [add_assoc, ← addrPlus_eq_append, leaOf] -- LEA
  case h_2 p n t => exact sshiftRight_shiftLeft_eq_sext .. -- SEXT
  case h_3 p n t => rfl -- ZEXT
  case h_4 p x o n t => -- EXTR
    rw [sshiftRight_shiftLeft_eq_sext, extrOf, sext_mod, BitVec.toNat_ushiftRight, Nat.shiftRight_eq_div_pow]
  case h_5 => rfl -- CONST
  case h_6 => exact consth_eq .. -- CONSTH

theorem immediateOps : ImmediateOps := fun _ _ r _ _ hv hr => exec_of_sends (sends_of_immediateValue r hv) hr

theorem compareResults : CompareResults := fun _ _ _ _ _ hv hr => exec_of_sends (sends_of_compareValue hv) hr

theorem fieldResults : FieldResults :=
  ⟨fun _ _ _ _ _ hv hr => exec_of_sends (sends_of_fieldValue hv) hr,
   fun _ o n _ l r _ hr => ⟨insOf l r o n, fun _ hk => getLsbD_insOf l r o n hk, exec_of_sends ⟨_, fun _ => rfl, fun _ => rfl⟩ hr⟩⟩

/-- Settles O3: each instruction sends a value (`sends_of_immediateValue`, `sends_of_compareValue`, `sends_of_fieldValue`), INS the one that
`getLsbD_insOf` gives bit by bit. -/
theorem immediateResults : Obligations.ImmediateResults := ⟨immediateOps, compareResults, fieldResults⟩

end Sys2Proof.Scalars
end

section
/-!
PROOF. Exits record their choice (O6). An exit whose checks pass comes to `chooseExit` (`performs_of_chooses`), and what that answers turns on
whether its block has chosen already.
-/
open Sys2Proof Sys2Proof.Machine Sys2Proof.Claims

namespace Sys2Proof.Exits

open Sys2Proof.Scalars

/-! ### The choice of a block (R50, R62, R81) -/

theorem chooseExit_of_first {s : State} {b : BlockRun} (e : Exit) (hb : here s = some b) (hx : b.exit = none) :
    chooseExit s e = .done (modHere s fun b => { b with exit := some e, exitSlot := s.cur.slot }) := by
  have hrun : runOf s s.cur.rid s.cur.core = some b := hb
  simp only [chooseExit, hrun, hx, Option.isSome_none, Bool.false_eq_true, if_false, modHere]

theorem chooseExit_of_second {s : State} {b : BlockRun} (e : Exit) (hb : here s = some b) (hx : b.exit ≠ none) :
    chooseExit s e = .trap 0x008 0 := by
  have hrun : runOf s s.cur.rid s.cur.core = some b := hb
  simp only [chooseExit, hrun, Option.isSome_iff_ne_none.2 hx, if_true]

/-! ### The target of an exit (R35, R82) -/

theorem targetFault_of_allowed {h : Bool} {t : Int} (ht : allowedTarget h t) : targetFault h t = none := by
  obtain ⟨hlo, hhi⟩ := ht
  have hin : ¬(t < 0 ∨ 16383 < t) := by split at hhi <;> omega
  rw [targetFault, if_neg hin]
  cases h with
  | true => rfl
  | false => exact if_neg (by simpa using hhi)

theorem targetExit_of_allowed {s : State} {t : Int} (mk : Nat → Exit) (ht : allowedTarget (coreHere s).csr.hmode t) :
    targetExit s t mk = chooseExit s (mk t.toNat) := by
  have hnone : targetFault (handlerMode s) t = none := targetFault_of_allowed ht
  simp only [targetExit, hnone]

/-- An exit of task mode names a target of task mode. -/
theorem targetExit_of_task {s : State} {t : Int} (mk : Nat → Exit) (hm : (coreHere s).csr.hmode = false) (ht : allowedTarget false t) :
    targetExit s t mk = chooseExit s (mk t.toNat) := targetExit_of_allowed mk (hm.symm ▸ ht)

theorem offsetTarget_of_here {s : State} {b : BlockRun} (o : BitVec 20) (hb : here s = some b) : offsetTarget s o = b.h + o.toInt := by
  have hrun : runOf s s.cur.rid s.cur.core = some b := hb
  simp only [offsetTarget, blockAddr, hrun, Option.map_some, Option.getD_some]

/-! ### The exits (R80 to R89, R297, R298, R303) -/

/-- An exit of task mode is performed there (R295). -/
theorem act_of_taskMode {s : State} (act : Act) (hm : (coreHere s).csr.hmode = false) :
    (if handlerMode s = true then .trap 0x146 0 else act) = act := if_neg (ne_true_of_eq_false hm)

/-- An exit of handler mode is performed there (R297, R303). -/
theorem act_of_handlerMode {s : State} (act : Act) (hm : (coreHere s).csr.hmode = true) :
    (if handlerMode s = true then act else .trap 0x140 0) = act := if_pos hm

/-- An exit whose checks pass has the effect of choosing. -/
theorem performs_of_chooses {i : Instr} {l r : W64} {s : State} {b : BlockRun} {e : Exit} (h : chooses i l r s b e) (hb : here s = some b) :
    ∃ act, Performs i l r act ∧ act s = chooseExit s e := by
  unfold chooses at h
  split at h
  case h_13 => exact h.elim
  all_goals refine ⟨_, ⟨_, fun _ => rfl, fun _ => rfl⟩, ?_⟩
  case h_1 => -- BR
    obtain ⟨ht, rfl⟩ := h
    rw [offsetTarget_of_here _ hb, targetExit_of_allowed _ ht]
  case h_2 => -- BRI
    obtain ⟨ht, rfl⟩ := h
    exact targetExit_of_allowed _ ht
  case h_3 => -- CALL
    obtain ⟨hm, ht, rfl⟩ := h
    rw [act_of_taskMode _ hm, offsetTarget_of_here _ hb, targetExit_of_task _ hm ht]
  case h_4 => -- CALLI
    obtain ⟨hm, ht, rfl⟩ := h
    exact (act_of_taskMode _ hm).trans (targetExit_of_task _ hm ht)
  case h_5 => -- RET
    obtain ⟨hm, hd, ht, rfl⟩ := h
    calc _ = _ := act_of_taskMode _ hm
      _ = _ := if_neg hd.ne'
      _ = _ := targetExit_of_task _ hm ht
  case h_6 => -- TEND
    obtain ⟨hm, rfl⟩ := h
    exact act_of_taskMode _ hm
  case h_7 => -- PARK
    obtain ⟨hm, hlive, hcalls, hdepth, hsem, hfree, ht, rfl⟩ := h
    have hplain : ¬((coreHere s).csr.cdepth ≠ 0 ∨ (coreHere s).csr.depth ≠ 0) := by simp [hcalls, hdepth]
    have hroom : ¬32 ≤ (coreAt s s.cur.rid s.cur.core).contUsed.length := Nat.not_le.2 hfree
    calc _ = _ := act_of_taskMode _ hm
      _ = _ := if_neg (Nat.not_lt.2 hlive)
      _ = _ := if_neg hplain
      _ = _ := by simp only [hsem, hroom, if_false, offsetTarget_of_here _ hb, targetExit_of_task _ hm ht]
  case h_8 => -- TABORT
    obtain ⟨hm, rfl⟩ := h
    exact act_of_taskMode _ hm
  case h_9 => -- ERET discard
    obtain ⟨hm, rfl⟩ := h
    exact act_of_handlerMode _ hm
  case h_10 => -- ERET retry
    obtain ⟨hm, ht, rfl⟩ := h
    have hnone : targetFault false (coreAt s s.cur.rid s.cur.core).csr.fblk = none := targetFault_of_allowed ht
    rw [act_of_handlerMode _ hm, hnone]
  case h_11 => -- ERET resume
    obtain ⟨hm, ht, rfl⟩ := h
    rw [act_of_handlerMode _ hm, targetFault_of_allowed ht]
  case h_12 => -- HALT
    obtain ⟨hm, rfl⟩ := h
    exact act_of_handlerMode _ hm

/-- Settles O6: an exit comes to `chooseExit`, which records the first choice of a block and refuses a second. -/
theorem exitsChoose : Obligations.ExitsChoose := by
  intro i l r s b e hchoice hr hb
  obtain ⟨act, hperforms, hact⟩ := performs_of_chooses hchoice hb
  refine ⟨fun hx => ?_, fun hx => ?_⟩
  · rw [exec_of_performs hperforms hr, hact, chooseExit_of_first e hb hx, settled]
  · rw [exec_of_performs hperforms hr, hact, chooseExit_of_second e hb hx, settled]

end Sys2Proof.Exits
end

section
/-!
PROOF. Semaphores and the continuations they satisfy (O25). A change of a semaphore writes one entry of one sync unit and then marks the
continuations that the new value reaches, one after another: no mark touches a semaphore (`semAt_satisfyOne`), and each leaves every
continuation in its place with its identity and its SATISFIED (`Marked`).
-/
open Sys2Proof Sys2Proof.Machine Sys2Proof.Claims

namespace Sys2Proof.Semaphores

open Sys2Proof.Scalars Sys2Proof.Rectangles

/-! ### The sync units of a state -/

theorem ldieAt_of_rects {s u : State} (h : u.rects = s.rects) (rid d : Nat) : ldieAt u rid d = ldieAt s rid d := by
  rw [ldieAt, ldieAt, rectAt, rectAt, h]

theorem ldieAt_modLdie (s : State) (rid d q e : Nat) (f : LDie → LDie) :
    ldieAt (modLdie s rid d f) q e = if q = rid ∧ e = d then f (ldieAt s rid d) else ldieAt s q e := by
  by_cases hq : q = rid
  · subst hq
    simp only [ldieAt, modLdie, rectAt_modRect_same, tget_tset, true_and]
  · simp only [ldieAt, modLdie, rectAt_modRect_other _ _ hq, hq, false_and, if_false]

@[simp] theorem ldieAt_modCore (s : State) (rid c q e : Nat) (f : Core → Core) : ldieAt (modCore s rid c f) q e = ldieAt s q e := by
  by_cases hq : q = rid
  · subst hq
    simp only [ldieAt, rectAt_modCore_same]
  · simp only [ldieAt, rectAt_modCore_other _ _ _ hq]

@[simp] theorem ldieAt_modRun (s : State) (rid c q e : Nat) (f : BlockRun → BlockRun) : ldieAt (modRun s rid c f) q e = ldieAt s q e := by
  unfold modRun
  split
  · exact ldieAt_modCore ..
  · rfl

theorem ldieAt_bind (s : State) (rid c q e : Nat) : ldieAt (bind s rid c) q e = ldieAt s q e := ldieAt_modRun ..

theorem ldieAt_fired (s u : State) (q e : Nat) : ldieAt (fired s u) q e = ldieAt u q e := ldieAt_modRun ..

theorem ldieAt_checkBarriers (s : State) (rid q e : Nat) : ldieAt (checkBarriers s rid) q e = ldieAt s q e :=
  ldieAt_of_rects (rects_of_ground (ground_checkBarriers 0 s rid)) q e

/-! ### One continuation is satisfied (R90, R165) -/

/-- A continuation after the one of a slot is satisfied, with an order number and a time. -/
def mark (k : Cont) (seq time : Nat) (q : Cont) : Cont :=
  if q.core = k.core ∧ q.slot = k.slot then { q with satisfied := true, seq := seq, when := time } else q

theorem rects_satisfyOne (s : State) (rid d : Nat) (k : Cont) : (satisfyOne s rid d k).rects =
    (modLdie s rid d fun x => { x with conts := x.conts.map (mark k (dieAt s (physDie (rectAt s rid) d)).seq s.nextId) }).rects :=
  (rects_of_ground (ground_writeNat 0 ..)).trans rfl

theorem ldieAt_satisfyOne (s : State) (rid d : Nat) (k : Cont) : ∃ seq time, ∀ q e, ldieAt (satisfyOne s rid d k) q e =
    if q = rid ∧ e = d then { ldieAt s rid d with conts := (ldieAt s rid d).conts.map (mark k seq time) } else ldieAt s q e :=
  ⟨_, _, fun q e => (ldieAt_of_rects (rects_satisfyOne s rid d k) q e).trans (ldieAt_modLdie ..)⟩

theorem semAt_satisfyOne (s : State) (rid d q e i : Nat) (k : Cont) : semAt (satisfyOne s rid d k) q e i = semAt s q e i := by
  obtain ⟨seq, time, hldie⟩ := ldieAt_satisfyOne s rid d k
  rw [semAt, hldie]
  split
  · next h => obtain ⟨rfl, rfl⟩ := h; rfl
  · rfl

/-- r is q after the continuations ks were satisfied: it keeps its identity, and is satisfied where q was or stands in the slot of one
of them. -/
structure Marked (ks : List Cont) (q r : Cont) : Prop where
  core : r.core = q.core
  slot : r.slot = q.slot
  idx : r.idx = q.idx
  thresh : r.thresh = q.thresh
  stays : q.satisfied = true → r.satisfied = true
  reached : ∀ k ∈ ks, q.core = k.core → q.slot = k.slot → r.satisfied = true

theorem marked_mark (k : Cont) (seq time : Nat) (q : Cont) : Marked [k] q (mark k seq time q) := by
  unfold mark
  split
  · exact ⟨rfl, rfl, rfl, rfl, fun _ => rfl, fun _ _ _ _ => rfl⟩
  · next hother =>
    refine ⟨rfl, rfl, rfl, rfl, id, fun j hj hcore hslot => ?_⟩
    obtain rfl := List.mem_singleton.1 hj
    exact absurd ⟨hcore, hslot⟩ hother

theorem Marked.trans {ks js : List Cont} {q r t : Cont} (h : Marked ks q r) (g : Marked js r t) : Marked (ks ++ js) q t where
  core := g.core.trans h.core
  slot := g.slot.trans h.slot
  idx := g.idx.trans h.idx
  thresh := g.thresh.trans h.thresh
  stays hq := g.stays (h.stays hq)
  reached k hk hcore hslot := by
    rcases List.mem_append.1 hk with hk | hk
    · exact g.stays (h.reached k hk hcore hslot)
    · exact g.reached k hk (h.core.trans hcore) (h.slot.trans hslot)

/-! ### A change of a semaphore (R90, R164) -/

/-- The continuations of a sync unit that a value of the semaphore idx satisfies. -/
def due (x : LDie) (idx : Nat) (v : BitVec 32) : List Cont := x.conts.filter fun k => k.idx == idx && !k.satisfied && reaches v k.thresh

theorem mem_due {x : LDie} {idx : Nat} {v : BitVec 32} {k : Cont} :
    k ∈ due x idx v ↔ k ∈ x.conts ∧ k.idx = idx ∧ k.satisfied = false ∧ k.thresh.toInt ≤ v.toInt := by
  simp [due, reaches, and_assoc]

theorem satisfyAll_eq_foldl (s : State) (rid d idx : Nat) : satisfyAll s rid d idx =
    (due (ldieAt s rid d) idx (semAt s rid d idx)).foldl (fun s k => satisfyOne s rid d k) s := rfl

theorem semAt_satisfyAll (s : State) (rid d idx q e i : Nat) : semAt (satisfyAll s rid d idx) q e i = semAt s q e i := by
  rw [satisfyAll_eq_foldl]
  exact foldl_keeps (fun t => semAt t q e i) _ s fun t k => semAt_satisfyOne t rid d q e i k

theorem conts_satisfyMany (ks : List Cont) (s : State) (rid d : Nat) : ∃ f : Cont → Cont,
    (ldieAt (ks.foldl (fun s k => satisfyOne s rid d k) s) rid d).conts = (ldieAt s rid d).conts.map f ∧ ∀ q, Marked ks q (f q) := by
  induction ks generalizing s with
  | nil => exact ⟨id, (List.map_id _).symm, fun q => ⟨rfl, rfl, rfl, rfl, id, fun _ hk => absurd hk List.not_mem_nil⟩⟩
  | cons k ks ih =>
    obtain ⟨seq, time, hone⟩ := ldieAt_satisfyOne s rid d k
    obtain ⟨f, hrest, hmarked⟩ := ih (satisfyOne s rid d k)
    refine ⟨f ∘ mark k seq time, ?_, fun q => (marked_mark k seq time q).trans (hmarked _)⟩
    rw [List.foldl_cons, hrest, hone, if_pos ⟨rfl, rfl⟩, List.map_map]

/-- A state with one semaphore written, before anything sees the change. -/
def written (s : State) (rid d idx : Nat) (v : BitVec 32) : State := modLdie s rid d fun x => { x with sems := tset x.sems idx v }

theorem setSem_eq (s : State) (rid d idx : Nat) (v : BitVec 32) :
    setSem s rid d idx v = checkBarriers (satisfyAll (written s rid d idx v) rid d idx) rid := rfl

theorem ldieAt_written (s : State) (rid d idx : Nat) (v : BitVec 32) (q e : Nat) : ldieAt (written s rid d idx v) q e =
    if q = rid ∧ e = d then { ldieAt s rid d with sems := tset (ldieAt s rid d).sems idx v } else ldieAt s q e := ldieAt_modLdie ..

theorem semAt_written (s : State) (rid d idx : Nat) (v : BitVec 32) (q e i : Nat) :
    semAt (written s rid d idx v) q e i = if (q, e, i) = (rid, d, idx) then v else semAt s q e i := by
  simp only [semAt, ldieAt_written, Prod.mk.injEq]
  by_cases hunit : q = rid ∧ e = d
  · obtain ⟨rfl, rfl⟩ := hunit
    simp only [true_and, if_true, tget_tset]
  · rw [if_neg hunit, if_neg fun h => hunit ⟨h.1, h.2.1⟩]

theorem semAt_setSem (s : State) (rid d idx : Nat) (v : BitVec 32) (q e i : Nat) :
    semAt (setSem s rid d idx v) q e i = if (q, e, i) = (rid, d, idx) then v else semAt s q e i := by
  rw [setSem_eq, semAt, ldieAt_checkBarriers, ← semAt, semAt_satisfyAll, semAt_written]

theorem conts_setSem (s : State) (rid d idx : Nat) (v : BitVec 32) : ∃ f : Cont → Cont,
    (ldieAt (setSem s rid d idx v) rid d).conts = (ldieAt s rid d).conts.map f ∧ ∀ q, Marked (due (ldieAt s rid d) idx v) q (f q) := by
  have hconts : (ldieAt (written s rid d idx v) rid d).conts = (ldieAt s rid d).conts := by rw [ldieAt_written, if_pos ⟨rfl, rfl⟩]
  obtain ⟨f, hmany, hmarked⟩ := conts_satisfyMany (due (ldieAt s rid d) idx v) (written s rid d idx v) rid d
  refine ⟨f, ?_, hmarked⟩
  rw [setSem_eq, ldieAt_checkBarriers, satisfyAll_eq_foldl, semAt_written, if_pos rfl, due, hconts, ← due, hmany, hconts]

/-! ### The instructions (R164) -/

theorem checkSem_of_free {s : State} {a : W64} (h : semFree s a) : checkSem s s.cur.rid s.cur.core a = .ok () := h.1

theorem immediate_of_free {s : State} {a : W64} (f : State → Act) (h : semFree s a) : immediate s f = f s := by
  rw [immediate, h.2, if_neg Bool.false_ne_true]

theorem onlySem_bind_setSem (s : State) (a : W64) (v : BitVec 32) :
    onlySem s (bind (setSem s s.cur.rid (addrDie a) (addrSem a) v) s.cur.rid s.cur.core) a v := by
  have hsem : ∀ q e i, semAt (bind (setSem s s.cur.rid (addrDie a) (addrSem a) v) s.cur.rid s.cur.core) q e i =
      if (q, e, i) = (s.cur.rid, addrDie a, addrSem a) then v else semAt s q e i := fun q e i => by
    rw [semAt, ldieAt_bind, ← semAt, semAt_setSem]
  exact ⟨(hsem ..).trans (if_pos rfl), fun q e i hother => (hsem q e i).trans (if_neg hother)⟩

theorem exec_semadd {p : BitVec 2} {x : BitVec 9} {l r : W64} {s : State} (hr : Ready (.semadd p x) l r s) (hfree : semFree s l)
    (hreplay : replayEmpty s s.cur.rid s.cur.core = true) (hruns : semRuns s s.cur.rid (addrDie l) = true) :
    exec (.semadd p x) s = .next (answer (.semadd p x) (some (BitVec.ofInt 64 (semAt s s.cur.rid (addrDie l) (addrSem l)).toInt)) s
      (bind (setSem s s.cur.rid (addrDie l) (addrSem l) (semAt s s.cur.rid (addrDie l) (addrSem l) + r.extractLsb' 0 32))
        s.cur.rid s.cur.core)) := by
  rw [exec_of_performs ⟨_, fun _ => rfl, fun _ => rfl⟩ hr, immediate_of_free _ hfree]
  simp only [checkSem_of_free hfree, hreplay, hruns, Bool.not_true, Bool.or_self, Bool.false_eq_true, if_false]
  rfl

theorem exec_semset {p : BitVec 2} {l r : W64} {s : State} (hr : Ready (.semset p) l r s) (hfree : semFree s l)
    (hreplay : replayEmpty s s.cur.rid s.cur.core = true) (hruns : semRuns s s.cur.rid (addrDie l) = true) :
    exec (.semset p) s =
      .next (fired s (bind (setSem s s.cur.rid (addrDie l) (addrSem l) (r.extractLsb' 0 32)) s.cur.rid s.cur.core)) := by
  rw [exec_of_performs ⟨_, fun _ => rfl, fun _ => rfl⟩ hr, immediate_of_free _ hfree]
  simp only [checkSem_of_free hfree, hreplay, hruns, Bool.not_true, Bool.or_self, Bool.false_eq_true, if_false]
  rfl

theorem exec_semrd {p : BitVec 2} {x : BitVec 9} {l r : W64} {s : State} (hr : Ready (.semrd p x) l r s) (hfree : semFree s l) :
    exec (.semrd p x) s = .next (answer (.semrd p x) (some (BitVec.ofInt 64 (semAt s s.cur.rid (addrDie l) (addrSem l)).toInt)) s
      (bind s s.cur.rid s.cur.core)) := by
  rw [exec_of_performs ⟨_, fun _ => rfl, fun _ => rfl⟩ hr, immediate_of_free _ hfree]
  simp only [checkSem_of_free hfree]
  rfl

theorem semaphoresChange : SemaphoresChange :=
  ⟨fun _ _ _ _ _ hr hfree hreplay hruns => ⟨_, exec_semadd hr hfree hreplay hruns, onlySem_bind_setSem ..⟩,
   fun _ _ _ _ hr hfree hreplay hruns => ⟨_, exec_semset hr hfree hreplay hruns, onlySem_bind_setSem ..⟩,
   fun _ _ _ _ _ hr hfree => exec_semrd hr hfree⟩

theorem semaphoreSatisfies : SemaphoreSatisfies := by
  intro p l r s hr hfree hreplay hruns
  refine ⟨_, exec_semset hr hfree hreplay hruns, ?_⟩
  rw [ldieAt_fired, ldieAt_bind]
  obtain ⟨f, hconts, hmarked⟩ := conts_setSem s s.cur.rid (addrDie l) (addrSem l) (r.extractLsb' 0 32)
  rw [hconts]
  refine ⟨fun k hk hidx hreached => ?_, fun k hk hsat => ⟨f k, List.mem_map_of_mem hk, ?_⟩⟩
  · obtain ⟨q, hq, rfl⟩ := List.mem_map.1 hk
    have hm := hmarked q
    cases hsat : q.satisfied with
    | true => exact hm.stays hsat
    | false => exact hm.reached q (mem_due.2 ⟨hq, hm.idx ▸ hidx, hsat, hm.thresh ▸ hreached⟩) rfl rfl
  · exact ⟨(hmarked k).core, (hmarked k).slot, (hmarked k).idx, (hmarked k).stays hsat⟩

/-- Settles O25: a change writes one semaphore (`semAt_setSem`), and every continuation stays in its place, marked where the new value
reaches its threshold (`conts_setSem`). -/
theorem semaphoreResults : Obligations.SemaphoreResults := ⟨semaphoresChange, semaphoreSatisfies⟩

end Sys2Proof.Semaphores
end

section
/-!
PROOF. What LPROBE reports (O20). The word is a sum of fields (`probeWord_of_local`, `probeWord_of_global`). Each field stays below the place of
the next, so that it reads back by arithmetic.
-/
open Sys2Proof Sys2Proof.Machine Sys2Proof.Claims

namespace Sys2Proof.Probes

open Sys2Proof.Scalars

/-! ### The fields of the word (R129) -/

/-- A check as a bit: whether it passes. -/
def passBit : Except Nat Unit → Nat
  | .ok () => 1
  | .error _ => 0

theorem passBit_eq_one {x : Except Nat Unit} : passBit x = 1 ↔ x = .ok () := by
  cases x <;> simp [passBit]

theorem passBit_le_one (x : Except Nat Unit) : passBit x ≤ 1 := by
  cases x <;> simp [passBit]

/-- A condition as a field of one bit: its place k where it holds. -/
def bitAt (k : Nat) (b : Bool) : Nat := if b = true then k else 0

theorem bitAt_eq (k : Nat) (b : Bool) : bitAt k b = k * b.toNat := by
  cases b <;> simp [bitAt]

/-- Bits 0 to 2 of the word. -/
def probeLow (s : State) (who : Who) (a : W64) : Nat :=
  passBit (translate s who a 1 1 .write storeSpaces) * 4 + passBit (translate s who a 1 1 .read loadSpaces) * 2 +
    bitAt 1 (isSpace (selector a) && zeroBitsOk a)

/-- A region of the core's task covers a byte. -/
def inRegion (s : State) (rid c x : Nat) : Bool :=
  match (coreAt s rid c).task with
  | some t => (taskRegions s rid t.rcd).any fun g => decide (g.base ≤ x) && decide (x < g.base + g.len)
  | none => false

/-- The word for an address of space 0x00 whose byte x lies in the extent e. -/
def probeGlobal (s : State) (rid c : Nat) (a : W64) (x : Nat) (e : Extent) : Nat :=
  (versionAt s (worldOf rid) x).toNat * 2 ^ 32 + bitAt 128 (decide (e.pins ≠ 0)) + bitAt 64 e.mig.isSome + e.tier % 4 * 16 +
    bitAt 8 (inRegion s rid c x) + probeLow s (whoTask s rid c) a

theorem probeWord_of_local {s : State} {rid c : Nat} {a : W64} (h : selector a ≠ 0) :
    probeWord s rid c a = BitVec.ofNat 64 (probeLow s (whoTask s rid c) a) := if_pos h

/-- The extent that the word describes. -/
def extentFor (s : State) (w x : Nat) : Extent :=
  ((extentAt s w x).map (·.2)).getD { world := 0, tier := 0, rd := false, wr := false, pins := 0, vbase := 0, pbase := 0, len := 0 }

theorem extentFor_of_extentAt {s : State} {w x n : Nat} {e : Extent} (h : extentAt s w x = some (n, e)) : extentFor s w x = e := by
  rw [extentFor, h]
  rfl

theorem probeWord_of_global {s : State} {rid c : Nat} {a : W64} (h : selector a = 0) :
    probeWord s rid c a =
      BitVec.ofNat 64 (probeGlobal s rid c a (a.toNat % 2 ^ 56) (extentFor s (worldOf rid) (a.toNat % 2 ^ 56))) := by
  refine (if_neg (not_not.2 h)).trans ?_
  simp only [probeGlobal, bitAt, decide_eq_true_eq]
  rfl

theorem inRegion_iff {s : State} {rid c x : Nat} : inRegion s rid c x = true ↔
    ∃ t, (coreAt s rid c).task = some t ∧ ∃ g ∈ taskRegions s rid t.rcd, g.base ≤ x ∧ x < g.base + g.len := by
  unfold inRegion
  cases (coreAt s rid c).task <;> simp

/-! ### The fields read back -/

theorem getLsbD_ofNat_word {n k : Nat} (hk : k < 64) : (BitVec.ofNat 64 n).getLsbD k = decide (n / 2 ^ k % 2 = 1) := by
  rw [BitVec.getLsbD_ofNat, Nat.testBit_eq_decide_div_mod_eq]
  simp [hk]

theorem decide_toNat (b : Bool) : decide (b.toNat = 1) = b := by cases b <;> rfl

/-- Bits 0 to 2 of a word whose other fields are eights. -/
theorem probeLow_bits {s : State} {who : Who} {a : W64} {n k : Nat} (h : n = 8 * k + probeLow s who a) :
    (BitVec.ofNat 64 n).getLsbD 0 = (isSpace (selector a) && zeroBitsOk a) ∧
    ((BitVec.ofNat 64 n).getLsbD 1 = true ↔ translate s who a 1 1 .read loadSpaces = .ok ()) ∧
    ((BitVec.ofNat 64 n).getLsbD 2 = true ↔ translate s who a 1 1 .write storeSpaces = .ok ()) := by
  have hr := passBit_le_one (translate s who a 1 1 .read loadSpaces)
  have hw := passBit_le_one (translate s who a 1 1 .write storeSpaces)
  have hv := Bool.toNat_le (isSpace (selector a) && zeroBitsOk a)
  rw [probeLow, bitAt_eq] at h
  rw [getLsbD_ofNat_word (by decide), getLsbD_ofNat_word (by decide), getLsbD_ofNat_word (by decide), decide_eq_true_iff,
    decide_eq_true_iff, ← passBit_eq_one, ← passBit_eq_one]
  refine ⟨?_, by omega, by omega⟩
  rw [← decide_toNat (isSpace (selector a) && zeroBitsOk a), decide_eq_decide]
  omega

theorem probeLow_lt (s : State) (who : Who) (a : W64) : probeLow s who a < 8 := by
  have hr := passBit_le_one (translate s who a 1 1 .read loadSpaces)
  have hw := passBit_le_one (translate s who a 1 1 .write storeSpaces)
  have hv := Bool.toNat_le (isSpace (selector a) && zeroBitsOk a)
  rw [probeLow, bitAt_eq]
  omega

theorem exec_lprobe {p : BitVec 2} {t : BitVec 9} {l r : W64} {s : State} (hr : Ready (.lprobe p t) l r s) :
    exec (.lprobe p t) s = .next (answer (.lprobe p t) (some (probeWord s s.cur.rid s.cur.core l)) s s) := by
  rw [exec_of_performs (act := fun s => .send s (probeWord s s.cur.rid s.cur.core l)) ⟨_, fun _ => rfl, fun _ => rfl⟩ hr, settled]

/-- The fields of the word of an address in an extent. -/
theorem probeGlobal_fields (s : State) (rid c : Nat) (a : W64) (x : Nat) (e : Extent) :
    ((BitVec.ofNat 64 (probeGlobal s rid c a x e)).getLsbD 3 = true ↔ inRegion s rid c x = true) ∧
    (BitVec.ofNat 64 (probeGlobal s rid c a x e)).toNat / 16 % 4 = e.tier % 4 ∧
    (BitVec.ofNat 64 (probeGlobal s rid c a x e)).getLsbD 6 = e.mig.isSome ∧
    ((BitVec.ofNat 64 (probeGlobal s rid c a x e)).getLsbD 7 = true ↔ e.pins ≠ 0) ∧
    (BitVec.ofNat 64 (probeGlobal s rid c a x e)).toNat / 256 % 2 ^ 24 = 0 ∧
    (BitVec.ofNat 64 (probeGlobal s rid c a x e)).toNat / 2 ^ 32 = (versionAt s (worldOf rid) x).toNat := by
  have hlow := probeLow_lt s (whoTask s rid c) a
  have hver := (versionAt s (worldOf rid) x).isLt
  have hreg := Bool.toNat_le (inRegion s rid c x)
  have hmig := Bool.toNat_le e.mig.isSome
  have hpin := Bool.toNat_le (decide (e.pins ≠ 0))
  have hsum := probeGlobal.eq_def s rid c a x e
  simp only [bitAt_eq] at hsum
  have hword : probeGlobal s rid c a x e < 2 ^ 64 := by omega
  rw [BitVec.toNat_ofNat, Nat.mod_eq_of_lt hword, getLsbD_ofNat_word (by decide), getLsbD_ofNat_word (by decide),
    getLsbD_ofNat_word (by decide), ← decide_toNat (inRegion s rid c x), ← decide_toNat e.mig.isSome,
    ← decide_eq_true_iff (p := e.pins ≠ 0), ← decide_toNat (decide (e.pins ≠ 0))]
  simp only [decide_eq_true_iff, decide_eq_decide]
  refine ⟨?_, ?_, ?_, ?_, ?_, ?_⟩ <;> omega

/-- The fields above bit 2 are eights. -/
theorem probeGlobal_eq (s : State) (rid c : Nat) (a : W64) (x : Nat) (e : Extent) :
    probeGlobal s rid c a x e = 8 * (probeGlobal s rid c a x e / 8) + probeLow s (whoTask s rid c) a := by
  have hlow := probeLow_lt s (whoTask s rid c) a
  have hsum := probeGlobal.eq_def s rid c a x e
  simp only [bitAt_eq] at hsum
  omega

/-- Settles O20: bits 0 to 2 stand below every other field (`probeLow_bits`), and in space 0x00 the fields of an extent stand apart
(`probeGlobal_fields`). -/
theorem probeWord : Obligations.ProbeWord := by
  intro p t l r s hr
  refine ⟨_, exec_lprobe hr, ?_⟩
  by_cases hsel : selector l = 0
  · obtain ⟨hspace, hread, hwrite⟩ := probeLow_bits
      (probeGlobal_eq s s.cur.rid s.cur.core l (l.toNat % 2 ^ 56) (extentFor s (worldOf s.cur.rid) (l.toNat % 2 ^ 56)))
    rw [probeWord_of_global hsel]
    refine ⟨hspace, hread, hwrite, fun h => absurd hsel h, fun n e _ he => ?_⟩
    rw [extentFor_of_extentAt he]
    obtain ⟨hregion, hfields⟩ := probeGlobal_fields s s.cur.rid s.cur.core l (l.toNat % 2 ^ 56) e
    exact ⟨hregion.trans inRegion_iff, hfields⟩
  · rw [probeWord_of_local hsel]
    obtain ⟨hspace, hread, hwrite⟩ := probeLow_bits (s := s) (who := actor s) (a := l) (k := 0) (by rw [Nat.mul_zero, Nat.zero_add])
    refine ⟨hspace, hread, hwrite, fun _ => ?_, fun n d h => absurd h hsel⟩
    have hlow := probeLow_lt s (actor s) l
    rw [BitVec.toNat_ofNat]
    exact lt_of_le_of_lt (Nat.mod_le ..) hlow

end Sys2Proof.Probes
end

section
/-!
PROOF. Stores (O17, O18). A store comes to `storePieces` of its pieces (`exec_store`). In the scratchpad no later task can have read what it
writes, so that the pieces are plain writes; elsewhere they go into the commit buffer, one line at a time.
-/
open Sys2Proof Sys2Proof.Machine Sys2Proof.Claims

namespace Sys2Proof.Accesses

open Sys2Proof.Scalars

/-! ### What a change leaves unchanged -/

/-- A part of the state that no change of a core touches is not touched by a change of its running block. -/
theorem part_modRun {α : Type} (π : State → α) (hπ : ∀ s rid c f, π (modCore s rid c f) = π s) (s : State) (rid c : Nat)
    (f : BlockRun → BlockRun) : π (modRun s rid c f) = π s := by
  unfold modRun
  split
  · exact hπ ..
  · rfl

theorem part_writeKeys {α : Type} (π : State → α) (hπ : ∀ s k b, π (writeKey s k b) = π s) (bs : List Byte) (s : State) (k : Nat) :
    π (writeKeys s k bs) = π s := by
  induction bs generalizing s k with
  | nil => rfl
  | cons b bs ih => rw [writeKeys, ih, hπ]

/-- Binding a block and firing its slot change nothing of a core but its phase. -/
theorem coreAt_bind (s : State) (rid c q d : Nat) : ∃ p, coreAt (Machine.bind s rid c) q d = { coreAt s q d with phase := p } :=
  coreAt_modRun ..

theorem coreAt_fired (s u : State) (q d : Nat) : ∃ p, coreAt (fired s u) q d = { coreAt u q d with phase := p } := coreAt_modRun ..

@[simp] theorem readKey_bind (s : State) (rid c x : Nat) : readKey (Machine.bind s rid c) x = readKey s x := readKey_modRun ..

@[simp] theorem readKey_fired (s u : State) (x : Nat) : readKey (fired s u) x = readKey u x := readKey_modRun ..

/-! ### A store and its pieces (R112 to R114) -/

theorem width_bytes (y : BitVec 4) : widthOf y = 8 * (widthOf y / 8) := by revert y; decide

theorem width_lanes (y : BitVec 4) : 1024 / widthOf y = 128 / (widthOf y / 8) := by revert y; decide

theorem width_pow (y : BitVec 4) : ∃ k ≤ 3, widthOf y / 8 = 2 ^ k := by revert y; decide

theorem bytesOfType_eq (y : BitVec 4) : bytesOfType y = widthOf y / 8 := by rw [bytesOfType]

/-- Where every part passes its checks, no element of a vector access fails at the core. -/
theorem checkAll_of_pass {s : State} {who : Who} {n : Nat} {acc : Acc} {allow : List Nat} {as : List W64}
    (h : ∀ a ∈ as, checkLocal s who a n n allow = .ok ()) : checkAll s who n n acc allow as = none := by
  refine List.findSome?_eq_none_iff.2 fun k hk => ?_
  have hlen : k < as.length := List.mem_range.1 hk
  simp only [List.getElem?_eq_getElem hlen, Option.getD_some, h _ (List.getElem_mem hlen)]

/-- The pieces of an STVS are its elements at their strided addresses. -/
theorem strided_pieces (a b : W64) (y : BitVec 4) (x : Nat) :
    ((List.range (strided a b (widthOf y / 8)).length).map fun i =>
      ((strided a b (widthOf y / 8))[i]?.getD 0, bytesOf (widthOf y / 8) (x / 256 ^ (widthOf y / 8 * i)))) =
    (List.range (1024 / widthOf y)).map fun k =>
      (addrPlus a (Int.ofNat k * b.toInt), bytesOf (widthOf y / 8) (x / 2 ^ (widthOf y * k))) := by
  have hlen : (strided a b (widthOf y / 8)).length = 1024 / widthOf y := by
    rw [strided, List.length_map, List.length_range, width_lanes]
  rw [hlen]
  refine List.map_congr_left fun k hk => ?_
  have hin : k < 128 / (widthOf y / 8) := by rw [← width_lanes]; exact List.mem_range.1 hk
  have hplace : 256 ^ (widthOf y / 8 * k) = 2 ^ (widthOf y * k) := by
    conv => rhs; rw [width_bytes y]
    rw [show 256 = 2 ^ 8 from rfl, ← Nat.pow_mul, Nat.mul_assoc]
  rw [hplace, strided, List.getElem?_map, List.getElem?_range hin, Option.map_some, Option.getD_some]

/-- A store whose pieces pass the checks made at the core comes to `issueStore`. -/
theorem performs_of_storeOf {i : Instr} {l r : W64} {s : State} {ps : List (W64 × List Byte)} (h : storeOf i l r s = some ps)
    (hp : allPass s [0, 0xF0, 0xF1, 0xF2] (ps.map fun p => (p.1, p.2.length))) :
    ∃ act, Performs i l r act ∧ act s = issueStore s ps := by
  unfold storeOf at h
  split at h
  case h_4 => cases h
  all_goals
    cases h
    refine ⟨_, ⟨_, fun _ => rfl, fun _ => rfl⟩, ?_⟩
  case h_1 p y d => -- ST
    have hok : checkLocal s (actor s) (addrPlus l d.toInt) (widthOf y / 8) (widthOf y / 8) storeSpaces = .ok () :=
      hp (addrPlus l d.toInt, widthOf y / 8) (by simp)
    rw [actor] at hok
    rw [← bytesOfType_eq] at hok ⊢
    simp only [hok]
  case h_2 p v d => -- STV
    have hok : checkLocal s (actor s) (addrPlus l (128 * d.toInt)) 128 128 storeSpaces = .ok () :=
      hp (addrPlus l (128 * d.toInt), 128) (by simp)
    rw [actor] at hok
    simp only [hok, coreHere]
  case h_3 p y v => -- STVS
    have hok : checkAll s (actor s) (widthOf y / 8) (widthOf y / 8) .write storeSpaces (strided l r (widthOf y / 8)) = none := by
      refine checkAll_of_pass fun a ha => ?_
      refine hp (a, widthOf y / 8) ?_
      rw [strided, ← width_lanes] at ha
      obtain ⟨k, hk, rfl⟩ := List.mem_map.1 ha
      exact List.mem_map.2 ⟨(_, _), List.mem_map.2 ⟨k, hk, rfl⟩, by rw [length_bytesOf]⟩
    rw [actor] at hok
    rw [← strided_pieces]
    rw [← bytesOfType_eq] at hok ⊢
    simp only [hok, coreHere]

/-- A store that can issue comes to what `storePieces` answers for its pieces. -/
theorem exec_store {i : Instr} {l r : W64} {s : State} {ps : List (W64 × List Byte)} (h : storeOf i l r s = some ps)
    (hr : Ready i l r s) (hp : allPass s [0, 0xF0, 0xF1, 0xF2] (ps.map fun p => (p.1, p.2.length))) :
    exec i s = .next (settled i s (ofStore (storePieces s s.cur.rid s.cur.core ps))) := by
  obtain ⟨act, hperforms, hact⟩ := performs_of_storeOf h hp
  rw [exec_of_performs hperforms hr, hact, issueStore]

/-- A piece of a store is a power of two of bytes long, at most 128. -/
theorem length_of_storeOf {i : Instr} {l r : W64} {s : State} {ps : List (W64 × List Byte)} (h : storeOf i l r s = some ps)
    {p : W64 × List Byte} (hp : p ∈ ps) : ∃ k ≤ 7, p.2.length = 2 ^ k := by
  unfold storeOf at h
  split at h <;> cases h
  case h_1 q y d => -- ST
    obtain ⟨k, hk, hw⟩ := width_pow y
    exact ⟨k, by omega, by rw [List.mem_singleton.1 hp, length_bytesOf, hw]⟩
  case h_2 q v d => -- STV
    exact ⟨7, by decide, by rw [List.mem_singleton.1 hp, length_bytesOf]; rfl⟩
  case h_3 q y v => -- STVS
    obtain ⟨k, hk, hw⟩ := width_pow y
    obtain ⟨j, _, rfl⟩ := List.mem_map.1 hp
    exact ⟨k, by omega, by rw [length_bytesOf, hw]⟩

/-! ### Stores in the scratchpad (R106, R107) -/

theorem homeOf_of_scratch {s : State} {who : Who} {a : W64} (h : selector a = 0xF0) : homeOf s who a = .scr who.rid who.core (addrOff a) := by
  simp only [homeOf, h]

theorem lineOf_of_scratch {s : State} {who : Who} {a : W64} (h : selector a = 0xF0) : lineOf s who a = none := by
  simp only [lineOf, h]

theorem conflicts_of_scratch {s : State} {who : Who} {a : W64} (n : Nat) (writes : List Region) (o : Outst) (h : selector a = 0xF0) :
    conflicts s who a n writes o = false := by
  rw [conflicts, h]
  simp only [lineOf_of_scratch h]

/-- No task reads another's scratchpad: a write there aborts none (R136, R160). -/
theorem orderedWrite_of_scratch {s : State} {who : Who} {a : W64} (uid n : Nat) (h : selector a = 0xF0) :
    orderedWrite s who uid a n = s := by
  unfold orderedWrite
  split
  · rfl
  · simp only [conflicts_of_scratch _ _ _ h, Bool.and_false, List.filter_false, List.foldl_nil]

theorem performWrite_of_scratch {s : State} {who : Who} {a : W64} (uid : Nat) (bs : List Byte) (h : selector a = 0xF0) :
    performWrite s who uid a bs = writeKeys s (Place.key (.scr who.rid who.core (addrOff a))) bs := by
  simp only [performWrite, homeOf_of_scratch h, bumpRange, noteHbm, orderedWrite_of_scratch _ _ h]

/-- The bytes of every piece at its place in the scratchpad of the cursor's core, piece after piece. -/
def scratchWrites (s : State) (ps : List (W64 × List Byte)) : State :=
  ps.foldl (fun u p => writeKeys u (Place.key (.scr u.cur.rid u.cur.core (addrOff p.1))) p.2) s

theorem foldl_performWrite_of_scratch {who : Who} (uid : Nat) {ps : List (W64 × List Byte)} (h : ∀ p ∈ ps, selector p.1 = 0xF0) {s : State}
    (hrid : who.rid = s.cur.rid) (hcore : who.core = s.cur.core) :
    ps.foldl (fun s p => performWrite s who uid p.1 p.2) s = scratchWrites s ps := by
  induction ps generalizing s with
  | nil => rfl
  | cons p ps ih =>
    obtain ⟨hp, hps⟩ := List.forall_mem_cons.1 h
    rw [scratchWrites, List.foldl_cons, List.foldl_cons, performWrite_of_scratch _ _ hp, hrid, hcore]
    exact ih hps (by rwa [cur_writeKeys]) (by rwa [cur_writeKeys])

theorem storePieces_of_scratch {s : State} {b : BlockRun} {t : Task} {ps : List (W64 × List Byte)} (hb : here s = some b)
    (ht : (coreHere s).task = some t) (hs : ∀ p ∈ ps, selector p.1 = 0xF0) (hl : lookupsBelow b s.cur.slot = false) :
    storePieces s s.cur.rid s.cur.core ps = .done (bind (scratchWrites s ps) s.cur.rid s.cur.core) := by
  have hrun : runOf s s.cur.rid s.cur.core = some b := hb
  have htask : (coreAt s s.cur.rid s.cur.core).task = some t := ht
  have hall : (ps.all fun p => selector p.1 == 0xF0) = true := List.all_eq_true.2 fun p hp => beq_iff_eq.2 (hs p hp)
  simp only [storePieces, hrun, htask, hall, if_true, hl, Bool.false_eq_true, if_false,
    foldl_performWrite_of_scratch (who := whoTask s s.cur.rid s.cur.core) t.uid hs rfl rfl]

theorem scratchStores : ScratchStores := by
  intro i l r s ps b t hst hr hb ht hp hs hl
  rw [exec_store hst hr hp, storePieces_of_scratch hb ht hs hl, ofStore, settled, scratchWrites]

/-! ### The frame of a store in the scratchpad -/

/-- A part of the state that neither bytes of memory nor a core belong to is as before a store in the scratchpad. -/
theorem part_stored {α : Type} (π : State → α) (hcore : ∀ s rid c f, π (modCore s rid c f) = π s)
    (hmem : ∀ s k b, π (writeKey s k b) = π s)
    (s : State) (k : Nat) (bs : List Byte) : π (fired s (Machine.bind (writeKeys s k bs) s.cur.rid s.cur.core)) = π s :=
  (part_modRun π hcore ..).trans ((part_modRun π hcore ..).trans (part_writeKeys π hmem ..))

theorem scratchStoreFrame : ScratchStoreFrame := by
  intro i l r s ea bs b t hst hwf hr hb ht hp hs hl
  have hscr : ∀ p ∈ [(ea, bs)], selector p.1 = 0xF0 := fun p h => by rw [List.mem_singleton.1 h]; exact hs
  have hexec : exec i s = .next (fired s (Machine.bind
      (writeKeys s (Place.key (.scr s.cur.rid s.cur.core (addrOff ea))) bs) s.cur.rid s.cur.core)) :=
    scratchStores i l r s [(ea, bs)] b t hst hr hb ht hp hscr hl
  refine ⟨_, hexec, fun j hj => ?_, fun x hx => ?_, fun rid c => ?_, ?_⟩
  · rw [readKey_fired, readKey_bind]
    exact readKey_writeKeys_in bs hwf hj
  · rw [readKey_fired, readKey_bind]
    exact readKey_writeKeys_other bs hx
  · obtain ⟨p, hfired⟩ := coreAt_fired s (Machine.bind (writeKeys s (Place.key (.scr s.cur.rid s.cur.core (addrOff ea))) bs)
      s.cur.rid s.cur.core) rid c
    obtain ⟨q, hbound⟩ := coreAt_bind (writeKeys s (Place.key (.scr s.cur.rid s.cur.core (addrOff ea))) bs) s.cur.rid s.cur.core rid c
    rw [hfired, hbound, coreAt_writeKeys]
    exact ⟨rfl, rfl, rfl, rfl, rfl, rfl⟩
  · exact ⟨part_stored State.worlds (fun _ _ _ _ => rfl) (fun _ _ _ => rfl) ..,
      part_stored State.dies (fun _ _ _ _ => rfl) (fun _ _ _ => rfl) ..,
      part_stored State.lanes (fun _ _ _ _ => rfl) (fun _ _ _ => rfl) ..,
      part_stored State.versions (fun _ _ _ _ => rfl) (fun _ _ _ => rfl) ..⟩

end Sys2Proof.Accesses
end

section
/-!
PROOF. The lines of a commit buffer (O17, O18): byte by byte, what the mask and the data of some bytes are, what a merge makes of a line, and
what a list of entries holds of an address.
-/
open Sys2Proof Sys2Proof.Machine Sys2Proof.Claims

namespace Sys2Proof.Accesses

/-! ### Masks and data byte by byte (R105) -/

theorem pow_256 (k : Nat) : 256 ^ k = 2 ^ (8 * k) := by rw [show 256 = 2 ^ 8 from rfl, ← Nat.pow_mul]

theorem getLsbD_lineMask {off n i : Nat} (hi : i < 64) : (lineMask off n).getLsbD i = decide (off ≤ i ∧ i < off + n) := by
  rw [lineMask, BitVec.getLsbD_ofNat, Nat.testBit_mul_two_pow, Nat.testBit_two_pow_sub_one, decide_eq_true hi, Bool.true_and,
    ← Bool.decide_and, decide_eq_decide]
  omega

/-- A byte of a number as the line that holds it gives it. -/
theorem byte_ofNat (x : Nat) {i : Nat} (hi : i < 64) : (BitVec.ofNat 512 x).extractLsb' (8 * i) 8 = BitVec.ofNat 8 (x / 256 ^ i) := by
  refine BitVec.eq_of_getLsbD_eq fun k hk => ?_
  have hin : 8 * i + k < 512 := by omega
  rw [BitVec.getLsbD_extractLsb', BitVec.getLsbD_ofNat, BitVec.getLsbD_ofNat, pow_256, Nat.testBit_div_two_pow, Nat.add_comm k]
  simp [hk, hin]

theorem byte_not (x : BitVec 512) {i : Nat} (hi : i < 64) : (~~~x).extractLsb' (8 * i) 8 = ~~~(x.extractLsb' (8 * i) 8) := by
  refine BitVec.eq_of_getLsbD_eq fun k hk => ?_
  have hin : 8 * i + k < 512 := by omega
  rw [BitVec.getLsbD_extractLsb', BitVec.getLsbD_not, BitVec.getLsbD_not, BitVec.getLsbD_extractLsb']
  simp [hk, hin]

theorem natOf_div (bs : List Byte) (k : Nat) : natOf bs / 256 ^ k = natOf (bs.drop k) := by
  induction bs generalizing k with
  | nil => simp [natOf]
  | cons b bs ih =>
    cases k with
    | zero => simp
    | succ k =>
      have hb : (b.toNat + 256 * natOf bs) / 256 = natOf bs := by have := b.isLt; omega
      rw [natOf, Nat.pow_succ', ← Nat.div_div_eq_div_mul, hb, ih, List.drop_succ_cons]

theorem ofNat_natOf (bs : List Byte) : BitVec.ofNat 8 (natOf bs) = bs.head?.getD 0 := by
  cases bs with
  | nil => rfl
  | cons b bs =>
    apply BitVec.eq_of_toNat_eq
    have := b.isLt
    simp [natOf]
    omega

/-- The data of bytes from an offset on holds them there, and zero elsewhere. -/
theorem byte_lineData {off i : Nat} (bs : List Byte) (hi : i < 64) :
    (lineData off bs).extractLsb' (8 * i) 8 = if off ≤ i then bs[i - off]?.getD 0 else 0 := by
  rw [lineData, byte_ofNat _ hi]
  split
  · next h =>
    have hsplit : 256 ^ i = 256 ^ off * 256 ^ (i - off) := by rw [← Nat.pow_add]; congr 1; omega
    rw [hsplit, ← Nat.div_div_eq_div_mul, Nat.mul_div_cancel _ (by positivity), natOf_div, ofNat_natOf, List.head?_drop]
  · next h =>
    have hsplit : 256 ^ off = 256 ^ i * (256 * 256 ^ (off - i - 1)) := by
      rw [← Nat.pow_succ', ← Nat.pow_add]; congr 1; omega
    rw [hsplit, Nat.mul_left_comm, Nat.mul_div_cancel_left _ (by positivity), Nat.mul_left_comm]
    apply BitVec.eq_of_toNat_eq
    rw [BitVec.toNat_ofNat]
    exact Nat.mul_mod_right ..

/-- The sum that a mask's bytes below a place come to. -/
def maskSum (m : BitVec 64) (n : Nat) : Nat := (List.range n).foldl (fun v i => if m.getLsbD i then v + 255 * 256 ^ i else v) 0

theorem maskSum_succ (m : BitVec 64) (n : Nat) : maskSum m (n + 1) = if m.getLsbD n then maskSum m n + 255 * 256 ^ n else maskSum m n := by
  rw [maskSum, List.range_succ, List.foldl_append]
  rfl

theorem maskSum_lt (m : BitVec 64) (n : Nat) : maskSum m n < 256 ^ n := by
  induction n with
  | zero => exact Nat.one_pos
  | succ n ih =>
    rw [maskSum_succ, Nat.pow_succ]
    split <;> omega

theorem byte_maskSum (m : BitVec 64) {n i : Nat} (hi : i < n) : maskSum m n / 256 ^ i % 256 = if m.getLsbD i then 255 else 0 := by
  induction n with
  | zero => omega
  | succ n ih =>
    have hlt := maskSum_lt m n
    rw [maskSum_succ]
    rcases Nat.lt_succ_iff_lt_or_eq.1 hi with h | rfl
    · have hsplit : 256 ^ n = 256 ^ i * (256 * 256 ^ (n - i - 1)) := by
        rw [← Nat.pow_succ', ← Nat.pow_add]; congr 1; omega
      rw [← ih h]
      split
      · rw [hsplit, Nat.mul_left_comm, Nat.add_mul_div_left _ _ (by positivity), Nat.mul_left_comm, Nat.add_mul_mod_self_left]
      · rfl
    · split
      · rw [Nat.add_mul_div_right _ _ (by positivity), Nat.div_eq_of_lt hlt]
      · rw [Nat.div_eq_of_lt hlt]

theorem byte_bitMask (m : BitVec 64) {i : Nat} (hi : i < 64) : (bitMask m).extractLsb' (8 * i) 8 = if m.getLsbD i then 255 else 0 := by
  have hbyte := byte_maskSum m hi
  change (BitVec.ofNat 512 (maskSum m 64)).extractLsb' (8 * i) 8 = _
  rw [byte_ofNat _ hi]
  apply BitVec.eq_of_toNat_eq
  rw [BitVec.toNat_ofNat, hbyte]
  split <;> rfl

/-- A byte of a line after bytes were put over it: theirs where the mask names it, else the line's own. -/
theorem byte_merge {off i : Nat} (d : BitVec 512) (bs : List Byte) (hi : i < 64) :
    ((d &&& ~~~ (bitMask (lineMask off bs.length))) ||| lineData off bs).extractLsb' (8 * i) 8 =
      if off ≤ i ∧ i < off + bs.length then bs[i - off]?.getD 0 else d.extractLsb' (8 * i) 8 := by
  rw [BitVec.extractLsb'_or, BitVec.extractLsb'_and, byte_not _ hi, byte_bitMask _ hi, byte_lineData _ hi, getLsbD_lineMask hi]
  by_cases h : off ≤ i ∧ i < off + bs.length
  · obtain ⟨hlo, hhi⟩ := h
    simp [hlo, hhi]
  · rw [decide_eq_false h, if_neg Bool.false_ne_true, if_neg h]
    have hnone : (if off ≤ i then bs[i - off]?.getD 0 else 0) = 0#8 := by
      split
      · rw [List.getElem?_eq_none (by omega)]
        rfl
      · rfl
    rw [hnone, BitVec.or_zero]
    exact BitVec.and_allOnes

/-! ### What entries hold of an address (R107) -/

theorem lineAddr_eq_iff {a x : W64} : lineAddr a = lineAddr x ↔ a.toNat / 64 = x.toNat / 64 := by
  have ha := a.isLt
  have hx := x.isLt
  rw [lineAddr, lineAddr, ← BitVec.toNat_inj, BitVec.toNat_ofNat, BitVec.toNat_ofNat, Nat.mod_eq_of_lt (by omega), Nat.mod_eq_of_lt (by omega)]
  omega

theorem lineAddr_lineAddr (a : W64) : lineAddr (lineAddr a) = lineAddr a := by
  have ha := a.isLt
  rw [lineAddr_eq_iff, lineAddr, BitVec.toNat_ofNat, Nat.mod_eq_of_lt (by omega)]
  omega

/-- The byte that a store's entry holds of an address. -/
def lineHolds (e : Entry) (x : W64) : Option Byte :=
  match e.kind with
  | .line m d =>
    if lineAddr e.addr == lineAddr x && m.getLsbD (x.toNat % 64) then some (d.extractLsb' (8 * (x.toNat % 64)) 8) else none
  | _ => none

/-- The newest byte that the entries of a task hold of an address. -/
def heldByte (uid : Nat) (es : List Entry) (x : W64) : Option Byte :=
  (es.filter fun e => e.task == uid).foldl (fun acc e => (lineHolds e x).or acc) none

theorem foldl_or {α β : Type} (f : α → Option β) (l : List α) (a : Option β) :
    l.foldl (fun acc x => (f x).or acc) a = (l.foldl (fun acc x => (f x).or acc) none).or a := by
  induction l generalizing a with
  | nil => rfl
  | cons x l ih => rw [List.foldl_cons, List.foldl_cons, ih, ih ((f x).or none), Option.or_none, Option.or_assoc]

theorem heldByte_append (uid : Nat) (xs ys : List Entry) (x : W64) : heldByte uid (xs ++ ys) x = (heldByte uid ys x).or (heldByte uid xs x) := by
  rw [heldByte, List.filter_append, List.foldl_append, foldl_or]
  rfl

theorem heldByte_cons {uid : Nat} {e : Entry} (ys : List Entry) (x : W64) (he : e.task = uid) :
    heldByte uid (e :: ys) x = (heldByte uid ys x).or (lineHolds e x) := by
  rw [heldByte, List.filter_cons_of_pos (by simpa using he), List.foldl_cons, foldl_or, Option.or_none]
  rfl

theorem meets_one_iff {x a n : Nat} : meets x 1 a n = true ↔ a ≤ x ∧ x < a + n := by
  rw [meets, Bool.and_eq_true, decide_eq_true_iff, decide_eq_true_iff]
  omega

/-- The bytes at a over what was known of an address x. -/
def overlay (a : W64) (bs : List Byte) (x : W64) (old : Option Byte) : Option Byte :=
  if meets x.toNat 1 a.toNat bs.length then bs[x.toNat - a.toNat]? else old

theorem overlay_of_in {a x : W64} {bs : List Byte} (old : Option Byte) (h : a.toNat ≤ x.toNat ∧ x.toNat < a.toNat + bs.length) :
    overlay a bs x old = bs[x.toNat - a.toNat]? := if_pos (meets_one_iff.2 h)

theorem overlay_of_out {a x : W64} {bs : List Byte} (old : Option Byte) (h : ¬(a.toNat ≤ x.toNat ∧ x.toNat < a.toNat + bs.length)) :
    overlay a bs x old = old := if_neg fun hm => h (meets_one_iff.1 hm)

/-- A line that takes bytes in holds them over its own. -/
theorem lineHolds_merged {e : Entry} {m0 : BitVec 64} {d0 : BitVec 512} {a : W64} {bs : List Byte} (x : W64) (hk : e.kind = .line m0 d0)
    (hline : lineAddr e.addr = lineAddr a) (hfit : a.toNat % 64 + bs.length ≤ 64) :
    lineHolds (merged e m0 d0 a bs) x = overlay a bs x (lineHolds e x) := by
  have hmod : x.toNat % 64 < 64 := Nat.mod_lt _ (by decide)
  simp only [lineHolds, merged, hk, hline, BitVec.getLsbD_or, getLsbD_lineMask hmod, byte_merge d0 bs hmod]
  by_cases hin : a.toNat ≤ x.toNat ∧ x.toNat < a.toNat + bs.length
  · have hsame : lineAddr a = lineAddr x := lineAddr_eq_iff.2 (by omega)
    have hoff : a.toNat % 64 ≤ x.toNat % 64 ∧ x.toNat % 64 < a.toNat % 64 + bs.length := by omega
    have hdiff : x.toNat % 64 - a.toNat % 64 = x.toNat - a.toNat := by omega
    have hlen : x.toNat - a.toNat < bs.length := by omega
    rw [overlay_of_in _ hin, if_pos hoff, decide_eq_true hoff, hdiff, List.getElem?_eq_getElem hlen]
    simp [hsame]
  · rw [overlay_of_out _ hin]
    by_cases hsame : lineAddr a = lineAddr x
    · have hdiv := lineAddr_eq_iff.1 hsame
      have hoff : ¬(a.toNat % 64 ≤ x.toNat % 64 ∧ x.toNat % 64 < a.toNat % 64 + bs.length) := by omega
      rw [if_neg hoff, decide_eq_false hoff, Bool.or_false]
    · simp [hsame]

/-- A new line of bytes holds them. -/
theorem lineHolds_new {e : Entry} {a : W64} {bs : List Byte} (x : W64)
    (hk : e.kind = .line (lineMask (a.toNat % 64) bs.length) (lineData (a.toNat % 64) bs))
    (hline : lineAddr e.addr = lineAddr a) (hfit : a.toNat % 64 + bs.length ≤ 64) : lineHolds e x = overlay a bs x none := by
  have hmod : x.toNat % 64 < 64 := Nat.mod_lt _ (by decide)
  simp only [lineHolds, hk, hline, getLsbD_lineMask hmod, byte_lineData bs hmod]
  by_cases hin : a.toNat ≤ x.toNat ∧ x.toNat < a.toNat + bs.length
  · have hsame : lineAddr a = lineAddr x := lineAddr_eq_iff.2 (by omega)
    have hoff : a.toNat % 64 ≤ x.toNat % 64 ∧ x.toNat % 64 < a.toNat % 64 + bs.length := by omega
    have hdiff : x.toNat % 64 - a.toNat % 64 = x.toNat - a.toNat := by omega
    have hlen : x.toNat - a.toNat < bs.length := by omega
    rw [overlay_of_in _ hin, decide_eq_true hoff, if_pos hoff.1, hdiff, List.getElem?_eq_getElem hlen]
    simp [hsame]
  · rw [overlay_of_out _ hin]
    by_cases hsame : lineAddr a = lineAddr x
    · have hdiv := lineAddr_eq_iff.1 hsame
      have hoff : ¬(a.toNat % 64 ≤ x.toNat % 64 ∧ x.toNat % 64 < a.toNat % 64 + bs.length) := by omega
      simp [hoff]
    · simp [hsame]

theorem or_overlay (a : W64) (bs : List Byte) (x : W64) (o p : Option Byte) :
    (overlay a bs x o).or p = overlay a bs x (o.or p) := by
  by_cases hin : a.toNat ≤ x.toNat ∧ x.toNat < a.toNat + bs.length
  · have hlen : x.toNat - a.toNat < bs.length := by omega
    rw [overlay_of_in _ hin, overlay_of_in _ hin, List.getElem?_eq_getElem hlen, Option.some_or]
  · rw [overlay_of_out _ hin, overlay_of_out _ hin]

/-- No entry that a task made later than one of its lines holds a byte there. -/
theorem heldByte_of_spawns {uid : Nat} {a x : W64} {ys : List Entry}
    (h : ∀ y ∈ ys, y.task = uid → lineAddr y.addr = lineAddr a → ∃ r, y.kind = .spawn r) (hx : lineAddr x = lineAddr a) :
    heldByte uid ys x = none := by
  induction ys with
  | nil => rfl
  | cons y ys ih =>
    obtain ⟨hy, hys⟩ := List.forall_mem_cons.1 h
    by_cases ht : y.task = uid
    · rw [heldByte_cons _ _ ht, ih hys, Option.none_or]
      by_cases hl : lineAddr y.addr = lineAddr a
      · obtain ⟨r, hr⟩ := hy ht hl
        simp only [lineHolds, hr]
      · unfold lineHolds
        split
        · exact if_neg (by simp [hx, hl])
        · rfl
    · rw [heldByte, List.filter_cons_of_neg (by simpa using ht)]
      exact ih hys

/-- Bytes that go into the newest entry of their line are held over what was held before. -/
theorem heldByte_merged {t : Task} {b : BlockRun} {a : W64} {bs : List Byte} {e : Entry} {m0 : BitVec 64} {d0 : BitVec 512} (xs : List Entry)
    {ys : List Entry} (x : W64) (hm : mergesInto t b a e ys) (hk : e.kind = .line m0 d0) (hfit : a.toNat % 64 + bs.length ≤ 64) :
    heldByte t.uid (xs ++ merged e m0 d0 a bs :: ys) x = overlay a bs x (heldByte t.uid (xs ++ e :: ys) x) := by
  obtain ⟨htask, _, hline, hlast⟩ := hm
  have htask' : (merged e m0 d0 a bs).task = t.uid := htask
  rw [heldByte_append, heldByte_append, heldByte_cons _ _ htask, heldByte_cons _ _ htask', lineHolds_merged x hk hline hfit]
  by_cases hin : a.toNat ≤ x.toNat ∧ x.toNat < a.toNat + bs.length
  · rw [heldByte_of_spawns hlast (lineAddr_eq_iff.2 (by omega)), Option.none_or, Option.none_or, or_overlay]
  · rw [overlay_of_out _ hin, overlay_of_out _ hin]

/-- Bytes that take an entry of their own are held over what was held before. -/
theorem heldByte_new {uid : Nat} {a : W64} {bs : List Byte} {e : Entry} (es : List Entry) (x : W64) (htask : e.task = uid)
    (hk : e.kind = .line (lineMask (a.toNat % 64) bs.length) (lineData (a.toNat % 64) bs))
    (hline : lineAddr e.addr = lineAddr a) (hfit : a.toNat % 64 + bs.length ≤ 64) :
    heldByte uid (es ++ [e]) x = overlay a bs x (heldByte uid es x) := by
  rw [heldByte_append, heldByte_cons _ _ htask, lineHolds_new x hk hline hfit, heldByte, List.filter_nil, List.foldl_nil, Option.none_or, or_overlay,
    Option.none_or]

/-! ### Where bytes are merged (R105) -/

theorem findIx_append {α : Type} {p : α → Bool} {xs : List α} {e : α} (ys : List α) (hxs : ∀ x ∈ xs, p x = false) (he : p e = true) :
    findIx p (xs ++ e :: ys) = some (xs.length, e) := by
  induction xs with
  | nil => simp [findIx, he]
  | cons x xs ih =>
    obtain ⟨hx, hxs⟩ := List.forall_mem_cons.1 hxs
    simp [findIx, hx, ih hxs]

theorem findIx_cases {α : Type} (p : α → Bool) (l : List α) :
    findIx p l = none ∨ ∃ xs e ys, l = xs ++ e :: ys ∧ (∀ x ∈ xs, p x = false) ∧ p e = true := by
  induction l with
  | nil => exact .inl rfl
  | cons x l ih =>
    cases hx : p x with
    | true => exact .inr ⟨[], x, l, rfl, by simp, hx⟩
    | false =>
      rcases ih with h | ⟨xs, e, ys, rfl, hxs, he⟩
      · exact .inl (by simp [findIx, hx, h])
      · exact .inr ⟨x :: xs, e, ys, rfl, List.forall_mem_cons.2 ⟨hx, hxs⟩, he⟩

theorem modAt_append {α : Type} (f : α → α) (xs : List α) (e : α) (ys : List α) :
    modAt (xs ++ e :: ys) xs.length f = xs ++ f e :: ys := by
  induction xs with
  | nil => rfl
  | cons x xs ih => simp [modAt, ih]

/-- An entry of a task for the line of an address, no deferred spawn. -/
def onLine (uid : Nat) (a : W64) (e : Entry) : Bool :=
  e.task == uid && lineAddr e.addr == lineAddr a && (match e.kind with
    | .spawn _ => false
    | _ => true)

theorem onLine_eq_false {uid : Nat} {a : W64} {e : Entry} :
    onLine uid a e = false ↔ (e.task = uid → lineAddr e.addr = lineAddr a → ∃ r, e.kind = .spawn r) := by
  unfold onLine
  cases e.kind <;> simp

theorem onLine_of_line {uid : Nat} {a : W64} {e : Entry} {m : BitVec 64} {d : BitVec 512} (hk : e.kind = .line m d) (ht : e.task = uid)
    (hl : lineAddr e.addr = lineAddr a) : onLine uid a e = true := by
  simp [onLine, hk, ht, hl]

theorem mergeLine_eq (es : List Entry) (uid blk : Nat) (a : W64) (m : BitVec 64) (d : BitVec 512) :
    mergeLine es uid blk a m d = match findIx (onLine uid a) es.reverse with
      | some (ix, e) =>
        match e.kind with
        | .line m0 d0 =>
          if e.blk = blk then
            some (modAt es.reverse ix fun e => { e with kind := .line (m0 ||| m) ((d0 &&& ~~~ (bitMask m)) ||| d) }).reverse
          else none
        | _ => none
      | none => none := rfl

/-- Bytes merge into the newest entry of their line where a store of their block made it. -/
theorem mergeLine_of_mergesInto {t : Task} {b : BlockRun} {a : W64} {e : Entry} {m0 : BitVec 64} {d0 : BitVec 512} (xs : List Entry)
    {ys : List Entry} (bs : List Byte) (hm : mergesInto t b a e ys) (hk : e.kind = .line m0 d0) :
    mergeLine (xs ++ e :: ys) t.uid b.id a (lineMask (a.toNat % 64) bs.length) (lineData (a.toNat % 64) bs) =
      some (xs ++ merged e m0 d0 a bs :: ys) := by
  obtain ⟨htask, hblk, hline, hlast⟩ := hm
  have hrev : (xs ++ e :: ys).reverse = ys.reverse ++ e :: xs.reverse := by simp
  have hfind : findIx (onLine t.uid a) (xs ++ e :: ys).reverse = some (ys.reverse.length, e) := by
    rw [hrev]
    exact findIx_append _ (fun y hy => onLine_eq_false.2 (hlast y (List.mem_reverse.1 hy))) (onLine_of_line hk htask hline)
  rw [mergeLine_eq, hfind]
  simp only [hk, hblk, if_true, hrev, modAt_append]
  simp [merged, hblk]

/-- Bytes need an entry of their own, or the newest entry of their line takes them in. -/
theorem mergeLine_cases (t : Task) (b : BlockRun) (a : W64) (es : List Entry) (m : BitVec 64) (d : BitVec 512) :
    mergeLine es t.uid b.id a m d = none ∨
      ∃ xs e ys m0 d0, es = xs ++ e :: ys ∧ mergesInto t b a e ys ∧ e.kind = .line m0 d0 := by
  rcases findIx_cases (onLine t.uid a) es.reverse with hnone | ⟨ys, e, xs, hes, hys, he⟩
  · exact .inl (by rw [mergeLine_eq, hnone])
  · have hfind : findIx (onLine t.uid a) es.reverse = some (ys.length, e) := hes ▸ findIx_append xs hys he
    have hsplit : es = xs.reverse ++ e :: ys.reverse := by
      rw [← List.reverse_reverse (as := es), hes, List.reverse_append, List.reverse_cons, List.append_assoc, List.singleton_append]
    rw [mergeLine_eq, hfind]
    cases hk : e.kind with
    | line m0 d0 =>
      by_cases hblk : e.blk = b.id
      · have htl : e.task = t.uid ∧ lineAddr e.addr = lineAddr a := by simpa [onLine, hk] using he
        refine .inr ⟨xs.reverse, e, ys.reverse, m0, d0, hsplit, ⟨htl.1, hblk, htl.2, fun y hy => ?_⟩, hk⟩
        exact onLine_eq_false.1 (hys y (List.mem_reverse.1 hy))
      · exact .inl (by simp only [hk, hblk, if_false])
    | red _ _ _ | redf _ _ | cellinit _ | spawn _ => exact .inl (by simp only [hk])

end Sys2Proof.Accesses
end

section
/-!
PROOF. Stores outside the scratchpad (O17, O18). Buffering the lines of a store's pieces lays them over what the task's entries held
(`bufferPieces_fits`), whichever of them merge and whichever take an entry.
-/
open Sys2Proof Sys2Proof.Machine Sys2Proof.Claims

namespace Sys2Proof.Accesses

open Sys2Proof.Scalars

/-! ### Pieces laid one over another -/

/-- Pieces laid over what was known of an address, the last over the others. -/
def overlays (ps : List (W64 × List Byte)) (x : W64) (old : Option Byte) : Option Byte :=
  ps.foldl (fun acc p => overlay p.1 p.2 x acc) old

theorem overlays_cons (a : W64) (bs : List Byte) (ps : List (W64 × List Byte)) (x : W64) (old : Option Byte) :
    overlays ((a, bs) :: ps) x old = overlays ps x (overlay a bs x old) := rfl

theorem overlays_append (ps qs : List (W64 × List Byte)) (x : W64) (old : Option Byte) :
    overlays (ps ++ qs) x old = overlays qs x (overlays ps x old) := List.foldl_append ..

theorem overlays_of_out {ps : List (W64 × List Byte)} {x : W64} (old : Option Byte)
    (h : ∀ p ∈ ps, meets x.toNat 1 p.1.toNat p.2.length = false) : overlays ps x old = old := by
  induction ps with
  | nil => rfl
  | cons p ps ih =>
    obtain ⟨a, bs⟩ := p
    obtain ⟨hp, hps⟩ := List.forall_mem_cons.1 h
    rw [overlays_cons, overlay, hp, if_neg Bool.false_ne_true, ih hps]

/-- The lines of bytes together are the bytes. -/
theorem overlays_splitLines (fuel : Nat) {a : W64} {bs : List Byte} (x : W64) (old : Option Byte)
    (hfuel : a.toNat % 64 + bs.length ≤ 64 * fuel) (htop : a.toNat + bs.length ≤ 2 ^ 64) :
    overlays (splitLines fuel a bs) x old = overlay a bs x old := by
  induction fuel generalizing a bs old with
  | zero =>
    obtain rfl : bs = [] := List.length_eq_zero_iff.1 (by omega)
    exact (overlay_of_out old (by simp only [List.length_nil]; omega)).symm
  | succ fuel ih =>
    match bs, hfuel, htop with
    | [], _, _ => exact (overlay_of_out old (by simp only [List.length_nil]; omega)).symm
    | b :: bs, hfuel, htop =>
      rw [splitLines, overlays_cons]
      · generalize b :: bs = cs at *
        have hroom : a.toNat % 64 < 64 := Nat.mod_lt _ (by decide)
        have hlen : (cs.drop (64 - a.toNat % 64)).length = cs.length - (64 - a.toNat % 64) := List.length_drop
        have htake : (cs.take (64 - a.toNat % 64)).length = min (64 - a.toNat % 64) cs.length := List.length_take
        by_cases hmore : cs.length ≤ 64 - a.toNat % 64
        · rw [List.drop_eq_nil_of_le hmore, List.take_of_length_le hmore]
          cases fuel <;> rfl
        · have hnext : (a + BitVec.ofNat 64 (64 - a.toNat % 64)).toNat = a.toNat + (64 - a.toNat % 64) := by
            rw [BitVec.toNat_add, BitVec.toNat_ofNat]
            omega
          rw [ih _ (by rw [hnext, hlen]; omega) (by rw [hnext, hlen]; omega)]
          by_cases hhi : a.toNat + (64 - a.toNat % 64) ≤ x.toNat ∧ x.toNat < a.toNat + cs.length
          · rw [overlay_of_in _ (by rw [hnext, hlen]; omega), overlay_of_in _ (by omega), hnext, List.getElem?_drop]
            congr 1
            omega
          · rw [overlay_of_out _ (by rw [hnext, hlen]; omega)]
            by_cases hlo : a.toNat ≤ x.toNat ∧ x.toNat < a.toNat + (64 - a.toNat % 64)
            · rw [overlay_of_in _ (by rw [htake]; omega), overlay_of_in _ (by omega), List.getElem?_take_of_lt (by omega)]
            · rw [overlay_of_out _ (by rw [htake]; omega), overlay_of_out _ (by omega)]
      · simp

/-- Each line of a split lies in its line. -/
theorem splitLines_fit (fuel : Nat) (a : W64) (bs : List Byte) : ∀ p ∈ splitLines fuel a bs, p.1.toNat % 64 + p.2.length ≤ 64 := by
  induction fuel generalizing a bs with
  | zero => intro p hp; simp [splitLines] at hp
  | succ fuel ih =>
    intro p hp
    match bs, hp with
    | [], hp => simp [splitLines] at hp
    | b :: bs, hp =>
      rw [splitLines] at hp
      · rcases List.mem_cons.1 hp with rfl | hp
        · have hroom : a.toNat % 64 < 64 := Nat.mod_lt _ (by decide)
          have htake := List.length_take_le (64 - a.toNat % 64) (b :: bs)
          simp only at htake ⊢
          omega
        · exact ih _ _ p hp
      · simp

/-! ### The commit buffer filled (R105) -/

/-- The state with other entries in a core's commit buffer, and the number that the next one takes. -/
def withEntries (s : State) (rid c n : Nat) (es : List Entry) : State :=
  modCore { s with nextId := n } rid c fun k => { k with entries := es }

theorem coreAt_withEntries (s : State) (rid c n : Nat) (es : List Entry) :
    coreAt (withEntries s rid c n es) rid c = { coreAt s rid c with entries := es } := coreAt_modCore_same ..

/-- Between two states nothing of a core but the entries of its commit buffer differs, and no byte of memory. -/
structure Rebuffered (rid c : Nat) (s u : State) : Prop where
  mem : u.mem = s.mem
  cur : u.cur = s.cur
  core : ∃ es, coreAt u rid c = { coreAt s rid c with entries := es }

theorem Rebuffered.refl (rid c : Nat) (s : State) : Rebuffered rid c s s := ⟨rfl, rfl, _, rfl⟩

theorem Rebuffered.trans {rid c : Nat} {s u v : State} (h : Rebuffered rid c s u) (k : Rebuffered rid c u v) : Rebuffered rid c s v := by
  obtain ⟨es, hes⟩ := h.core
  obtain ⟨fs, hfs⟩ := k.core
  exact ⟨k.mem.trans h.mem, k.cur.trans h.cur, fs, by rw [hfs, hes]⟩

theorem rebuffered_withEntries (rid c : Nat) (s : State) (n : Nat) (es : List Entry) : Rebuffered rid c s (withEntries s rid c n es) :=
  ⟨rfl, rfl, es, coreAt_withEntries ..⟩

theorem runOf_of_rebuffered {rid c : Nat} {s u : State} {b : BlockRun} (h : Rebuffered rid c s u) (hb : runOf s rid c = some b) :
    runOf u rid c = some b := by
  obtain ⟨es, hes⟩ := h.core
  rw [runOf_phase, hes]
  exact runOf_phase.1 hb

theorem addEntry_eq {s : State} {rid c : Nat} {t : Task} {b : BlockRun} (a : W64) (k : EntKind) (ht : (coreAt s rid c).task = some t)
    (hb : runOf s rid c = some b) :
    addEntry s rid c a k = withEntries s rid c (s.nextId + 1) ((coreAt s rid c).entries ++ [newEntry s t b a k]) := by
  simp only [addEntry, ht, hb]
  rfl

/-- Pieces that each lie in a line, with room for all of them, are laid over what the task's entries held. -/
theorem bufferPieces_fits {rid c : Nat} {t : Task} {b : BlockRun} (ps : List (W64 × List Byte)) {s : State}
    (ht : (coreAt s rid c).task = some t) (hb : runOf s rid c = some b) (hroom : entriesUsed (coreAt s rid c) + ps.length ≤ 256)
    (hfit : ∀ p ∈ ps, p.1.toNat % 64 + p.2.length ≤ 64) :
    ∃ u, bufferPieces s rid c t.uid b.id ps = some u ∧ Rebuffered rid c s u ∧
      ∀ x, heldByte t.uid (coreAt u rid c).entries x = overlays ps x (heldByte t.uid (coreAt s rid c).entries x) := by
  induction ps generalizing s with
  | nil => exact ⟨s, rfl, .refl .., fun _ => rfl⟩
  | cons p ps ih =>
    obtain ⟨a, bs⟩ := p
    obtain ⟨hp, hps⟩ := List.forall_mem_cons.1 hfit
    rw [List.length_cons] at hroom
    have hstep : ∃ n es, es.length ≤ (coreAt s rid c).entries.length + 1 ∧
        bufferPieces s rid c t.uid b.id ((a, bs) :: ps) = bufferPieces (withEntries s rid c n es) rid c t.uid b.id ps ∧
        ∀ x, heldByte t.uid es x = overlay a bs x (heldByte t.uid (coreAt s rid c).entries x) := by
      rcases mergeLine_cases t b a (coreAt s rid c).entries (lineMask (a.toNat % 64) bs.length) (lineData (a.toNat % 64) bs) with
        hnone | ⟨xs, e, ys, m0, d0, hes, hm, hk⟩
      · refine ⟨s.nextId + 1, (coreAt s rid c).entries ++ [newEntry s t b (lineAddr a)
          (.line (lineMask (a.toNat % 64) bs.length) (lineData (a.toNat % 64) bs))], by simp, ?_, fun x => ?_⟩
        · rw [bufferPieces, hnone]
          simp only [addEntry_eq _ _ ht hb]
          rw [if_pos (by omega)]
        · exact heldByte_new _ x rfl rfl (lineAddr_lineAddr a) hp
      · refine ⟨s.nextId, xs ++ merged e m0 d0 a bs :: ys, by simp [hes], ?_, fun x => ?_⟩
        · rw [bufferPieces, hes, mergeLine_of_mergesInto xs bs hm hk]
          rfl
        · rw [hes]
          exact heldByte_merged xs x hm hk hp
    obtain ⟨n, es, hlen, hbuf, hheld⟩ := hstep
    have hroom' : entriesUsed (coreAt (withEntries s rid c n es) rid c) + ps.length ≤ 256 := by
      rw [coreAt_withEntries, entriesUsed]
      rw [entriesUsed] at hroom
      simp only
      omega
    obtain ⟨u, hrest, hreb, hu⟩ := ih (s := withEntries s rid c n es) (by rw [coreAt_withEntries]; exact ht)
      (runOf_of_rebuffered (rebuffered_withEntries ..) hb) hroom' hps
    refine ⟨u, hbuf.trans hrest, (rebuffered_withEntries ..).trans hreb, fun x => ?_⟩
    rw [hu, coreAt_withEntries, overlays_cons]
    simp only [hheld]

end Sys2Proof.Accesses
end

section
/-!
PROOF. What a store outside the scratchpad answers, case by case, and that its task reads it (O17, O18).
-/
open Sys2Proof Sys2Proof.Machine Sys2Proof.Claims

namespace Sys2Proof.Accesses

open Sys2Proof.Scalars

/-! ### Addresses inside an access (R95, R112) -/

theorem aligned_of_check {s : State} {who : Who} {a : W64} {n : Nat} {align : Nat} {allow : List Nat} (h0 : align ≠ 0)
    (h : checkLocal s who a n align allow = .ok ()) : a.toNat % align = 0 := by
  by_contra ha
  have hbad : align ≠ 0 ∧ a.toNat % align ≠ 0 := ⟨h0, ha⟩
  simp only [checkLocal, if_pos hbad] at h
  split at h
  · cases h
  · split at h
    · cases h
    · split at h <;> cases h

theorem toNat_addrPlus {a : W64} {j : Nat} (h : a.toNat % 2 ^ 56 + j < 2 ^ 56) : (addrPlus a j).toNat = a.toNat + j := by
  have ha := a.isLt
  rw [addrPlus, wrap, selector, BitVec.toNat_ofNat]
  have hwrap : (((a.toNat % 2 ^ 56 : Nat) + (j : Int)) % ((2 ^ 56 : Nat) : Int)).toNat = a.toNat % 2 ^ 56 + j := by
    rw [← Nat.cast_add, ← Int.natCast_emod, Int.toNat_natCast, Nat.mod_eq_of_lt h]
  rw [hwrap]
  omega

theorem addrPlus_zero (a : W64) : addrPlus a (Int.ofNat 0) = a := by
  have h : a.toNat % 2 ^ 56 + 0 < 2 ^ 56 := by omega
  exact BitVec.eq_of_toNat_eq (toNat_addrPlus h)

/-- An access aligned to its length, a power of two, stays in its space, and in few lines. -/
theorem aligned_fits {a : W64} {n k : Nat} (hk : k ≤ 7) (hn : n = 2 ^ k) (ha : a.toNat % n = 0) :
    a.toNat % 2 ^ 56 + n ≤ 2 ^ 56 ∧ a.toNat % 64 + n ≤ 64 * 4 ∧ a.toNat + n ≤ 2 ^ 64 ∧
      (n ≤ 64 → a.toNat % 64 + n ≤ 64) ∧ 0 < n := by
  have hlt := a.isLt
  subst hn
  interval_cases k <;> omega

/-! ### What the task reads of its entries (R107) -/

theorem lineByte_own (s : State) (rid c : Nat) (e : Entry) (x : W64) : lineByte s rid c x (c, e) = lineHolds e x := by
  unfold lineByte lineHolds
  cases e.kind <;> simp

/-- What the entries of a task hold goes before what of it drains. -/
theorem ownByte_of_held {u : State} {rid c uid : Nat} {x : W64} {v : Byte} (h : heldByte uid (coreAt u rid c).entries x = some v) :
    ownByte u rid c (taskLines (rectAt u rid) c uid) x = some v := by
  rw [ownByte, taskLines, List.foldl_append, foldl_or, List.foldl_map]
  have hown : ((coreOf (rectAt u rid) c).entries.filter fun e => e.task == uid).foldl
      (fun acc e => (lineByte u rid c x (c, e)).or acc) none = heldByte uid (coreAt u rid c).entries x := by
    simp only [lineByte_own]
    rfl
  rw [hown, h, Option.some_or]

theorem ownBytes_of_held {u : State} {rid c : Nat} {t : Task} {a : W64} {n : Nat} (f : Nat → Byte) (ht : (coreAt u rid c).task = some t)
    (h : ∀ j, j < n → heldByte t.uid (coreAt u rid c).entries (addrPlus a j) = some (f j)) :
    ownBytes u rid c a n = (List.range n).map fun j => some (f j) := by
  have huid : coreUid u rid c = t.uid := by rw [coreUid, ht]; rfl
  rw [ownBytes, huid]
  exact List.map_congr_left fun j hj => ownByte_of_held (h j (List.mem_range.1 hj))

/-! ### The answers of `storePieces` -/

theorem addLookup_eq_withLookup {s u : State} (acc : Acc) (ps : List (W64 × Nat)) (hcur : u.cur = s.cur) :
    addLookup u s.cur.rid s.cur.core acc ps = withLookup u acc ps := by
  rw [addLookup, withLookup, modHere, hcur]
  simp only [List.isEmpty_iff]

theorem not_all_scratch {ps : List (W64 × List Byte)} (h : ∃ p ∈ ps, selector p.1 ≠ 0xF0) :
    ¬(ps.all fun p => selector p.1 == 0xF0) = true := by
  obtain ⟨p, hp, hs⟩ := h
  exact fun hall => hs (beq_iff_eq.1 (List.all_eq_true.1 hall p hp))

section
variable {s : State} {b : BlockRun} {t : Task} {ps : List (W64 × List Byte)}

/-- A store that finds room is buffered, and in global memory waits for its lookup. -/
theorem storePieces_of_room {u : State} (hb : here s = some b) (ht : (coreHere s).task = some t) (hs : ∃ p ∈ ps, selector p.1 ≠ 0xF0)
    (hw : t.wt = false) (hu : bufferPieces s s.cur.rid s.cur.core t.uid b.id (ps.flatMap fun p => splitLines 4 p.1 p.2) = some u)
    (hcur : u.cur = s.cur) :
    storePieces s s.cur.rid s.cur.core ps = .done (withLookup u .write (ps.map fun p => (p.1, p.2.length))) := by
  have hrun : runOf s s.cur.rid s.cur.core = some b := hb
  have htask : (coreAt s s.cur.rid s.cur.core).task = some t := ht
  simp only [storePieces, hrun, htask, not_all_scratch hs, hw, Bool.false_eq_true, if_false, hu, addLookup_eq_withLookup _ _ hcur]

/-- A store that finds no room waits, or its task overflows (R109). -/
theorem storePieces_of_full {o : Option State} (hb : here s = some b) (ht : (coreHere s).task = some t)
    (hs : ∃ p ∈ ps, selector p.1 ≠ 0xF0) (hw : t.wt = false)
    (hu : bufferPieces s s.cur.rid s.cur.core t.uid b.id (ps.flatMap fun p => splitLines 4 p.1 p.2) = none)
    (ho : overflow s s.cur.rid s.cur.core = o) :
    storePieces s s.cur.rid s.cur.core ps = o.elim .wait .later := by
  have hrun : runOf s s.cur.rid s.cur.core = some b := hb
  have htask : (coreAt s s.cur.rid s.cur.core).task = some t := ht
  simp only [storePieces, hrun, htask, not_all_scratch hs, hw, Bool.false_eq_true, if_false, hu, ho]
  cases o with
  | none => rfl
  | some u => rfl

theorem storePieces_of_through (hb : here s = some b) (ht : (coreHere s).task = some t) (hs : ∃ p ∈ ps, selector p.1 ≠ 0xF0)
    (hw : t.wt = true) (hl : lookupsBelow b s.cur.slot = false) :
    storePieces s s.cur.rid s.cur.core ps = storeNow s (actor s) t ps := by
  have hrun : runOf s s.cur.rid s.cur.core = some b := hb
  have htask : (coreAt s s.cur.rid s.cur.core).task = some t := ht
  simp only [storePieces, hrun, htask, not_all_scratch hs, hw, if_true, Bool.false_eq_true, if_false, hl, actor]

end

theorem modCore_congr {s : State} {rid c : Nat} {f g : Core → Core} (h : f (coreAt s rid c) = g (coreAt s rid c)) :
    modCore s rid c f = modCore s rid c g := by rw [modCore, modCore, h]

theorem task_commitPart {s : State} {t : Task} (ht : (coreHere s).task = some t) :
    (coreAt (commitPart s) s.cur.rid s.cur.core).task = some t := by
  have htask : (coreAt s s.cur.rid s.cur.core).task = some t := ht
  rw [commitPart, commitRunning, htask]
  obtain ⟨p, hpart⟩ := coreAt_modRun (Machine.bind (commitEntries s s.cur.rid s.cur.core t.uid t.rcd) s.cur.rid s.cur.core)
    s.cur.rid s.cur.core s.cur.rid s.cur.core fun b => { b with part := b.part ++ [s.cur.slot] }
  obtain ⟨q, hbound⟩ := coreAt_bind (commitEntries s s.cur.rid s.cur.core t.uid t.rcd) s.cur.rid s.cur.core s.cur.rid s.cur.core
  rw [hpart, hbound, commitEntries, coreAt_modCore_same]
  exact htask

theorem overflow_of_held {s : State} (h : immediateHeld s s.cur.rid s.cur.core = true) : overflow s s.cur.rid s.cur.core = none := if_pos h

/-- An overflow commits the task's entries and has the task write through (R109). -/
theorem overflow_of_free {s : State} {t : Task} (ht : (coreHere s).task = some t) (h : immediateHeld s s.cur.rid s.cur.core = false) :
    overflow s s.cur.rid s.cur.core =
      some (modCore (commitPart s) s.cur.rid s.cur.core fun k => { k with task := some { t with wt := true } }) := by
  rw [overflow, if_neg (ne_true_of_eq_false h)]
  change some (modCore (commitPart s) s.cur.rid s.cur.core fun k => { k with task := k.task.map fun t => { t with wt := true } }) = _
  exact congrArg some (modCore_congr (by simp only [task_commitPart ht, Option.map_some]))

theorem splitLines_of_fit {a : W64} {bs : List Byte} (h0 : 0 < bs.length) (hfit : a.toNat % 64 + bs.length ≤ 64) :
    splitLines 4 a bs = [(a, bs)] := by
  match bs, h0 with
  | b :: bs, _ =>
    rw [splitLines]
    · rw [List.take_of_length_le (by omega), List.drop_eq_nil_of_le (by omega)]
      rfl
    · simp

/-! ### The pieces of a store -/

/-- A piece of a store that passes its checks is aligned to its length. -/
theorem piece_aligned {i : Instr} {l r : W64} {s : State} {ps : List (W64 × List Byte)} {allow : List Nat} (h : storeOf i l r s = some ps)
    (hp : allPass s allow (ps.map fun p => (p.1, p.2.length))) {p : W64 × List Byte} (hmem : p ∈ ps) :
    ∃ k ≤ 7, p.2.length = 2 ^ k ∧ p.1.toNat % p.2.length = 0 := by
  obtain ⟨k, hk, hlen⟩ := length_of_storeOf h hmem
  have hne : p.2.length ≠ 0 := by rw [hlen]; positivity
  exact ⟨k, hk, hlen, aligned_of_check hne (hp _ (List.mem_map.2 ⟨p, hmem, rfl⟩))⟩

theorem overlays_pieces {ps : List (W64 × List Byte)}
    (h : ∀ p ∈ ps, p.1.toNat % 64 + p.2.length ≤ 64 * 4 ∧ p.1.toNat + p.2.length ≤ 2 ^ 64)
    (x : W64) (old : Option Byte) : overlays (ps.flatMap fun p => splitLines 4 p.1 p.2) x old = overlays ps x old := by
  induction ps generalizing old with
  | nil => rfl
  | cons p ps ih =>
    obtain ⟨a, bs⟩ := p
    obtain ⟨⟨hfuel, htop⟩, hps⟩ := List.forall_mem_cons.1 h
    rw [List.flatMap_cons, overlays_append, overlays_splitLines 4 x old hfuel htop, ih hps, overlays_cons]

/-- The last piece that covers an address gives its byte. -/
theorem overlays_of_last {ps : List (W64 × List Byte)} {k j : Nat} {a : W64} {bs : List Byte} (old : Option Byte) {x : W64}
    (hk : ps[k]? = some (a, bs)) (hx : x.toNat = a.toNat + j) (hj : j < bs.length)
    (hlast : ∀ (k' : Nat) a' bs', k < k' → ps[k']? = some (a', bs') → meets x.toNat 1 a'.toNat bs'.length = false) :
    overlays ps x old = bs[j]? := by
  obtain ⟨hlt, hget⟩ := List.getElem?_eq_some_iff.1 hk
  have hsplit : ps = ps.take k ++ (a, bs) :: ps.drop (k + 1) := by
    rw [← hget, List.getElem_cons_drop, List.take_append_drop]
  have hout : ∀ p ∈ ps.drop (k + 1), meets x.toNat 1 p.1.toNat p.2.length = false := by
    intro p hp
    obtain ⟨m, hm⟩ := List.mem_iff_getElem?.1 hp
    rw [List.getElem?_drop] at hm
    exact hlast _ p.1 p.2 (by omega) hm
  rw [hsplit, overlays_append, overlays_cons, overlays_of_out _ hout, overlay_of_in _ (by omega), hx, Nat.add_sub_cancel_left]

/-- A store that finds room lays its pieces over what the task's entries held. -/
theorem bufferPieces_of_store {i : Instr} {l r : W64} {s : State} {ps : List (W64 × List Byte)} {b : BlockRun} {t : Task} {allow : List Nat}
    (h : storeOf i l r s = some ps) (hb : here s = some b) (ht : (coreHere s).task = some t)
    (hp : allPass s allow (ps.map fun p => (p.1, p.2.length)))
    (hroom : entriesUsed (coreHere s) + (ps.flatMap fun p => splitLines 4 p.1 p.2).length ≤ 256) :
    ∃ u, bufferPieces s s.cur.rid s.cur.core t.uid b.id (ps.flatMap fun p => splitLines 4 p.1 p.2) = some u ∧
      Rebuffered s.cur.rid s.cur.core s u ∧
      ∀ x, heldByte t.uid (coreAt u s.cur.rid s.cur.core).entries x = overlays ps x (heldByte t.uid (coreHere s).entries x) := by
  have hfit : ∀ p ∈ ps.flatMap fun p => splitLines 4 p.1 p.2, p.1.toNat % 64 + p.2.length ≤ 64 := by
    intro p hmem
    obtain ⟨q, _, hq⟩ := List.mem_flatMap.1 hmem
    exact splitLines_fit 4 q.1 q.2 p hq
  have hpieces : ∀ p ∈ ps, p.1.toNat % 64 + p.2.length ≤ 64 * 4 ∧ p.1.toNat + p.2.length ≤ 2 ^ 64 := by
    intro p hmem
    obtain ⟨k, hk, hlen, halign⟩ := piece_aligned h hp hmem
    obtain ⟨_, hlines, htop, _⟩ := aligned_fits hk hlen halign
    exact ⟨hlines, htop⟩
  obtain ⟨u, hu, hreb, hheld⟩ := bufferPieces_fits _ (rid := s.cur.rid) (c := s.cur.core) ht hb hroom hfit
  exact ⟨u, hu, hreb, fun x => (hheld x).trans (overlays_pieces hpieces x _)⟩

/-! ### Stores outside the scratchpad (R101, R105, R107, R109) -/

theorem ownBytes_one {u : State} {rid c : Nat} {t : Task} {x : W64} {v : Byte} (ht : (coreAt u rid c).task = some t)
    (h : heldByte t.uid (coreAt u rid c).entries x = some v) : ownBytes u rid c x 1 = [some v] := by
  refine ownBytes_of_held (fun _ => v) ht fun j hj => ?_
  obtain rfl : j = 0 := by omega
  rw [← h]
  exact congrArg _ (addrPlus_zero x)

section
variable {s : State} {b : BlockRun} {t : Task} {ea : W64} {bs : List Byte}

theorem bufferPieces_of_merge {xs ys : List Entry} {e : Entry} {m0 : BitVec 64} {d0 : BitVec 512} (he : (coreHere s).entries = xs ++ e :: ys)
    (hm : mergesInto t b ea e ys) (hk : e.kind = .line m0 d0) :
    bufferPieces s s.cur.rid s.cur.core t.uid b.id [(ea, bs)] =
      some (modCore s s.cur.rid s.cur.core fun k => { k with entries := xs ++ merged e m0 d0 ea bs :: ys }) := by
  have hentries : (coreAt s s.cur.rid s.cur.core).entries = xs ++ e :: ys := he
  rw [bufferPieces, hentries, mergeLine_of_mergesInto xs bs hm hk]
  rfl

theorem mergeLine_of_nowhere {es : List Entry} (m : BitVec 64) (d : BitVec 512) (h : mergesNowhere t b ea es) :
    mergeLine es t.uid b.id ea m d = none := by
  rcases mergeLine_cases t b ea es m d with hnone | ⟨xs, e, ys, m0, d0, hes, hm, hk⟩
  · exact hnone
  · exact absurd hm (h xs e ys m0 d0 hes hk)

theorem bufferPieces_of_new (hb : here s = some b) (ht : (coreHere s).task = some t) (hn : mergesNowhere t b ea (coreHere s).entries)
    (hroom : entriesUsed (coreHere s) < 256) :
    bufferPieces s s.cur.rid s.cur.core t.uid b.id [(ea, bs)] =
      some (modCore { s with nextId := s.nextId + 1 } s.cur.rid s.cur.core fun k => { k with entries := k.entries ++ [newEntry s t b (lineAddr ea)
        (.line (lineMask (ea.toNat % 64) bs.length) (lineData (ea.toNat % 64) bs))] }) := by
  have hrun : runOf s s.cur.rid s.cur.core = some b := hb
  have htask : (coreAt s s.cur.rid s.cur.core).task = some t := ht
  have hnone := mergeLine_of_nowhere (lineMask (ea.toNat % 64) bs.length) (lineData (ea.toNat % 64) bs) hn
  rw [coreHere] at hnone hroom
  simp only [bufferPieces, hnone, hroom, if_true, addEntry, htask, hrun]
  rfl

theorem bufferPieces_of_full (hn : mergesNowhere t b ea (coreHere s).entries) (hfull : 256 ≤ entriesUsed (coreHere s)) :
    bufferPieces s s.cur.rid s.cur.core t.uid b.id [(ea, bs)] = none := by
  have hnone := mergeLine_of_nowhere (lineMask (ea.toNat % 64) bs.length) (lineData (ea.toNat % 64) bs) hn
  rw [coreHere] at hnone hfull
  simp only [bufferPieces, hnone, Nat.not_lt.2 hfull, if_false]

/-- A write at memory that nothing holds and that is served performs and waits for its acknowledgement (R98, R133). -/
theorem immediateWrite_of_free {who : Who} (hheld : writeHeld s who ea bs.length = false) (hdrain : drainingLine s who ea bs.length = false)
    (hload : loadMeets s who ea bs.length = false) (hserved : served s (worldOf who.rid) (homeOf s who ea) bs.length = true) :
    immediateWrite s who t ea bs = some (addAck (performWrite s who t.uid ea bs) who t.uid ea) := by
  simp only [immediateWrite, hheld, hdrain, hload, hserved, Bool.or_false, Bool.false_eq_true, if_false, Bool.not_true]

theorem storeNow_of_free {who : Who} (hcause : firstCause s who .write [(ea, bs.length)] = none)
    (hw : immediateWrite s who t ea bs = some (addAck (performWrite s who t.uid ea bs) who t.uid ea)) :
    storeNow s who t [(ea, bs)] = .done (Machine.bind (addAck (performWrite s who t.uid ea bs) who t.uid ea) who.rid who.core) := by
  simp only [storeNow, List.map_cons, List.map_nil, hcause, List.any_cons, List.any_nil, hw, Option.isNone_some, Bool.or_false,
    Bool.false_eq_true, if_false, List.foldl_cons, List.foldl_nil, Option.getD_some]

end

theorem singleton_not_scratch {ea : W64} {bs : List Byte} (h : selector ea ≠ 0xF0) : ∃ p ∈ [(ea, bs)], selector p.1 ≠ 0xF0 :=
  ⟨(ea, bs), List.mem_singleton_self _, h⟩

/-- A store of at most 8 bytes in one piece lies in one line. -/
theorem pieces_of_small {i : Instr} {l r : W64} {s : State} {ea : W64} {bs : List Byte} {allow : List Nat}
    (h : storeOf i l r s = some [(ea, bs)]) (hp : allPass s allow [(ea, bs.length)]) (hsmall : bs.length ≤ 8) :
    ([(ea, bs)].flatMap fun p => splitLines 4 p.1 p.2) = [(ea, bs)] := by
  obtain ⟨k, hk, hlen, halign⟩ := piece_aligned h hp (List.mem_singleton_self _)
  obtain ⟨_, _, _, hline, hpos⟩ := aligned_fits hk hlen halign
  rw [List.flatMap_singleton, splitLines_of_fit hpos (hline (by simp only; omega))]

theorem bufferedStores : BufferedStores := by
  refine ⟨?_, ?_, ?_, ?_⟩
  · intro i l r s ps b t hst hr hb ht hw hp hs hroom
    obtain ⟨u, hu, hreb, hheld⟩ := bufferPieces_of_store hst hb ht hp hroom
    obtain ⟨es, hes⟩ := hreb.core
    refine ⟨u, ?_, fun x => congrArg (cellAt · x) hreb.mem, by rw [hes]; rfl, by rw [hes]; rfl, by rw [hes]; rfl,
      by rw [hes]; rfl, ?_⟩
    · rw [exec_store hst hr hp, storePieces_of_room hb ht hs hw hu hreb.cur, ofStore, settled]
    · intro k a bs j hk hj hlast
      obtain ⟨n, hn, hlen, halign⟩ := piece_aligned hst hp (List.mem_of_getElem? hk)
      obtain ⟨hspace, _⟩ := aligned_fits hn hlen halign
      have hx : (addrPlus a j).toNat = a.toNat + j := toNat_addrPlus (by simp only at hspace; omega)
      have hbyte := (hheld (addrPlus a j)).trans (overlays_of_last _ hk hx hj hlast)
      rw [List.getElem?_eq_getElem hj] at hbyte ⊢
      exact ownBytes_one (t := t) (by rw [hes]; exact ht) hbyte
  · intro i l r s ea bs b t xs e ys m0 d0 hst hr hb ht hw hp hs hsmall hes hm hk
    have hbuf := bufferPieces_of_merge (bs := bs) hes hm hk
    rw [← pieces_of_small hst hp hsmall] at hbuf
    rw [exec_store hst hr hp, storePieces_of_room hb ht (singleton_not_scratch hs) hw hbuf rfl, ofStore, settled]
    rfl
  · intro i l r s ea bs b t hst hr hb ht hw hp hs hsmall hn
    refine ⟨fun hroom => ?_, fun hfull => ?_⟩
    · have hbuf := bufferPieces_of_new (bs := bs) hb ht hn hroom
      rw [← pieces_of_small hst hp hsmall] at hbuf
      rw [exec_store hst hr hp, storePieces_of_room hb ht (singleton_not_scratch hs) hw hbuf rfl, ofStore, settled]
      rfl
    · have hbuf := bufferPieces_of_full (bs := bs) hn hfull
      rw [← pieces_of_small hst hp hsmall] at hbuf
      rw [exec_store hst hr hp]
      refine ⟨fun hheld => ?_, fun hfree => ?_⟩
      · rw [storePieces_of_full hb ht (singleton_not_scratch hs) hw hbuf (overflow_of_held hheld), Option.elim, ofStore, settled]
      · rw [storePieces_of_full hb ht (singleton_not_scratch hs) hw hbuf (overflow_of_free ht hfree), Option.elim, ofStore, settled]
  · intro i l r s ea bs b t hst hr hb ht hw hp hs hl hcause hheld hdrain hload hserved
    rw [exec_store hst hr hp, storePieces_of_through hb ht (singleton_not_scratch hs) hw hl,
      storeNow_of_free hcause (immediateWrite_of_free hheld hdrain hload hserved), ofStore, settled]
    rfl

/-- Settles O17: a store comes to `storePieces` of its pieces, which in the scratchpad writes them (`scratchStores`, `scratchStoreFrame`) and
elsewhere buffers them or, in a task that writes through, performs them (`bufferedStores`). -/
theorem storesPerform : Obligations.StoresPerform := ⟨scratchStores, scratchStoreFrame, bufferedStores⟩

/-! ### A task reads what it stored (R107) -/

theorem getElem?_bytesOf {n j : Nat} (v : Nat) (h : j < n) : (bytesOf n v)[j]? = some (BitVec.ofNat 8 (v / 256 ^ j)) := by
  induction n generalizing j v with
  | zero => omega
  | succ n ih =>
    cases j with
    | zero => simp [bytesOf]
    | succ j => rw [bytesOf, List.getElem?_cons_succ, ih _ (by omega), Nat.div_div_eq_div_mul, ← Nat.pow_succ']

theorem ofNat_byte (r : W64) (j : Nat) : BitVec.ofNat 8 (r.toNat / 256 ^ j) = r.extractLsb' (8 * j) 8 := by
  rw [pow_256, ← Nat.shiftRight_eq_div_pow]
  rfl

/-- Looking up an access and firing its slot leave every part of a core but its phase. -/
theorem coreAt_withLookup (s : State) (acc : Acc) (ps : List (W64 × Nat)) (q d : Nat) :
    ∃ p, coreAt (withLookup s acc ps) q d = { coreAt s q d with phase := p } := by
  unfold withLookup
  split
  · exact ⟨_, rfl⟩
  · exact coreAt_modRun ..

@[simp] theorem readKey_withLookup (s : State) (acc : Acc) (ps : List (W64 × Nat)) (x : Nat) :
    readKey (withLookup s acc ps) x = readKey s x := by
  unfold withLookup
  split
  · rfl
  · exact readKey_modRun ..

/-- Settles O18: an ST of at most 8 bytes finds room for its one line, and the task's entries then hold its bytes (`bufferPieces_of_store`). -/
theorem storeIsSeen : Obligations.StoreIsSeen := by
  intro p y d l r s b t hr hb ht hw hp hs hroom
  have hst : storeOf (.st p y d) l r s = some [(addrPlus l d.toInt, bytesOf (widthOf y / 8) r.toNat)] := rfl
  have hp' : allPass s [0, 0xF0, 0xF1, 0xF2] [(addrPlus l d.toInt, (bytesOf (widthOf y / 8) r.toNat).length)] := by
    rw [length_bytesOf]; exact hp
  generalize haddr : addrPlus l d.toInt = ea at *
  obtain ⟨k, hk, hlen, halign⟩ := piece_aligned hst hp' (List.mem_singleton_self _)
  obtain ⟨w, hw3, hwidth⟩ := width_pow y
  have hsmall : (bytesOf (widthOf y / 8) r.toNat).length ≤ 8 := by
    rw [length_bytesOf, hwidth]
    exact Nat.pow_le_pow_right (by decide) hw3
  obtain ⟨hspace, _⟩ := aligned_fits hk hlen halign
  obtain ⟨u, hu, hreb, hheld⟩ := bufferPieces_of_store hst hb ht hp' (by rw [pieces_of_small hst hp' hsmall]; exact hroom)
  obtain ⟨es, hes⟩ := hreb.core
  obtain ⟨q, hlook⟩ := coreAt_withLookup u .write [(ea, (bytesOf (widthOf y / 8) r.toNat).length)] s.cur.rid s.cur.core
  obtain ⟨q', hfired⟩ := coreAt_fired s (withLookup u .write [(ea, (bytesOf (widthOf y / 8) r.toNat).length)]) s.cur.rid s.cur.core
  rw [hlook, hes] at hfired
  refine ⟨_, ?_, ?_, fun x => ?_, by rw [hfired]; rfl, by rw [hfired]; rfl⟩
  · rw [exec_store hst hr hp', storePieces_of_room hb ht (singleton_not_scratch hs) hw hu hreb.cur, ofStore, settled]
    rfl
  · refine ownBytes_of_held _ (by rw [hfired]; exact ht) fun j hj => ?_
    have hspace' : ea.toNat % 2 ^ 56 + widthOf y / 8 ≤ 2 ^ 56 := by rwa [length_bytesOf] at hspace
    have hx : (addrPlus ea j).toNat = ea.toNat + j := toNat_addrPlus (by omega)
    have hbyte := hheld (addrPlus ea j)
    rw [hes] at hbyte
    rw [hfired]
    refine hbyte.trans ?_
    have hin : ea.toNat ≤ (addrPlus ea j).toNat ∧ (addrPlus ea j).toNat < ea.toNat + (bytesOf (widthOf y / 8) r.toNat).length := by
      rw [hx, length_bytesOf]
      omega
    rw [overlays_cons, overlay_of_in _ hin, hx, Nat.add_sub_cancel_left, getElem?_bytesOf _ hj, ofNat_byte]
    rfl
  · rw [readKey_fired, readKey_withLookup]
    exact congrArg (cellAt · x) hreb.mem

end Sys2Proof.Accesses
end

section
/-!
PROOF. What a write at memory leaves behind (R102, R136, R160). Beside its bytes it counts a version, notes a sample and aborts the later
tasks that read there; `Aborts` says once all that the aborts can change.
-/
open Sys2Proof Sys2Proof.Machine Sys2Proof.Claims

namespace Sys2Proof.Accesses

/-! ### Posted records -/

/-- Between two states only records were posted: time passed, and memory, worlds and outputs may differ. -/
def Posted (s u : State) : Prop :=
  u = { s with mem := u.mem, bad := u.bad, poison := u.poison, worlds := u.worlds, ns := u.ns, free := u.free, outs := u.outs }

theorem Posted.trans {s u v : State} (h : Posted s u) (k : Posted u v) : Posted s v := by
  rw [Posted] at *
  rw [k, h]

theorem posted_writeKeys (bs : List Byte) (s : State) (k : Nat) : Posted s (writeKeys s k bs) := by
  induction bs generalizing s k with
  | nil => rfl
  | cons b bs ih => exact Posted.trans (u := writeKey s k b) rfl (ih ..)

theorem posted_post (s : State) (w : Nat) (e : ErrRec) : Posted s (post s w e) := by
  have htick : Posted s (tick s) := rfl
  unfold post
  simp only
  split
  · exact htick.trans rfl
  · generalize hw : writeKeys _ _ _ = u
    have hu : Posted (tick s) u := hw ▸ posted_writeKeys ..
    split
    · exact htick.trans (hu.trans rfl)
    · exact htick.trans (hu.trans rfl)

theorem rectAt_of_posted {s u : State} (h : Posted s u) (q : Nat) : rectAt u q = rectAt s q := by
  rw [Posted] at h
  rw [h]
  rfl

theorem posted_foldl {α : Type} {f : State → α → State} (hf : ∀ s x, Posted s (f s x)) (l : List α) (s : State) :
    Posted s (l.foldl f s) := by
  induction l generalizing s with
  | nil => rfl
  | cons x l ih => exact (hf s x).trans (ih _)

/-! ### What aborts change -/

/-- A core after tasks of it were aborted: the causes its engines reported are as before, or posted. -/
def Squashed (k k' : Core) : Prop :=
  (k'.causes = k.causes ∨ k'.causes = []) ∧
  k' = { k with entries := k'.entries, fences := k'.fences, task := k'.task, phase := k'.phase, links := k'.links, vloads := k'.vloads,
                csr := k'.csr, fin := k'.fin, causes := k'.causes }

theorem Squashed.refl (k : Core) : Squashed k k := ⟨.inl rfl, rfl⟩

theorem Squashed.trans {k l m : Core} (h : Squashed k l) (j : Squashed l m) : Squashed k m := by
  obtain ⟨hc, hk⟩ := h
  obtain ⟨jc, jk⟩ := j
  refine ⟨?_, ?_⟩
  · rcases jc with jc | jc
    · rwa [jc]
    · exact .inr jc
  · rw [jk, hk]

/-- A rectangle with other cores, queues, stages and another domain. -/
def Reshaped (r r' : Rect) : Prop := r' = { r with cores := r'.cores, queues := r'.queues, stages := r'.stages, dom := r'.dom }

theorem Reshaped.trans {r q p : Rect} (h : Reshaped r q) (k : Reshaped q p) : Reshaped r p := by
  rw [Reshaped] at *
  rw [k, h]

/-- What the abort of tasks of a rectangle can change (R110, R160): its cores as `Squashed` says, its queues, stages and domain; where no
cause of an engine waits there, nothing else. -/
structure Aborts (rid : Nat) (s u : State) : Prop where
  rest : Posted { s with rects := u.rects } u
  other : ∀ q, q ≠ rid → rectAt u q = rectAt s q
  rect : Reshaped (rectAt s rid) (rectAt u rid)
  core : ∀ c, Squashed (coreAt s rid c) (coreAt u rid c)
  calm : quiet s rid → u = { s with rects := u.rects }

theorem Aborts.refl (rid : Nat) (s : State) : Aborts rid s s := ⟨rfl, fun _ _ => rfl, rfl, fun _ => .refl _, fun _ => rfl⟩

theorem Aborts.keepsQuiet {rid : Nat} {s u : State} (h : Aborts rid s u) (hq : quiet s rid) : quiet u rid := by
  intro c
  rcases (h.core c).1 with hc | hc
  · rw [hc, hq c]
  · exact hc

theorem Aborts.trans {rid : Nat} {s u v : State} (h : Aborts rid s u) (k : Aborts rid u v) : Aborts rid s v := by
  refine ⟨?_, fun q hq => (k.other q hq).trans (h.other q hq), h.rect.trans k.rect, fun c => (h.core c).trans (k.core c), fun hq => ?_⟩
  · have hr := h.rest
    have kr := k.rest
    rw [Posted] at *
    rw [kr, hr]
  · rw [k.calm (h.keepsQuiet hq), h.calm hq]

theorem aborts_foldl {α : Type} {rid : Nat} {f : State → α → State} (hf : ∀ s x, Aborts rid s (f s x)) (l : List α) (s : State) :
    Aborts rid s (l.foldl f s) := by
  induction l generalizing s with
  | nil => exact .refl ..
  | cons x l ih => exact (hf s x).trans (ih _)

theorem aborts_modCore (s : State) (rid c : Nat) {f : Core → Core} (hf : ∀ k, Squashed k (f k)) : Aborts rid s (modCore s rid c f) := by
  refine ⟨rfl, fun q hq => rectAt_modCore_other s c f hq, by rw [rectAt_modCore_same]; rfl, fun d => ?_, fun _ => rfl⟩
  rw [coreAt_modCore]
  split
  · next h =>
    rw [h.2]
    exact hf _
  · exact .refl _

theorem aborts_modRect (s : State) (rid : Nat) {f : Rect → Rect} (hf : ∀ r, Reshaped r (f r)) (hc : ∀ r, (f r).cores = r.cores) :
    Aborts rid s (modRect s rid f) := by
  refine ⟨rfl, fun q hq => rectAt_modRect_other s f hq, by rw [rectAt_modRect_same]; exact hf _, fun d => ?_, fun _ => rfl⟩
  rw [coreAt_modRect s rid rid d f (hc _)]
  exact .refl _

theorem aborts_releaseResv (s : State) (rid uid : Nat) : Aborts rid s (releaseResv s rid uid) :=
  aborts_modRect s rid (fun _ => rfl) fun _ => rfl

/-- Records that are posted only where causes wait are posted by an abort. -/
theorem Aborts.posted {rid : Nat} {s u v : State} (h : Aborts rid s u) (hp : Posted u v) (hc : quiet s rid → v = u) : Aborts rid s v := by
  have hrect := rectAt_of_posted hp
  refine ⟨?_, fun q hq => (hrect q).trans (h.other q hq), ?_, fun d => ?_, fun hq => ?_⟩
  · have hr := h.rest
    rw [Posted] at *
    rw [hp, hr]
  · rw [hrect]
    exact h.rect
  · have hcore : coreAt v rid d = coreAt u rid d := congrArg (coreOf · d) (hrect rid)
    rw [hcore]
    exact h.core d
  · rw [hc hq]
    exact h.calm hq

/-- The task that ends posts what its engines reported too late; where nothing waits, nothing is posted (R117). -/
theorem aborts_releaseTask (s : State) (rid c : Nat) : Aborts rid s (releaseTask s rid c) := by
  unfold releaseTask
  split
  · exact .refl ..
  · next t ht =>
    have hfree : Aborts rid s (releaseResv (modCore s rid c fun k =>
        { k with fences := k.fences.filter (fun f => f.2.task != t.uid), causes := [] }) rid t.uid) :=
      (aborts_modCore s rid c fun k => ⟨.inr rfl, rfl⟩).trans (aborts_releaseResv ..)
    refine hfree.posted (posted_foldl (fun _ _ => posted_post ..) _ _) fun hq => ?_
    simp only [hq c, List.foldl_nil]

theorem aborts_dropEntries (s : State) (rid c uid : Nat) : Aborts rid s (dropEntries s rid c uid) :=
  aborts_modCore s rid c fun _ => ⟨.inl rfl, rfl⟩

theorem aborts_freeCore (s : State) (rid c : Nat) : Aborts rid s (freeCore s rid c) :=
  aborts_modCore s rid c fun _ => ⟨.inl rfl, rfl⟩

theorem aborts_modStage (s : State) (rid n : Nat) (f : Stage → Stage) : Aborts rid s (modStage s rid n f) :=
  aborts_modRect s rid (fun _ => rfl) fun _ => rfl

theorem aborts_modDom (s : State) (rid : Nat) (f : Rect → Domain) : Aborts rid s (modRect s rid fun r => { r with dom := f r }) :=
  aborts_modRect s rid (fun _ => rfl) fun _ => rfl

theorem aborts_abortTask (s : State) (rid : Nat) (o : Outst) : Aborts rid s (abortTask s rid o) := by
  unfold abortTask
  simp only
  have hdrop := (aborts_dropEntries s rid o.core o.uid).trans (aborts_releaseResv _ rid o.uid)
  refine (hdrop.trans ?_).trans ((aborts_modStage ..).trans (aborts_modDom ..))
  split_ifs
  · exact (aborts_releaseTask ..).trans (aborts_freeCore ..)
  · exact aborts_modCore _ rid o.core fun _ => ⟨.inl rfl, rfl⟩

theorem aborts_orderedWrite (s : State) (who : Who) (uid : Nat) (a : W64) (n : Nat) : Aborts who.rid s (orderedWrite s who uid a n) := by
  unfold orderedWrite
  simp only
  split
  · exact .refl ..
  · exact aborts_foldl (fun s o => aborts_abortTask s who.rid o) _ s

/-! ### The write itself -/

/-- A write before it aborts anyone: its bytes, its version and its sample. -/
def landed (s : State) (who : Who) (a : W64) (bs : List Byte) : State :=
  noteHbm (bumpRange (writeKeys s (homeOf s who a).key bs) (homeOf s who a) bs.length) who.rid (homeOf s who a)

theorem part_bumpRange {α : Type} (π : State → α) (hπ : ∀ s v, π { s with versions := v } = π s) (s : State) (p : Place) (n : Nat) :
    π (bumpRange s p n) = π s := by
  unfold bumpRange
  split
  · simp only
    split
    · exact (hπ ..).trans (hπ ..)
    · exact hπ ..
  · rfl

theorem part_noteHbm {α : Type} (π : State → α) (hπ : ∀ s f m, π { s with free := f, monitors := m } = π s) (s : State) (rid : Nat)
    (p : Place) : π (noteHbm s rid p) = π s := by
  unfold noteHbm
  split
  · exact hπ ..
  · rfl

theorem part_landed {α : Type} (π : State → α) (hmem : ∀ s k b, π (writeKey s k b) = π s)
    (hver : ∀ s v, π { s with versions := v } = π s)
    (hmon : ∀ s f m, π { s with free := f, monitors := m } = π s) (s : State) (who : Who) (a : W64) (bs : List Byte) :
    π (landed s who a bs) = π s :=
  (part_noteHbm π hmon ..).trans ((part_bumpRange π hver ..).trans (part_writeKeys π hmem ..))

theorem rects_landed (s : State) (who : Who) (a : W64) (bs : List Byte) : (landed s who a bs).rects = s.rects :=
  part_landed State.rects (fun _ _ _ => rfl) (fun _ _ => rfl) (fun _ _ _ => rfl) ..

theorem rectAt_landed (s : State) (who : Who) (a : W64) (bs : List Byte) (q : Nat) : rectAt (landed s who a bs) q = rectAt s q :=
  congrArg (tget ({} : Rect) · q) (rects_landed ..)

theorem coreAt_landed (s : State) (who : Who) (a : W64) (bs : List Byte) (q c : Nat) : coreAt (landed s who a bs) q c = coreAt s q c :=
  congrArg (coreOf · c) (rectAt_landed ..)

theorem quiet_landed {s : State} {rid : Nat} (who : Who) (a : W64) (bs : List Byte) (hq : quiet s rid) : quiet (landed s who a bs) rid :=
  fun c => by rw [coreAt_landed]; exact hq c

theorem mem_landed (s : State) (who : Who) (a : W64) (bs : List Byte) :
    (landed s who a bs).mem = (writeKeys s (homeOf s who a).key bs).mem :=
  (part_noteHbm State.mem (fun _ _ _ => rfl) ..).trans (part_bumpRange State.mem (fun _ _ => rfl) ..)

theorem aborts_performWrite (s : State) (who : Who) (uid : Nat) (a : W64) (bs : List Byte) :
    Aborts who.rid (landed s who a bs) (performWrite s who uid a bs) := aborts_orderedWrite ..

/-- A part of the state beside its rectangles is not touched by aborts where no cause waits. -/
theorem Aborts.part {α : Type} {rid : Nat} {s u : State} (h : Aborts rid s u) (hq : quiet s rid) (π : State → α)
    (hπ : ∀ s r, π { s with rects := r } = π s) : π u = π s := by
  rw [h.calm hq]
  exact hπ ..

/-- Where no cause waits, a write at memory changes the bytes of its access and no other. -/
theorem mem_performWrite {s : State} {who : Who} (uid : Nat) (a : W64) (bs : List Byte) (hq : quiet s who.rid) :
    (performWrite s who uid a bs).mem = (writeKeys s (homeOf s who a).key bs).mem :=
  ((aborts_performWrite ..).part (quiet_landed who a bs hq) State.mem fun _ _ => rfl).trans (mem_landed ..)

end Sys2Proof.Accesses
end

section
/-!
PROOF. Atomics (O21). AMO and CAS come to `atomicNow`, which reads the word and writes what its function gives; a write at memory changes
the bytes of its access alone (`mem_performWrite`), and in the scratchpad too.
-/
open Sys2Proof Sys2Proof.Machine Sys2Proof.Claims

namespace Sys2Proof.Accesses

open Sys2Proof.Scalars

/-! ### Reading memory -/

theorem readKey_congr {s u : State} (h : u.mem = s.mem) (x : Nat) : readKey u x = readKey s x := congrArg (cellAt · x) h

theorem readKeys_congr {s u : State} (h : u.mem = s.mem) (x n : Nat) : readKeys u x n = readKeys s x n := by
  induction n generalizing x with
  | zero => rfl
  | succ n ih => rw [readKeys, readKeys, readKey_congr h, ih]

theorem readNat_congr {s u : State} (h : u.mem = s.mem) (x n : Nat) : readNat u x n = readNat s x n := by
  rw [readNat, readNat, readKeys_congr h]

theorem length_readKeys (s : State) (k n : Nat) : (readKeys s k n).length = n := by
  induction n generalizing k with
  | zero => rfl
  | succ n ih => rw [readKeys, List.length_cons, ih]

theorem readNat_lt (s : State) (k n : Nat) : readNat s k n < 256 ^ n := by
  have h := Rectangles.natOf_lt (readKeys s k n)
  rwa [length_readKeys] at h

/-- A write of n bytes at a place is all that memory takes. -/
theorem onlyWrites_of_mem {s u : State} {a : W64} {n v : Nat} (hwf : Memory.wf s = true) (h : u.mem = (writeNat s (place s a) n v).mem) :
    onlyWrites s u a n v := by
  refine ⟨?_, fun x hx => ?_⟩
  · rw [readNat_congr h, readNat_writeNat _ _ _ hwf]
  · rw [readKey_congr h]
    exact readKey_writeKeys_other _ (by rwa [length_bytesOf])

/-- Memory that is as before holds the word it held. -/
theorem onlyWrites_of_same {s u : State} {a : W64} {n : Nat} (h : u.mem = s.mem) : onlyWrites s u a n (wordAt s a n) :=
  ⟨(readNat_congr h ..).trans (Nat.mod_eq_of_lt (readNat_lt ..)).symm, fun x _ => readKey_congr h x⟩

/-! ### `atomicNow` (R106, R122) -/

/-- An atomic that nothing holds reads its word and writes what its function gives. -/
theorem atomicNow_of_free {s : State} {a : W64} {n : Nat} (f : Nat → Option Nat) (h : atomicFree s a n) :
    atomicNow s a n f = .ok (Machine.bind (atomicWrite s (actor s) a n (f (wordAt s a n))) s.cur.rid s.cur.core) (wordAt s a n) := by
  obtain ⟨htr, hwatch, hown, hheld, hdrain, hload, herr⟩ := h
  rw [actor] at *
  have htr' : translate s (whoTask s s.cur.rid s.cur.core) a n n .atomic storeSpaces = .ok () := htr
  simp only [atomicNow, htr', hwatch, hown, hheld, hdrain, hload, herr, Bool.or_false, Bool.false_eq_true, if_false]
  rfl

theorem part_addAck {α : Type} (π : State → α) (hcore : ∀ s rid c f, π (modCore s rid c f) = π s)
    (hid : ∀ s n, π { s with nextId := n } = π s) (s : State) (who : Who) (uid : Nat) (a : W64) : π (addAck s who uid a) = π s := by
  rw [addAck, awaitAck, hcore]
  exact hid ..

theorem mem_atomicWrite_some {s : State} {a : W64} (n v : Nat) (h : selector a = 0xF0 ∨ quiet s s.cur.rid) :
    (atomicWrite s (actor s) a n (some v)).mem = (writeNat s (place s a) n v).mem := by
  have hwrite : (performWrite s (actor s) (coreUid s (actor s).rid (actor s).core) a (bytesOf n v)).mem = (writeNat s (place s a) n v).mem := by
    rcases h with hs | hq
    · rw [performWrite_of_scratch _ _ hs, place, homeOf_of_scratch hs]
      rfl
    · exact mem_performWrite _ a _ hq
  simp only [atomicWrite]
  split
  · exact hwrite
  · exact (part_addAck State.mem (fun _ _ _ _ => rfl) (fun _ _ => rfl) ..).trans hwrite

theorem mem_atomicWrite_none (s : State) (a : W64) (n : Nat) : (atomicWrite s (actor s) a n none).mem = s.mem :=
  part_noteHbm State.mem (fun _ _ _ => rfl) ..

theorem mem_bind (s : State) (rid c : Nat) : (Machine.bind s rid c).mem = s.mem := mem_modRun ..

/-! ### The word of an atomic (R122) -/

/-- The signed value of a word of four or eight bytes. -/
theorem sext_of_word {n u : Nat} (hn : n = 4 ∨ n = 8) (hu : u < 2 ^ (8 * n)) :
    sext (8 * n) u = if u < 2 ^ (8 * n) / 2 then (u : Int) else (u : Int) - (2 ^ (8 * n) : Nat) := by
  rw [sext, Nat.mod_eq_of_lt hu]
  rcases hn with rfl | rfl <;> norm_num

theorem min_eq_ite (a b : Nat) : min a b = if a < b then a else b := by split <;> omega

theorem max_eq_ite (a b : Nat) : max a b = if a < b then b else a := by split <;> omega

/-- The words of R122 as the model computes them, for the codes that an atomic may hold. -/
theorem atomicWord_eq {o : BitVec 4} {n old : Nat} (v : Nat) (ho : o.toNat ≤ 8) (hn : n = 4 ∨ n = 8) (hold : old < 2 ^ (8 * n)) :
    atomicWord o n old v = atomicResult o.toNat n old v := by
  have hv : v % 2 ^ (8 * n) < 2 ^ (8 * n) := Nat.mod_lt _ (by positivity)
  simp only [atomicWord, atomicResult, sext_of_word hn hold, sext_of_word hn hv, decide_eq_true_iff, min_eq_ite, max_eq_ite]
  generalize o.toNat = code at ho
  interval_cases code <;> rfl

theorem eq_nil_of_lowest {l : List Nat} (h : lowest l = none) : l = [] := by
  cases l with
  | nil => rfl
  | cons d ds =>
    unfold lowest at h
    split at h <;> cases h

theorem not_of_when {c : Prop} [Decidable c] {d : Nat} (h : when c d = []) : ¬c := by
  intro hc
  rw [when, if_pos hc] at h
  cases h

theorem wordBytes_cases (w : BitVec 1) : wordBytes w = 4 ∨ wordBytes w = 8 := by revert w; decide

theorem atomicBytes_eq (w : BitVec 1) : atomicBytes w = wordBytes w := rfl

/-! ### AMO and CAS (R122, R123) -/

/-- The code of an AMO that can issue is one of R122's nine. -/
theorem amo_code {p : BitVec 2} {o : BitVec 4} {w : BitVec 1} {t : BitVec 9} {l r : W64} {s : State} (h : Ready (.amo p o w t) l r s) :
    o.toNat ≤ 8 := by
  obtain ⟨_, hfields, _⟩ := h
  have hnil := List.append_eq_nil_iff.1 (List.append_eq_nil_iff.1 (eq_nil_of_lowest hfields)).1
  exact Nat.lt_succ_iff.1 (Nat.not_le.1 (not_of_when hnil.1))

theorem bound_of_bind {s u : State} {rid c : Nat} {b : BlockRun} (hu : u = Machine.bind s rid c) (h : runOf u rid c = some b) : b.bound = true := by
  rw [hu, Machine.bind, runOf_modRun] at h
  obtain ⟨a, _, rfl⟩ := Option.map_eq_some_iff.1 h
  rfl

theorem amoResults : AmoResults := by
  intro p o w t l r s hwf hq hr himm hfree
  have hnow := atomicNow_of_free (fun old => some (atomicWord o (wordBytes w) old r.toNat)) hfree
  have hexec : exec (.amo p o w t) s = _ := exec_of_performs ⟨_, fun _ => rfl, fun _ => rfl⟩ hr
  have himm' : immediateHeld s s.cur.rid s.cur.core ≠ true := ne_true_of_eq_false himm
  simp only [immediate, himm, Bool.false_eq_true, if_false, atomicBytes_eq, hnow] at hexec
  refine ⟨_, hexec, ?_, fun b hb => bound_of_bind rfl hb⟩
  rw [← atomicWord_eq _ (amo_code hr) (wordBytes_cases w) (by have := readNat_lt s (place s l) (wordBytes w); rwa [pow_256] at this)]
  refine onlyWrites_of_mem hwf ?_
  rw [mem_bind]
  exact mem_atomicWrite_some _ _ (.inr hq)

theorem mem_atomicWrite (s : State) (a : W64) (n : Nat) (v : Option Nat) (hq : quiet s s.cur.rid) :
    (atomicWrite s (actor s) a n v).mem = (v.elim s fun v => writeNat s (place s a) n v).mem := by
  cases v with
  | none => exact mem_atomicWrite_none s a n
  | some v => exact mem_atomicWrite_some n v (.inr hq)

/-- A CAS writes its new word where the old one is the expected one (R123). -/
theorem onlyWrites_of_cas {s u : State} {a : W64} {n e v : Nat} (hwf : Memory.wf s = true) (hq : quiet s s.cur.rid)
    (hu : u.mem = (atomicWrite s (actor s) a n (if wordAt s a n = e then some v else none)).mem) :
    onlyWrites s u a n (if wordAt s a n = e then v else wordAt s a n) := by
  rw [mem_atomicWrite _ _ _ _ hq] at hu
  split at hu
  · next h =>
    rw [if_pos h]
    exact onlyWrites_of_mem hwf hu
  · next h =>
    rw [if_neg h]
    exact onlyWrites_of_same hu

/-- A CAS that nothing holds, its expected and new word known, comes to `atomicNow`. -/
theorem exec_cas {p : BitVec 2} {w : BitVec 1} {t : BitVec 9} {l r : W64} {s : State} {e v : Nat} (hr : Ready (.cas p w t) l r s)
    (himm : immediateHeld s s.cur.rid s.cur.core = false) (hfree : atomicFree s l (wordBytes w)) (hpair : casPair s w r = .ok (e, v)) :
    exec (.cas p w t) s = .next (answer (.cas p w t) (some (BitVec.ofNat 64 (wordAt s l (wordBytes w)))) s
      (Machine.bind (atomicWrite s (actor s) l (wordBytes w) (if wordAt s l (wordBytes w) = e then some v else none)) s.cur.rid s.cur.core)) := by
  have hnow := atomicNow_of_free (fun old => if old = e then some v else none) hfree
  obtain ⟨htr, _⟩ := hfree
  have htr' : translate s (whoTask s s.cur.rid s.cur.core) l (wordBytes w) (wordBytes w) .atomic storeSpaces = .ok () := htr
  have hexec : exec (.cas p w t) s = _ := exec_of_performs ⟨_, fun _ => rfl, fun _ => rfl⟩ hr
  simp only [immediate, himm, Bool.false_eq_true, if_false, atomicBytes_eq, htr', hpair, hnow] at hexec
  exact hexec

theorem casPair_narrow (s : State) (b : W64) : casPair s 0 b = .ok (b.toNat / 2 ^ 32, b.toNat % 2 ^ 32) := rfl

/-- The wide form reads its pair from the scratchpad. -/
theorem casPair_wide {s : State} {b : W64} (hcheck : checkLocal s (actor s) b 16 16 [0xF0] = .ok ())
    (herr : readError s (worldOf s.cur.rid) (homeOf s (actor s) b) 16 = none) :
    casPair s 1 b = .ok (wordAt s b 16 % 2 ^ 64, wordAt s b 16 / 2 ^ 64) := by
  rw [actor] at hcheck herr
  have hwide : ¬(1 : BitVec 1) = 0 := by decide
  simp only [casPair, hwide, if_false, hcheck, herr]
  rfl

theorem casResults : CasResults := by
  refine ⟨fun p t l r s hwf hq hr himm hfree => ?_, fun p t l r s hwf hq hr himm hfree hcheck herr => ?_⟩
  · exact ⟨_, exec_cas hr himm hfree (casPair_narrow s r), onlyWrites_of_cas hwf hq (mem_bind ..)⟩
  · exact ⟨_, exec_cas hr himm hfree (casPair_wide hcheck herr), onlyWrites_of_cas hwf hq (mem_bind ..)⟩

/-- Settles O21: both come to `atomicNow` (`atomicNow_of_free`), whose write is the only one (`mem_atomicWrite`). -/
theorem atomicResults : Obligations.AtomicResults := ⟨amoResults, casResults⟩

end Sys2Proof.Accesses
end

section
/-!
PROOF. Reductions and cells (O22). Before an overflow each of them takes one entry of the commit buffer (`bufferOne_of_room`); a RED in the
scratchpad is an atomic, and CELLRD rounds the value of its cell once.
-/
open Sys2Proof Sys2Proof.Machine Sys2Proof.Claims

namespace Sys2Proof.Accesses

open Sys2Proof.Scalars

/-! ### One entry of the commit buffer (R105) -/

/-- A reduction or a cell operation that finds room takes an entry, and in global memory waits for its lookup. -/
theorem bufferOne_of_room {s : State} {b : BlockRun} {t : Task} (a : W64) (n : Nat) (k : EntKind) (hb : here s = some b)
    (ht : (coreHere s).task = some t) (hroom : entriesUsed (coreHere s) < 256) :
    bufferOne s a n k = .done (withLookup (modCore { s with nextId := s.nextId + 1 } s.cur.rid s.cur.core fun q =>
      { q with entries := q.entries ++ [newEntry s t b a k] }) .atomic [(a, n)]) := by
  have hroom' : entriesUsed (coreAt s s.cur.rid s.cur.core) < 256 := hroom
  simp only [bufferOne, hroom', if_true]
  rw [addEntry_eq a k ht hb]
  exact congrArg Act.done (addLookup_eq_withLookup (s := s) .atomic [(a, n)] rfl)

theorem writesThrough_eq {s : State} {t : Task} (ht : (coreHere s).task = some t) : writesThrough s = t.wt := by
  have htask : (coreAt s s.cur.rid s.cur.core).task = some t := ht
  simp only [writesThrough, htask]

/-- An access outside global memory waits for no lookup. -/
theorem withLookup_of_local {s : State} {a : W64} (acc : Acc) (n : Nat) (h : selector a ≠ 0) : withLookup s acc [(a, n)] = s := by
  have hnone : ([(a, n)].filter fun p => selector p.1 == 0) = [] := by simp [h]
  rw [withLookup, if_pos hnone]

/-! ### RED (R124) -/

theorem red_code {p : BitVec 2} {o : BitVec 4} {w : BitVec 1} {l r : W64} {s : State} (h : Ready (.red p o w) l r s) : o.toNat ≤ 8 := by
  obtain ⟨_, hfields, _⟩ := h
  have hnil := List.append_eq_nil_iff.1 (eq_nil_of_lowest hfields)
  have hcode := not_of_when hnil.1
  omega

theorem old_lt (s : State) (a : W64) (n : Nat) : wordAt s a n < 2 ^ (8 * n) := by
  have h := readNat_lt s (place s a) n
  rwa [pow_256] at h

theorem redResults : RedResults := by
  refine ⟨fun p o w l r s b hwf hr hb hl hs hcheck hfree => ?_, fun p o w l r s b t hr hb ht hw hs hcheck hroom => ?_⟩
  · have hnow := atomicNow_of_free (fun old => some (atomicWord o (wordBytes w) old r.toNat)) hfree
    have hrun : runOf s s.cur.rid s.cur.core = some b := hb
    have hcheck' : checkLocal s (whoTask s s.cur.rid s.cur.core) l (wordBytes w) (wordBytes w) storeSpaces = .ok () := hcheck
    have hexec : exec (.red p o w) s = _ := exec_of_performs ⟨_, fun _ => rfl, fun _ => rfl⟩ hr
    simp only [atomicBytes_eq, hcheck', hs, true_or, if_true, hrun, hl, Bool.false_eq_true, if_false, hnow, settled] at hexec
    refine ⟨_, hexec, ?_⟩
    rw [← atomicWord_eq _ (red_code hr) (wordBytes_cases w) (old_lt ..)]
    exact onlyWrites_of_mem hwf ((mem_bind ..).trans (mem_atomicWrite_some _ _ (.inl hs)))
  · have hcheck' : checkLocal s (whoTask s s.cur.rid s.cur.core) l (wordBytes w) (wordBytes w) storeSpaces = .ok () := hcheck
    have hthrough := (writesThrough_eq ht).trans hw
    have hexec : exec (.red p o w) s = _ := exec_of_performs ⟨_, fun _ => rfl, fun _ => rfl⟩ hr
    simp only [atomicBytes_eq, hcheck', hs, hthrough, Bool.false_eq_true, or_self, if_false, bufferOne_of_room _ _ _ hb ht hroom, settled] at hexec
    exact hexec

/-! ### Cells (R125 to R128) -/

theorem selector_of_check {s : State} {who : Who} {a : W64} {n align sp : Nat} (h : checkLocal s who a n align [sp] = .ok ()) :
    selector a = sp := by
  by_contra hne
  have hbad : ([sp] : List Nat).contains (selector a) = false := by simpa using hne
  simp only [checkLocal, hbad] at h
  split at h
  · cases h
  · split at h <;> cases h

/-- A cell operation in range takes one entry (R105, R126, R127). -/
theorem cellWrite_of_room {s : State} {b : BlockRun} {t : Task} {a : W64} (k : EntKind) (f : BitVec 256 → BitVec 256) (hb : here s = some b)
    (ht : (coreHere s).task = some t) (hw : t.wt = false) (hcheck : checkLocal s (actor s) a 32 32 [0xF4] = .ok ())
    (hroom : entriesUsed (coreHere s) < 256) :
    cellWrite s a k f = .done (modCore { s with nextId := s.nextId + 1 } s.cur.rid s.cur.core fun q =>
      { q with entries := q.entries ++ [newEntry s t b a k] }) := by
  have hlocal : selector a ≠ 0 := by rw [selector_of_check hcheck]; decide
  have hthrough := (writesThrough_eq ht).trans hw
  rw [actor] at hcheck
  simp only [cellWrite, hcheck, hthrough, Bool.false_eq_true, if_false, bufferOne_of_room _ _ _ hb ht hroom, withLookup_of_local _ _ hlocal]

theorem exec_cellinit {p : BitVec 2} {l r : W64} {s : State} (hr : Ready (.cellinit p) l r s)
    (hcheck : checkLocal s (actor s) l 32 32 [0xF4] = .ok ()) (hlo : -160 ≤ r.toInt) (hhi : r.toInt ≤ 127) :
    exec (.cellinit p) s = .next (settled (.cellinit p) s (cellWrite s l (.cellinit r) fun _ => cellOf 0 r.toInt 0)) := by
  have hexec : exec (.cellinit p) s = _ := exec_of_performs ⟨_, fun _ => rfl, fun _ => rfl⟩ hr
  have hrange : ¬(r.toInt < -160 ∨ 127 < r.toInt) := by omega
  rw [actor] at hcheck
  simp only [hcheck, hrange, if_false] at hexec
  exact hexec

/-! ### CELLRD (R128) -/

theorem cellW_eq (x : BitVec 256) : cellW x = (x.extractLsb' 0 192).toInt := by
  rw [cellW, sext_eq_toInt (by decide)]
  rfl

theorem cellL_eq (x : BitVec 256) : cellL x = (x.extractLsb' 192 16).toInt := by
  have hfield : bitsOf x.toNat 207 192 = x.toNat / 2 ^ 192 % 2 ^ 16 := rfl
  rw [cellL, hfield, sext_mod, sext_eq_toInt (by decide), ← Nat.shiftRight_eq_div_pow]
  rfl

theorem readCell_of_invalid {x : BitVec 256} (h : x.getLsbD 209 = true) : readCell x = (0x7FC00000, {}) := by
  rw [readCell, if_pos h]
  rfl

theorem readCell_of_valid {x : BitVec 256} (h : x.getLsbD 209 = false) :
    readCell x = encodeVal fp32 .rne (.num (decide ((x.extractLsb' 0 192).toInt < 0)) (x.extractLsb' 0 192).toInt.natAbs
      (x.extractLsb' 192 16).toInt false) := by
  have hrne : (Mode.rne == Mode.rdn) = false := by decide
  rw [readCell, if_neg (ne_true_of_eq_false h), roundRne, ofInt, hrne, Bool.and_false, Bool.or_false, cellW_eq, cellL_eq]

/-- A CELLRD whose cell's data is whole delivers what it reads as and raises its flags. -/
theorem exec_cellrd {p : BitVec 2} {t : BitVec 9} {l r : W64} {s : State} {x : Nat × Fl} (hr : Ready (.cellrd p t) l r s)
    (hcheck : checkLocal s (actor s) l 32 32 [0xF4] = .ok ())
    (hdata : dataError s (cellKey s.cur.rid (addrDie l) (addrOff l / 32)) 1 = none) (hx : readCell (cellNow s l) = x) :
    exec (.cellrd p t) s = .next (answer (.cellrd p t) (some (BitVec.ofNat 64 x.1)) s (noteRead (raise s x.2) (actor s) (actorUid s) l)) := by
  have hexec : exec (.cellrd p t) s = _ := exec_of_performs ⟨_, fun _ => rfl, fun _ => rfl⟩ hr
  have herr : cellError s s.cur.rid l = none := hdata
  have hread : readCell (cellAtAddr s s.cur.rid l) = x := hx
  rw [actor] at hcheck
  simp only [hcheck, herr, hread, settled] at hexec
  exact hexec

theorem cellResults : CellResults := by
  refine ⟨fun p y l r s b t hr hb ht hw hcheck hroom => ?_, fun p l r s b t hr hb ht hw hcheck hlo hhi hroom => ?_,
    fun p t l r s e hr hcheck herr => ?_, fun p t l r s hr hcheck hdata => ⟨fun hinv => ?_, fun hval => ?_⟩⟩
  · have hexec : exec (.redf p y) s = _ := exec_of_performs ⟨_, fun _ => rfl, fun _ => rfl⟩ hr
    rw [hexec, cellWrite_of_room _ _ hb ht hw hcheck hroom, settled]
  · rw [exec_cellinit hr hcheck hlo hhi, cellWrite_of_room _ _ hb ht hw hcheck hroom, settled]
  · have hexec : exec (.cellrd p t) s = _ := exec_of_performs ⟨_, fun _ => rfl, fun _ => rfl⟩ hr
    have herr' : cellError s s.cur.rid l = some e := herr
    rw [actor] at hcheck
    simp only [hcheck, herr', settled] at hexec
    exact hexec
  · have hread := exec_cellrd hr hcheck hdata (readCell_of_invalid hinv)
    rw [hread]
    rfl
  · exact ⟨_, _, rfl, exec_cellrd hr hcheck hdata (readCell_of_valid hval)⟩

/-- Settles O22: a RED in the scratchpad is an atomic there (`atomicNow_of_free`), what goes elsewhere takes an entry (`bufferOne_of_room`), and
CELLRD delivers what `readCell` makes of its cell. -/
theorem reductionResults : Obligations.ReductionResults := ⟨redResults, cellResults⟩

end Sys2Proof.Accesses
end

section
/-!
PROOF. Lookups, commits, fences and SEAL (O19). The write of a SEAL is a write at memory of 8 bytes (`mem_performWrite`), and an aligned write
counts one version of one granule.
-/
open Sys2Proof Sys2Proof.Machine Sys2Proof.Claims

namespace Sys2Proof.Accesses

open Sys2Proof.Scalars

theorem lookupAnswers : LookupAnswers := by
  intro s rid c b k l hb ha hl
  change (_ → execLeaseLookupResult rid c k s = _) ∧ ∀ e a, _ → execLeaseLookupResult rid c k s = _
  refine ⟨fun hnone => ?_, fun e a hsome => ?_⟩
  · simp only [execLeaseLookupResult, hb, hl, ha, Bool.not_true, Bool.false_eq_true, if_false, hnone]
  · simp only [execLeaseLookupResult, hb, hl, ha, Bool.not_true, Bool.false_eq_true, if_false, hsome]

/-! ### Commits and fences (R108, R118, R120, R121) -/

/-- What an immediate operation that nothing holds answers (R53). -/
theorem immediate_free {s : State} (f : State → Act) (h : immediateHeld s s.cur.rid s.cur.core = false) : immediate s f = f s :=
  if_neg (ne_true_of_eq_false h)

theorem exec_cmt {p : BitVec 2} {l r : W64} {s : State} {t : Task} (hr : Ready (.cmt p) l r s)
    (himm : immediateHeld s s.cur.rid s.cur.core = false) (ht : (coreHere s).task = some t) :
    exec (.cmt p) s = .next (fired s (Machine.bind (commitEntries s s.cur.rid s.cur.core t.uid t.rcd) s.cur.rid s.cur.core)) := by
  have hexec : exec (.cmt p) s = _ := exec_of_performs ⟨_, fun _ => rfl, fun _ => rfl⟩ hr
  have htask : (coreAt s s.cur.rid s.cur.core).task = some t := ht
  rw [hexec, immediate_free _ himm, settled, commitRunning, htask]

theorem exec_fenceAcq {p : BitVec 2} {e : BitVec 3} {l r : W64} {s : State} (hr : Ready (.fenceAcq p e) l r s)
    (hd : loadsDelivered s = true) : exec (.fenceAcq p e) s = .next (fired s s) := by
  have hexec : exec (.fenceAcq p e) s = _ := exec_of_performs ⟨_, fun _ => rfl, fun _ => rfl⟩ hr
  rw [hexec, if_pos hd, settled]

/-- A fence that releases, nothing holding it: it commits, and completes once what it covers is acknowledged. -/
theorem exec_fenceRel {p : BitVec 2} {e : BitVec 3} {l r : W64} {s : State} (hr : Ready (.fenceRel p e) l r s)
    (himm : immediateHeld s s.cur.rid s.cur.core = false) :
    exec (.fenceRel p e) s = .next (settled (.fenceRel p e) s
      (if !partDone s then .later (commitPart s) else if releaseDone s (e == 4) then .done s else .hold)) := by
  have hexec : exec (.fenceRel p e) s = _ := exec_of_performs ⟨_, fun _ => rfl, fun _ => rfl⟩ hr
  rw [hexec, immediate_free _ himm]
  rfl

theorem exec_fenceSc {p : BitVec 2} {e : BitVec 3} {l r : W64} {s : State} (hr : Ready (.fenceSc p e) l r s)
    (himm : immediateHeld s s.cur.rid s.cur.core = false) :
    exec (.fenceSc p e) s = .next (settled (.fenceSc p e) s
      (if !partDone s then .later (commitPart s) else if releaseDone s (e == 4) && loadsDelivered s then .done s else .hold)) := by
  have hexec : exec (.fenceSc p e) s = _ := exec_of_performs ⟨_, fun _ => rfl, fun _ => rfl⟩ hr
  rw [hexec, immediate_free _ himm]
  rfl

theorem commitAndFences : CommitAndFences := by
  refine ⟨fun p l r s t hr himm ht => exec_cmt hr himm ht, fun p e l r s hr hd => exec_fenceAcq hr hd,
    fun p e l r s hr himm => ⟨fun hpart => ?_, fun hpart hdone => ?_⟩,
    fun p e l r s hr himm => ⟨fun hpart => ?_, fun hpart hdone hloads => ?_⟩⟩
  · rw [exec_fenceRel hr himm, hpart, Bool.not_false, if_pos rfl, settled]
  · rw [exec_fenceRel hr himm, hpart, Bool.not_true, if_neg Bool.false_ne_true, hdone, if_pos rfl, settled]
  · rw [exec_fenceSc hr himm, hpart, Bool.not_false, if_pos rfl, settled]
  · rw [exec_fenceSc hr himm, hpart, Bool.not_true, if_neg Bool.false_ne_true, hdone, hloads, Bool.and_true, if_pos rfl, settled]

/-! ### SEAL (R119) -/

theorem exec_seal_commits {p : BitVec 2} {l r : W64} {s : State} (hr : Ready (.seal p) l r s)
    (himm : immediateHeld s s.cur.rid s.cur.core = false) (hpart : partDone s = false)
    (htr : translate s (actor s) l 8 8 .write [0, 0xF1, 0xF2] = .ok ()) (hwatch : watched s s.cur.rid s.cur.core l 8 .write = false) :
    exec (.seal p) s = .next (commitPart s) := by
  have hexec : exec (.seal p) s = _ := exec_of_performs ⟨_, fun _ => rfl, fun _ => rfl⟩ hr
  rw [actor] at htr
  rw [hexec, immediate_free _ himm]
  simp only [hpart, Bool.not_false, if_true, htr, hwatch, Bool.false_eq_true, if_false, settled]

theorem exec_seal_writes {p : BitVec 2} {l r : W64} {s u : State} (hr : Ready (.seal p) l r s)
    (himm : immediateHeld s s.cur.rid s.cur.core = false) (hpart : partDone s = true) (hdone : releaseDone s true = true)
    (hw : immediateWrite s (actor s) ((coreHere s).task.getD {}) l (bytesOf 8 r.toNat) = some u) :
    exec (.seal p) s = .next (fired s (Machine.bind u s.cur.rid s.cur.core)) := by
  have hexec : exec (.seal p) s = _ := exec_of_performs ⟨_, fun _ => rfl, fun _ => rfl⟩ hr
  rw [actor, coreHere] at hw
  rw [hexec, immediate_free _ himm]
  simp only [hpart, hdone, Bool.not_true, Bool.false_eq_true, if_false, hw, settled]

/-- A write of 8 aligned bytes counts one version of its granule (R102). -/
theorem versions_bumpRange {s : State} {t x : Nat} (hx : x % 8 = 0) :
    tget 0 (bumpRange s (.glob t x) 8).versions (versionKey t (x / 0x200000)) = tget 0 s.versions (versionKey t (x / 0x200000)) + 1 := by
  have hone : ¬(8 ≠ 0 ∧ (x + 8 - 1) / 0x200000 ≠ x / 0x200000) := by omega
  simp only [bumpRange, if_neg hone, bumpVersion]
  rw [tget_tmod, if_pos rfl]

/-- The state a write at memory of the running task leaves, acknowledged later, for what no core holds. -/
theorem part_completed {α : Type} (π : State → α) (hcore : ∀ s rid c f, π (modCore s rid c f) = π s)
    (hid : ∀ s n, π { s with nextId := n } = π s)
    (s u : State) (uid : Nat) (a : W64) :
    π (fired s (Machine.bind (addAck u (actor s) uid a) s.cur.rid s.cur.core)) = π u :=
  (part_modRun π hcore ..).trans ((part_modRun π hcore ..).trans (part_addAck π hcore hid ..))

theorem versions_performWrite {s : State} {who : Who} (uid : Nat) (a : W64) (bs : List Byte) (hq : quiet s who.rid) :
    (performWrite s who uid a bs).versions = (bumpRange (writeKeys s (homeOf s who a).key bs) (homeOf s who a) bs.length).versions :=
  ((aborts_performWrite ..).part (quiet_landed who a bs hq) State.versions fun _ _ => rfl).trans
    (part_noteHbm State.versions (fun _ _ _ => rfl) ..)

theorem sealWrites : SealWrites := by
  intro p l r s hwf hq hr himm
  refine ⟨fun hpart htr hwatch => exec_seal_commits hr himm hpart htr hwatch, fun hpart hdone hheld hdrain hload hserved => ?_⟩
  have hlen : (bytesOf 8 r.toNat).length = 8 := length_bytesOf ..
  rw [← hlen] at hheld hdrain hload hserved
  have hexec := exec_seal_writes hr himm hpart hdone
    (immediateWrite_of_free (t := (coreHere s).task.getD {}) hheld hdrain hload hserved)
  have hmem := (part_completed State.mem (fun _ _ _ _ => rfl) (fun _ _ => rfl) s
    (performWrite s (actor s) ((coreHere s).task.getD {}).uid l (bytesOf 8 r.toNat)) ((coreHere s).task.getD {}).uid l).trans
    (mem_performWrite _ l _ hq)
  obtain ⟨hword, hframe⟩ := onlyWrites_of_mem hwf hmem
  refine ⟨_, hexec, ?_, hframe, fun t x hhome hx => ?_⟩
  · refine hword.trans (Nat.mod_eq_of_lt ?_)
    exact r.isLt
  · have hver := (part_completed State.versions (fun _ _ _ _ => rfl) (fun _ _ => rfl) s
      (performWrite s (actor s) ((coreHere s).task.getD {}).uid l (bytesOf 8 r.toNat)) ((coreHere s).task.getD {}).uid l).trans
      (versions_performWrite _ l _ hq)
    rw [hver, hhome, hlen, versions_bumpRange hx, part_writeKeys State.versions fun _ _ _ => rfl]

/-- Settles O19: lookups as they are answered, commits and fences as their two halves stand, and the one write of a SEAL. -/
theorem commitsAndFences : Obligations.CommitsAndFences := ⟨lookupAnswers, commitAndFences, sealWrites⟩

end Sys2Proof.Accesses
end

section
/-!
PROOF. Spawns, deques and queue reservations (O24). A record is read and checked, and then the queue of its stage decides: `pushTask_of_room`
and `pushTask_of_spill` say what a push comes to. An immediate SPAWN is of a safe task, whose read records no line (`noteRecord_of_safe`).
-/
open Sys2Proof Sys2Proof.Machine Sys2Proof.Claims

namespace Sys2Proof.QueueOps

open Sys2Proof.Scalars Sys2Proof.Accesses

/-! ### Queues under changes of other parts -/

theorem modQueue_congr {s : State} {rid n : Nat} {f g : Queue → Queue} (h : f (queueAt s rid n) = g (queueAt s rid n)) :
    modQueue s rid n f = modQueue s rid n g := by
  have h' : f (tget {} (rectAt s rid).queues n) = g (tget {} (rectAt s rid).queues n) := h
  simp only [modQueue, modRect, h']

theorem rectAt_noteOccupancy (s : State) (rid n q : Nat) : rectAt (noteOccupancy s rid n) q = rectAt s q := rfl

/-- Between two states nothing that a reader of rectangles sees differs, and nothing else. -/
structure SameRects (s u : State) : Prop where
  rest : u = { s with rects := u.rects }
  rect : ∀ q, rectAt u q = rectAt s q

theorem SameRects.refl (s : State) : SameRects s s := ⟨rfl, fun _ => rfl⟩

theorem SameRects.core {s u : State} (h : SameRects s u) (rid c : Nat) : coreAt u rid c = coreAt s rid c := congrArg (coreOf · c) (h.rect rid)

theorem SameRects.queue {s u : State} (h : SameRects s u) (rid n : Nat) : queueAt u rid n = queueAt s rid n := by
  rw [queueAt, h.rect, queueAt]

theorem SameRects.cur {s u : State} (h : SameRects s u) : u.cur = s.cur := by rw [h.rest]

theorem homeOf_congr {s u : State} {who : Who} (a : W64) (hext : u.extents = s.extents) (hrect : rectAt u who.rid = rectAt s who.rid) :
    homeOf u who a = homeOf s who a := by
  simp only [homeOf, extentAt, hext, hrect]

theorem targetOf_congr {s u : State} {who : Who} (a : W64) (hext : u.extents = s.extents) (hrect : rectAt u who.rid = rectAt s who.rid) :
    targetOf u who a = targetOf s who a := by
  simp only [targetOf, homeOf_congr a hext hrect, hrect]

theorem inWindow_congr {s u : State} (who : Who) (a : W64) (hext : u.extents = s.extents) : inWindow u who a = inWindow s who a := by
  simp only [inWindow, extentAt, hext]

theorem SameRects.retainedAt {s u : State} (h : SameRects s u) (p : Place) (n : Nat) : Machine.retainedAt u p n = Machine.retainedAt s p n := by
  cases p <;> simp only [Machine.retainedAt, tileAt, h.rect]

theorem SameRects.extents {s u : State} (h : SameRects s u) : u.extents = s.extents := by rw [h.rest]

theorem SameRects.clockRuns {s u : State} (h : SameRects s u) (d : Nat) : Machine.clockRuns u d = Machine.clockRuns s d := by
  rw [Machine.clockRuns, h.rest]
  rfl

theorem SameRects.domainRuns {s u : State} (h : SameRects s u) (rid : Nat) : Machine.domainRuns u rid = Machine.domainRuns s rid := by
  simp only [Machine.domainRuns, h.rect, h.clockRuns]

theorem SameRects.writeHeld {s u : State} (h : SameRects s u) (who : Who) (a : W64) (n : Nat) :
    Machine.writeHeld u who a n = Machine.writeHeld s who a n := by
  simp only [Machine.writeHeld, inWindow_congr who a h.extents, homeOf_congr a h.extents (h.rect _), h.retainedAt, targetRuns,
    targetOf_congr a h.extents (h.rect _), h.clockRuns, h.domainRuns]

theorem SameRects.pushWaits {s u : State} (h : SameRects s u) (rid n uid : Nat) :
    Machine.pushWaits u rid n uid = Machine.pushWaits s rid n uid := by
  simp only [Machine.pushWaits, queueRuns, h.queue, h.rect, h.clockRuns, h.writeHeld]

/-! ### The record a SPAWN reads (R136, R151) -/

theorem recordLine_of_safe {d : Domain} {uid : Nat} (l : Nat × Nat) (marks : List Nat) (h : isSafe d uid = true) : recordLine d uid l marks = d :=
  if_pos h

/-- A safe task's read of a record notes no line. -/
theorem noteRecord_of_safe {s : State} (a : W64) (h : isSafe (rectAt s s.cur.rid).dom (coreUid s s.cur.rid s.cur.core) = true) :
    SameRects s (noteRecord s a) := by
  unfold noteRecord noteRead
  split
  · refine ⟨rfl, fun q => ?_⟩
    by_cases hq : q = s.cur.rid
    · subst hq
      rw [whoTask]
      simp only [rectAt_modRect_same, recordLine_of_safe _ _ h]
    · exact rectAt_modRect_other s _ hq
  · exact .refl s

/-! ### Pushes (R152, R154) -/

/-- A push that finds room puts the record in its queue. -/
theorem pushTask_of_room {s : State} {rid n uid : Nat} {rcd : BitVec 512} (hspill : (queueAt s rid n).spill = [])
    (hroom : roomFor (queueAt s rid n) uid = true) :
    pushTask s rid n uid rcd = .ok (modQueue (noteOccupancy s rid n) rid n fun q => withRecord q uid rcd, 0) := by
  have hpush : pushRecord (queueAt s rid n) uid rcd = some (withRecord (queueAt s rid n) uid rcd, 0) := by
    have hfree : ((queueAt s rid n).spill.isEmpty && roomFor (queueAt s rid n) uid) = true := by
      rw [hspill, hroom]
      rfl
    rw [pushRecord, if_pos hfree]
    rfl
  simp only [pushTask, hpush, show ¬(0 : Nat) = 2 by decide, if_false]
  exact congrArg (fun u => Except.ok (u, 0)) (modQueue_congr rfl)

/-- Writing a record to a spill area leaves every rectangle. -/
theorem rectAt_spillPut {s y : State} {w : Nat} {q : Queue} {rcd : BitVec 512} (h : spillPut s w q rcd = some y) (rid : Nat) :
    rectAt y rid = rectAt s rid := by
  have hrect (u : State) : y = u → u.rects = s.rects → rectAt y rid = rectAt s rid := fun hy hu => by rw [hy, rectAt, hu, rectAt]
  unfold spillPut at h
  split at h
  · split at h
    · split at h
      · exact hrect _ (Option.some.inj h).symm ((part_bumpRange State.rects (fun _ _ => rfl) ..).trans
          (part_writeKeys State.rects (fun _ _ _ => rfl) ..))
      · cases h
    · exact hrect _ (Option.some.inj h).symm rfl
  · exact hrect _ (Option.some.inj h).symm rfl

section
variable {s : State} {rid n uid : Nat} {rcd : BitVec 512}

/-- A record that finds no room in its queue goes to the spill area. -/
theorem pushRecord_of_full {q : Queue} (hfull : q.spill ≠ [] ∨ roomFor q uid = false) (hroom : q.spill.length < 8 * q.cap) :
    pushRecord q uid rcd = some ({ q with spill := q.spill ++ [rcd], spilled := q.spilled + 1 }, 2) := by
  have hno : (q.spill.isEmpty && roomFor q uid) = false := by
    rcases hfull with h | h
    · rw [List.isEmpty_eq_false_iff.2 h, Bool.false_and]
    · rw [h, Bool.and_false]
  have hspill : spillRoom q = true := decide_eq_true hroom
  rw [pushRecord, hno, if_neg Bool.false_ne_true, if_pos hspill]

/-- A push that finds no room in its queue spills its record, where the channel takes it. -/
theorem pushTask_of_spill {y : State} (hfull : (queueAt s rid n).spill ≠ [] ∨ roomFor (queueAt s rid n) uid = false)
    (hroom : (queueAt s rid n).spill.length < 8 * (queueAt s rid n).cap)
    (hput : spillPut s (worldOf rid) (queueAt s rid n) rcd = some y) :
    pushTask s rid n uid rcd = .ok (modQueue (noteOccupancy y rid n) rid n
      fun q => { q with spill := q.spill ++ [rcd], spilled := q.spilled + 1 }, 2) := by
  have hq : queueAt (noteOccupancy y rid n) rid n = queueAt s rid n := by
    rw [queueAt, rectAt_noteOccupancy, rectAt_spillPut hput, queueAt]
  simp only [pushTask, pushRecord_of_full hfull hroom, if_true, hput]
  exact congrArg (fun u => Except.ok (u, 2)) (modQueue_congr (by rw [hq]))

/-- A push whose spill the channel refuses fails. -/
theorem pushTask_of_refused (hfull : (queueAt s rid n).spill ≠ [] ∨ roomFor (queueAt s rid n) uid = false)
    (hroom : (queueAt s rid n).spill.length < 8 * (queueAt s rid n).cap) (hput : spillPut s (worldOf rid) (queueAt s rid n) rcd = none) :
    pushTask s rid n uid rcd = .error (0x080, spillAddr (queueAt s rid n) (queueAt s rid n).spilled) := by
  simp only [pushTask, pushRecord_of_full hfull hroom, if_true, hput]

end

/-! ### SPAWN (R152) -/

theorem noteRecord_rest (s : State) (a : W64) : noteRecord s a = { s with rects := (noteRecord s a).rects } := by
  unfold noteRecord noteRead
  split <;> rfl

theorem noteRecord_cur (s : State) (a : W64) : (noteRecord s a).cur = s.cur := by rw [noteRecord_rest]

theorem noteRecord_core (s : State) (a : W64) (rid c : Nat) : coreAt (noteRecord s a) rid c = coreAt s rid c := by
  unfold noteRecord noteRead
  split
  · exact coreAt_modRect _ _ _ _ _ rfl
  · rfl

theorem taskOrdered_eq {s : State} {t : Task} (ht : (coreHere s).task = some t) : taskOrdered s s.cur.rid s.cur.core = recOrdered t.rcd := by
  have htask : (coreAt s s.cur.rid s.cur.core).task = some t := ht
  simp only [taskOrdered, htask]

theorem coreUid_eq {s : State} {t : Task} (ht : (coreHere s).task = some t) : coreUid s s.cur.rid s.cur.core = t.uid := by
  have htask : (coreAt s s.cur.rid s.cur.core).task = some t := ht
  rw [coreUid, htask]
  rfl

/-- A task whose immediate operations wait for nothing is safe. -/
theorem safe_of_free {s : State} {b : BlockRun} {t : Task} (hb : here s = some b) (ht : (coreHere s).task = some t)
    (h : immediateHeld s s.cur.rid s.cur.core = false) : isSafe (rectAt s s.cur.rid).dom t.uid = true := by
  have hrun : runOf s s.cur.rid s.cur.core = some b := hb
  have htask : (coreAt s s.cur.rid s.cur.core).task = some t := ht
  rw [immediateHeld, hrun] at h
  have hsafe : taskSafe s s.cur.rid s.cur.core = true := by
    have := (Bool.or_eq_false_iff.1 h).1
    rwa [Bool.not_eq_false'] at this
  simpa only [taskSafe, htask] using hsafe

/-- The state an unordered SPAWN goes on from, once its record is read. -/
theorem noteRecord_of_spawning {s : State} {l : W64} {b : BlockRun} {t : Task} {rcd : BitVec 512} (h : spawning s l b t rcd)
    (himm : immediateHeld s s.cur.rid s.cur.core = false) : SameRects s (noteRecord s l) := by
  obtain ⟨hb, ht, -, -⟩ := h
  exact noteRecord_of_safe l (by rw [coreUid_eq ht]; exact safe_of_free hb ht himm)

theorem exec_spawn_unordered {p : BitVec 2} {x : BitVec 9} {l r : W64} {s : State} {b : BlockRun} {t : Task} {rcd : BitVec 512}
    (hr : Ready (.spawn p x) l r s) (h : spawning s l b t rcd) (hord : recOrdered t.rcd = false)
    (himm : immediateHeld s s.cur.rid s.cur.core = false) (hdrain : recordDrains s l = false) :
    exec (.spawn p x) s = .next (settled (.spawn p x) s (spawnRecord (noteRecord s l) rcd)) := by
  obtain ⟨-, ht, hread, hcheck⟩ := h
  have hexec : exec (.spawn p x) s = _ := exec_of_performs ⟨_, fun _ => rfl, fun _ => rfl⟩ hr
  rw [hexec, taskOrdered_eq ht, hord, Bool.false_and, if_neg Bool.false_ne_true, immediate_free _ himm, hdrain, if_neg Bool.false_ne_true, spawnAt,
    hread]
  simp only [hcheck]

theorem exec_spawn_deferred {p : BitVec 2} {x : BitVec 9} {l r : W64} {s : State} {b : BlockRun} {t : Task} {rcd : BitVec 512}
    (hr : Ready (.spawn p x) l r s) (h : spawning s l b t rcd) (hord : recOrdered t.rcd = true) (hwt : t.wt = false) :
    exec (.spawn p x) s = .next (settled (.spawn p x) s (spawnRecord (noteRecord s l) rcd)) := by
  obtain ⟨-, ht, hread, hcheck⟩ := h
  have hexec : exec (.spawn p x) s = _ := exec_of_performs ⟨_, fun _ => rfl, fun _ => rfl⟩ hr
  rw [hexec, taskOrdered_eq ht, hord, writesThrough_eq ht, hwt, Bool.not_false, Bool.true_and, if_pos rfl, spawnAt, hread]
  simp only [hcheck]

/-- What a record's SPAWN does for an unordered task. -/
theorem spawnRecord_unordered {s : State} {b : BlockRun} {t : Task} {rcd : BitVec 512} (hb : here s = some b) (ht : (coreHere s).task = some t)
    (hord : recOrdered t.rcd = false) :
    spawnRecord s rcd =
      if (queueAt s s.cur.rid (queueFor s rcd)).spill = [] ∧ roomFor (queueAt s s.cur.rid (queueFor s rcd)) t.uid = false ∧
          recOrdered rcd = false ∧ (coreHere s).csr.depth < (coreHere s).csr.depthmax ∧ b.inl = none then
        .send (modHere s fun b => { b with inl := some rcd, bound := true }) 1
      else spawnPush s rcd := by
  have htask : (coreAt s s.cur.rid s.cur.core).task = some t := ht
  have hrun : runOf s s.cur.rid s.cur.core = some b := hb
  have hinline : mayInline s rcd = decide ((queueAt s s.cur.rid (queueFor s rcd)).spill = [] ∧
      roomFor (queueAt s s.cur.rid (queueFor s rcd)) t.uid = false ∧
      recOrdered rcd = false ∧ (coreHere s).csr.depth < (coreHere s).csr.depthmax ∧ b.inl = none) := by
    rw [mayInline, coreUid_eq ht, hrun, Bool.eq_iff_iff]
    simp only [Bool.and_eq_true, List.isEmpty_iff, Bool.not_eq_true', decide_eq_true_iff, Option.isNone_iff_eq_none, and_assoc]
    rfl
  have hmod : Machine.bind (modRun s s.cur.rid s.cur.core fun b => { b with inl := some rcd }) s.cur.rid s.cur.core =
      modHere s fun b => { b with inl := some rcd, bound := true } := modRun_modRun ..
  simp only [spawnRecord, htask, Option.getD_some, hord, Bool.false_eq_true, if_false, hinline, decide_eq_true_iff, hmod]

theorem spawnPush_of_ok {s v : State} {t : Task} {rcd : BitVec 512} {st : Nat} (ht : (coreHere s).task = some t)
    (hw : pushWaits s s.cur.rid (queueFor s rcd) t.uid = false) (h : pushTask s s.cur.rid (queueFor s rcd) t.uid rcd = .ok (v, st)) :
    spawnPush s rcd = .send (Machine.bind v s.cur.rid s.cur.core) (BitVec.ofNat 64 st) := by
  have hwait : pushWaits s s.cur.rid (inputQueue s s.cur.rid (recStage rcd)) t.uid = false := hw
  have hpush : pushTask s s.cur.rid (inputQueue s s.cur.rid (recStage rcd)) t.uid rcd = .ok (v, st) := h
  simp only [spawnPush, coreUid_eq ht, hwait, Bool.false_eq_true, if_false, hpush]

theorem spawnPush_of_error {s : State} {t : Task} {rcd : BitVec 512} {e : Nat × Nat} (ht : (coreHere s).task = some t)
    (hw : pushWaits s s.cur.rid (queueFor s rcd) t.uid = false) (h : pushTask s s.cur.rid (queueFor s rcd) t.uid rcd = .error e) :
    spawnPush s rcd = .trap e.1 (BitVec.ofNat 64 e.2) := by
  have hwait : pushWaits s s.cur.rid (inputQueue s s.cur.rid (recStage rcd)) t.uid = false := hw
  have hpush : pushTask s s.cur.rid (inputQueue s s.cur.rid (recStage rcd)) t.uid rcd = .error e := h
  simp only [spawnPush, coreUid_eq ht, hwait, Bool.false_eq_true, if_false, hpush]

theorem spawnRecord_deferred {s : State} {b : BlockRun} {t : Task} {rcd : BitVec 512} (hb : here s = some b) (ht : (coreHere s).task = some t)
    (hord : recOrdered t.rcd = true) (hwt : t.wt = false) (hts : recOrdered rcd = true → recTs t.rcd ≤ recTs rcd)
    (hroom : entriesUsed (coreHere s) < 256) :
    spawnRecord s rcd = .send (modCore { s with nextId := s.nextId + 1 } s.cur.rid s.cur.core fun k =>
      { k with entries := k.entries ++ [newEntry s t b 0 (.spawn rcd)] }) 3 := by
  have htask : (coreAt s s.cur.rid s.cur.core).task = some t := ht
  have hroom' : entriesUsed (coreAt s s.cur.rid s.cur.core) < 256 := hroom
  have hearly : (recOrdered rcd && decide (recTs rcd < recTs t.rcd)) = false := by
    by_contra hne
    obtain ⟨hrcd, hlt⟩ := Bool.and_eq_true_iff.1 (Bool.not_eq_false _ ▸ hne)
    have := hts hrcd
    have := of_decide_eq_true hlt
    omega
  simp only [spawnRecord, htask, Option.getD_some, hord, hearly, hwt, hroom', Bool.false_eq_true, if_true, if_false, addEntry_eq 0 _ ht hb]
  rfl

theorem SameRects.queueFor {s u : State} (h : SameRects s u) (rcd : BitVec 512) : Claims.queueFor u rcd = Claims.queueFor s rcd := by
  rw [Claims.queueFor, Claims.queueFor, stageAt, h.rect, h.cur, stageAt]

theorem SameRects.coreHere {s u : State} (h : SameRects s u) : Claims.coreHere u = Claims.coreHere s := by
  rw [Claims.coreHere, h.cur, h.core, Claims.coreHere]

theorem spawnResults : SpawnResults := by
  intro p x l r s b t rcd hr hsp
  obtain ⟨hb, ht, hread, hcheck⟩ := id hsp
  have hb' : here (noteRecord s l) = some b := by
    rw [here, runOf, noteRecord_cur, noteRecord_core]
    exact hb
  have ht' : (coreHere (noteRecord s l)).task = some t := by
    rw [coreHere, noteRecord_cur, noteRecord_core]
    exact ht
  refine ⟨fun hord himm hdrain hw hspill hroom => ?_, fun hord himm hdrain hspill hroom hun hdepth hinl => ?_,
    fun hord himm hdrain hw hlen hwhy => ?_, fun hord hwt hts hroom => ?_⟩
  · have hsame := noteRecord_of_spawning hsp himm
    have hpush := pushTask_of_room (s := noteRecord s l) (rid := s.cur.rid) (n := queueFor s rcd) (uid := t.uid) (rcd := rcd)
      (by rwa [hsame.queue]) (by rwa [hsame.queue])
    rw [← hsame.cur, ← hsame.queueFor] at hpush
    have hwait : pushWaits (noteRecord s l) (noteRecord s l).cur.rid (queueFor (noteRecord s l) rcd) t.uid = false := by
      rwa [hsame.pushWaits, hsame.cur, hsame.queueFor]
    have hspawn := spawnPush_of_ok ht' hwait hpush
    rw [hsame.cur, hsame.queueFor] at hspawn
    rw [exec_spawn_unordered hr hsp hord himm hdrain, spawnRecord_unordered hb' ht' hord, if_neg]
    · rw [hspawn]
      rfl
    · rw [hsame.queueFor, hsame.cur, hsame.queue, hroom]
      rintro ⟨-, hno, -⟩
      cases hno
  · have hsame := noteRecord_of_spawning hsp himm
    rw [exec_spawn_unordered hr hsp hord himm hdrain, spawnRecord_unordered hb' ht' hord, if_pos, settled]
    rw [hsame.queueFor, hsame.cur, hsame.queue, hsame.coreHere]
    exact ⟨hspill, hroom, hun, hdepth, hinl⟩
  · have hsame := noteRecord_of_spawning hsp himm
    have hfull : (queueAt s s.cur.rid (queueFor s rcd)).spill ≠ [] ∨ roomFor (queueAt s s.cur.rid (queueFor s rcd)) t.uid = false :=
      hwhy.imp_right And.left
    have hwait : pushWaits (noteRecord s l) (noteRecord s l).cur.rid (queueFor (noteRecord s l) rcd) t.uid = false := by
      rwa [hsame.pushWaits, hsame.cur, hsame.queueFor]
    rw [← hsame.queue] at hfull hlen
    rw [exec_spawn_unordered hr hsp hord himm hdrain, spawnRecord_unordered hb' ht' hord, if_neg]
    · refine ⟨fun y hy => ?_, fun hy => ?_⟩
      · rw [← hsame.queue] at hy
        have hpush := pushTask_of_spill hfull hlen hy
        rw [← hsame.cur, ← hsame.queueFor] at hpush
        rw [spawnPush_of_ok ht' hwait hpush, settled, hsame.cur, hsame.queueFor]
        rfl
      · rw [← hsame.queue] at hy
        have hpush := pushTask_of_refused (uid := t.uid) hfull hlen hy
        rw [← hsame.cur, ← hsame.queueFor] at hpush
        rw [spawnPush_of_error ht' hwait hpush, settled, hsame.cur, hsame.queueFor, hsame.queue]
    · rw [hsame.queueFor, hsame.cur, hsame.queue, hsame.coreHere]
      rintro ⟨hnil, -, hun, hdepth, hinl⟩
      rcases hwhy with hne | ⟨-, hord' | hdeep | hin⟩
      · exact hne hnil
      · rw [hun] at hord'
        cases hord'
      · exact absurd hdepth (by omega)
      · exact hin hinl
  · have hroom' : entriesUsed (coreHere (noteRecord s l)) < 256 := by
      rw [coreHere, noteRecord_cur, noteRecord_core]
      exact hroom
    have hid : (noteRecord s l).nextId = s.nextId := by rw [noteRecord_rest]
    rw [exec_spawn_deferred hr hsp hord hwt, spawnRecord_deferred hb' ht' hord hwt hts hroom', settled, newEntry, newEntry, noteRecord_cur, hid]

/-! ### The deque (R155) -/

theorem exec_dqpush {p : BitVec 2} {x : BitVec 9} {l r : W64} {s : State} {b : BlockRun} {t : Task} {rcd : BitVec 512}
    (hr : Ready (.dqpush p x) l r s) (h : spawning s l b t rcd) (himm : immediateHeld s s.cur.rid s.cur.core = false)
    (hdrain : recordDrains s l = false) (hstage : (coreHere s).stage = some (recStage rcd)) :
    exec (.dqpush p x) s = .next (settled (.dqpush p x) s
      (if 32 ≤ (coreHere s).deque.length then .send (Machine.bind s s.cur.rid s.cur.core) 0
        else .send (Machine.bind (modCore s s.cur.rid s.cur.core fun k => { k with deque := k.deque ++ [rcd] }) s.cur.rid s.cur.core) 1)) := by
  obtain ⟨-, -, hread, hcheck⟩ := h
  have hown : ¬some (recStage rcd) ≠ (coreAt s s.cur.rid s.cur.core).stage := not_not.2 hstage.symm
  have hexec : exec (.dqpush p x) s = _ := exec_of_performs ⟨_, fun _ => rfl, fun _ => rfl⟩ hr
  rw [hexec, immediate_free _ himm, hdrain, if_neg Bool.false_ne_true, hread]
  simp only [hcheck, if_neg hown]
  rfl

/-- A DQPOP in the scratchpad that finds no record. -/
theorem exec_dqpop_nil {p : BitVec 2} {x : BitVec 9} {l r : W64} {s : State} (hr : Ready (.dqpop p x) l r s)
    (himm : immediateHeld s s.cur.rid s.cur.core = false) (hcheck : checkLocal s (actor s) l 64 64 [0xF0, 0xF1] = .ok ())
    (hnil : (coreHere s).deque = []) :
    exec (.dqpop p x) s = .next (answer (.dqpop p x) (some 0) s (Machine.bind s s.cur.rid s.cur.core)) := by
  have hexec : exec (.dqpop p x) s = _ := exec_of_performs ⟨_, fun _ => rfl, fun _ => rfl⟩ hr
  have hdeque : (coreAt s s.cur.rid s.cur.core).deque = [] := hnil
  rw [actor] at hcheck
  rw [hexec, immediate_free _ himm]
  simp only [hcheck, hdeque, List.reverse_nil]
  rfl

/-- A DQPOP in the scratchpad stores the record at the bottom and takes it from the deque. -/
theorem exec_dqpop_append {p : BitVec 2} {x : BitVec 9} {l r : W64} {s : State} {b : BlockRun} {t : Task} {rs : List (BitVec 512)}
    {rcd : BitVec 512} (hr : Ready (.dqpop p x) l r s) (hb : here s = some b) (ht : (coreHere s).task = some t)
    (himm : immediateHeld s s.cur.rid s.cur.core = false) (hs : selector l = 0xF0)
    (hcheck : checkLocal s (actor s) l 64 64 [0xF0, 0xF1] = .ok ()) (hdeque : (coreHere s).deque = rs ++ [rcd]) :
    exec (.dqpop p x) s = .next (answer (.dqpop p x) (some 1) s (Machine.bind
      (modCore (Machine.bind (scratchWrites s [(l, bytesOf 64 rcd.toNat)]) s.cur.rid s.cur.core) s.cur.rid s.cur.core
        fun k => { k with deque := rs }) s.cur.rid s.cur.core)) := by
  have hexec : exec (.dqpop p x) s = _ := exec_of_performs ⟨_, fun _ => rfl, fun _ => rfl⟩ hr
  have hrev : (coreAt s s.cur.rid s.cur.core).deque.reverse = rcd :: rs.reverse := by
    have h : (coreAt s s.cur.rid s.cur.core).deque = rs ++ [rcd] := hdeque
    rw [h, List.reverse_concat]
  have hlook : lookupsBelow b s.cur.slot = false := by
    have hrun : runOf s s.cur.rid s.cur.core = some b := hb
    rw [immediateHeld, hrun] at himm
    exact (Bool.or_eq_false_iff.1 himm).2
  have hstore := storePieces_of_scratch hb ht (ps := [(l, bytesOf 64 rcd.toNat)])
    (fun q hq => by rw [List.mem_singleton.1 hq]; exact hs) hlook
  rw [actor] at hcheck
  rw [hexec, immediate_free _ himm]
  simp only [hcheck, hrev, hstore, List.reverse_reverse]
  rfl

theorem dequeResults : DequeResults := by
  refine ⟨fun p x l r s b t rcd hr hsp himm hdrain hstage => ⟨fun hroom => ?_, fun hfull => ?_⟩,
    fun p x l r s b t hwf hr hb ht himm hs hcheck => ⟨exec_dqpop_nil hr himm hcheck, fun rs rcd hdeque =>
      ⟨_, exec_dqpop_append hr hb ht himm hs hcheck hdeque, onlyWrites_of_mem hwf ?_, ?_⟩⟩⟩
  · rw [exec_dqpush hr hsp himm hdrain hstage, if_neg (Nat.not_le.2 hroom), settled]
  · rw [exec_dqpush hr hsp himm hdrain hstage, if_pos hfull, settled]
  · have hplace : place s l = Place.key (.scr s.cur.rid s.cur.core (addrOff l)) := by
      rw [place, homeOf_of_scratch hs]
      rfl
    rw [hplace]
    exact (mem_bind ..).trans (mem_bind ..)
  · obtain ⟨ph, hph⟩ := coreAt_bind (modCore (Machine.bind (scratchWrites s [(l, bytesOf 64 rcd.toNat)]) s.cur.rid s.cur.core)
      s.cur.rid s.cur.core fun k => { k with deque := rs }) s.cur.rid s.cur.core s.cur.rid
      s.cur.core
    rw [hph, coreAt_modCore_same]

/-! ### Queue lengths and reservations (R162, R163) -/

theorem exec_qrsv {p : BitVec 2} {k : BitVec 1} {q : BitVec 6} {x : BitVec 9} {l r : W64} {s : State} {n : Nat} (hr : Ready (.qrsv p k q x) l r s)
    (hn : namedQueue s k q true = .ok n) (himm : immediateHeld s s.cur.rid s.cur.core = false) (hruns : queueRuns s s.cur.rid n = true)
    (hlo : 1 ≤ l.toNat) (hhi : l.toNat ≤ 64) :
    exec (.qrsv p k q x) s = .next (settled (.qrsv p k q x) s
      (if held (queueAt s s.cur.rid n) + reserved (queueAt s s.cur.rid n) + l.toNat ≤ (queueAt s s.cur.rid n).cap ∧
          (queueAt s s.cur.rid n).spill = [] ∧ heldByTask (rectAt s s.cur.rid) (actorUid s) + l.toNat ≤ 64 then
        .send (Machine.bind (modQueue s s.cur.rid n fun z => { z with resv := z.resv ++ [(actorUid s, l.toNat)] }) s.cur.rid s.cur.core) 1
      else .send (Machine.bind s s.cur.rid s.cur.core) 0)) := by
  have hexec : exec (.qrsv p k q x) s = _ := exec_of_performs ⟨_, fun _ => rfl, fun _ => rfl⟩ hr
  have hcount : ¬(l.toNat = 0 ∨ 64 < l.toNat) := by omega
  rw [hexec, immediate_free _ himm]
  simp only [hn, if_neg hcount, hruns, Bool.not_true, Bool.false_eq_true, if_false, Bool.and_eq_true, decide_eq_true_iff, List.isEmpty_iff, and_assoc]
  rfl

theorem queueReservations : QueueReservations := by
  refine ⟨fun p k q x l r s n hr hn => ?_, fun p k q x l r s n hr hn himm hruns hlo hhi => ⟨fun hfits => ?_, fun hno => ?_⟩⟩
  · have hexec : exec (.qlen p k q x) s = _ := exec_of_performs ⟨_, fun _ => rfl, fun _ => rfl⟩ hr
    rw [hexec, hn]
    rfl
  · rw [exec_qrsv hr hn himm hruns hlo hhi, heldByTask, if_pos hfits, settled]
  · rw [exec_qrsv hr hn himm hruns hlo hhi, heldByTask, if_neg hno, settled]

/-- Settles O24: a SPAWN runs inline, is pushed (`pushTask_of_room`), spilled (`pushTask_of_spill`) or deferred as its queue and its task stand. -/
theorem queueResults : Obligations.QueueResults := ⟨spawnResults, dequeResults, queueReservations⟩

end Sys2Proof.QueueOps
end

section
/-!
PROOF. Drained entries and their acknowledgements (O23). A cell is three fields of 256 bits (`cellOf_sum`, `cellOf_scale`, `cellOf_flags`); an
entry that nothing holds performs at once (`exec_drain`), and what its write aborts touches no cell and no byte.
-/
open Sys2Proof Sys2Proof.Machine Sys2Proof.Claims

namespace Sys2Proof.Drains

open Sys2Proof.Scalars Sys2Proof.Accesses Sys2Proof.Semaphores

/-! ### The fields of a cell (R125) -/

theorem wrap_lt (n : Nat) (x : Int) : wrap n x < 2 ^ n := by
  have hpos : (0 : Int) < (2 ^ n : Nat) := by positivity
  have := Int.emod_nonneg x hpos.ne'
  have := Int.emod_lt_of_pos x hpos
  rw [wrap]
  omega

theorem ofNat_wrap (n : Nat) (x : Int) : BitVec.ofNat n (wrap n x) = BitVec.ofInt n x := by
  apply BitVec.eq_of_toNat_eq
  rw [BitVec.toNat_ofNat, Nat.mod_eq_of_lt (wrap_lt n x), BitVec.toNat_ofInt, wrap]

theorem toNat_cellOf (w l : Int) (f : Nat) : (cellOf w l f).toNat = wrap 192 w + wrap 16 l * 2 ^ 192 + f % 8 * 2 ^ 208 := by
  have hw := wrap_lt 192 w
  have hl := wrap_lt 16 l
  rw [cellOf, BitVec.toNat_ofNat]
  apply Nat.mod_eq_of_lt
  omega

theorem cellOf_sum (w l : Int) (f : Nat) : (cellOf w l f).extractLsb' 0 192 = BitVec.ofInt 192 w := by
  rw [← ofNat_wrap]
  apply BitVec.eq_of_toNat_eq
  have hw := wrap_lt 192 w
  rw [BitVec.extractLsb'_toNat, toNat_cellOf, BitVec.toNat_ofNat, Nat.shiftRight_zero]
  omega

theorem cellOf_scale (w l : Int) (f : Nat) : (cellOf w l f).extractLsb' 192 16 = BitVec.ofInt 16 l := by
  rw [← ofNat_wrap]
  apply BitVec.eq_of_toNat_eq
  have hw := wrap_lt 192 w
  have hl := wrap_lt 16 l
  rw [BitVec.extractLsb'_toNat, toNat_cellOf, BitVec.toNat_ofNat, Nat.shiftRight_eq_div_pow]
  omega

theorem cellOf_flags (w l : Int) (f : Nat) : (cellOf w l f).extractLsb' 208 3 = BitVec.ofNat 3 f := by
  apply BitVec.eq_of_toNat_eq
  have hw := wrap_lt 192 w
  have hl := wrap_lt 16 l
  rw [BitVec.extractLsb'_toNat, toNat_cellOf, BitVec.toNat_ofNat, Nat.shiftRight_eq_div_pow]
  omega

/-- One flag of a cell, counted from bit 208. -/
theorem getLsbD_flags (x : BitVec 256) {i : Nat} (h : i < 3) : x.getLsbD (208 + i) = (x.extractLsb' 208 3).getLsbD i := by
  rw [BitVec.getLsbD_extractLsb', decide_eq_true h, Bool.true_and]

theorem flags_eq (x : BitVec 256) : BitVec.ofNat 3 (bitsOf x.toNat 210 208) = x.extractLsb' 208 3 := by
  apply BitVec.eq_of_toNat_eq
  rw [BitVec.extractLsb'_toNat, BitVec.toNat_ofNat, Nat.shiftRight_eq_div_pow]
  exact Nat.mod_mod ..

/-! ### What a contribution makes of a cell (R127) -/

/-- A cell's bits with the sum and the flags of another sum. -/
theorem cellOf_own_scale (x : BitVec 256) (w : Int) (f : Nat) : (cellOf w (cellL x) f).extractLsb' 192 16 = x.extractLsb' 192 16 := by
  rw [cellOf_scale, cellL_eq, BitVec.ofInt_toInt]

theorem contribute_scale (x : BitVec 256) (v : Val) : (contribute x v).extractLsb' 192 16 = x.extractLsb' 192 16 := by
  cases v with
  | nan => exact cellOf_own_scale ..
  | inf n => exact cellOf_own_scale ..
  | num n m e y => exact cellOf_own_scale ..

/-- A NaN or an infinity sets INVALID alone. -/
theorem contribute_invalid {x : BitVec 256} {v : Val} (h : v = .nan ∨ ∃ n, v = .inf n) :
    (contribute x v).extractLsb' 0 192 = x.extractLsb' 0 192 ∧ (contribute x v).extractLsb' 208 3 = x.extractLsb' 208 3 ||| 2 := by
  have hcell : contribute x v = cellOf (cellW x) (cellL x) (bitsOf x.toNat 210 208 ||| 2) := by
    rcases h with rfl | ⟨n, rfl⟩ <;> rfl
  rw [hcell, cellOf_sum, cellOf_flags, cellW_eq, BitVec.ofInt_toInt, BitVec.ofNat_or, flags_eq]
  exact ⟨rfl, rfl⟩

/-- A finite value in units of the grid 2^l, as a fraction: its numerator and its denominator. -/
def gridNum (n : Bool) (m : Nat) (e l : Int) : Int := (if n then -1 else 1) * (m * 2 ^ (e - l).toNat : Nat)
def gridDen (e l : Int) : Nat := 2 ^ (l - e).toNat

theorem scaled_eq_gridNum (n : Bool) (m : Nat) (e l : Int) : scaled n m e (min e l) = gridNum n m e l := by
  have hnum : (e - min e l).toNat = (e - l).toNat := by omega
  rw [scaled, hnum, gridNum]
  cases n
  · exact (Int.one_mul _).symm
  · exact Int.neg_eq_neg_one_mul _

theorem unit_eq_gridDen (e l : Int) : 2 ^ (l - min e l).toNat = gridDen e l := by
  have hden : (l - min e l).toNat = (l - e).toNat := by omega
  rw [hden, gridDen]

theorem contribute_num (x : BitVec 256) (n : Bool) (m : Nat) (e : Int) (y : Bool) :
    contribute x (.num n m e y) = cellOf (cellW x + (gridNum n m e (cellL x)).fdiv (gridDen e (cellL x))) (cellL x)
      (bitsOf x.toNat 210 208 ||| (if ¬(gridDen e (cellL x) : Int) ∣ gridNum n m e (cellL x) then 1 else 0) |||
        (if 2 ^ 190 * gridDen e (cellL x) ≤ (gridNum n m e (cellL x)).natAbs then 4 else 0)) := by
  have hexact : (gridNum n m e (cellL x) % (gridDen e (cellL x) : Int) != 0) = decide ¬(gridDen e (cellL x) : Int) ∣ gridNum n m e (cellL x) := by
    rw [Bool.eq_iff_iff, bne_iff_ne, decide_eq_true_iff, Int.dvd_iff_emod_eq_zero]
  rw [Int.fdiv_eq_ediv_of_nonneg _ (Int.natCast_nonneg _)]
  simp only [contribute, pow_add, scaled_eq_gridNum, unit_eq_gridDen, hexact, decide_eq_true_iff]

theorem testBit_flag (p : Prop) [Decidable p] (k i : Nat) : (if p then 2 ^ k else 0 : Nat).testBit i = (decide (k = i) && decide p) := by
  by_cases hp : p
  · rw [if_pos hp, Nat.testBit_two_pow, decide_eq_true hp, Bool.and_true]
  · rw [if_neg hp, Nat.zero_testBit, decide_eq_false hp, Bool.and_false]

/-- The flags of a cell that took a finite value: the two that it may set beside those that were set. -/
theorem contribute_flag (x : BitVec 256) (n : Bool) (m : Nat) (e : Int) (y : Bool) {i : Nat} (hi : i < 3) :
    (contribute x (.num n m e y)).getLsbD (208 + i) = (x.getLsbD (208 + i) ||
      (decide (0 = i) && decide ¬(gridDen e (cellL x) : Int) ∣ gridNum n m e (cellL x)) ||
      (decide (2 = i) && decide (2 ^ 190 * gridDen e (cellL x) ≤ (gridNum n m e (cellL x)).natAbs))) := by
  rw [getLsbD_flags _ hi, getLsbD_flags x hi, contribute_num, cellOf_flags, BitVec.getLsbD_ofNat, decide_eq_true hi, Bool.true_and,
    Nat.testBit_or, Nat.testBit_or, ← flags_eq, BitVec.getLsbD_ofNat, decide_eq_true hi, Bool.true_and, ← testBit_flag, ← testBit_flag]
  rfl

/-- A finite value adds its floor on the grid to the sum. -/
theorem contribute_finite (x : BitVec 256) (n : Bool) (m : Nat) (e : Int) (y : Bool) {l : Int} (hl : cellL x = l) :
    (contribute x (.num n m e y)).extractLsb' 0 192 = x.extractLsb' 0 192 + BitVec.ofInt 192 ((gridNum n m e l).fdiv (gridDen e l)) ∧
      ((contribute x (.num n m e y)).getLsbD 208 = true ↔ x.getLsbD 208 = true ∨ ¬(gridDen e l : Int) ∣ gridNum n m e l) ∧
      (contribute x (.num n m e y)).getLsbD 209 = x.getLsbD 209 ∧
      ((contribute x (.num n m e y)).getLsbD 210 = true ↔ x.getLsbD 210 = true ∨ 2 ^ 190 * gridDen e l ≤ (gridNum n m e l).natAbs) := by
  subst hl
  refine ⟨?_, ?_, ?_, ?_⟩
  · rw [contribute_num, cellOf_sum, cellW_eq, BitVec.ofInt_add, BitVec.ofInt_toInt]
  · rw [contribute_flag x n m e y (i := 0) (by decide)]
    simp only [decide_true, Bool.true_and, Bool.or_eq_true, decide_eq_true_iff, show (2 = 0) = False by decide, decide_false, Bool.false_and,
      Bool.false_eq_true, or_false]
  · rw [contribute_flag x n m e y (i := 1) (by decide)]
    exact (Bool.or_false _).trans (Bool.or_false _)
  · rw [contribute_flag x n m e y (i := 2) (by decide)]
    simp only [show (0 = 2) = False by decide, decide_false, Bool.false_and, Bool.or_false, decide_true, Bool.true_and, Bool.or_eq_true,
      decide_eq_true_iff]

end Sys2Proof.Drains
end

section
/-!
PROOF. An entry at the head of a drain performs (R108), and its write is acknowledged (R133).
-/
open Sys2Proof Sys2Proof.Machine Sys2Proof.Claims

namespace Sys2Proof.Drains

open Sys2Proof.Scalars Sys2Proof.Accesses Sys2Proof.Semaphores

/-! ### The oldest entry of a drain performs (R108) -/

/-- A core whose drain gives up its oldest entry. -/
def popped (s : State) (rid c : Nat) : State := modCore s rid c fun q => { q with drain := dropAt q.drain 0 }

theorem inWindow_of_free {s : State} {who : Who} {a : W64} {n : Nat} (h : writeHeld s who a n = false) : inWindow s who a = false := by
  simp only [writeHeld, Bool.or_eq_false_iff] at h
  exact h.1.1.1

theorem exec_drain {s : State} {rid c : Nat} {d : Draining} {ds : List Draining} (hunit : coreUnit s rid c = true)
    (hreplay : (coreAt s rid c).replay = []) (hdrain : (coreAt s rid c).drain = d :: ds) (hbehind : entryBehind s rid c [] d = false)
    (hkind : isSpawnEntry d = false) (hheld : writeHeld s (whoEntry rid c d) d.entry.addr (entryLen d.entry) = false)
    (hload : loadMeets s (whoEntry rid c d) d.entry.addr (entryLen d.entry) = false) :
    exec (.drainEntryPerform rid c 0) s =
      .next (awaitAck (performEntry (popped s rid c) (whoEntry rid c d) d) (whoEntry rid c d) d.entry.id d.entry.task d.entry.addr) := by
  have hexec : exec (.drainEntryPerform rid c 0) s = execDrainEntryPerform rid c 0 s := rfl
  have hwait : drainHeld s rid c d = false := by rw [drainHeld, hheld, hload, Bool.or_false]
  have hspawn : spawnWaits s rid d.entry = false := by
    unfold spawnWaits
    unfold isSpawnEntry at hkind
    split
    · next h =>
      rw [h] at hkind
      cases hkind
    · rfl
  have hack (u : State) : entryAck u (whoEntry rid c d) d.entry = awaitAck u (whoEntry rid c d) d.entry.id d.entry.task d.entry.addr := by
    unfold entryAck
    unfold isSpawnEntry at hkind
    split
    · next h =>
      rw [h] at hkind
      cases hkind
    · rfl
  have hnow : performDrain s rid c 0 d =
      awaitAck (performEntry (popped s rid c) (whoEntry rid c d) d) (whoEntry rid c d) d.entry.id d.entry.task d.entry.addr := by
    simp only [performDrain, hreplay, hdrain, List.take_zero, hbehind, List.length_nil, inWindow_of_free hheld, List.any_nil, Bool.or_self,
      Bool.false_and, Bool.false_eq_true, hwait, Bool.and_false, hspawn, or_false, if_false, show ¬16 ≤ 0 by decide, hack]
    rfl
  simp only [hexec, execDrainEntryPerform, hunit, Bool.not_true, Bool.false_eq_true, if_false, hreplay, hdrain, List.getElem?_nil, List.length_nil,
    Nat.sub_zero, List.getElem?_cons_zero, hnow]

theorem dies_of_aborts {rid : Nat} {s u : State} (h : Aborts rid s u) (d : Nat) : ldieAt u rid d = ldieAt s rid d := by
  have hr := h.rect
  rw [Reshaped] at hr
  rw [ldieAt, hr, ldieAt]

theorem ldieAt_of_posted {s u : State} (h : Posted s u) (rid d : Nat) : ldieAt u rid d = ldieAt s rid d := by
  rw [ldieAt, rectAt_of_posted h, ldieAt]

/-! ### Cells (R126, R127) -/

theorem cellAtAddr_awaitAck (s : State) (who : Who) (id uid : Nat) (a b : W64) (rid : Nat) :
    cellAtAddr (awaitAck s who id uid a) rid b = cellAtAddr s rid b := by
  rw [cellAtAddr, awaitAck, ldieAt_modCore, cellAtAddr]

theorem cellAtAddr_popped (s : State) (rid c q : Nat) (a : W64) : cellAtAddr (popped s rid c) q a = cellAtAddr s q a := by
  rw [cellAtAddr, popped, ldieAt_modCore, cellAtAddr]

theorem cellAtAddr_of_posted {s u : State} (h : Posted s u) (rid : Nat) (a : W64) : cellAtAddr u rid a = cellAtAddr s rid a := by
  rw [cellAtAddr, ldieAt_of_posted h, cellAtAddr]

/-- A write of a cell leaves in it what its function gives. -/
theorem cellAtAddr_performCell (s : State) (who : Who) (uid : Nat) (a : W64) (f : BitVec 256 → BitVec 256) :
    cellAtAddr (performCell s who uid a f) who.rid a = f (cellAtAddr s who.rid a) := by
  rw [cellAtAddr, performCell, dies_of_aborts (aborts_orderedWrite ..), setCell, ldieAt_modLdie, if_pos ⟨rfl, rfl⟩, tget_tset_same]

section
variable {s : State} {rid c : Nat} {d : Draining} {ds : List Draining}

/-- What holds no write at a cell: cells lie in no window and no retained range. -/
theorem cell_not_held (hunit : coreUnit s rid c = true) (hsel : selector d.entry.addr = 0xF4)
    (hruns : targetRuns s (whoEntry rid c d) d.entry.addr = true) : writeHeld s (whoEntry rid c d) d.entry.addr 32 = false := by
  have hwindow : inWindow s (whoEntry rid c d) d.entry.addr = false := by
    rw [inWindow, hsel]
    rfl
  have hhome : homeOf s (whoEntry rid c d) d.entry.addr = .db rid (addrDie d.entry.addr) (addrOff d.entry.addr) := by
    simp only [homeOf, hsel]
    rfl
  have hdom : domainRuns s (whoEntry rid c d).rid = true := (Bool.and_eq_true_iff.1 hunit).2
  rw [writeHeld, hwindow, hhome, hruns, hdom]
  rfl

theorem exec_drain_cell (hunit : coreUnit s rid c = true) (hreplay : (coreAt s rid c).replay = []) (hdrain : (coreAt s rid c).drain = d :: ds)
    (hbehind : entryBehind s rid c [] d = false) (hsel : selector d.entry.addr = 0xF4)
    (hruns : targetRuns s (whoEntry rid c d) d.entry.addr = true) (hload : loadMeets s (whoEntry rid c d) d.entry.addr 32 = false)
    (hlen : entryLen d.entry = 32) (hkind : isSpawnEntry d = false) :
    ∃ u, exec (.drainEntryPerform rid c 0) s = .next u ∧
      cellAtAddr u rid d.entry.addr = cellAtAddr (performEntry (popped s rid c) (whoEntry rid c d) d) rid d.entry.addr := by
  have hheld := cell_not_held hunit hsel hruns
  rw [← hlen] at hheld hload
  exact ⟨_, exec_drain hunit hreplay hdrain hbehind hkind hheld hload, cellAtAddr_awaitAck ..⟩

theorem cell_of_cellinit {x : W64} (h : d.entry.kind = .cellinit x) :
    cellAtAddr (performEntry (popped s rid c) (whoEntry rid c d) d) rid d.entry.addr = cellOf 0 x.toInt 0 := by
  rw [performEntry]
  simp only [h]
  exact cellAtAddr_performCell ..

theorem cell_of_redf {half : Bool} {v : W64} (h : d.entry.kind = .redf half v)
    (hgood : dataError s (cellKey rid (addrDie d.entry.addr) (addrOff d.entry.addr / 32)) 1 = none) :
    cellAtAddr (performEntry (popped s rid c) (whoEntry rid c d) d) rid d.entry.addr =
      contribute (cellAtAddr s rid d.entry.addr) (contribution half v) := by
  have herr : cellError (popped s rid c) (whoEntry rid c d).rid d.entry.addr = none := hgood
  rw [performEntry]
  simp only [h, herr]
  refine (cellAtAddr_performCell ..).trans ?_
  exact congrArg (contribute · _) (cellAtAddr_popped ..)

theorem cell_of_redf_bad {half : Bool} {v : W64} (h : d.entry.kind = .redf half v)
    (hbad : dataError s (cellKey rid (addrDie d.entry.addr) (addrOff d.entry.addr / 32)) 1 ≠ none) :
    cellAtAddr (performEntry (popped s rid c) (whoEntry rid c d) d) rid d.entry.addr = cellAtAddr s rid d.entry.addr := by
  obtain ⟨e, he⟩ := Option.ne_none_iff_exists'.1 hbad
  have herr : cellError (popped s rid c) (whoEntry rid c d).rid d.entry.addr = some e := he
  rw [performEntry]
  simp only [h, herr]
  exact (cellAtAddr_of_posted (posted_post ..) ..).trans (cellAtAddr_popped ..)

end

theorem cellDrains : CellDrains := by
  intro s rid c d ds hunit hreplay hdrain hbehind hsel hruns hload
  refine ⟨fun x hk hlo hhi => ?_, fun half v hk hgood => ?_, fun half v hk hbad => ?_⟩
  · obtain ⟨u, hexec, hcell⟩ := exec_drain_cell hunit hreplay hdrain hbehind hsel hruns hload (by rw [entryLen, hk]) (by rw [isSpawnEntry, hk])
    refine ⟨u, hexec, ?_⟩
    rw [hcell, cell_of_cellinit hk, cellOf_sum, cellOf_scale, cellOf_flags]
    refine ⟨rfl, ?_, rfl⟩
    rw [BitVec.toInt_ofInt]
    exact Int.bmod_eq_of_le (by omega) (by omega)
  · obtain ⟨u, hexec, hcell⟩ := exec_drain_cell hunit hreplay hdrain hbehind hsel hruns hload (by rw [entryLen, hk]) (by rw [isSpawnEntry, hk])
    refine ⟨u, hexec, ?_⟩
    rw [hcell, cell_of_redf hk hgood]
    refine ⟨contribute_scale .., contribute_invalid, fun n m e y hnum => ?_⟩
    rw [hnum]
    exact contribute_finite _ n m e y (cellL_eq _)
  · obtain ⟨u, hexec, hcell⟩ := exec_drain_cell hunit hreplay hdrain hbehind hsel hruns hload (by rw [entryLen, hk]) (by rw [isSpawnEntry, hk])
    exact ⟨u, hexec, hcell.trans (cell_of_redf_bad hk hbad)⟩

end Sys2Proof.Drains
end

section
/-!
PROOF. Drained lines and reductions, and acknowledgements (O23, R108, R133).
-/
open Sys2Proof Sys2Proof.Machine Sys2Proof.Claims

namespace Sys2Proof.Drains

open Sys2Proof.Scalars Sys2Proof.Accesses Sys2Proof.Semaphores Sys2Proof.QueueOps

/-! ### Bytes written under a mask -/

/-- The first n bytes of a line that a mask names, written at a key. -/
def maskedWrites (s : State) (k n : Nat) (m : BitVec 64) (x : BitVec 512) : State :=
  (List.range n).foldl (fun s i => if m.getLsbD i then writeKey s (k + i) (x.extractLsb' (8 * i) 8) else s) s

theorem maskedWrites_succ (s : State) (k n : Nat) (m : BitVec 64) (x : BitVec 512) :
    maskedWrites s k (n + 1) m x = if m.getLsbD n then writeKey (maskedWrites s k n m x) (k + n) (x.extractLsb' (8 * n) 8)
      else maskedWrites s k n m x := by
  rw [maskedWrites, List.range_succ, List.foldl_append]
  rfl

theorem wf_maskedWrites {s : State} (k n : Nat) (m : BitVec 64) (x : BitVec 512) (hwf : Memory.wf s = true) :
    Memory.wf (maskedWrites s k n m x) = true := by
  induction n with
  | zero => exact hwf
  | succ n ih =>
    rw [maskedWrites_succ]
    split
    · exact wf_writeKey _ _ ih
    · exact ih

theorem readKey_maskedWrites_out (s : State) {k n y : Nat} (m : BitVec 64) (x : BitVec 512) (hy : y < k ∨ k + n ≤ y) :
    readKey (maskedWrites s k n m x) y = readKey s y := by
  induction n with
  | zero => rfl
  | succ n ih =>
    rw [maskedWrites_succ]
    split
    · rw [readKey_writeKey_other _ (by omega), ih (by omega)]
    · exact ih (by omega)

theorem readKey_maskedWrites_in {s : State} {k n j : Nat} (m : BitVec 64) (x : BitVec 512) (hwf : Memory.wf s = true) (hj : j < n) :
    readKey (maskedWrites s k n m x) (k + j) = if m.getLsbD j then x.extractLsb' (8 * j) 8 else readKey s (k + j) := by
  induction n with
  | zero => exact absurd hj (Nat.not_lt_zero j)
  | succ n ih =>
    rw [maskedWrites_succ]
    by_cases hjn : j = n
    · subst hjn
      split
      · exact readKey_writeKey_same _ _ (wf_maskedWrites _ _ _ _ hwf)
      · exact readKey_maskedWrites_out _ _ _ (.inr (Nat.le_refl _))
    · have hlt : j < n := by omega
      rw [← ih hlt]
      split
      · exact readKey_writeKey_other _ (by omega)
      · rfl

theorem part_maskedWrites {α : Type} (π : State → α) (hπ : ∀ s k b, π (writeKey s k b) = π s) (s : State) (k n : Nat) (m : BitVec 64)
    (x : BitVec 512) : π (maskedWrites s k n m x) = π s := by
  induction n with
  | zero => rfl
  | succ n ih =>
    rw [maskedWrites_succ]
    split
    · exact (hπ ..).trans ih
    · exact ih

/-! ### A line performs (R132) -/

/-- A line before its writes abort anyone. -/
def lineLanded (s : State) (who : Who) (a : W64) (m : BitVec 64) (x : BitVec 512) : State :=
  noteHbm (bumpVersion (maskedWrites s (homeOf s who a).key 64 m x) (homeOf s who a)) who.rid (homeOf s who a)

theorem part_bumpVersion {α : Type} (π : State → α) (hπ : ∀ s v, π { s with versions := v } = π s) (s : State) (p : Place) :
    π (bumpVersion s p) = π s := by
  unfold bumpVersion
  split
  · exact hπ ..
  · rfl

theorem part_lineLanded {α : Type} (π : State → α) (hmem : ∀ s k b, π (writeKey s k b) = π s)
    (hver : ∀ s v, π { s with versions := v } = π s) (hmon : ∀ s f m, π { s with free := f, monitors := m } = π s)
    (s : State) (who : Who) (a : W64) (m : BitVec 64) (x : BitVec 512) :
    π (lineLanded s who a m x) = π s :=
  (part_noteHbm π hmon ..).trans ((part_bumpVersion π hver ..).trans (part_maskedWrites π hmem ..))

theorem mem_lineLanded (s : State) (who : Who) (a : W64) (m : BitVec 64) (x : BitVec 512) :
    (lineLanded s who a m x).mem = (maskedWrites s (homeOf s who a).key 64 m x).mem :=
  (part_noteHbm State.mem (fun _ _ _ => rfl) ..).trans (part_bumpVersion State.mem (fun _ _ => rfl) ..)

section
variable {s : State} {rid c : Nat} {d : Draining} {ds : List Draining}

theorem homeOf_popped (s : State) (rid c : Nat) (who : Who) (a : W64) : homeOf (popped s rid c) who a = homeOf s who a := by
  by_cases h : who.rid = rid
  · subst h
    simp only [homeOf, popped, rectAt_modCore_same]
    rfl
  · exact homeOf_congr a rfl (rectAt_modCore_other s c _ h)

theorem quiet_popped (hq : quiet s rid) : quiet (popped s rid c) rid := by
  intro e
  rw [popped, coreAt_modCore]
  split
  · exact hq c
  · exact hq e

theorem line_aborts {m : BitVec 64} {x : BitVec 512} (h : d.entry.kind = .line m x)
    (hserved : served s (worldOf rid) (homeOf s (whoEntry rid c d) d.entry.addr) 64 = true) :
    Aborts rid (lineLanded (popped s rid c) (whoEntry rid c d) d.entry.addr m x) (performEntry (popped s rid c) (whoEntry rid c d) d) := by
  have hserved' : served (popped s rid c) (worldOf (whoEntry rid c d).rid) (homeOf (popped s rid c) (whoEntry rid c d) d.entry.addr) 64 = true := by
    rw [homeOf_popped]
    exact hserved
  rw [performEntry]
  simp only [h, hserved', Bool.not_true, Bool.false_eq_true, if_false]
  refine aborts_foldl (fun u i => ?_) _ _
  split
  · exact aborts_orderedWrite u (whoEntry rid c d) ..
  · exact .refl ..

theorem mem_line {m : BitVec 64} {x : BitVec 512} (hq : quiet s rid) (h : d.entry.kind = .line m x)
    (hserved : served s (worldOf rid) (homeOf s (whoEntry rid c d) d.entry.addr) 64 = true) :
    (performEntry (popped s rid c) (whoEntry rid c d) d).mem =
      (maskedWrites (popped s rid c) (homeOf s (whoEntry rid c d) d.entry.addr).key 64 m x).mem := by
  have hquiet : quiet (lineLanded (popped s rid c) (whoEntry rid c d) d.entry.addr m x) rid := by
    intro e
    have hrects := part_lineLanded State.rects (fun _ _ _ => rfl) (fun _ _ => rfl) (fun _ _ _ => rfl) (popped s rid c) (whoEntry rid c d)
      d.entry.addr m x
    rw [coreAt, rectAt, hrects]
    exact quiet_popped hq e
  rw [(line_aborts h hserved).part hquiet State.mem fun _ _ => rfl, mem_lineLanded, homeOf_popped]

/-- A write that performed is listed until its acknowledgement. -/
theorem acks_awaitAck (s : State) (who : Who) (id uid : Nat) (a : W64) :
    ∃ w ∈ (coreAt (awaitAck s who id uid a) who.rid who.core).acks, w.id = id ∧ w.task = uid := by
  rw [awaitAck, coreAt_modCore_same]
  exact ⟨_, List.mem_append_right _ (List.mem_singleton_self _), rfl, rfl⟩

/-- An entry that nothing holds performs, and its write waits to be acknowledged. -/
theorem exec_drain_write (hunit : coreUnit s rid c = true) (hreplay : (coreAt s rid c).replay = []) (hdrain : (coreAt s rid c).drain = d :: ds)
    (hbehind : entryBehind s rid c [] d = false) (hkind : isSpawnEntry d = false)
    (hheld : writeHeld s (whoEntry rid c d) d.entry.addr (entryLen d.entry) = false)
    (hload : loadMeets s (whoEntry rid c d) d.entry.addr (entryLen d.entry) = false) :
    ∃ u, exec (.drainEntryPerform rid c 0) s = .next u ∧ u.mem = (performEntry (popped s rid c) (whoEntry rid c d) d).mem ∧
      ∃ w ∈ (coreAt u rid c).acks, w.id = d.entry.id ∧ w.task = d.entry.task :=
  ⟨_, exec_drain hunit hreplay hdrain hbehind hkind hheld hload, rfl, acks_awaitAck ..⟩

/-- A reduction that memory serves writes the word its row gives. -/
theorem mem_red {o : BitVec 4} {wide : Bool} {v : W64} (hq : quiet s rid) (h : d.entry.kind = .red o wide v)
    (hgood : readError s (worldOf rid) (homeOf s (whoEntry rid c d) d.entry.addr) (if wide then 8 else 4) = none) :
    (performEntry (popped s rid c) (whoEntry rid c d) d).mem =
      (writeNat (popped s rid c) (homeOf s (whoEntry rid c d) d.entry.addr).key (if wide then 8 else 4)
        (atomicWord o (if wide then 8 else 4) (readNat s (homeOf s (whoEntry rid c d) d.entry.addr).key (if wide then 8 else 4)) v.toNat)).mem := by
  have hgood' : readError (popped s rid c) (worldOf (whoEntry rid c d).rid) (homeOf (popped s rid c) (whoEntry rid c d) d.entry.addr)
      (if wide then 8 else 4) = none := by
    rw [homeOf_popped]
    exact hgood
  rw [performEntry]
  simp only [h, hgood']
  refine (mem_performWrite _ _ _ (quiet_popped hq)).trans ?_
  have hread (k n : Nat) : readKeys (popped s rid c) k n = readKeys s k n :=
    readKeys_congr (s := s) (u := popped s rid c) rfl ..
  rw [homeOf_popped, memBytes, homeOf_popped, hread]
  rfl

end

/-- The word that an atomic leaves fits its bytes. -/
theorem atomicResult_lt {code n old : Nat} (v : Nat) (hold : old < 2 ^ (8 * n)) : atomicResult code n old v < 2 ^ (8 * n) := by
  have hv : v % 2 ^ (8 * n) < 2 ^ (8 * n) := Nat.mod_lt _ (by positivity)
  have hpick (p : Prop) [Decidable p] {a b : Nat} (ha : a < 2 ^ (8 * n)) (hb : b < 2 ^ (8 * n)) : (if p then a else b) < 2 ^ (8 * n) := by
    split <;> assumption
  unfold atomicResult
  simp only
  split
  · exact Nat.mod_lt _ (by positivity)
  · exact Nat.and_lt_two_pow _ hv
  · exact Nat.or_lt_two_pow hold hv
  · exact Nat.xor_lt_two_pow hold hv
  · exact hv
  · exact hpick _ hold hv
  · exact hpick _ hv hold
  · exact hpick _ hold hv
  · exact hpick _ hv hold
  · exact Nat.two_pow_pos _

theorem drainPerforms : DrainPerforms := by
  intro s rid c d ds hwf hq hunit hreplay hdrain hbehind
  refine ⟨fun m x hk hheld hload hserved => ?_, fun o wide v hk hheld hload hgood ho => ?_⟩
  · have hlen : entryLen d.entry = 64 := by rw [entryLen, hk]
    obtain ⟨u, hexec, hmem, hack⟩ := exec_drain_write hunit hreplay hdrain hbehind (by rw [isSpawnEntry, hk]) (by rwa [hlen]) (by rwa [hlen])
    have hread := readKey_congr (hmem.trans (mem_line hq hk hserved))
    exact ⟨u, hexec, fun j hj => (hread _).trans (readKey_maskedWrites_in m x hwf hj),
      fun y hy => (hread _).trans (readKey_maskedWrites_out _ m x hy), hack⟩
  · have hlen : entryLen d.entry = if wide then 8 else 4 := by rw [entryLen, hk]
    obtain ⟨u, hexec, hmem, -⟩ := exec_drain_write hunit hreplay hdrain hbehind (by rw [isSpawnEntry, hk]) (by rwa [hlen]) (by rwa [hlen])
    have hword := hmem.trans (mem_red hq hk hgood)
    have hold := readNat_lt s (homeOf s (whoEntry rid c d) d.entry.addr).key (if wide then 8 else 4)
    rw [pow_256] at hold
    have hwf' : Memory.wf (popped s rid c) = true := hwf
    have hsize : (if wide then 8 else 4) = 4 ∨ (if wide then 8 else 4) = 8 := by cases wide <;> simp
    refine ⟨u, hexec, ?_, fun y hy => ?_⟩
    · rw [readNat_congr hword, readNat_writeNat _ _ _ hwf', pow_256, atomicWord_eq _ ho hsize hold, Nat.mod_eq_of_lt (atomicResult_lt _ hold)]
    · rw [readKey_congr hword]
      exact readKey_writeKeys_other (s := popped s rid c) _ (by rwa [length_bytesOf])

/-! ### Acknowledgements (R121, R133, R280) -/

/-- A core of which nothing waits any longer for the write of a number. -/
def released (id : Nat) (k : Core) : Core :=
  { k with fences := k.fences.map fun f => (f.1, { f.2 with waits := f.2.waits.filter fun x => x.2 ≠ id }),
           xdieq := k.xdieq.map fun x => { x with waits := x.waits.filter fun y => y ≠ id } }

theorem tget_map_value {α : Type} {d : α} {f : α → α} (hd : f d = d) (t : Tab α) (k : Nat) :
    tget d (t.map fun e => (e.1, f e.2)) k = f (tget d t k) := by
  induction t with
  | nil => exact hd.symm
  | cons e t ih =>
    simp only [tget, tfind, List.map_cons] at ih ⊢
    split
    · rfl
    · exact ih

theorem bne_eq_decide (x y : Nat) : (x != y) = decide (x ≠ y) := by rw [Bool.eq_iff_iff, bne_iff_ne, decide_eq_true_iff]

theorem coreAt_settleWrite (s : State) (rid id q c : Nat) :
    coreAt (settleWrite s rid id) q c = if q = rid then released id (coreAt s q c) else coreAt s q c := by
  by_cases h : q = rid
  · subst h
    rw [if_pos rfl, settleWrite, coreAt, rectAt_modRect_same]
    simp only [bne_eq_decide]
    exact tget_map_value (f := released id) rfl ..
  · rw [if_neg h, settleWrite, coreAt, rectAt_modRect_other _ _ h, coreAt]

/-- A core whose list of writes to be acknowledged changes, and nothing waits any longer for one of them. -/
theorem coreAt_settled_acks (s : State) (rid c id q e : Nat) (f : List AckW → List AckW) :
    coreAt (settleWrite (modCore s rid c fun k => { k with acks := f k.acks }) rid id) q e =
      if q = rid then released id { coreAt s q e with acks := if e = c then f (coreAt s rid c).acks else (coreAt s q e).acks }
      else coreAt s q e := by
  rw [coreAt_settleWrite]
  by_cases hq : q = rid
  · subst hq
    by_cases he : e = c
    · subst he
      rw [if_pos rfl, if_pos rfl, if_pos rfl, coreAt_modCore_same]
    · rw [if_pos rfl, if_pos rfl, if_neg he, coreAt_modCore, if_neg fun h => he h.2]
  · rw [if_neg hq, if_neg hq, coreAt_modCore, if_neg fun h => hq h.1]

theorem exec_writeAck {s : State} {rid c k : Nat} {w : AckW} (hruns : clockRuns s (coreDie (rectAt s rid) c) = true)
    (hw : (coreAt s rid c).acks[k]? = some w) :
    exec (.writeAck rid c k) s = .next (settleWrite (modCore s rid c fun q =>
      { q with acks := if w.host = true ∧ w.placed = false then modAt q.acks k fun x => { x with placed := true }
          else q.acks.filter fun x => x.id ≠ w.id }) rid w.id) := by
  have hexec : exec (.writeAck rid c k) s = execWriteAck rid c k s := rfl
  have hcase : (w.host && !w.placed) = decide (w.host = true ∧ w.placed = false) := by
    rw [Bool.eq_iff_iff, Bool.and_eq_true, Bool.not_eq_true', decide_eq_true_iff]
  simp only [hexec, execWriteAck, hruns, Bool.not_true, Bool.false_eq_true, if_false, hw, hcase, decide_eq_true_iff, acknowledge, bne_eq_decide]
  split <;> rfl

theorem acknowledgementReleases : AcknowledgementReleases := by
  refine ⟨fun s rid c k hstopped => ?_, fun s rid c k w hruns hw => ⟨_, exec_writeAck hruns hw, fun q => ?_, fun q e hq => ?_, fun x => rfl⟩⟩
  · have hexec : exec (.writeAck rid c k) s = execWriteAck rid c k s := rfl
    rw [hexec, execWriteAck, hstopped, Bool.not_false, if_pos rfl]
  · refine (coreAt_settled_acks s rid c w.id rid q fun l => if w.host = true ∧ w.placed = false then
      modAt l k fun x => { x with placed := true } else l.filter fun x => x.id ≠ w.id).trans ?_
    rw [if_pos rfl]
    rfl
  · exact (coreAt_settled_acks s rid c w.id q e fun l => if w.host = true ∧ w.placed = false then
      modAt l k fun x => { x with placed := true } else l.filter fun x => x.id ≠ w.id).trans (if_neg hq)

/-- Settles O23: an entry that nothing holds performs (`exec_drain`), and an acknowledgement releases what waits for it. -/
theorem drainsPerform : Obligations.DrainsPerform := ⟨cellDrains, drainPerforms, acknowledgementReleases⟩

end Sys2Proof.Drains
end

section
/-!
PROOF. Copy commands, queue fences and tokens (O40). An instruction of the copy queue comes to `enqueueCopy` with the work its descriptor
names (`exec_of_copyWord`).
-/
open Sys2Proof Sys2Proof.Machine Sys2Proof.Claims

namespace Sys2Proof.CopyOps

open Sys2Proof.Scalars Sys2Proof.Accesses

/-! ### Engine commands (R232) -/

theorem commandHdr_eq (s : State) (tok : Nat) (sem : Option (Nat × Nat)) :
    commandHdr s s.cur.rid s.cur.core tok sem = (cmdHdr s tok sem, counted s tok) := rfl

theorem tokenFull_of_free {s : State} {tok : Nat} (h : cmdFree s tok) : tokenFull s s.cur.rid s.cur.core tok = false :=
  decide_eq_false (Nat.not_le.2 h.2)

theorem bne_fence (w : CopyWork) : (w != .fence) = !isFence w := by cases w <;> rfl

theorem copiesInFlight_eq (s : State) : copiesInFlight s s.cur.rid s.cur.core = copiesHere s := by
  simp only [copiesInFlight, copiesHere, bne_fence]
  rfl

theorem enqueueCopy_of_room {s : State} {tok : Nat} {sem : Option (Nat × Nat)} {w : CopyWork} (hfree : cmdFree s tok) (hroom : copiesHere s < 64) :
    enqueueCopy s tok sem w = .done (modCore (counted s tok) s.cur.rid s.cur.core fun k =>
      { k with copyq := k.copyq ++ [{ hdr := cmdHdr s tok sem, work := w }] }) := by
  have hno : ¬(64 ≤ copiesInFlight s s.cur.rid s.cur.core ∨ tokenFull s s.cur.rid s.cur.core tok = true) := by
    rw [copiesInFlight_eq, tokenFull_of_free hfree]
    rintro (h | h)
    · exact absurd hroom (Nat.not_lt.2 h)
    · cases h
  rw [enqueueCopy, if_neg hno, commandHdr_eq]
  rfl

theorem enqueueCopy_of_full {s : State} {tok : Nat} {sem : Option (Nat × Nat)} {w : CopyWork} (hfull : 64 ≤ copiesHere s) :
    enqueueCopy s tok sem w = .hold := by
  rw [← copiesInFlight_eq] at hfull
  rw [enqueueCopy, if_pos (.inl hfull)]

/-! ### Descriptors (R115, R240, R243) -/

theorem bit_cases (g : BitVec 1) : g = 0 ∨ g = 1 := by
  have h := g.isLt
  rcases Nat.lt_or_ge g.toNat 1 with h0 | h1
  · exact .inl (BitVec.eq_of_toNat_eq (Nat.lt_one_iff.1 h0))
  · exact .inr (BitVec.eq_of_toNat_eq (by show g.toNat = 1; omega))

theorem descSem_of_field {s : State} {bs : List Byte} {i : Nat} {g : BitVec 1} {sem : Option (Nat × Nat)}
    (h : semField s (bytesAt bs i 2) g sem) : descSem s bs i g = .ok sem := by
  have hfield : field bs i 2 = bytesAt bs i 2 := rfl
  rcases bit_cases g with rfl | rfl
  · obtain ⟨hv, rfl⟩ := h
    simp only [descSem, hfield, hv, if_true]
  · obtain ⟨hlt, hsem, rfl⟩ := h
    have hhigh : ¬bytesAt bs i 2 / 2 ^ 14 ≠ 0 := by omega
    simp only [descSem, hfield, show ¬(1 : BitVec 1) = 0 by decide, if_false, hhigh, Nat.not_le.2 hsem]

theorem gatherSem_of_field {s : State} {bs : List Byte} {g : BitVec 1} {sem : Option (Nat × Nat)}
    (h : gatherField s (bytesAt bs 28 2) g sem) : gatherSem s bs g = .ok sem := by
  have hfield : field bs 28 2 = bytesAt bs 28 2 := rfl
  rcases bit_cases g with rfl | rfl
  · have hnone : sem = none := h
    rw [hnone]
    rfl
  · obtain ⟨hsem, rfl⟩ := h
    simp only [gatherSem, hfield, show ¬(1 : BitVec 1) = 0 by decide, if_false, Nat.not_le.2 hsem]

theorem copyDescriptor_of_fields {s : State} {a : W64} {bs : List Byte} {g : BitVec 1} {sem : Option (Nat × Nat)} (hread : reads32 s a bs)
    (hlen : bytesAt bs 16 4 ≠ 0) (hzero : bytesAt bs 22 10 = 0) (hsem : semField s (bytesAt bs 20 2) g sem) :
    copyDescriptor s a g = .ok (addrIn bs 0, addrIn bs 8, bytesAt bs 16 4, sem) := by
  have hno : ¬(field bs 16 4 = 0 ∨ field bs 22 10 ≠ 0) := by
    rintro (h | h)
    · exact hlen h
    · exact h hzero
  rw [copyDescriptor, hread]
  simp only [if_neg hno, descSem_of_field hsem]
  rfl

theorem sext_bytes (n : Nat) : sext 32 n = (BitVec.ofNat 32 n).toInt := by
  rw [sext_eq_toInt (by decide)]

/-- VGATHER and VSCATTER whose descriptor is in range. -/
theorem gatherAt_of_fields {s : State} {a : W64} {bs : List Byte} {g : BitVec 1} {k : BitVec 3} {sem : Option (Nat × Nat)}
    (mk : W64 → W64 → W64 → Nat → CopyWork) (hread : reads32 s a bs) (hlo : 1 ≤ bytesAt bs 24 4) (hhi : bytesAt bs 24 4 ≤ 65536)
    (hzero : bytesAt bs 30 2 = 0) (hsem : gatherField s (bytesAt bs 28 2) g sem) :
    gatherAt s a g k mk = enqueueCopy s k.toNat sem (mk (addrIn bs 0) (addrIn bs 8) (addrIn bs 16) (bytesAt bs 24 4)) := by
  have hno : ¬(field bs 24 4 = 0 ∨ 65536 < field bs 24 4 ∨ field bs 30 2 ≠ 0) := by
    have hcount : field bs 24 4 = bytesAt bs 24 4 := rfl
    have hpad : field bs 30 2 = bytesAt bs 30 2 := rfl
    omega
  rw [gatherAt, hread]
  simp only [gatherSem_of_field hsem, if_neg hno]
  rfl

/-- An instruction of the copy queue that is in range comes to its work. -/
theorem exec_of_copyWord {i : Instr} {l r : W64} {s : State} {w : CopyWork} {tok : Nat} {sem : Option (Nat × Nat)}
    (h : CopyWord s i l r w tok sem) (hr : Ready i l r s) (himm : immediateHeld s s.cur.rid s.cur.core = false) :
    exec i s = .next (settled i s (enqueueCopy s tok sem w)) := by
  cases h with
  | copy p n k =>
    have hexec : exec (.copy p n k) s = _ := exec_of_performs ⟨_, fun _ => rfl, fun _ => rfl⟩ hr
    rw [hexec, immediate_free _ himm]
  | copyD p g k _ _ bs _ hread hlen hzero hsem =>
    have hexec : exec (.copyD p g k) s = _ := exec_of_performs ⟨_, fun _ => rfl, fun _ => rfl⟩ hr
    rw [hexec, immediate_free _ himm, copyDescriptor_of_fields hread hlen hzero hsem]
  | copym p g k _ _ bs _ hread hlen hzero hpad hmmac =>
    have hexec : exec (.copym p g k) s = _ := exec_of_performs ⟨_, fun _ => rfl, fun _ => rfl⟩ hr
    have hnone : semField s (bytesAt bs 20 2) 0 none := ⟨hpad, rfl⟩
    rw [hexec, immediate_free _ himm, copyDescriptor_of_fields hread hlen hzero hnone]
    simp only [hmmac]
  | tmove p g k _ _ bs _ hread hzero hsem =>
    have hexec : exec (.tmove p g k) s = _ := exec_of_performs ⟨_, fun _ => rfl, fun _ => rfl⟩ hr
    have hpad : ¬field bs 30 2 ≠ 0 := not_not.2 hzero
    rw [hexec, immediate_free _ himm, hread]
    simp only [if_neg hpad, descSem_of_field hsem, sext_bytes]
    rfl
  | vgather p z g k _ _ bs _ hread hlo hhi hzero hsem =>
    have hexec : exec (.vgather p z g k) s = _ := exec_of_performs ⟨_, fun _ => rfl, fun _ => rfl⟩ hr
    rw [hexec, immediate_free _ himm, gatherAt_of_fields _ hread hlo hhi hzero hsem]
  | vscatter p z g k _ _ bs _ hread hlo hhi hzero hsem =>
    have hexec : exec (.vscatter p z g k) s = _ := exec_of_performs ⟨_, fun _ => rfl, fun _ => rfl⟩ hr
    rw [hexec, immediate_free _ himm, gatherAt_of_fields _ hread hlo hhi hzero hsem]

theorem copyCommandsQueue : CopyCommandsQueue := by
  intro i l r s w tok sem hword hr hfree
  rw [exec_of_copyWord hword hr hfree.1]
  refine ⟨fun hroom => ?_, fun hfull => ?_⟩
  · rw [enqueueCopy_of_room hfree hroom, settled]
  · rw [enqueueCopy_of_full hfull, settled]

/-! ### TOKRD (R245) -/

/-- Numbers below 256 laid out as the first n bytes of a word. -/
def digitSum (f : Nat → Nat) (n : Nat) : Nat := (List.range n).foldl (fun v i => v + f i * 256 ^ i) 0

theorem digitSum_succ (f : Nat → Nat) (n : Nat) : digitSum f (n + 1) = digitSum f n + f n * 256 ^ n := by
  rw [digitSum, List.range_succ, List.foldl_append]
  rfl

theorem digitSum_lt {f : Nat → Nat} (h : ∀ i, f i < 256) (n : Nat) : digitSum f n < 256 ^ n := by
  induction n with
  | zero => exact Nat.one_pos
  | succ n ih =>
    have hdigit : (f n + 1) * 256 ^ n ≤ 256 * 256 ^ n := Nat.mul_le_mul_right _ (h n)
    rw [digitSum_succ, pow_succ']
    rw [Nat.add_mul, Nat.one_mul] at hdigit
    omega

theorem digit_of_digitSum {f : Nat → Nat} (h : ∀ i, f i < 256) {n j : Nat} (hj : j < n) : digitSum f n / 256 ^ j % 256 = f j := by
  induction n with
  | zero => exact absurd hj (Nat.not_lt_zero j)
  | succ n ih =>
    have hpos : 0 < 256 ^ j := Nat.pow_pos (by decide)
    rw [digitSum_succ]
    rcases Nat.lt_succ_iff_lt_or_eq.1 hj with hlt | rfl
    · obtain ⟨d, rfl⟩ := Nat.exists_eq_add_of_lt hlt
      have hsplit : f (j + d + 1) * 256 ^ (j + d + 1) = 256 * (f (j + d + 1) * 256 ^ d) * 256 ^ j := by ring
      rw [hsplit, Nat.add_mul_div_right _ _ hpos, Nat.add_mul_mod_self_left]
      exact ih hlt
    · rw [Nat.add_mul_div_right _ _ hpos, Nat.div_eq_of_lt (digitSum_lt h _), Nat.zero_add, Nat.mod_eq_of_lt (h _)]

theorem byte_of_digitSum {f : Nat → Nat} (h : ∀ i, f i < 256) {j : Nat} (hj : j < 8) :
    ((BitVec.ofNat 64 (digitSum f 8)).extractLsb' (8 * j) 8).toNat = f j := by
  have hfits : digitSum f 8 < 2 ^ 64 := by
    have h8 := digitSum_lt h 8
    rwa [pow_256] at h8
  rw [BitVec.extractLsb'_toNat, BitVec.toNat_ofNat, Nat.mod_eq_of_lt hfits, Nat.shiftRight_eq_div_pow, ← pow_256]
  exact digit_of_digitSum h hj

theorem tokensRead : TokensRead := by
  refine fun p k x l r s => ⟨fun hr => ?_, fun hr => ?_⟩
  · exact exec_of_performs ⟨_, fun _ => rfl, fun _ => rfl⟩ hr
  · have hexec : exec (.tokrd p 1 k x) s = _ := exec_of_performs ⟨_, fun _ => rfl, fun _ => rfl⟩ hr
    exact ⟨_, hexec, fun j hj => byte_of_digitSum (f := fun i => min (tokenAt s s.cur.rid s.cur.core i) 255)
      (fun i => Nat.lt_succ_of_le (Nat.min_le_right ..)) hj⟩

end Sys2Proof.CopyOps
end

section
/-!
PROOF. Queue fences (O40, R244). Placing a fence and taking it out change the same queues by one function each (`Fencing`), so what either
leaves in each queue is said once.
-/
open Sys2Proof Sys2Proof.Machine Sys2Proof.Claims

namespace Sys2Proof.CopyOps

open Sys2Proof.Scalars Sys2Proof.Accesses

/-! ### The matrix queue (R214, R217) -/

/-- A queue whose head does nothing on coming there. -/
theorem settleMatrix_of_waits {s : State} {rid c : Nat} (n : Nat) (h : waitsAtHead (arrAt s rid c).q) : settleMatrix rid c n s = s := by
  cases n with
  | zero => rfl
  | succ n =>
    rw [settleMatrix]
    split
    · next q qs hq =>
      obtain ⟨hbudget, hgrant⟩ := h q (by rw [hq]; rfl)
      split
      · next b hb => exact absurd hb (hbudget b)
      · next x hx => exact absurd hx (hgrant x)
      · rfl
    · rfl

theorem arrAt_modArr_same (s : State) (rid c : Nat) (f : MArray → MArray) : arrAt (modArr s rid c f) rid c = f (arrAt s rid c) := by
  rw [arrAt, modArr, coreAt_modCore_same, arrAt]

/-- A command that does nothing on coming to the head is put at the tail. -/
theorem pushMatrix_of_waits {s : State} {rid c : Nat} {q : MCmd} (h : waitsAtHead [q]) :
    pushMatrix s rid c q = modArr s rid c fun a => { a with q := a.q ++ [q] } := by
  simp only [pushMatrix]
  split
  · next hempty =>
    refine settleMatrix_of_waits _ ?_
    rw [arrAt_modArr_same, List.isEmpty_iff.1 hempty]
    exact h
  · rfl

theorem waitsAtHead_fence (h : Hdr) : waitsAtHead [{ hdr := h, work := .fence }] := by
  intro q hq
  cases hq
  exact ⟨fun _ hb => MWork.noConfusion hb, fun _ hx => MWork.noConfusion hx⟩

theorem dropMatrix_of_waits {s : State} {rid c : Nat} (h : waitsAtHead ((arrAt s rid c).q.drop 1)) :
    dropMatrix s rid c = modArr s rid c fun a => { a with q := a.q.drop 1, st := .idle } := by
  refine settleMatrix_of_waits _ ?_
  rw [arrAt_modArr_same]
  exact h

/-! ### Streams' queues -/

theorem portQ_setPortQ (s : State) (rid tile p : Nat) (q : List SCmd) (r t n : Nat) :
    portQ (setPortQ s rid tile p q) r t n = if r = rid ∧ t = tile ∧ n = p then q else portQ s r t n := by
  by_cases hr : r = rid
  · subst hr
    by_cases ht : t = tile
    · subst ht
      rw [portQ, setPortQ, tileAt, modTile, rectAt_modRect_same]
      simp only [tget_tset_same, true_and]
      rw [tget_tset]
      rfl
    · rw [if_neg (fun h => ht h.2.1), portQ, setPortQ, tileAt, modTile, rectAt_modRect_same]
      simp only [tget_tset_other _ _ _ ht]
      rfl
  · rw [if_neg (fun h => hr h.1), portQ, setPortQ, tileAt, modTile, rectAt_modRect_other _ _ hr]
    rfl

theorem coreAt_setPortQ (s : State) (rid tile p : Nat) (q : List SCmd) (r c : Nat) : coreAt (setPortQ s rid tile p q) r c = coreAt s r c :=
  coreAt_modRect _ _ _ _ _ rfl

theorem portQ_modCore (s : State) (rid c : Nat) (f : Core → Core) (r t n : Nat) : portQ (modCore s rid c f) r t n = portQ s r t n := by
  by_cases hr : r = rid
  · subst hr
    rw [portQ, tileAt, rectAt_modCore_same]
    rfl
  · rw [portQ, tileAt, rectAt_modCore_other s c f hr]
    rfl

/-! ### One step on every queue that a fence names -/

/-- A step on the queues that a fence names: which they are, and what becomes of each. -/
structure Fencing where
  rid : Nat
  core : Nat
  arr : Nat
  tile : Nat
  copy : Bool
  matrix : Bool
  ring : Bool
  xdie : Bool
  ports : List Nat
  onCopy : List CopyCmd → List CopyCmd
  onArr : MArray → MArray
  onRing : List RingCmd → List RingCmd
  onXdie : List XCmd → List XCmd
  onPort : List SCmd → List SCmd

namespace Fencing
variable (f : Fencing) (s : State)

def copyStep : State := if f.copy then modCore s f.rid f.core fun k => { k with copyq := f.onCopy k.copyq } else s
def matrixStep : State := if f.matrix then modCore s f.rid f.arr fun k => { k with arr := f.onArr k.arr } else s
def ringStep : State := if f.ring then modCore s f.rid f.core fun k => { k with ringq := f.onRing k.ringq } else s
def xdieStep : State := if f.xdie then modCore s f.rid f.core fun k => { k with xdieq := f.onXdie k.xdieq } else s
def portStep (ps : List Nat) : State := ps.foldl (fun s p => setPortQ s f.rid f.tile p (f.onPort (portQ s f.rid f.tile p))) s

/-- The whole step. -/
def step : State := f.portStep (f.xdieStep (f.ringStep (f.matrixStep (f.copyStep s)))) f.ports

variable {α : Type} (b : Bool) (rid c d : Nat) {g : Core → Core} (π : Core → α)

theorem changed_ite (φ : α → α) (h : ∀ k, π (g k) = φ (π k)) : π (coreAt (if b then modCore s rid c g else s) rid d) =
    if b ∧ d = c then φ (π (coreAt s rid d)) else π (coreAt s rid d) := by
  cases b
  · rfl
  · rw [if_pos rfl, coreAt_modCore]
    simp only [true_and]
    split
    · next hd =>
      rw [h, hd]
    · rfl

theorem kept_ite (h : ∀ k, π (g k) = π k) : π (coreAt (if b then modCore s rid c g else s) rid d) = π (coreAt s rid d) :=
  (changed_ite s b rid c d π id h).trans (ite_self _)

theorem portQ_ite (b : Bool) (rid c r t n : Nat) (g : Core → Core) : portQ (if b then modCore s rid c g else s) r t n = portQ s r t n := by
  cases b
  · rfl
  · exact portQ_modCore ..

theorem coreAt_portStep (ps : List Nat) (r c : Nat) : coreAt (f.portStep s ps) r c = coreAt s r c := by
  induction ps generalizing s with
  | nil => rfl
  | cons p ps ih => exact (ih _).trans (coreAt_setPortQ ..)

theorem kept_copyStep (h : ∀ k q, π { k with copyq := q } = π k) : π (coreAt (f.copyStep s) f.rid d) = π (coreAt s f.rid d) :=
  kept_ite s f.copy f.rid f.core d π fun _ => h ..

theorem kept_matrixStep (h : ∀ k a, π { k with arr := a } = π k) : π (coreAt (f.matrixStep s) f.rid d) = π (coreAt s f.rid d) :=
  kept_ite s f.matrix f.rid f.arr d π fun _ => h ..

theorem kept_ringStep (h : ∀ k q, π { k with ringq := q } = π k) : π (coreAt (f.ringStep s) f.rid d) = π (coreAt s f.rid d) :=
  kept_ite s f.ring f.rid f.core d π fun _ => h ..

theorem kept_xdieStep (h : ∀ k q, π { k with xdieq := q } = π k) : π (coreAt (f.xdieStep s) f.rid d) = π (coreAt s f.rid d) :=
  kept_ite s f.xdie f.rid f.core d π fun _ => h ..

theorem copyq_step : (coreAt (f.step s) f.rid d).copyq =
    if f.copy ∧ d = f.core then f.onCopy (coreAt s f.rid d).copyq else (coreAt s f.rid d).copyq := by
  rw [step, coreAt_portStep, kept_xdieStep f _ d Core.copyq fun _ _ => rfl, kept_ringStep f _ d Core.copyq fun _ _ => rfl,
    kept_matrixStep f _ d Core.copyq fun _ _ => rfl]
  exact changed_ite s f.copy f.rid f.core d Core.copyq f.onCopy fun _ => rfl

theorem arr_step : (coreAt (f.step s) f.rid d).arr =
    if f.matrix ∧ d = f.arr then f.onArr (coreAt s f.rid d).arr else (coreAt s f.rid d).arr := by
  rw [step, coreAt_portStep, kept_xdieStep f _ d Core.arr fun _ _ => rfl, kept_ringStep f _ d Core.arr fun _ _ => rfl,
    ← kept_copyStep f s d Core.arr fun _ _ => rfl]
  exact changed_ite (f.copyStep s) f.matrix f.rid f.arr d Core.arr f.onArr fun _ => rfl

theorem ringq_step : (coreAt (f.step s) f.rid d).ringq =
    if f.ring ∧ d = f.core then f.onRing (coreAt s f.rid d).ringq else (coreAt s f.rid d).ringq := by
  rw [step, coreAt_portStep, kept_xdieStep f _ d Core.ringq fun _ _ => rfl, ← kept_copyStep f s d Core.ringq fun _ _ => rfl,
    ← kept_matrixStep f (f.copyStep s) d Core.ringq fun _ _ => rfl]
  exact changed_ite (f.matrixStep (f.copyStep s)) f.ring f.rid f.core d Core.ringq f.onRing fun _ => rfl

theorem xdieq_step : (coreAt (f.step s) f.rid d).xdieq =
    if f.xdie ∧ d = f.core then f.onXdie (coreAt s f.rid d).xdieq else (coreAt s f.rid d).xdieq := by
  rw [step, coreAt_portStep, ← kept_copyStep f s d Core.xdieq fun _ _ => rfl, ← kept_matrixStep f (f.copyStep s) d Core.xdieq fun _ _ => rfl,
    ← kept_ringStep f (f.matrixStep (f.copyStep s)) d Core.xdieq fun _ _ => rfl]
  exact changed_ite (f.ringStep (f.matrixStep (f.copyStep s))) f.xdie f.rid f.core d Core.xdieq f.onXdie fun _ => rfl

theorem tok_step : (coreAt (f.step s) f.rid d).tok = (coreAt s f.rid d).tok := by
  rw [step, coreAt_portStep, kept_xdieStep f _ d Core.tok fun _ _ => rfl, kept_ringStep f _ d Core.tok fun _ _ => rfl,
    kept_matrixStep f _ d Core.tok fun _ _ => rfl, kept_copyStep f _ d Core.tok fun _ _ => rfl]

theorem portQ_portStep {ps : List Nat} (hnodup : ps.Nodup) (t n : Nat) : portQ (f.portStep s ps) f.rid t n =
    if t = f.tile ∧ n ∈ ps then f.onPort (portQ s f.rid t n) else portQ s f.rid t n := by
  induction ps generalizing s with
  | nil => exact (if_neg fun h => List.not_mem_nil h.2).symm
  | cons p ps ih =>
    obtain ⟨hp, hps⟩ := List.nodup_cons.1 hnodup
    refine (ih _ hps).trans ?_
    rw [portQ_setPortQ]
    by_cases ht : t = f.tile
    · subst ht
      by_cases hn : n = p
      · subst hn
        simp [hp]
      · simp [hn]
    · simp [ht]

theorem portQ_step (hnodup : f.ports.Nodup) (t n : Nat) : portQ (f.step s) f.rid t n =
    if t = f.tile ∧ n ∈ f.ports then f.onPort (portQ s f.rid t n) else portQ s f.rid t n := by
  rw [step, portQ_portStep f _ hnodup, xdieStep, portQ_ite, ringStep, portQ_ite, matrixStep, portQ_ite, copyStep, portQ_ite]

end Fencing

end Sys2Proof.CopyOps
end

section
/-!
PROOF. Queue fences (O40, R244): the word that a fence takes, placing it and its completion.
-/
open Sys2Proof Sys2Proof.Machine Sys2Proof.Claims

namespace Sys2Proof.CopyOps

open Sys2Proof.Scalars Sys2Proof.Accesses

/-! ### Placing a fence -/

/-- The step that places the entries of a fence. -/
def placing (s : State) (rid c : Nat) (h : Hdr) (f : FenceWord) : Fencing :=
  { rid := rid, core := c, arr := anchorOf s rid c, tile := f.tile, copy := f.copy, matrix := f.matrix, ring := f.ring, xdie := f.xdie,
    ports := f.ports, onCopy := fun q => q ++ [{ hdr := h, work := .fence }], onArr := fun a => { a with q := a.q ++ [{ hdr := h, work := .fence }] },
    onRing := fun q => q ++ [{ hdr := h, work := .fence }], onXdie := fun q => q ++ [{ hdr := h, work := .fence }],
    onPort := fun q => q ++ [{ hdr := h, work := .fence }] }

theorem anchorOf_congr {s u : State} {rid c : Nat} (h : (coreAt u rid c).arr = (coreAt s rid c).arr) : anchorOf u rid c = anchorOf s rid c := by
  rw [anchorOf, arrAt, h, anchorOf, arrAt]

theorem placeFence_eq (s : State) (rid c : Nat) (h : Hdr) (f : FenceWord) :
    ∃ q, placeFence s rid c h f = modRect ((placing s rid c h f).step s) rid fun r => { r with fences := tset r.fences h.uid q } := by
  refine ⟨
    { hdr := h, arr := anchorOf ((placing s rid c h f).step s) rid c, copy := f.copy, matrix := f.matrix, ring := f.ring, xdie := f.xdie,
      tile := f.tile, ports := f.ports }, ?_⟩
  have hanchor : anchorOf ((placing s rid c h f).copyStep s) rid c = anchorOf s rid c :=
    anchorOf_congr ((placing s rid c h f).kept_copyStep s c Core.arr fun _ _ => rfl)
  have hcopy : (if f.copy then setCopyQ s rid c (copyQ s rid c ++ [{ hdr := h, work := .fence }]) else s) =
      (placing s rid c h f).copyStep s := rfl
  have hmatrix : (if f.matrix then
        pushMatrix ((placing s rid c h f).copyStep s) rid (anchorOf ((placing s rid c h f).copyStep s) rid c) { hdr := h, work := .fence }
      else (placing s rid c h f).copyStep s) = (placing s rid c h f).matrixStep ((placing s rid c h f).copyStep s) := by
    rw [pushMatrix_of_waits (waitsAtHead_fence h), hanchor]
    rfl
  unfold placeFence
  simp only
  rw [hcopy, hmatrix]
  rfl

/-- The step that takes the entries of a fence out. -/
def dropping (rid c : Nat) (f : QFence) : Fencing :=
  { rid := rid, core := c, arr := f.arr, tile := f.tile, copy := f.copy, matrix := f.matrix, ring := f.ring, xdie := f.xdie, ports := f.ports,
    onCopy := fun q => q.drop 1, onArr := fun a => { a with q := a.q.drop 1, st := .idle }, onRing := fun q => q.drop 1, onXdie := fun q => q.drop 1,
    onPort := fun q => q.drop 1 }

/-- A rectangle's state without the record of a fence. -/
def unlisted (s : State) (rid uid : Nat) : State := modRect s rid fun r => { r with fences := tdel r.fences uid }

theorem coreAt_unlisted (s : State) (rid uid r c : Nat) : coreAt (unlisted s rid uid) r c = coreAt s r c := coreAt_modRect _ _ _ _ _ rfl

theorem dropFence_eq {s : State} {rid c : Nat} {f : QFence} (h : f.matrix = true → waitsAtHead ((arrAt s rid f.arr).q.drop 1)) :
    dropFence s rid c f = (dropping rid c f).step (unlisted s rid f.hdr.uid) := by
  have hdrop : (if f.matrix then dropMatrix ((dropping rid c f).copyStep (unlisted s rid f.hdr.uid)) rid f.arr
      else (dropping rid c f).copyStep (unlisted s rid f.hdr.uid)) =
      (dropping rid c f).matrixStep ((dropping rid c f).copyStep (unlisted s rid f.hdr.uid)) := by
    rw [Fencing.matrixStep]
    by_cases hm : f.matrix = true
    · rw [if_pos hm]
      refine (dropMatrix_of_waits ?_).trans (if_pos hm).symm
      have harr : arrAt ((dropping rid c f).copyStep (unlisted s rid f.hdr.uid)) rid f.arr = arrAt s rid f.arr :=
        ((dropping rid c f).kept_copyStep _ f.arr Core.arr fun _ _ => rfl).trans (congrArg Core.arr (coreAt_unlisted ..))
      rw [harr]
      exact h hm
    · rw [if_neg hm]
      exact (if_neg hm).symm
  have hcopy : (if f.copy then setCopyQ (unlisted s rid f.hdr.uid) rid c ((copyQ (unlisted s rid f.hdr.uid) rid c).drop 1)
      else unlisted s rid f.hdr.uid) = (dropping rid c f).copyStep (unlisted s rid f.hdr.uid) := rfl
  unfold dropFence
  simp only
  rw [← unlisted, hcopy, hdrop]
  rfl

end Sys2Proof.CopyOps
end

section
/-!
PROOF. Queue fences (O40, R244): the instruction, and the event that completes a fence.
-/
open Sys2Proof Sys2Proof.Machine Sys2Proof.Claims

namespace Sys2Proof.CopyOps

open Sys2Proof.Scalars Sys2Proof.Accesses

/-! ### The word of a fence (R244) -/

theorem bitsOf_eq (w : W64) (hi lo : Nat) : bitsOf w.toNat hi lo = (w.extractLsb' lo (hi - lo + 1)).toNat := by
  rw [bitsOf, BitVec.extractLsb'_toNat, Nat.shiftRight_eq_div_pow]

theorem bitsOf_of_zero {w : W64} {hi lo n : Nat} (hn : hi - lo + 1 = n) (h : w.extractLsb' lo n = 0) : bitsOf w.toNat hi lo = 0 := by
  subst hn
  rw [bitsOf_eq, h]
  rfl

/-- A packed word names the semaphore that its fields say (R208). -/
theorem packedSem_of_semWord {s : State} {l : W64} {g : BitVec 1} {sem : Option (Nat × Nat)} (z : Nat) (h : semWord s l g sem) :
    packedSem s s.cur.rid l g z = .ok sem := by
  rcases bit_cases g with rfl | rfl
  · obtain ⟨hzero, rfl⟩ := h
    have hfield : l.toNat / 2 ^ 32 % 2 ^ 14 = 0 := bitsOf_of_zero (hi := 45) rfl hzero
    have hdie : bitsOf l.toNat 45 44 = 0 := by
      change l.toNat / 2 ^ 44 % 2 ^ 2 = 0
      omega
    have hix : bitsOf l.toNat 43 32 = 0 := by
      change l.toNat / 2 ^ 32 % 2 ^ 12 = 0
      omega
    simp only [packedSem, hdie, hix, ne_eq, not_true_eq_false, or_self, if_false]
    rfl
  · obtain ⟨hlt, rfl⟩ := h
    simp only [packedSem, bitsOf_eq, if_true]
    exact if_neg (Nat.not_le.2 hlt)

/-- The ports of a tile that a fence word names. -/
def fencePorts (l : W64) : List Nat := (List.range 6).filter fun p => l.toNat / 2 ^ (6 + p) % 2 == 1

theorem mem_fencePorts {l : W64} {p : Nat} : p ∈ fencePorts l ↔ p < 6 ∧ l.getLsbD (6 + p) = true := by
  rw [fencePorts, List.mem_filter, List.mem_range, BitVec.getLsbD, Nat.testBit_eq_decide_div_mod_eq, beq_iff_eq, decide_eq_true_iff]

theorem nodup_fencePorts (l : W64) : (fencePorts l).Nodup := List.nodup_range.filter _

theorem fencePorts_eq_nil {l : W64} : fencePorts l = [] ↔ l.extractLsb' 6 6 = 0 := by
  constructor
  · intro h
    refine BitVec.eq_of_getLsbD_eq fun i hi => ?_
    rw [BitVec.getLsbD_extractLsb', decide_eq_true hi, Bool.true_and]
    refine Eq.trans ?_ BitVec.getLsbD_zero.symm
    by_contra hbit
    have hmem := mem_fencePorts.2 ⟨hi, Bool.not_eq_false _ ▸ hbit⟩
    rw [h] at hmem
    cases hmem
  · intro h
    refine List.eq_nil_iff_forall_not_mem.2 fun p hp => ?_
    obtain ⟨hlt, hbit⟩ := mem_fencePorts.1 hp
    have hzero : (l.extractLsb' 6 6).getLsbD p = true := by
      rw [BitVec.getLsbD_extractLsb', decide_eq_true hlt, hbit]
      rfl
    rw [h] at hzero
    exact absurd (BitVec.getLsbD_zero.symm.trans hzero) Bool.false_ne_true

/-- The queues that a fence word names, its ports being of a tile. -/
def namedBy (l : W64) (tile : Nat) : FenceWord :=
  { copy := l.getLsbD 0, matrix := l.getLsbD 1, ring := l.getLsbD 2, xdie := l.getLsbD 3, tile := tile, ports := fencePorts l }

theorem fenceWord_of_fields {s : State} {l : W64} {g : BitVec 1} {sem : Option (Nat × Nat)} {t : Nat} (hsem : semWord s l g sem)
    (hhigh : l.extractLsb' 46 18 = 0) (hmid : l.extractLsb' 12 4 = 0) (hlow : l.extractLsb' 4 2 = 0)
    (hpad : l.extractLsb' 6 6 = 0 → l.extractLsb' 16 16 = 0)
    (htile : l.extractLsb' 6 6 ≠ 0 →
      tileFrom (rectAt s s.cur.rid) s.cur.core (l.extractLsb' 24 8).toInt (l.extractLsb' 16 8).toInt = some t) :
    ∃ n, fenceWord s l g = .ok (namedBy l n, sem) ∧ (fencePorts l ≠ [] → n = t) := by
  have hx : sext 8 (bitsOf l.toNat 31 24) = (l.extractLsb' 24 8).toInt := by
    rw [sext_eq_toInt (by decide), bitsOf_eq, BitVec.ofNat_toNat]
    rfl
  have hy : sext 8 (bitsOf l.toNat 23 16) = (l.extractLsb' 16 8).toInt := by
    rw [sext_eq_toInt (by decide), bitsOf_eq, BitVec.ofNat_toNat]
    rfl
  have hrange : ¬(bitsOf l.toNat 63 46 ≠ 0 ∨ bitsOf l.toNat 15 12 ≠ 0 ∨ bitsOf l.toNat 5 4 ≠ 0 ∨
      ((fencePorts l).isEmpty = true ∧ bitsOf l.toNat 31 16 ≠ 0)) := by
    rw [bitsOf_of_zero rfl hhigh, bitsOf_of_zero rfl hmid, bitsOf_of_zero rfl hlow, List.isEmpty_iff, fencePorts_eq_nil]
    rintro (h | h | h | ⟨hnil, h⟩)
    · exact h rfl
    · exact h rfl
    · exact h rfl
    · exact h (bitsOf_of_zero rfl (hpad hnil))
  have htest : (!(fencePorts l).isEmpty &&
      (tileFrom (rectAt s s.cur.rid) s.cur.core (l.extractLsb' 24 8).toInt (l.extractLsb' 16 8).toInt).isNone) = false := by
    by_cases hports : l.extractLsb' 6 6 = 0
    · rw [fencePorts_eq_nil.2 hports]
      rfl
    · rw [htile hports]
      exact Bool.and_false _
  refine ⟨(tileFrom (rectAt s s.cur.rid) s.cur.core (l.extractLsb' 24 8).toInt (l.extractLsb' 16 8).toInt).getD 0, ?_, fun hports => ?_⟩
  · unfold fenceWord
    simp only [packedSem_of_semWord _ hsem, hx, hy]
    rw [← fencePorts, if_neg hrange, htest, if_neg Bool.false_ne_true]
    rfl
  · rw [htile fun h => hports (fencePorts_eq_nil.2 h)]
    rfl

/-! ### COPY, queue fence form (R244) -/

section
variable {s : State} {l : W64} {n t : Nat}

/-- A fence word that names some queue. -/
theorem names_some (h : l.extractLsb' 0 4 ≠ 0 ∨ l.extractLsb' 6 6 ≠ 0) :
    (!l.getLsbD 0 && !l.getLsbD 1 && !l.getLsbD 2 && !l.getLsbD 3 && (fencePorts l).isEmpty) = false := by
  by_contra hne
  rw [Bool.not_eq_false] at hne
  simp only [Bool.and_eq_true, Bool.not_eq_true', List.isEmpty_iff, fencePorts_eq_nil] at hne
  obtain ⟨⟨⟨⟨h0, h1⟩, h2⟩, h3⟩, hports⟩ := hne
  refine h.elim (fun hlow => hlow ?_) fun hp => hp hports
  refine BitVec.eq_of_getLsbD_eq fun i hi => ?_
  rw [BitVec.getLsbD_extractLsb', decide_eq_true hi, Bool.true_and]
  refine Eq.trans ?_ BitVec.getLsbD_zero.symm
  interval_cases i
  · exact h0
  · exact h1
  · exact h2
  · exact h3

theorem fenceBlocked_of_room (hn : fencePorts l ≠ [] → n = t)
    (hclock : l.extractLsb' 6 6 ≠ 0 → clockRuns s (tileDie (rectAt s s.cur.rid) t) = true)
    (harr : l.getLsbD 1 = true → arrayUnit s s.cur.rid (arrayHere s) = true ∧ (arrAt s s.cur.rid (arrayHere s)).q.length < 16)
    (hring : l.getLsbD 2 = true → (coreHere s).ringq.length < 16)
    (hport : ∀ n, n < 6 → l.getLsbD (6 + n) = true → (portQ s s.cur.rid t n).length < 8) :
    fenceBlocked s (namedBy l n) = false := by
  have hports : (!(fencePorts l).isEmpty && !clockRuns s (tileDie (rectAt s s.cur.rid) n)) = false := by
    by_cases h : fencePorts l = []
    · rw [h]
      rfl
    · rw [hn h, hclock fun hz => h (fencePorts_eq_nil.2 hz)]
      exact Bool.and_false _
  have hmatrix : (l.getLsbD 1 && matrixFull s) = false := by
    cases hbit : l.getLsbD 1 with
    | false => rfl
    | true =>
      obtain ⟨hunit, hlen⟩ := harr hbit
      have hroom : ¬16 ≤ (arrAt s s.cur.rid (anchorOf s s.cur.rid s.cur.core)).q.length := Nat.not_le.2 hlen
      have hunit' : arrayUnit s s.cur.rid (anchorOf s s.cur.rid s.cur.core) = true := hunit
      rw [matrixFull]
      simp only [hunit', decide_eq_false hroom]
      rfl
  have hrings : (l.getLsbD 2 && decide (16 ≤ (coreAt s s.cur.rid s.cur.core).ringq.length)) = false := by
    cases hbit : l.getLsbD 2 with
    | false => rfl
    | true =>
      have hroom : ¬16 ≤ (coreAt s s.cur.rid s.cur.core).ringq.length := Nat.not_le.2 (hring hbit)
      rw [decide_eq_false hroom]
      rfl
  have hall : ((fencePorts l).any fun p => decide (8 ≤ (portQ s s.cur.rid n p).length)) = false := by
    refine List.any_eq_false.2 fun p hp => ?_
    obtain ⟨hlt, hbit⟩ := mem_fencePorts.1 hp
    rw [hn (List.ne_nil_of_mem hp), decide_eq_true_iff]
    exact Nat.not_le.2 (hport p hlt hbit)
  have hsplit : fenceBlocked s (namedBy l n) = ((!(fencePorts l).isEmpty && !clockRuns s (tileDie (rectAt s s.cur.rid) n)) ||
      (l.getLsbD 1 && matrixFull s) || (l.getLsbD 2 && decide (16 ≤ (coreAt s s.cur.rid s.cur.core).ringq.length)) ||
      (fencePorts l).any fun p => decide (8 ≤ (portQ s s.cur.rid n p).length)) := rfl
  rw [hsplit, hports, hmatrix, hrings, hall]
  rfl

theorem exec_copyQf {p : BitVec 2} {g : BitVec 1} {k : BitVec 3} {r : W64} {sem : Option (Nat × Nat)} (hr : Ready (.copyQf p g k) l r s)
    (hfree : cmdFree s k.toNat) (hword : fenceWord s l g = .ok (namedBy l n, sem)) (hblock : fenceBlocked s (namedBy l n) = false)
    (hsome : l.extractLsb' 0 4 ≠ 0 ∨ l.extractLsb' 6 6 ≠ 0) :
    exec (.copyQf p g k) s = .next (fired s (placeFence (counted s k.toNat) s.cur.rid s.cur.core (cmdHdr s k.toNat sem) (namedBy l n))) := by
  have hexec : exec (.copyQf p g k) s = _ := exec_of_performs ⟨_, fun _ => rfl, fun _ => rfl⟩ hr
  have hempty : (!(namedBy l n).copy && !(namedBy l n).matrix && !(namedBy l n).ring && !(namedBy l n).xdie && (namedBy l n).ports.isEmpty) =
      false := names_some hsome
  rw [hexec, immediate_free _ hfree.1, hword]
  simp only [hempty, hblock, tokenFull_of_free hfree, Bool.false_eq_true, Bool.false_and, or_self, if_false, commandHdr_eq, settled]

end

end Sys2Proof.CopyOps
end

section
/-!
PROOF. Queue fences (O40, R244): what the instruction and the event leave.
-/
open Sys2Proof Sys2Proof.Machine Sys2Proof.Claims

namespace Sys2Proof.CopyOps

open Sys2Proof.Scalars Sys2Proof.Accesses

/-! ### The state after an engine command has counted (R232) -/

/-- Counting on a token leaves all of a core but its phase and its tokens. -/
theorem core_counted {α : Type} (π : Core → α) (h : ∀ k p t, π { k with phase := p, tok := t } = π k) (s : State) (tok d : Nat) :
    π (coreAt (counted s tok) s.cur.rid d) = π (coreAt s s.cur.rid d) := by
  obtain ⟨p, hp⟩ := coreAt_bind (modCore { s with nextId := s.nextId + 1 } s.cur.rid s.cur.core fun k =>
    { k with tok := tset k.tok tok (tget 0 k.tok tok + 1) }) s.cur.rid s.cur.core s.cur.rid d
  rw [counted, hp, coreAt_modCore]
  split
  · next hd =>
    rw [hd.2]
    exact h (coreAt s s.cur.rid s.cur.core) p (tset (coreHere s).tok tok (tget 0 (coreHere s).tok tok + 1))
  · exact h _ p (coreAt s s.cur.rid d).tok

theorem tok_counted (s : State) (tok : Nat) : tget 0 (coreAt (counted s tok) s.cur.rid s.cur.core).tok tok = tget 0 (coreHere s).tok tok + 1 := by
  obtain ⟨p, hp⟩ := coreAt_bind (modCore { s with nextId := s.nextId + 1 } s.cur.rid s.cur.core fun k =>
    { k with tok := tset k.tok tok (tget 0 k.tok tok + 1) }) s.cur.rid s.cur.core s.cur.rid s.cur.core
  rw [counted, hp, coreAt_modCore_same]
  exact tget_tset_same ..

theorem portQ_modRun (s : State) (rid c : Nat) (f : BlockRun → BlockRun) (r t n : Nat) : portQ (modRun s rid c f) r t n = portQ s r t n := by
  unfold modRun
  split
  · exact portQ_modCore ..
  · rfl

theorem portQ_counted (s : State) (tok r t n : Nat) : portQ (counted s tok) r t n = portQ s r t n :=
  (portQ_modRun ..).trans (portQ_modCore ..)

theorem append_ite {α : Type} (b : Prop) [Decidable b] (l : List α) (x : α) : (if b then l ++ [x] else l) = l ++ (if b then [x] else []) := by
  split
  · rfl
  · exact (List.append_nil l).symm

/-! ### The instruction -/

section
variable (s : State) (l : W64) (tok n : Nat) (h : Hdr)

/-- The state after a fence is placed, which its token counts. -/
def fenced : State := placeFence (counted s tok) s.cur.rid s.cur.core h (namedBy l n)

theorem fenced_eq : ∃ q, fenced s l tok n h = modRect ((placing (counted s tok) s.cur.rid s.cur.core h (namedBy l n)).step (counted s tok))
    s.cur.rid fun r => { r with fences := tset r.fences h.uid q } := placeFence_eq ..

theorem coreAt_fenced (d : Nat) : coreAt (fenced s l tok n h) s.cur.rid d =
    coreAt ((placing (counted s tok) s.cur.rid s.cur.core h (namedBy l n)).step (counted s tok)) s.cur.rid d := by
  obtain ⟨q, hq⟩ := fenced_eq s l tok n h
  rw [hq]
  exact coreAt_modRect _ _ _ _ _ rfl

theorem copyq_fenced : (coreAt (fenced s l tok n h) s.cur.rid s.cur.core).copyq =
    (coreHere s).copyq ++ (if l.getLsbD 0 then [{ hdr := h, work := .fence }] else []) := by
  have hstep := (placing (counted s tok) s.cur.rid s.cur.core h (namedBy l n)).copyq_step (counted s tok) s.cur.core
  have hcore : (coreAt (counted s tok) s.cur.rid s.cur.core).copyq = (coreHere s).copyq := core_counted Core.copyq (fun _ _ _ => rfl) ..
  rw [coreAt_fenced, ← append_ite, ← hcore]
  refine hstep.trans (if_congr ?_ rfl rfl)
  exact and_iff_left rfl

theorem ringq_fenced : (coreAt (fenced s l tok n h) s.cur.rid s.cur.core).ringq =
    (coreHere s).ringq ++ (if l.getLsbD 2 then [{ hdr := h, work := .fence }] else []) := by
  have hstep := (placing (counted s tok) s.cur.rid s.cur.core h (namedBy l n)).ringq_step (counted s tok) s.cur.core
  have hcore : (coreAt (counted s tok) s.cur.rid s.cur.core).ringq = (coreHere s).ringq := core_counted Core.ringq (fun _ _ _ => rfl) ..
  rw [coreAt_fenced, ← append_ite, ← hcore]
  exact hstep.trans (if_congr (and_iff_left rfl) rfl rfl)

theorem xdieq_fenced : (coreAt (fenced s l tok n h) s.cur.rid s.cur.core).xdieq =
    (coreHere s).xdieq ++ (if l.getLsbD 3 then [{ hdr := h, work := .fence }] else []) := by
  have hstep := (placing (counted s tok) s.cur.rid s.cur.core h (namedBy l n)).xdieq_step (counted s tok) s.cur.core
  have hcore : (coreAt (counted s tok) s.cur.rid s.cur.core).xdieq = (coreHere s).xdieq := core_counted Core.xdieq (fun _ _ _ => rfl) ..
  rw [coreAt_fenced, ← append_ite, ← hcore]
  exact hstep.trans (if_congr (and_iff_left rfl) rfl rfl)

theorem arr_fenced (c : Nat) : arrAt (fenced s l tok n h) s.cur.rid c = if l.getLsbD 1 ∧ c = arrayHere s
    then { arrAt s s.cur.rid c with q := (arrAt s s.cur.rid c).q ++ [{ hdr := h, work := .fence }] } else arrAt s s.cur.rid c := by
  have hstep := (placing (counted s tok) s.cur.rid s.cur.core h (namedBy l n)).arr_step (counted s tok) c
  have hcore (d : Nat) : (coreAt (counted s tok) s.cur.rid d).arr = arrAt s s.cur.rid d := core_counted Core.arr (fun _ _ _ => rfl) ..
  have hanchor : anchorOf (counted s tok) s.cur.rid s.cur.core = arrayHere s := anchorOf_congr (hcore _)
  rw [arrAt, coreAt_fenced, ← hcore, ← hanchor]
  exact hstep

theorem tok_fenced : tget 0 (coreAt (fenced s l tok n h) s.cur.rid s.cur.core).tok tok = tget 0 (coreHere s).tok tok + 1 := by
  have hstep := (placing (counted s tok) s.cur.rid s.cur.core h (namedBy l n)).tok_step (counted s tok) s.cur.core
  rw [coreAt_fenced, ← tok_counted]
  exact congrArg (tget 0 · tok) hstep

theorem listed_fenced : (tfind (rectAt (fenced s l tok n h) s.cur.rid).fences h.uid).isSome = true := by
  obtain ⟨q, hq⟩ := fenced_eq s l tok n h
  rw [hq, rectAt_modRect_same, tfind_tset_same]
  rfl

theorem portQ_fenced {t : Nat} (hn : fencePorts l ≠ [] → n = t) (p : Nat) : portQ (fenced s l tok n h) s.cur.rid t p =
    portQ s s.cur.rid t p ++ (if p < 6 ∧ l.getLsbD (6 + p) then [{ hdr := h, work := .fence }] else []) := by
  have hstep := (placing (counted s tok) s.cur.rid s.cur.core h (namedBy l n)).portQ_step (counted s tok) (nodup_fencePorts l) t p
  obtain ⟨q, hq⟩ := fenced_eq s l tok n h
  have hport : portQ (fenced s l tok n h) s.cur.rid t p =
      portQ ((placing (counted s tok) s.cur.rid s.cur.core h (namedBy l n)).step (counted s tok)) s.cur.rid t p := by
    rw [hq, portQ, tileAt, rectAt_modRect_same]
    rfl
  rw [hport, ← append_ite, ← portQ_counted s tok]
  refine hstep.trans (if_congr ?_ rfl rfl)
  rw [← mem_fencePorts]
  exact and_iff_right_of_imp fun hp => (hn (List.ne_nil_of_mem hp)).symm

end

/-! ### The event (R138, R244) -/

/-- A queue's first entry is of a command. -/
theorem stands_iff (h : Option Hdr) (uid : Nat) : (h.map (·.uid) == some uid) = true ↔ ∃ x, h = some x ∧ x.uid = uid := by
  rw [beq_iff_eq, Option.map_eq_some_iff]

theorem fenceReached_iff (s : State) (rid c : Nat) (f : QFence) :
    let stands := fun (h : Option Hdr) => ∃ x, h = some x ∧ x.uid = f.hdr.uid
    fenceReached s rid c f = true ↔
      ((f.copy = true → stands ((coreAt s rid c).copyq.head?.map (·.hdr)) ∧ (f.matrix = true ∨ copymOpen s rid c = false)) ∧
      (f.matrix = true → stands ((arrAt s rid f.arr).q.head?.map (·.hdr))) ∧
      (f.ring = true → stands ((coreAt s rid c).ringq.head?.map (·.hdr))) ∧
      (f.xdie = true → stands ((coreAt s rid c).xdieq.head?.map (·.hdr))) ∧
      ∀ p ∈ f.ports, stands ((portQ s rid f.tile p).head?.map (·.hdr))) := by
  intro stands
  have hor (b x : Bool) : (!b || x) = true ↔ (b = true → x = true) := by cases b <;> simp
  simp only [fenceReached, Bool.and_eq_true, hor, stands_iff, Bool.or_eq_true, Bool.not_eq_true', List.all_eq_true, and_assoc]
  rfl

theorem exec_queueFenceComplete {s : State} {rid c uid : Nat} {f : QFence} (hunit : coreUnit s rid c = true)
    (hf : tfind (rectAt s rid).fences uid = some f) (hc : f.hdr.core = c) :
    exec (.queueFenceComplete rid c uid) s = .next (if fenceReached s rid c f = true ∧ maySignal s rid f.hdr = true ∧ fenceRuns s rid f = true
      then signal (dropFence s rid c f) rid f.hdr else s) := by
  have hexec : exec (.queueFenceComplete rid c uid) s = execQueueFenceComplete rid c uid s := rfl
  simp only [hexec, execQueueFenceComplete, hf, hc, hunit, true_and]

theorem maySignal_of_plain {s : State} {rid : Nat} {h : Hdr} (hp : plainSignal s rid h) : maySignal s rid h = true := by
  obtain ⟨hreplay, hclock, hsem⟩ := hp
  rw [maySignal, hreplay, hclock, hsem]
  rfl

theorem signal_of_plain {s : State} {rid : Nat} {h : Hdr} (u : State) (hp : plainSignal s rid h) :
    signal u rid h = tokenSub u rid h.core h.tok := by
  obtain ⟨-, -, hsem⟩ := hp
  simp only [signal, hsem]

theorem core_tokenSub {α : Type} (π : Core → α) (h : ∀ k t, π { k with tok := t } = π k) (s : State) (rid c t q d : Nat) :
    π (coreAt (tokenSub s rid c t) q d) = π (coreAt s q d) := by
  rw [tokenSub, coreAt_modCore]
  split
  · next hd =>
    rw [hd.1, hd.2]
    exact h ..
  · rfl

theorem tokOf_tokenSub (s : State) (rid : Nat) (h : Hdr) : tokOf (tokenSub s rid h.core h.tok) rid h = tokOf s rid h - 1 := by
  rw [tokOf, tokenSub, coreAt_modCore_same]
  exact tget_tset_same ..

theorem drop_ite {α : Type} (b : Prop) [Decidable b] (l : List α) : (if b then l.drop 1 else l) = l.drop (if b then 1 else 0) := by
  split <;> rfl

section
variable {s : State} {rid : Nat} {f : QFence}

/-- What the completion of a fence leaves in the queues that it named. -/
theorem completed_fence (hwaits : f.matrix = true → waitsAtHead ((arrAt s rid f.arr).q.drop 1)) (hnodup : f.ports.Nodup)
    (hplain : plainSignal s rid f.hdr) {u : State} (hu : u = signal (dropFence s rid f.hdr.core f) rid f.hdr) :
    (coreAt u rid f.hdr.core).copyq = (coreAt s rid f.hdr.core).copyq.drop (if f.copy then 1 else 0) ∧
    (arrAt u rid f.arr).q = (arrAt s rid f.arr).q.drop (if f.matrix then 1 else 0) ∧
    (coreAt u rid f.hdr.core).ringq = (coreAt s rid f.hdr.core).ringq.drop (if f.ring then 1 else 0) ∧
    (coreAt u rid f.hdr.core).xdieq = (coreAt s rid f.hdr.core).xdieq.drop (if f.xdie then 1 else 0) ∧
    (∀ p, portQ u rid f.tile p = (portQ s rid f.tile p).drop (if p ∈ f.ports then 1 else 0)) ∧
    tokOf u rid f.hdr = tokOf s rid f.hdr - 1 := by
  rw [signal_of_plain _ hplain, dropFence_eq hwaits] at hu
  subst hu
  have hold (d : Nat) : coreAt (unlisted s rid f.hdr.uid) rid d = coreAt s rid d := coreAt_unlisted ..
  refine ⟨?_, ?_, ?_, ?_, fun p => ?_, ?_⟩
  · rw [core_tokenSub Core.copyq fun _ _ => rfl, ← drop_ite, ← hold]
    exact ((dropping rid f.hdr.core f).copyq_step ..).trans (if_congr (and_iff_left rfl) rfl rfl)
  · rw [arrAt, core_tokenSub Core.arr fun _ _ => rfl, ← drop_ite, arrAt, ← hold]
    refine (congrArg MArray.q ((dropping rid f.hdr.core f).arr_step _ f.arr)).trans ?_
    rw [apply_ite MArray.q]
    exact if_congr (and_iff_left rfl) rfl rfl
  · rw [core_tokenSub Core.ringq fun _ _ => rfl, ← drop_ite, ← hold]
    exact ((dropping rid f.hdr.core f).ringq_step ..).trans (if_congr (and_iff_left rfl) rfl rfl)
  · rw [core_tokenSub Core.xdieq fun _ _ => rfl, ← drop_ite, ← hold]
    exact ((dropping rid f.hdr.core f).xdieq_step ..).trans (if_congr (and_iff_left rfl) rfl rfl)
  · have hport : portQ (unlisted s rid f.hdr.uid) rid f.tile p = portQ s rid f.tile p := by
      rw [unlisted, portQ, tileAt, rectAt_modRect_same]
      rfl
    rw [tokenSub, portQ_modCore, ← drop_ite, ← hport]
    exact ((dropping rid f.hdr.core f).portQ_step _ hnodup ..).trans (if_congr (and_iff_right rfl) rfl rfl)
  · rw [tokOf_tokenSub, tokOf, tokOf, ← hold]
    exact congrArg (tget 0 · f.hdr.tok - 1) ((dropping rid f.hdr.core f).tok_step ..)

end

theorem queueFences : QueueFences := by
  refine ⟨fun p g k l r s sem t hr hfree hsem hhigh hmid hlow hsome hpad htile harr hring hport => ?_,
    fun s rid c uid f hunit hf hc huid => ⟨fun hno => ?_, fun hreached hruns hplain hwaits hnodup => ?_⟩⟩
  · obtain ⟨n, hword, hn⟩ := fenceWord_of_fields (t := t) hsem hhigh hmid hlow hpad fun h => (htile h).2
    have hblock := fenceBlocked_of_room hn (fun h => (htile h).1) harr hring hport
    exact ⟨_, exec_copyQf hr hfree hword hblock hsome, copyq_fenced .., arr_fenced s l _ n _, ringq_fenced .., xdieq_fenced ..,
      portQ_fenced _ _ _ _ _ hn,
      listed_fenced .., tok_fenced ..⟩
  · subst huid
    rw [exec_queueFenceComplete hunit hf hc, if_neg]
    exact fun h => hno ((fenceReached_iff s rid c f).1 h.1)
  · subst huid
    subst hc
    rw [exec_queueFenceComplete hunit hf rfl, if_pos ⟨(fenceReached_iff s rid _ f).2 hreached, maySignal_of_plain hplain, hruns⟩]
    exact ⟨_, rfl, completed_fence hwaits hnodup hplain rfl⟩

/-- Settles O40: copy commands enter their queue, a fence steps every queue it names (`Fencing`), and TOKRD lays out its counts. -/
theorem copyCommands : Obligations.CopyCommands := ⟨copyCommandsQueue, queueFences, tokensRead⟩

end Sys2Proof.CopyOps
end

section
/-!
PROOF. What a move of an engine does (O41, R241). A move that nothing holds reads its source whole and writes it (`moved_of_free`); a change of a
copy queue alone holds none (`moveFree_setCopyQ`).
-/
open Sys2Proof Sys2Proof.Machine Sys2Proof.Claims

namespace Sys2Proof.CopyOps

open Sys2Proof.Scalars Sys2Proof.Accesses Sys2Proof.QueueOps

/-! ### What a core's own change leaves (R103, R108, R350) -/

theorem homeOf_modCore (s : State) (rid c : Nat) (f : Core → Core) (who : Who) (a : W64) : homeOf (modCore s rid c f) who a = homeOf s who a := by
  by_cases h : who.rid = rid
  · subst h
    simp only [homeOf, rectAt_modCore_same]
    rfl
  · exact homeOf_congr a rfl (rectAt_modCore_other s c f h)

theorem targetOf_modCore (s : State) (rid c : Nat) (f : Core → Core) (who : Who) (a : W64) :
    targetOf (modCore s rid c f) who a = targetOf s who a := by
  by_cases h : who.rid = rid
  · subst h
    simp only [targetOf, homeOf_modCore, rectAt_modCore_same]
    rfl
  · exact targetOf_congr a rfl (rectAt_modCore_other s c f h)

theorem domainRuns_modCore (s : State) (rid c : Nat) (f : Core → Core) (q : Nat) : domainRuns (modCore s rid c f) q = domainRuns s q := by
  by_cases h : q = rid
  · subst h
    simp only [domainRuns, rectAt_modCore_same]
    rfl
  · simp only [domainRuns, rectAt_modCore_other s c f h]
    rfl

theorem tileAt_modCore (s : State) (rid c : Nat) (f : Core → Core) (q t : Nat) : tileAt (modCore s rid c f) q t = tileAt s q t := by
  by_cases h : q = rid
  · subst h
    rw [tileAt, rectAt_modCore_same]
    rfl
  · rw [tileAt, rectAt_modCore_other s c f h, tileAt]

theorem retainedAt_modCore (s : State) (rid c : Nat) (f : Core → Core) (p : Place) (n : Nat) :
    retainedAt (modCore s rid c f) p n = retainedAt s p n := by
  cases p <;> simp only [retainedAt, tileAt_modCore]

theorem writeHeld_modCore (s : State) (rid c : Nat) (f : Core → Core) (who : Who) (a : W64) (n : Nat) :
    writeHeld (modCore s rid c f) who a n = writeHeld s who a n := by
  simp only [writeHeld, homeOf_modCore, retainedAt_modCore, targetRuns, targetOf_modCore, domainRuns_modCore]
  rfl

theorem linesOf_modCore (s : State) (rid c : Nat) (f : Core → Core) (who : Who) (a : W64) (n : Nat) :
    linesOf (modCore s rid c f) who a n = linesOf s who a n := by
  simp only [linesOf, homeOf_modCore]

theorem entryLine_modCore (s : State) (rid c : Nat) (f : Core → Core) (q d : Nat) (e : Entry) :
    entryLine (modCore s rid c f) q d e = entryLine s q d e := by
  simp only [entryLine, linesOf_modCore]

theorem mem_tset {α : Type} {t : Tab α} {k : Nat} {v : α} {e : Nat × α} (h : e ∈ tset t k v) : e = (k, v) ∨ e ∈ t := by
  induction t with
  | nil => exact .inl (List.mem_singleton.1 h)
  | cons x t ih =>
    unfold tset at h
    split at h
    · exact List.mem_cons.1 h
    · split at h
      · exact (List.mem_cons.1 h).imp_right (List.mem_cons_of_mem _)
      · rcases List.mem_cons.1 h with rfl | h
        · exact .inr (List.mem_cons_self ..)
        · exact (ih h).imp_right (List.mem_cons_of_mem _)

theorem mem_of_tfind {α : Type} {t : Tab α} {k : Nat} {v : α} (h : tfind t k = some v) : (k, v) ∈ t := by
  induction t with
  | nil => cases h
  | cons x t ih =>
    unfold tfind at h
    split at h
    · next hk =>
      cases h
      rw [← hk]
      exact List.mem_cons_self ..
    · exact List.mem_cons_of_mem _ (ih h)

/-- A change of a core that leaves its drain brings no entry on its way. -/
theorem taskDrains_modCore {s : State} {rid c q : Nat} {f : Core → Core} (hf : ∀ k, onWay (f k) = onWay k) {uid : Nat} {x : Nat × Draining}
    (h : x ∈ taskDrains (rectAt (modCore s rid c f) q) uid) : x ∈ taskDrains (rectAt s q) uid := by
  by_cases hq : q = rid
  · subst hq
    rw [rectAt_modCore_same] at h
    obtain ⟨e, he, hx⟩ := List.mem_flatMap.1 h
    rcases mem_tset he with rfl | he
    · simp only [hf] at hx
      cases hc : tfind (rectAt s q).cores c with
      | none =>
        have hempty : onWay (coreAt s q c) = [] := by
          rw [coreAt, coreOf, tget, hc]
          rfl
        rw [hempty] at hx
        cases hx
      | some k =>
        have hk : coreAt s q c = k := by
          rw [coreAt, coreOf, tget, hc]
          rfl
        rw [hk] at hx
        exact List.mem_flatMap.2 ⟨_, mem_of_tfind hc, hx⟩
    · exact List.mem_flatMap.2 ⟨_, he, hx⟩
  · rwa [rectAt_modCore_other s c f hq] at h

theorem drainingLine_modCore {s : State} {rid c : Nat} {f : Core → Core} (hf : ∀ k, onWay (f k) = onWay k) {who : Who} {a : W64} {n : Nat}
    (h : drainingLine s who a n = false) : drainingLine (modCore s rid c f) who a n = false := by
  refine List.any_eq_false.2 fun x hx => ?_
  have hold := List.any_eq_false.1 h x (taskDrains_modCore hf hx)
  simp only [entryLine_modCore, linesOf_modCore]
  exact hold

theorem served_modCore (s : State) (rid c : Nat) (f : Core → Core) (w : Nat) (p : Place) (n : Nat) :
    served (modCore s rid c f) w p n = served s w p n := rfl

theorem readError_modCore (s : State) (rid c : Nat) (f : Core → Core) (w : Nat) (p : Place) (n : Nat) :
    readError (modCore s rid c f) w p n = readError s w p n := rfl

theorem moveFree_setCopyQ {s : State} {rid c : Nat} {q : List CopyCmd} {h : Hdr} {dst src : W64} {n : Nat} (hfree : moveFree s rid h dst src n) :
    moveFree (setCopyQ s rid c q) rid h dst src n := by
  obtain ⟨hsrc, hdst, hheld, hread, hserved⟩ := hfree
  have hway (k : Core) : onWay { k with copyq := q } = onWay k := rfl
  have hsrc' := drainingLine_modCore (rid := rid) (c := c) (f := fun k => { k with copyq := q }) hway hsrc
  have hdst' := drainingLine_modCore (rid := rid) (c := c) (f := fun k => { k with copyq := q }) hway hdst
  rw [← writeHeld_modCore s rid c fun k => { k with copyq := q }] at hheld
  rw [setCopyQ]
  refine ⟨hsrc', hdst', hheld, ?_, ?_⟩
  · rw [homeOf_modCore, readError_modCore]
    exact hread
  · rw [homeOf_modCore, served_modCore]
    exact hserved

theorem readKey_modCore (s : State) (rid c : Nat) (f : Core → Core) (x : Nat) : readKey (modCore s rid c f) x = readKey s x := rfl

theorem moved_setCopyQ {s u : State} {rid c : Nat} {q : List CopyCmd} {h : Hdr} {dst src : W64} {n : Nat}
    (hm : moved (setCopyQ s rid c q) u rid h dst src n) : moved s u rid h dst src n := by
  obtain ⟨hin, hout⟩ := hm
  simp only [setCopyQ, homeOf_modCore, readKey_modCore] at hin hout
  exact ⟨hin, hout⟩

/-! ### The move -/

theorem getElem?_readKeys (s : State) {k n j : Nat} (hj : j < n) : (readKeys s k n)[j]? = some (readKey s (k + j)) := by
  induction n generalizing k j with
  | zero => exact absurd hj (Nat.not_lt_zero j)
  | succ n ih =>
    cases j with
    | zero => rfl
    | succ j =>
      rw [readKeys, List.getElem?_cons_succ, ih (Nat.lt_of_succ_lt_succ hj), Nat.add_assoc, Nat.add_comm 1]

/-- The state a move that nothing holds leaves. -/
def movedState (s : State) (rid : Nat) (h : Hdr) (dst src : W64) (n : Nat) : State :=
  engineAck (performWrite (noteHbm s rid (homeOf s (mover rid h) src)) (mover rid h) h.task dst (memBytes s (mover rid h) src n)) (mover rid h) dst

theorem moveBytes_of_free {s : State} {rid : Nat} {h : Hdr} {dst src : W64} {n : Nat} (hfree : moveFree s rid h dst src n) :
    moveBytes s rid h dst src n = .done (movedState s rid h dst src n) := by
  obtain ⟨hsrc, hdst, hheld, hread, hserved⟩ := hfree
  have hgood : badByte s rid (mover rid h) src n = none := by
    rw [badByte, hread]
  have hwho : whoCmd rid h = mover rid h := rfl
  simp only [moveBytes, hwho, hsrc, hdst, hheld, Bool.or_self, Bool.false_eq_true, if_false, hgood, hserved, Bool.not_true]
  rfl

theorem part_engineAck {α : Type} (π : State → α) (hcore : ∀ s rid c f, π (modCore s rid c f) = π s)
    (hid : ∀ s n, π { s with nextId := n } = π s) (s : State) (who : Who) (a : W64) : π (engineAck s who a) = π s := by
  unfold engineAck
  split
  · exact (hcore ..).trans (hid ..)
  · rfl

theorem homeOf_noteHbm (s : State) (rid : Nat) (p : Place) (who : Who) (a : W64) : homeOf (noteHbm s rid p) who a = homeOf s who a :=
  homeOf_congr a (part_noteHbm State.extents (fun _ _ _ => rfl) ..)
    (congrArg (tget ({} : Rect) · _) (part_noteHbm State.rects (fun _ _ _ => rfl) ..))

theorem coreAt_noteHbm (s : State) (rid : Nat) (p : Place) (q c : Nat) : coreAt (noteHbm s rid p) q c = coreAt s q c :=
  congrArg (fun r => coreOf (tget ({} : Rect) r q) c) (part_noteHbm State.rects (fun _ _ _ => rfl) ..)

/-- A move that nothing holds writes what it read, and no other byte. -/
theorem moved_of_free {s : State} {rid : Nat} {h : Hdr} (dst src : W64) (n : Nat) (hwf : Memory.wf s = true) (hq : quiet s rid) :
    moved s (movedState s rid h dst src n) rid h dst src n := by
  have hquiet : quiet (noteHbm s rid (homeOf s (mover rid h) src)) (mover rid h).rid := fun c => by
    rw [coreAt_noteHbm]
    exact hq c
  have hmem := (part_engineAck State.mem (fun _ _ _ _ => rfl) (fun _ _ => rfl) _ (mover rid h) dst).trans
    (mem_performWrite (who := mover rid h) h.task dst (memBytes s (mover rid h) src n) hquiet)
  have hsame : (noteHbm s rid (homeOf s (mover rid h) src)).mem = s.mem := part_noteHbm State.mem (fun _ _ _ => rfl) ..
  have hlen : (memBytes s (mover rid h) src n).length = n := length_readKeys ..
  rw [homeOf_noteHbm] at hmem
  have hwf' : Memory.wf (noteHbm s rid (homeOf s (mover rid h) src)) = true := by rwa [Memory.wf, hsame]
  refine ⟨fun j hj => ?_, fun x hx => ?_⟩
  · have hin := readKey_writeKeys_in (memBytes s (mover rid h) src n) (k := (homeOf s (mover rid h) dst).key) hwf' (by rwa [hlen])
    rw [memBytes, getElem?_readKeys s hj] at hin
    rw [movedState, readKey_congr hmem]
    exact Option.some.inj hin
  · rw [movedState, readKey_congr hmem, readKey_writeKeys_other _ (by rwa [hlen]), readKey_congr hsame]

/-- A move leaves the copy queues of its rectangle. -/
theorem copyq_movedState (s : State) (rid : Nat) (h : Hdr) (dst src : W64) (n c : Nat) :
    (coreAt (movedState s rid h dst src n) rid c).copyq = (coreAt s rid c).copyq := by
  have hack (u : State) : (coreAt (engineAck u (mover rid h) dst) rid c).copyq = (coreAt u rid c).copyq := by
    unfold engineAck
    split
    · rw [coreAt_modCore]
      split
      · next hd =>
        rw [hd.2]
        rfl
      · rfl
    · rfl
  have hsquashed := (aborts_performWrite (noteHbm s rid (homeOf s (mover rid h) src)) (mover rid h) h.task dst
    (memBytes s (mover rid h) src n)).core c
  have hwrite := congrArg Core.copyq hsquashed.2
  rw [coreAt_landed, coreAt_noteHbm] at hwrite
  exact (hack _).trans hwrite

end Sys2Proof.CopyOps
end

section
/-!
PROOF. Copies and COPYM (O41, R104, R241, R242).
-/
open Sys2Proof Sys2Proof.Machine Sys2Proof.Claims

namespace Sys2Proof.CopyOps

open Sys2Proof.Scalars Sys2Proof.Accesses Sys2Proof.QueueOps

/-! ### Pins (R104) -/

/-- A world in which extents hold one more pin. -/
def pinned (e : Extent) : Extent := { e with pins := e.pins + 1 }

/-- Extents that can take a pin take one each, once. -/
theorem addPins_of_room {xs pins : List Nat} {s : State} (h : ∀ n ∈ xs, ∃ e, tfind s.extents n = some e ∧ (n ∈ pins ∨ e.pins < 511)) :
    ∃ x ps, addPins xs pins s = some ({ s with extents := x }, ps) ∧ (∀ n, n ∈ ps ↔ n ∈ pins ∨ n ∈ xs) ∧
      ∀ n, tfind x n = if n ∈ xs ∧ n ∉ pins then (tfind s.extents n).map pinned else tfind s.extents n := by
  induction xs generalizing pins s with
  | nil => exact ⟨s.extents, pins, rfl, fun n => by simp, fun n => by simp⟩
  | cons y ys ih =>
    obtain ⟨e, he, hroom⟩ := h y (List.mem_cons_self ..)
    by_cases hy : y ∈ pins
    · obtain ⟨x, ps, hadd, hmem, hx⟩ := ih fun n hn => h n (List.mem_cons_of_mem _ hn)
      refine ⟨x, ps, ?_, fun n => ?_, fun n => ?_⟩
      · rw [addPins, if_pos (List.contains_iff_mem.2 hy)]
        exact hadd
      · rw [hmem, List.mem_cons]
        by_cases hn : n = y
        · simp [hn, hy]
        · simp [hn]
      · rw [hx]
        refine if_congr ?_ rfl rfl
        rw [List.mem_cons]
        refine and_congr_left fun hn => ⟨.inr, Or.rec (fun hny => absurd (hny ▸ hy) hn) id⟩
    · have hlow : ¬511 ≤ e.pins := Nat.not_le.2 (hroom.resolve_left hy)
      have hset (n : Nat) (hn : n ≠ y) : tfind (tset s.extents y (pinned e)) n = tfind s.extents n := tfind_tset_other _ _ hn
      obtain ⟨x, ps, hadd, hmem, hx⟩ := ih (pins := pins ++ [y]) (s := { s with extents := tset s.extents y (pinned e) }) fun n hn => by
        by_cases hny : n = y
        · exact ⟨pinned e, by rw [hny]; exact tfind_tset_same .., .inl (by rw [hny]; exact List.mem_append_right _ (List.mem_singleton_self _))⟩
        · obtain ⟨e', he', hroom'⟩ := h n (List.mem_cons_of_mem _ hn)
          exact ⟨e', (hset n hny).trans he', hroom'.imp_left (List.mem_append_left _)⟩
      refine ⟨x, ps, ?_, fun n => ?_, fun n => ?_⟩
      · rw [addPins, if_neg (fun hc => hy (List.contains_iff_mem.1 hc)), he]
        simp only [if_neg hlow]
        exact hadd
      · rw [hmem, List.mem_append, List.mem_singleton, List.mem_cons, or_assoc]
      · rw [hx]
        by_cases hny : n = y
        · subst hny
          rw [if_neg fun hn => hn.2 (List.mem_append_right _ (List.mem_singleton_self _)), if_pos ⟨List.mem_cons_self .., hy⟩, he]
          exact tfind_tset_same ..
        · rw [hset n hny]
          refine if_congr ?_ rfl rfl
          simp [hny]

/-- While an extent that a command is to pin has 511 pins, none is pinned. -/
theorem addPins_of_full {xs pins : List Nat} {s : State} {n : Nat} {e : Extent} (hn : n ∈ xs) (hp : n ∉ pins) (he : tfind s.extents n = some e)
    (hfull : 511 ≤ e.pins) : addPins xs pins s = none := by
  induction xs generalizing pins s with
  | nil => cases hn
  | cons y ys ih =>
    rw [addPins]
    split
    · next hy =>
      have hny : n ≠ y := fun h => hp (h ▸ List.contains_iff_mem.1 hy)
      exact ih ((List.mem_cons.1 hn).resolve_left hny) hp he
    · by_cases hny : n = y
      · subst hny
        rw [he]
        exact if_pos hfull
      · have hn' := (List.mem_cons.1 hn).resolve_left hny
        cases hy : tfind s.extents y with
        | none => exact ih hn' hp he
        | some e' =>
          simp only
          split
          · rfl
          · refine ih hn' (fun h => ?_) ((tfind_tset_other _ _ hny).trans he)
            rcases List.mem_append.1 h with h | h
            · exact hp h
            · exact hny (List.mem_singleton.1 h)

/-! ### COPY_CHUNK (R241) -/

theorem copyQ_of_head {s : State} {rid c : Nat} {q : CopyCmd} {qs : List CopyCmd} (h : copyHead s rid c q qs) : copyQ s rid c = q :: qs := h.2

theorem modCopy_of_head {s : State} {rid c : Nat} {q : CopyCmd} {qs : List CopyCmd} (h : copyQ s rid c = q :: qs) (f : CopyCmd → CopyCmd) :
    modCopy s rid c f = setCopyQ s rid c (f q :: qs) := by
  rw [modCopy, h, modAt]

section
variable {s : State} {rid c : Nat} {q : CopyCmd} {qs : List CopyCmd} {dst src : W64} {len : Nat}

theorem exec_copyChunk_start (h : copyHead s rid c q qs) (hw : copyOf q.work = some (dst, src, len)) (hs : q.started = false)
    (hends : checkEnds s rid q.hdr dst src len [0, 0xF0, 0xF1, 0xF2] = none) :
    exec (.copyChunk rid c) s = .next ((addPins (extentsOf s rid [src, dst]) q.pins s).elim s fun v =>
      modCopy v.1 rid c fun q => { q with started := true, pins := v.2 }) := by
  have hexec : exec (.copyChunk rid c) s = execCopyChunk rid c s := rfl
  have hends' : checkEnds s rid q.hdr dst src len copySpaces = none := hends
  simp only [hexec, execCopyChunk, h.1, Bool.not_true, Bool.false_eq_true, if_false, copyQ_of_head h, hw, hs, Bool.not_false, if_true, hends']
  cases addPins (extentsOf s rid [src, dst]) q.pins s <;> rfl

theorem exec_copyChunk_move (h : copyHead s rid c q qs) (hw : copyOf q.work = some (dst, src, len)) (hs : q.started = true) (hp : q.prog < len)
    (hfree : moveFree s rid q.hdr (addrPlus dst (Int.ofNat q.prog)) (addrPlus src (Int.ofNat q.prog)) (min 4096 (len - q.prog))) :
    exec (.copyChunk rid c) s = .next (modCopy
      (movedState s rid q.hdr (addrPlus dst (Int.ofNat q.prog)) (addrPlus src (Int.ofNat q.prog)) (min 4096 (len - q.prog))) rid c
      fun x => { x with prog := x.prog + min 4096 (len - q.prog) }) := by
  have hexec : exec (.copyChunk rid c) s = execCopyChunk rid c s := rfl
  simp only [hexec, execCopyChunk, h.1, Bool.not_true, Bool.false_eq_true, if_false, copyQ_of_head h, hw, hs, Nat.not_le.2 hp,
    moveBytes_of_free hfree]

/-- What a step of a command leaves where it moved bytes. -/
theorem moved_step {u : State} (h : copyQ s rid c = q :: qs) {d : Hdr} {n : Nat} (hwf : Memory.wf s = true) (hq : quiet s rid)
    (f : CopyCmd → CopyCmd) (hu : u = modCopy (movedState s rid d dst src n) rid c f) :
    moved s u rid d dst src n ∧ (coreAt u rid c).copyq = f q :: qs := by
  have hcopyq : copyQ (movedState s rid d dst src n) rid c = q :: qs := (copyq_movedState ..).trans h
  rw [modCopy_of_head hcopyq] at hu
  subst hu
  exact ⟨moved_of_free dst src n hwf hq, congrArg Core.copyq (coreAt_modCore_same ..)⟩

/-! ### The end of a copy (R138, R241, R242) -/

theorem exec_copyComplete (h : copyHead s rid c q qs) (hs : q.started = true) (ht : copyTotal q.work = some q.prog)
    (hplain : plainSignal s rid q.hdr) :
    exec (.copyComplete rid c) s = .next (if copymOpen s rid c then s else signal (dropCopy s rid c q) rid q.hdr) := by
  have hexec : exec (.copyComplete rid c) s = execCopyComplete rid c s := rfl
  simp only [hexec, execCopyComplete, h.1, Bool.not_true, Bool.false_eq_true, if_false, copyQ_of_head h, hs, ht, maySignal_of_plain hplain, true_and,
    Bool.not_eq_true']
  cases copymOpen s rid c <;> rfl

theorem copyq_dropCopy (h : copyHead s rid c q qs) : (coreAt (dropCopy s rid c q) rid c).copyq = qs := by
  rw [dropCopy, setCopyQ, coreAt_modCore_same, copyQ_of_head h]
  rfl

theorem core_dropCopy {α : Type} (π : Core → α) (hπ : ∀ k x, π { k with copyq := x } = π k) (d : Nat) :
    π (coreAt (dropCopy s rid c q) rid d) = π (coreAt s rid d) := by
  rw [dropCopy, setCopyQ, coreAt_modCore]
  split
  · next hd =>
    rw [hd.2]
    exact hπ ..
  · rfl

theorem exec_copymMmacPlace (h : copyHead s rid c q qs) {w : W64} (hw : q.work = .copym dst src len w) (hs : q.started = true) (hp : q.prog = len)
    (ha : (arrAt s rid c).anchor = none) (hunit : arrayUnit s rid c = true) (hroom : (arrAt s rid c).q.length < 16) :
    exec (.copymMmacPlace rid c) s = .next (pushMatrix (dropCopy s rid c q) rid c { hdr := q.hdr, work := .mmac w true }) := by
  have hexec : exec (.copymMmacPlace rid c) s = execCopymMmacPlace rid c s := rfl
  have hanchor : anchorOf s rid c = c := by rw [anchorOf, ha]; rfl
  have hfull : decide (16 ≤ (arrAt s rid c).q.length) = false := decide_eq_false (Nat.not_le.2 hroom)
  simp only [hexec, execCopymMmacPlace, h.1, Bool.not_true, Bool.false_eq_true, if_false, copyQ_of_head h, hw, hs, hp, hanchor, hunit, hfull,
    bne_self_eq_false, Bool.or_self]

end

theorem waitsAtHead_mmac (h : Hdr) (w : W64) : waitsAtHead [{ hdr := h, work := .mmac w true }] := by
  intro q hq
  cases hq
  exact ⟨fun _ hb => MWork.noConfusion hb, fun _ hx => MWork.noConfusion hx⟩

theorem copyOf_of_work {q : CopyCmd} {dst src : W64} {len : Nat} (h : q.work = .copy dst src len ∨ ∃ w, q.work = .copym dst src len w) :
    copyOf q.work = some (dst, src, len) := by
  rcases h with h | ⟨w, h⟩ <;> rw [h] <;> rfl

theorem copiesRun : CopiesRun := by
  refine ⟨fun s rid c q qs dst src len hhead hwork => ?_, fun s rid c q qs hhead hs ht hplain => ⟨fun hopen => ?_, fun hopen => ?_⟩,
    fun s rid c q qs dst src len w hhead hw hs hp ha hunit hroom => ?_⟩
  · have hcopy := copyOf_of_work hwork
    refine ⟨fun hs hpins hends => ?_, fun hwf hq hs hp hfree => ?_⟩
    · have hexec := exec_copyChunk_start hhead hcopy hs hends
      rw [hpins] at hexec
      refine ⟨fun hdst hsrc => ?_, fun hroom => ?_, fun n e hn he hfull => ?_⟩
      · have hnone : extentsOf s rid [src, dst] = [] := by
          simp only [extentsOf, List.filterMap_cons, if_neg hdst, if_neg hsrc, List.filterMap_nil]
        rw [hexec, hnone, addPins, Option.elim_some, modCopy_of_head (copyQ_of_head hhead), ← hpins]
        rfl
      · obtain ⟨x, ps, hadd, hmem, hx⟩ := addPins_of_room (pins := []) (s := s) fun n hn => by
          obtain ⟨e, he, hlow⟩ := hroom n hn
          exact ⟨e, he, .inr hlow⟩
        have hqueue : copyQ { s with extents := x } rid c = q :: qs := hhead.2
        rw [hadd, Option.elim_some, modCopy_of_head hqueue] at hexec
        refine ⟨_, ps, hexec, congrArg Core.copyq (coreAt_modCore_same ..), fun n => ?_, fun n => ?_, fun y => rfl⟩
        · rw [hmem]
          exact or_iff_right List.not_mem_nil
        · refine (hx n).trans (if_congr (and_iff_left List.not_mem_nil) rfl rfl)
      · rw [hexec, addPins_of_full hn List.not_mem_nil he hfull, Option.elim_none]
    · exact ⟨_, exec_copyChunk_move hhead hcopy hs hp hfree, moved_step (copyQ_of_head hhead) hwf hq _ rfl⟩
  · rw [exec_copyComplete hhead hs ht hplain, hopen, if_neg Bool.false_ne_true, signal_of_plain _ hplain]
    refine ⟨_, rfl, ?_, ?_⟩
    · rw [core_tokenSub Core.copyq fun _ _ => rfl, copyq_dropCopy hhead]
    · rw [tokOf_tokenSub, tokOf, core_dropCopy Core.tok fun _ _ => rfl, tokOf]
  · rw [exec_copyComplete hhead hs ht hplain, hopen, if_pos rfl]
  · rw [exec_copymMmacPlace hhead hw hs hp ha hunit hroom, pushMatrix_of_waits (waitsAtHead_mmac _ _)]
    refine ⟨_, rfl, ?_, ?_, ?_⟩
    · rw [modArr, coreAt_modCore_same]
      exact copyq_dropCopy hhead
    · rw [arrAt_modArr_same, arrAt, core_dropCopy Core.arr fun _ _ => rfl, arrAt]
    · rw [tokOf, tokOf, modArr, coreAt_modCore]
      split
      · next hd =>
        rw [hd.2]
        exact congrArg (tget 0 · q.hdr.tok) (core_dropCopy Core.tok (fun _ _ => rfl) _)
      · rw [core_dropCopy Core.tok fun _ _ => rfl]

end Sys2Proof.CopyOps
end

section
/-!
PROOF. VGATHER, VSCATTER and TMOVE (O41, R116, R243).
-/
open Sys2Proof Sys2Proof.Machine Sys2Proof.Claims

namespace Sys2Proof.CopyOps

open Sys2Proof.Scalars Sys2Proof.Accesses Sys2Proof.QueueOps

/-! ### Elements (R116) -/

/-- A displacement keeps the space of an address. -/
theorem selector_addrPlus (a : W64) (d : Int) : selector (addrPlus a d) = selector a := by
  have hsel : selector a < 2 ^ 8 := by
    have ha := a.isLt
    rw [selector]
    omega
  have hw := Drains.wrap_lt 56 ((a.toNat % 2 ^ 56 : Nat) + d)
  rw [selector, addrPlus, BitVec.toNat_ofNat, Nat.mod_eq_of_lt (by omega)]
  omega

/-- A command none of whose addresses lies in global memory pins nothing. -/
theorem extentsOf_of_local (s : State) (rid : Nat) {as : List W64} (h : ∀ a ∈ as, selector a ≠ 0) : extentsOf s rid as = [] := by
  refine List.filterMap_eq_nil_iff.2 fun a ha => ?_
  rw [if_neg (h a ha)]

section
variable {s : State} {rid c : Nat} {q : CopyCmd} {qs : List CopyCmd} {ia dst src : W64} {n cnt : Nat}

/-- The state in which an element moves: its command's pins are as they were. -/
def repinned (s : State) (rid c : Nat) (q : CopyCmd) (qs : List CopyCmd) : State := setCopyQ s rid c (q :: qs)

theorem exec_gatherElement {a b : W64} (h : copyHead s rid c q qs) (hp : q.prog < cnt)
    (hindex : gatherEnds q.work q.prog 0 = some (ia, a, b, n, cnt))
    (hends : gatherEnds q.work q.prog (readNat s (homeOf s (mover rid q.hdr) ia).key 4) = some (ia, src, dst, n, cnt))
    (hlocal : ∀ z ∈ [ia, src, dst], selector z ≠ 0)
    (htr : translate s (mover rid q.hdr) ia 4 0 .read [0, 0xF0, 0xF1, 0xF2] = .ok ()) (hdrain : drainingLine s (mover rid q.hdr) ia 4 = false)
    (hread : readError s (worldOf rid) (homeOf s (mover rid q.hdr) ia) 4 = none)
    (hcheck : checkEnds s rid q.hdr dst src n [0, 0xF0, 0xF1, 0xF2] = none) (hfree : moveFree s rid q.hdr dst src n) :
    exec (.gatherElement rid c) s = .next (modCopy (noteHbm (movedState (repinned s rid c q qs) rid q.hdr dst src n) rid
      (homeOf (repinned s rid c q qs) (mover rid q.hdr) ia)) rid c fun q => { q with started := true, prog := q.prog + 1 }) := by
  have hexec : exec (.gatherElement rid c) s = execGatherElement rid c s := rfl
  have hgood : badByte s rid (mover rid q.hdr) ia 4 = none := by
    rw [badByte, hread]
  have hwho : whoCmd rid q.hdr = mover rid q.hdr := rfl
  have htr' : translate s (mover rid q.hdr) ia 4 0 .read copySpaces = .ok () := htr
  have hcheck' : checkEnds s rid q.hdr dst src n copySpaces = none := hcheck
  have hnat : natOf (memBytes s (mover rid q.hdr) ia 4) = readNat s (homeOf s (mover rid q.hdr) ia).key 4 := rfl
  have hpins : modCopy s rid c (fun x => { x with pins := q.pins }) = repinned s rid c q qs := modCopy_of_head (copyQ_of_head h) _
  have hmove := moveBytes_of_free (moveFree_setCopyQ (c := c) (q := q :: qs) hfree)
  rw [← repinned] at hmove
  simp only [hexec, execGatherElement, h.1, Bool.not_true, Bool.false_eq_true, if_false, copyQ_of_head h, gatherOne, hwho, hindex,
    Nat.not_le.2 hp, htr', hdrain, hgood, hnat, hends, hcheck', extentsOf_of_local s rid hlocal, addPins, hpins, hmove]

/-- What an element that moved leaves. -/
theorem moved_element {u : State} {d : Hdr} {p : Place} (hwf : Memory.wf s = true) (hq : quiet s rid)
    (f : CopyCmd → CopyCmd) (hu : u = modCopy (noteHbm (movedState (repinned s rid c q qs) rid d dst src n) rid p) rid c f) :
    moved s u rid d dst src n ∧ (coreAt u rid c).copyq = f q :: qs := by
  have hwf' : Memory.wf (repinned s rid c q qs) = true := hwf
  have hq' : quiet (repinned s rid c q qs) rid := by
    intro e
    rw [repinned, setCopyQ, coreAt_modCore]
    split
    · exact hq c
    · exact hq e
  have hqueue : copyQ (noteHbm (movedState (repinned s rid c q qs) rid d dst src n) rid p) rid c = q :: qs := by
    rw [copyQ, coreAt_noteHbm, copyq_movedState, repinned, setCopyQ, coreAt_modCore_same]
  obtain ⟨hin, hout⟩ := moved_setCopyQ (moved_of_free (h := d) dst src n hwf' hq')
  rw [modCopy_of_head hqueue] at hu
  have hmem : u.mem = (movedState (repinned s rid c q qs) rid d dst src n).mem := by
    rw [hu]
    exact part_noteHbm State.mem (fun _ _ _ => rfl) ..
  refine ⟨⟨fun j hj => (readKey_congr hmem _).trans (hin j hj), fun x hx => (readKey_congr hmem _).trans (hout x hx)⟩, ?_⟩
  rw [hu]
  exact congrArg Core.copyq (coreAt_modCore_same ..)

/-! ### Rows (R243) -/

theorem exec_tmoveRow {rows rb : Nat} {dp sp : Int} (h : copyHead s rid c q qs) (hw : q.work = .tmove dst src rows rb dp sp) (hs : q.started = true)
    (hp : q.prog < rows)
    (hfree : moveFree s rid q.hdr (addrPlus dst (Int.ofNat q.prog * dp)) (addrPlus src (Int.ofNat q.prog * sp)) rb) :
    exec (.tmoveRow rid c) s = .next (modCopy
      (movedState s rid q.hdr (addrPlus dst (Int.ofNat q.prog * dp)) (addrPlus src (Int.ofNat q.prog * sp)) rb) rid c
      fun q => { q with prog := q.prog + 1 }) := by
  have hexec : exec (.tmoveRow rid c) s = execTmoveRow rid c s := rfl
  simp only [hexec, execTmoveRow, h.1, Bool.not_true, Bool.false_eq_true, if_false, copyQ_of_head h, hw, hs, Nat.not_le.2 hp, rowEnds,
    moveBytes_of_free hfree]

end

theorem elementsMove : ElementsMove := by
  refine ⟨?_, fun s rid c q qs dst src rows rb dp sp hwf hq hhead hw hs hp hfree =>
    ⟨_, exec_tmoveRow hhead hw hs hp hfree, moved_step (copyQ_of_head hhead) hwf hq _ rfl⟩⟩
  intro s rid c q qs dst src idx n cnt hwf hq hhead hp ia j hdst hsrc hidx htr hdrain hread
  refine ⟨fun hw hcheck hfree => ?_, fun hw hcheck hfree => ?_⟩
  · have hlocal : ∀ z ∈ [ia, addrPlus src (Int.ofNat (n * j)), addrPlus dst (Int.ofNat (n * q.prog))], selector z ≠ 0 := by
      simp only [ia, List.mem_cons, List.not_mem_nil, or_false, forall_eq_or_imp, forall_eq, selector_addrPlus]
      exact ⟨hidx, hsrc, hdst⟩
    have hends (x : Nat) : gatherEnds q.work q.prog x =
        some (ia, addrPlus src (Int.ofNat (n * x)), addrPlus dst (Int.ofNat (n * q.prog)), n, cnt) := by
      rw [hw]
      rfl
    exact ⟨_, exec_gatherElement hhead hp (hends 0) (hends j) hlocal htr hdrain hread hcheck hfree, moved_element hwf hq _ rfl⟩
  · have hlocal : ∀ z ∈ [ia, addrPlus src (Int.ofNat (n * q.prog)), addrPlus dst (Int.ofNat (n * j))], selector z ≠ 0 := by
      simp only [ia, List.mem_cons, List.not_mem_nil, or_false, forall_eq_or_imp, forall_eq, selector_addrPlus]
      exact ⟨hidx, hsrc, hdst⟩
    have hends (x : Nat) : gatherEnds q.work q.prog x =
        some (ia, addrPlus src (Int.ofNat (n * q.prog)), addrPlus dst (Int.ofNat (n * x)), n, cnt) := by
      rw [hw]
      rfl
    exact ⟨_, exec_gatherElement hhead hp (hends 0) (hends j) hlocal htr hdrain hread hcheck hfree, moved_element hwf hq _ rfl⟩

/-- Settles O41: a move that nothing holds writes what it read (`moved_of_free`), and the step around it changes its own command. -/
theorem copiesMove : Obligations.CopiesMove := ⟨copiesRun, elementsMove⟩

end Sys2Proof.CopyOps
end

section
/-!
PROOF. Migrations (O49, R102 to R104). What writes the range tables writes nothing else (`rest_grantRange`, `rest_dropRange`), and a committed
copy leaves at its new home what stood at the old one (`readKey_copyRun_in`).
-/
open Sys2Proof Sys2Proof.Machine Sys2Proof.Claims

namespace Sys2Proof.LeaseOps

open Sys2Proof.Scalars Sys2Proof.Accesses Sys2Proof.Rectangles

/-! ### Range tables (R333) -/

/-- Between two states only range tables changed. -/
def Ranged (s u : State) : Prop := u = { s with ranges := u.ranges }

theorem Ranged.trans {s u v : State} (h : Ranged s u) (k : Ranged u v) : Ranged s v := by
  rw [Ranged] at *
  rw [k, h]

theorem ranged_foldl (f : Nat → List RangeEnt → List RangeEnt) (l : List Nat) (s : State) : Ranged s (l.foldl (fun s c => modRange s c (f c)) s) := by
  induction l generalizing s with
  | nil => rfl
  | cons c l ih => exact Ranged.trans (u := modRange s c (f c)) rfl (ih _)

theorem ranged_grantRange (s : State) (w tier first n : Nat) : Ranged s (grantRange s w tier first n) := ranged_foldl (fun _ l => l ++ [_]) ..

theorem ranged_dropRange (s : State) (w tier first n : Nat) : Ranged s (dropRange s w tier first n) := ranged_foldl (fun _ l => l.filter _) ..

theorem ranged_dropGrant (s : State) (e : Extent) : Ranged s (dropGrant s e) := by
  unfold dropGrant
  split
  · exact ranged_dropRange ..
  · rfl

/-- An entry put in tables stands in each of them. -/
theorem mem_granted (e : RangeEnt) (l : List Nat) (s : State) {c : Nat} (h : c ∈ l ∨ e ∈ tget [] s.ranges c) :
    e ∈ tget [] (l.foldl (fun s c => modRange s c fun l => l ++ [e]) s).ranges c := by
  induction l generalizing s with
  | nil => exact h.resolve_left List.not_mem_nil
  | cons d l ih =>
    refine ih _ ?_
    simp only [modRange, tget_tset]
    by_cases hd : c = d
    · rw [if_pos hd]
      exact .inr (List.mem_append_right _ (List.mem_singleton_self _))
    · rw [if_neg hd]
      exact h.imp_left fun hc => (List.mem_cons.1 hc).resolve_left hd

theorem granted_grantRange (s : State) (w tier first n : Nat) : granted (grantRange s w tier first n) w tier first n :=
  fun _ hc => ⟨_, mem_granted _ _ _ (.inl hc), rfl, rfl, rfl⟩

/-! ### A run copied (R102) -/

theorem lt_of_above {lo : Nat} {m : List Host.Cell} (h : above lo m = true) {c : Host.Cell} (hc : c ∈ m) : lo < c.1 := by
  induction m with
  | nil => cases hc
  | cons x m ih =>
    rw [above, Bool.and_eq_true, decide_eq_true_iff] at h
    rcases List.mem_cons.1 hc with rfl | hc
    · exact h.1
    · exact ih h.2 hc

/-- Cells written at another place. -/
def rewritten (src dst : Nat) (cells : List Host.Cell) (s : State) : State := cells.foldl (fun s c => writeKey s (c.1 - src + dst) c.2) s

theorem readKey_rewritten_out {src dst y : Nat} {cells : List Host.Cell} (s : State) (h : ∀ c ∈ cells, y ≠ c.1 - src + dst) :
    readKey (rewritten src dst cells s) y = readKey s y := by
  induction cells generalizing s with
  | nil => rfl
  | cons c cells ih =>
    exact (ih _ fun x hx => h x (List.mem_cons_of_mem _ hx)).trans (readKey_writeKey_other _ (h c (List.mem_cons_self ..)))

theorem readKey_rewritten_in {src dst i : Nat} {cells : List Host.Cell} {s : State} (hwf : Memory.wf s = true) (hcells : memWf cells = true)
    (hlow : ∀ c ∈ cells, src ≤ c.1) (hzero : readKey s (dst + i) = 0) :
    readKey (rewritten src dst cells s) (dst + i) = cellAt cells (src + i) := by
  induction cells generalizing s with
  | nil => exact hzero
  | cons c cells ih =>
    obtain ⟨j, b⟩ := c
    rw [memWf, Bool.and_eq_true, Bool.and_eq_true] at hcells
    obtain ⟨⟨-, habove⟩, hrest⟩ := hcells
    have hj : src ≤ j := hlow _ (List.mem_cons_self ..)
    have hlow' : ∀ c ∈ cells, src ≤ c.1 := fun x hx => hlow x (List.mem_cons_of_mem _ hx)
    change readKey (rewritten src dst cells (writeKey s (j - src + dst) b)) (dst + i) = _
    rw [cellAt]
    split
    · next hji =>
      have hkey : dst + i = j - src + dst := by omega
      refine (readKey_rewritten_out _ fun x hx => ?_).trans ?_
      · have := lt_of_above habove hx
        omega
      · rw [hkey]
        exact readKey_writeKey_same _ _ hwf
    · next hji =>
      refine ih (wf_writeKey _ _ hwf) hrest hlow' ?_
      rw [readKey_writeKey_other _ (by omega)]
      exact hzero

theorem readKey_scrub_out {s : State} {lo hi k : Nat} (h : k < lo ∨ hi ≤ k) : readKey (scrub s lo hi) k = readKey s k :=
  (cellAt_filter (fun k => decide (k < lo) || decide (hi ≤ k)) s.mem k).trans (if_pos (by simpa using h))

/-- A copied run holds at its new place what it held at the old one. -/
theorem readKey_copyRun_in {s : State} {src dst n i : Nat} (hwf : Memory.wf s = true) (hi : i < n) :
    readKey (copyRun s src dst n) (dst + i) = readKey s (src + i) := by
  have hcell := cellAt_filter (fun k => decide (src ≤ k) && decide (k < src + n)) s.mem (src + i)
  rw [if_pos (by simpa using hi)] at hcell
  refine Eq.trans ?_ hcell
  refine readKey_rewritten_in (wf_scrub _ _ hwf) (memWf_filter _ hwf) (fun c hc => ?_) (readKey_scrub_in (by omega) (by omega))
  have := (List.mem_filter.1 hc).2
  simp only [Bool.and_eq_true, decide_eq_true_iff] at this
  exact this.1

theorem readKey_copyRun_out {s : State} {src dst n k : Nat} (h : k < dst ∨ dst + n ≤ k) : readKey (copyRun s src dst n) k = readKey s k := by
  refine (readKey_rewritten_out (src := src) (dst := dst) (scrub s dst (dst + n)) fun c hc => ?_).trans (readKey_scrub_out h)
  have := (List.mem_filter.1 hc).2
  simp only [Bool.and_eq_true, decide_eq_true_iff] at this
  omega

/-! ### Parked writes (R103) -/

theorem foldl_eq_self {α β : Type} {f : α → β → α} {l : List β} (a : α) (h : ∀ x ∈ l, ∀ a, f a x = a) : l.foldl f a = a := by
  induction l generalizing a with
  | nil => rfl
  | cons x l ih => rw [List.foldl_cons, h x (List.mem_cons_self ..), ih _ fun y hy => h y (List.mem_cons_of_mem _ hy)]

theorem releaseParked_of_none {s : State} (h : noneParked s) : releaseParked s = s := by
  refine foldl_eq_self _ fun r hr u => foldl_eq_self _ fun k hk v => ?_
  rw [h r hr k hk]
  rfl

/-! ### The migration of an extent (R102 to R104) -/

theorem exec_migrationStart {s : State} {n tier base : Nat} {e : Extent} (he : tfind s.extents n = some e) (hgranted : e.granted = true)
    (hmig : e.mig = none) (hleaving : e.leaving = false) (hfree : freeRun s tier base e.len) (hclocks : clocksRun s = true) :
    exec (.migrationStart n tier base) s = .next (grantRange
      { s with extents := tset s.extents n { e with mig := some ⟨tier, base, versionsOf s e, false⟩ } } e.world tier base e.len) := by
  obtain ⟨hexist, hup, hempty, hroom⟩ := hfree
  have hexec : exec (.migrationStart n tier base) s = execMigrationStart n tier base s := rfl
  simp only [hexec, execMigrationStart, hclocks, if_true, startMigration, he, hgranted, hmig, hleaving, hexist, hup, hempty, hroom]
  rfl

theorem part_rewritten {α : Type} (π : State → α) (hπ : ∀ s k b, π (writeKey s k b) = π s) (src dst : Nat) (cells : List Host.Cell) (s : State) :
    π (rewritten src dst cells s) = π s := by
  induction cells generalizing s with
  | nil => rfl
  | cons c cells ih => exact (ih _).trans (hπ ..)

theorem rects_copyRun (s : State) (src dst n : Nat) : (copyRun s src dst n).rects = s.rects :=
  part_rewritten State.rects (fun _ _ _ => rfl) src dst _ (scrub s dst (dst + n))

theorem rects_of_ranged {s u : State} (h : Ranged s u) : u.rects = s.rects := by rw [h]

theorem noneParked_endMigration {s : State} (n : Nat) (e : Extent) (m : Migr) (commit : Bool) (h : noneParked s) :
    noneParked (endMigration s n e m commit) := by
  have hrects : (endMigration s n e m commit).rects = s.rects := by
    unfold endMigration
    split
    · exact (rects_of_ranged (ranged_dropGrant ..)).trans (rects_copyRun ..)
    · exact Eq.trans (rects_of_ranged (ranged_dropRange ..)) rfl
  rw [noneParked, hrects]
  exact h

theorem exec_migrationCommit {s : State} {n : Nat} {e : Extent} {m : Migr} (hpark : noneParked s) (he : tfind s.extents n = some e)
    (hm : e.mig = some m) (hw : m.window = true) (hclocks : stacksRun s e m = true) :
    exec (.migrationCommit n) s = .next (endMigration s n e m (e.pins == 0 && versionsOf s e == m.versions)) := by
  have hexec : exec (.migrationCommit n) s = execMigrationCommit n s := rfl
  simp only [hexec, execMigrationCommit, he, hm, hw, hclocks, Bool.and_self, if_true, releaseParked_of_none (noneParked_endMigration n e m _ hpark)]

theorem exec_migrationTimeout {s : State} {n : Nat} {e : Extent} {m : Migr} (hpark : noneParked s) (he : tfind s.extents n = some e)
    (hm : e.mig = some m) (hw : m.window = false) (hclocks : clocksRun s = true) :
    exec (.migrationTimeout n) s = .next (endMigration s n e m false) := by
  have hexec : exec (.migrationTimeout n) s = execMigrationTimeout n s := rfl
  simp only [hexec, execMigrationTimeout, he, hm, hw, hclocks, Bool.not_true, Bool.or_self, Bool.false_eq_true, if_false,
    releaseParked_of_none (noneParked_endMigration n e m _ hpark)]

/-- A move that is given up leaves the extent where it was. -/
theorem onlyExtent_endMigration (s : State) (n : Nat) (e : Extent) (m : Migr) :
    onlyExtent s (endMigration s n e m false) n { e with mig := none } :=
  ranged_dropRange { s with extents := tset s.extents n { e with mig := none } } e.world m.tier m.base e.len

theorem extents_of_ranged {s u : State} (h : Ranged s u) : u.extents = s.extents := by rw [h]

theorem mem_of_ranged {s u : State} (h : Ranged s u) : u.mem = s.mem := by rw [h]

/-- Settles O49: a start records the counters, a commit moves the bytes and the mapping (`readKey_copyRun_in`), and everything else leaves the
extent where it was. -/
theorem migrationsRun : Obligations.MigrationsRun := by
  refine ⟨fun s n e tier base he hgranted hmig hleaving hfree hclocks =>
      ⟨_, exec_migrationStart he hgranted hmig hleaving hfree hclocks, granted_grantRange _ _ _ _ _, ranged_grantRange _ _ _ _ _⟩,
    fun s n e m he hm => ?_, fun s n e m hwf hpark he hm hw hclocks => ⟨fun hpins hver => ?_, fun hchanged => ?_⟩,
    fun s n e m hpark he hm hw hclocks => ⟨_, exec_migrationTimeout hpark he hm hw hclocks, onlyExtent_endMigration ..⟩⟩
  · have hexec : exec (.switchOverWindow n) s = execSwitchOverWindow n s := rfl
    simp only [hexec, execSwitchOverWindow, he, hm]
  · have hcommit : (e.pins == 0 && versionsOf s e == m.versions) = true := by
      rw [hpins, hver, versionsOf, beq_self_eq_true, beq_self_eq_true]
      rfl
    rw [exec_migrationCommit hpark he hm hw hclocks, hcommit]
    have hranged := ranged_dropGrant { copyRun s (runKey e.tier e.pbase) (runKey m.tier m.base) (e.len * 0x200000) with
      extents := tset (copyRun s (runKey e.tier e.pbase) (runKey m.tier m.base) (e.len * 0x200000)).extents n
        { e with tier := m.tier, pbase := m.base, mig := none } } e
    refine ⟨_, rfl, ?_, fun i hi => ?_, fun k hk => ?_⟩
    · exact (congrArg (tfind · n) (extents_of_ranged hranged)).trans (tfind_tset_same ..)
    · exact (readKey_congr (mem_of_ranged hranged) _).trans (readKey_copyRun_in hwf hi)
    · exact (readKey_congr (mem_of_ranged hranged) _).trans (readKey_copyRun_out hk)
  · have hcommit : (e.pins == 0 && versionsOf s e == m.versions) = false := by
      rw [Bool.and_eq_false_iff, beq_eq_false_iff_ne, beq_eq_false_iff_ne]
      exact hchanged.imp_right Ne.symm
    rw [exec_migrationCommit hpark he hm hw hclocks, hcommit]
    exact ⟨_, rfl, onlyExtent_endMigration ..⟩

end Sys2Proof.LeaseOps
end

section
/-!
PROOF. Extents that leave (O48, R100, R337). Removing extents is a walk over a list (`swept`); what each part of the state is after it is said
once for the walk.
-/
open Sys2Proof Sys2Proof.Machine Sys2Proof.Claims

namespace Sys2Proof.LeaseOps

open Sys2Proof.Scalars Sys2Proof.Accesses Sys2Proof.Rectangles

/-! ### One extent is removed -/

theorem mem_tdel {α : Type} {t : Tab α} {k : Nat} {y : Nat × α} (h : y ∈ tdel t k) : y ∈ t ∧ y.1 ≠ k := by
  induction t with
  | nil => cases h
  | cons x t ih =>
    unfold tdel at h
    split at h
    · exact (ih h).imp_left (List.mem_cons_of_mem _)
    · next hx =>
      rcases List.mem_cons.1 h with rfl | h
      · exact ⟨List.mem_cons_self .., hx⟩
      · exact (ih h).imp_left (List.mem_cons_of_mem _)

/-- Between two states only extents, range tables, memory and outputs changed. -/
def Swept (s u : State) : Prop :=
  u = { s with extents := u.extents, ranges := u.ranges, mem := u.mem, bad := u.bad, poison := u.poison, outs := u.outs }

theorem Swept.trans {s u v : State} (h : Swept s u) (k : Swept u v) : Swept s v := by
  rw [Swept] at *
  rw [k, h]

theorem swept_of_ranged {s u : State} (h : Ranged s u) : Swept s u := by
  rw [Ranged] at h
  rw [Swept, h]

/-- The state before the range tables of a removed extent change. -/
def unmapped (s : State) (n : Nat) (e : Extent) : State := { cleanGranules s e with extents := tdel s.extents n }

/-- Granules that a migration holds are given up before its extent leaves. -/
def halted (s : State) (e : Extent) : State := e.mig.elim s fun m => dropRange s e.world m.tier m.base e.len

theorem removeExtent_eq (s : State) (n : Nat) (e : Extent) : removeExtent s n e = dropGrant (unmapped (halted s e) n e) e := by
  unfold removeExtent halted unmapped
  cases e.mig <;> rfl

theorem ranged_halted (s : State) (e : Extent) : Ranged s (halted s e) := by
  unfold halted
  cases e.mig with
  | none => rfl
  | some m => exact ranged_dropRange ..

theorem swept_cleanGranules (s : State) (e : Extent) : Swept s (cleanGranules s e) := by
  unfold cleanGranules scrubRun
  split
  · split <;> rfl
  · rfl

theorem swept_removeExtent (s : State) (n : Nat) (e : Extent) : Swept s (removeExtent s n e) := by
  rw [removeExtent_eq]
  have hunmapped : Swept (halted s e) (unmapped (halted s e) n e) := (swept_cleanGranules ..).trans rfl
  exact (swept_of_ranged (ranged_halted ..)).trans (hunmapped.trans (swept_of_ranged (ranged_dropGrant ..)))

/-- What a removal leaves of a part that the range tables are no part of. -/
theorem part_removeExtent {α : Type} (π : State → α) (hπ : ∀ s r, π { s with ranges := r } = π s) (s : State) (n : Nat) (e : Extent) :
    ∃ t, Ranged s t ∧ π (removeExtent s n e) = π (unmapped t n e) := by
  refine ⟨halted s e, ranged_halted .., ?_⟩
  have hranged := ranged_dropGrant (unmapped (halted s e) n e) e
  rw [Ranged] at hranged
  rw [removeExtent_eq, hranged]
  exact hπ ..

theorem extents_removeExtent (s : State) (n : Nat) (e : Extent) : (removeExtent s n e).extents = tdel s.extents n := by
  obtain ⟨t, ht, hpart⟩ := part_removeExtent State.extents (fun _ _ => rfl) s n e
  rw [hpart]
  exact congrArg (tdel · n) (extents_of_ranged ht)

theorem mem_removeExtent {s : State} (n : Nat) {e : Extent} (h : e.clean = false) : (removeExtent s n e).mem = s.mem := by
  obtain ⟨t, ht, hpart⟩ := part_removeExtent State.mem (fun _ _ => rfl) s n e
  have hclean : cleanGranules t e = t := by rw [cleanGranules, h]; rfl
  rw [hpart, unmapped, hclean]
  change t.mem = s.mem
  exact mem_of_ranged ht

theorem outs_removeExtent {s : State} (n : Nat) (e : Extent) {o : Out} (h : o ∈ s.outs) : o ∈ (removeExtent s n e).outs := by
  obtain ⟨t, ht, hpart⟩ := part_removeExtent State.outs (fun _ _ => rfl) s n e
  have houts : t.outs = s.outs := by rw [ht]
  rw [hpart]
  rw [← houts] at h
  unfold unmapped cleanGranules scrubRun
  simp only
  split
  · refine List.mem_append_left _ ?_
    split <;> exact h
  · exact h

theorem freed_removeExtent (s : State) (n : Nat) {e : Extent} (hclean : e.clean = true) (hgranted : e.granted = true) :
    .freed e.tier e.pbase e.len ∈ (removeExtent s n e).outs := by
  obtain ⟨t, ht, hpart⟩ := part_removeExtent State.outs (fun _ _ => rfl) s n e
  rw [hpart, unmapped, cleanGranules, hclean, hgranted]
  exact List.mem_append_right _ (List.mem_singleton_self _)

theorem zero_removeExtent {s : State} (n : Nat) (e : Extent) {k : Nat} (h : readKey s k = 0) : readKey (removeExtent s n e) k = 0 := by
  obtain ⟨t, ht, hpart⟩ := part_removeExtent (readKey · k) (fun _ _ => rfl) s n e
  rw [← readKey_congr (mem_of_ranged ht)] at h
  rw [hpart]
  change readKey (cleanGranules t e) k = 0
  unfold cleanGranules scrubRun
  split
  · change readKey (if e.tier = 2 then t else _) k = 0
    split
    · exact h
    · exact readKey_scrub_zero _ _ h
  · exact h

theorem scrubbed_removeExtent (s : State) (n : Nat) {e : Extent} (hclean : e.clean = true) (hgranted : e.granted = true) (htier : e.tier ≠ 2) {i : Nat}
    (hi : i < e.len * 0x200000) : readKey (removeExtent s n e) (runKey e.tier e.pbase + i) = 0 := by
  obtain ⟨t, ht, hpart⟩ := part_removeExtent (readKey · (runKey e.tier e.pbase + i)) (fun _ _ => rfl) s n e
  rw [hpart]
  change readKey (cleanGranules t e) (runKey e.tier e.pbase + i) = 0
  rw [cleanGranules, hclean, hgranted, scrubRun, if_neg htier]
  refine readKey_scrub_in (Nat.le_add_right ..) ?_
  simp only [runKey, Place.key]
  omega

/-! ### Every extent of a list that is to leave -/

/-- The extents of a list that are to leave and that nothing uses are removed. -/
def sweep (l : List (Nat × Extent)) (s : State) : State :=
  l.foldl (fun s x => if x.2.leaving && unused s x.2 then removeExtent s x.1 x.2 else s) s

theorem removeLeaving_eq (s : State) : removeLeaving s = sweep s.extents s := rfl

theorem removeLeaving_of_none {s : State} (h : noneLeaving s) : removeLeaving s = s :=
  foldl_eq_self _ fun x hx u => by rw [h x hx]; rfl

/-- An extent goes when a walk comes to it. -/
def goes (s : State) (x : Nat × Extent) : Prop := x.2.leaving = true ∧ unused s x.2 = true

theorem unused_congr {s u : State} (h : u.rects = s.rects) (e : Extent) : unused u e = unused s e := by
  have hregions (rid : Nat) (rcd : BitVec 512) : taskRegions u rid rcd = taskRegions s rid rcd := by
    rw [taskRegions, stageAt, rectAt, h, taskRegions, stageAt, rectAt]
  simp only [unused, h, hregions]

theorem goes_congr {s u : State} (h : u.rects = s.rects) (x : Nat × Extent) : goes u x ↔ goes s x := by
  rw [goes, goes, unused_congr h]

theorem rects_of_swept {s u : State} (h : Swept s u) : u.rects = s.rects := by rw [h]

theorem sweep_cons (x : Nat × Extent) (l : List (Nat × Extent)) (s : State) :
    sweep (x :: l) s = sweep l (if x.2.leaving && unused s x.2 then removeExtent s x.1 x.2 else s) := rfl

/-- One step of the walk is a removal, or nothing. -/
theorem sweep_cases {x : Nat × Extent} (l : List (Nat × Extent)) (s : State) :
    goes s x ∧ sweep (x :: l) s = sweep l (removeExtent s x.1 x.2) ∨ ¬goes s x ∧ sweep (x :: l) s = sweep l s := by
  by_cases h : goes s x
  · left
    rw [sweep_cons, h.1, h.2]
    exact ⟨h, rfl⟩
  · right
    refine ⟨h, ?_⟩
    rw [sweep_cons, if_neg]
    exact fun hx => h (Bool.and_eq_true_iff.1 hx)

/-- What removals keep a walk keeps. -/
theorem sweep_keeps {P : State → Prop} (hP : ∀ s n e, P s → P (removeExtent s n e)) (l : List (Nat × Extent)) {s : State} (h : P s) :
    P (sweep l s) := by
  induction l generalizing s with
  | nil => exact h
  | cons x l ih =>
    rcases sweep_cases (x := x) l s with ⟨-, hx⟩ | ⟨-, hx⟩
    · rw [hx]
      exact ih (hP _ _ _ h)
    · rw [hx]
      exact ih h

/-- What the removal of an extent brings about, and removals keep, holds once a walk has come to it. -/
theorem sweep_reaches {P : State → Prop} (hP : ∀ s n e, P s → P (removeExtent s n e)) {x : Nat × Extent} (hx : ∀ s, P (removeExtent s x.1 x.2))
    {l : List (Nat × Extent)} (hmem : x ∈ l) {s : State} (hgo : goes s x) : P (sweep l s) := by
  induction l generalizing s with
  | nil => cases hmem
  | cons y l ih =>
    rcases sweep_cases (x := y) l s with ⟨hgoes, hy⟩ | ⟨hstays, hy⟩
    · rw [hy]
      rcases List.mem_cons.1 hmem with rfl | hmem
      · exact sweep_keeps hP l (hx s)
      · exact ih hmem ((goes_congr (rects_of_swept (swept_removeExtent ..)) x).2 hgo)
    · rw [hy]
      rcases List.mem_cons.1 hmem with rfl | hmem
      · exact absurd hgo hstays
      · exact ih hmem hgo

/-- What the walk's removals keep, of extents that go, the walk keeps. -/
theorem sweep_keeps_of {P : State → Prop} (s₀ : State) {l : List (Nat × Extent)}
    (hP : ∀ s x, x ∈ l → goes s₀ x → P s → P (removeExtent s x.1 x.2)) {s : State} (hrects : s.rects = s₀.rects) (h : P s) : P (sweep l s) := by
  induction l generalizing s with
  | nil => exact h
  | cons y l ih =>
    have hP' := fun s x (hx : x ∈ l) => hP s x (List.mem_cons_of_mem _ hx)
    rcases sweep_cases (x := y) l s with ⟨hgoes, hy⟩ | ⟨-, hy⟩
    · rw [hy]
      refine ih hP' ((rects_of_swept (swept_removeExtent ..)).trans hrects) ?_
      exact hP _ _ (List.mem_cons_self ..) ((goes_congr hrects y).1 hgoes) h
    · rw [hy]
      exact ih hP' hrects h

theorem swept_sweep (l : List (Nat × Extent)) (s : State) : Swept s (sweep l s) :=
  sweep_keeps (P := Swept s) (fun _ _ _ h => h.trans (swept_removeExtent ..)) l rfl

end Sys2Proof.LeaseOps
end

section
/-!
PROOF. Requests of the supervisor, and releases (O48, R100, R333, R337).
-/
open Sys2Proof Sys2Proof.Machine Sys2Proof.Claims

namespace Sys2Proof.LeaseOps

open Sys2Proof.Scalars Sys2Proof.Accesses Sys2Proof.Rectangles

/-! ### An extent is added (R100, R333) -/

/-- The extent a request asks for, with or without the grant of its granules. -/
def asked (w tier rights vbase pbase len : Nat) (own : Bool) : Extent :=
  { world := w, tier := tier, rd := rights % 2 == 1, wr := rights / 2 % 2 == 1, pins := 0, vbase := vbase, pbase := pbase, len := len,
    granted := own }

/-- A state that lists one more extent, under a new number. -/
def listed (s : State) (e : Extent) : State := { s with nextId := s.nextId + 1, extents := tset s.extents s.nextId e }

section
variable {s : State} {w tier rights vbase pbase len : Nat}

theorem addExtent_of_room (hst : (worldAt s w).st ≠ .disabled) (hw : w < 64) (hpos : 0 < len) (hlen : len ≤ 1048576) (hv : vbase + len ≤ 2 ^ 35)
    (hdisjoint : ∀ x ∈ s.extents, x.2.world = w → vbase + len ≤ x.2.vbase ∨ x.2.vbase + x.2.len ≤ vbase) (hcount : s.extents.length < 16384)
    (hexist : granulesExist s tier pbase len = true) (hup : stackUp s tier pbase = true) (hroom : tableFull s tier pbase len = false) :
    addExtent s w tier rights vbase pbase len =
      if (entriesOn s tier pbase len).isEmpty then grantRange (listed s (asked w tier rights vbase pbase len true)) w tier pbase len
      else if protOn s tier pbase len then refuseRequest (listed s (asked w tier rights vbase pbase len false)) w vbase
      else listed s (asked w tier rights vbase pbase len false) := by
  have hclash : (s.extents.any fun x => x.2.world == w && meets vbase len x.2.vbase x.2.len) = false := by
    refine List.any_eq_false.2 fun x hx => ?_
    rw [Bool.and_eq_true, beq_iff_eq, meets, Bool.and_eq_true, decide_eq_true_iff, decide_eq_true_iff]
    rintro ⟨hworld, hlo, hhi⟩
    rcases hdisjoint x hx hworld with h | h <;> omega
  have hno : ¬((worldAt s w).st = .disabled ∨ 64 ≤ w ∨ len = 0 ∨ 1048576 < len ∨ 2 ^ 35 < vbase + len ∨
      (s.extents.any fun x => x.2.world == w && meets vbase len x.2.vbase x.2.len) = true ∨ 16384 ≤ s.extents.length ∨
      (!granulesExist s tier pbase len) = true ∨ (!stackUp s tier pbase) = true ∨ tableFull s tier pbase len = true) := by
    rw [hclash, hexist, hup, hroom]
    simp only [Bool.not_true, Bool.false_eq_true, or_false, not_or]
    refine ⟨hst, by omega, by omega, by omega, by omega, not_false, by omega⟩
  unfold addExtent
  simp only
  rw [if_neg hno]
  cases (entriesOn s tier pbase len).isEmpty <;> rfl

theorem addExtent_of_down (hup : stackUp s tier pbase = false) : addExtent s w tier rights vbase pbase len = s := by
  unfold addExtent
  simp only
  refine if_pos ?_
  rw [hup]
  simp only [Bool.not_false, true_or, or_true]

end

/-! ### A request of the supervisor -/

section
variable {s : State} (hnone : noneLeaving s) (hclocks : clocksRun s = true)
include hnone hclocks

theorem exec_addRequest (w tier rights vbase pbase len : Nat) :
    exec (.leaseExtentRequest 0 w tier rights vbase pbase len) s = .next (addExtent s w tier rights vbase pbase len) := by
  have hexec : exec (.leaseExtentRequest 0 w tier rights vbase pbase len) s = execLeaseExtentRequest 0 w tier rights vbase pbase len s := rfl
  simp only [hexec, execLeaseExtentRequest, hclocks, Bool.not_true, Bool.false_eq_true, if_false, removeLeaving_of_none hnone]

theorem exec_removeRequest {w n b : Nat} {e : Extent} (a c d : Nat) (he : extentOf s w b = some (n, e)) :
    exec (.leaseExtentRequest 1 w a c b d 0) s = .next (if guarded s e then refuseRequest s w b
      else removeLeaving { s with extents := tset s.extents n { e with leaving := true } }) := by
  have hexec : exec (.leaseExtentRequest 1 w a c b d 0) s = execLeaseExtentRequest 1 w a c b d 0 s := rfl
  simp only [hexec, execLeaseExtentRequest, hclocks, Bool.not_true, Bool.false_eq_true, if_false, removeLeaving_of_none hnone, he]

theorem exec_moveRequest {w n b : Nat} {e : Extent} (a c d : Nat) (he : extentOf s w b = some (n, e)) :
    exec (.leaseExtentRequest 2 w a c b d 0) s = .next (if protEntry s e || protOn s a d e.len then refuseRequest s w b
      else startMigration s n a d) := by
  have hexec : exec (.leaseExtentRequest 2 w a c b d 0) s = execLeaseExtentRequest 2 w a c b d 0 s := rfl
  simp only [hexec, execLeaseExtentRequest, hclocks, Bool.not_true, Bool.false_eq_true, if_false, removeLeaving_of_none hnone, he]

end

theorem world_of_extentOf {s : State} {w b n : Nat} {e : Extent} (he : extentOf s w b = some (n, e)) : e.world = w := by
  have h := List.find?_some he
  rw [Bool.and_eq_true, beq_iff_eq] at h
  exact h.1

/-- What is left when an extent is asked to leave. -/
theorem leaves_of_request {s : State} (hnone : noneLeaving s) (n : Nat) (e : Extent) {t : State}
    (ht : t = removeLeaving { s with extents := tset s.extents n { e with leaving := true } }) :
    (unused s e = true → ∀ x ∈ t.extents, x.1 ≠ n) ∧ (unused s e = false → tfind t.extents n = some { e with leaving := true }) ∧
      (e.clean = false → t.mem = s.mem) := by
  subst ht
  rw [removeLeaving_eq]
  have hlist : ∀ x ∈ tset s.extents n { e with leaving := true }, x.2.leaving = true → x = (n, { e with leaving := true }) := by
    intro x hx hl
    refine (CopyOps.mem_tset hx).resolve_right fun hold => ?_
    rw [hnone x hold] at hl
    cases hl
  have hmem : (n, { e with leaving := true }) ∈ tset s.extents n { e with leaving := true } := CopyOps.mem_of_tfind (tfind_tset_same ..)
  refine ⟨fun hu => ?_, fun hu => ?_, fun hclean => ?_⟩
  · refine sweep_reaches (P := fun u => ∀ x ∈ u.extents, x.1 ≠ n) (fun u m f h x hx => ?_) (fun u x hx => ?_) hmem ⟨rfl, hu⟩
    · rw [extents_removeExtent] at hx
      exact h x (mem_tdel hx).1
    · rw [extents_removeExtent] at hx
      exact (mem_tdel hx).2
  · refine sweep_keeps_of (P := fun u => tfind u.extents n = some { e with leaving := true })
      { s with extents := tset s.extents n { e with leaving := true } } (fun u x hx hgo h => ?_) rfl (tfind_tset_same ..)
    have hx' := hlist x hx hgo.1
    have hbusy : unused s e = true := by
      have hgone := hgo.2
      rw [hx'] at hgone
      exact hgone
    rw [hu] at hbusy
    cases hbusy
  · refine sweep_keeps_of (P := fun u => u.mem = s.mem) { s with extents := tset s.extents n { e with leaving := true } }
      (fun u x hx hgo h => ?_) rfl rfl
    rw [hlist x hx hgo.1]
    exact (mem_removeExtent _ hclean).trans h

theorem any_prot {l : List RangeEnt} : l.any (·.prot) = true ↔ ∃ x ∈ l, x.prot = true := List.any_eq_true

theorem extentRequests : ExtentRequests := by
  refine ⟨fun s op w tier rights vbase pbase len hclocks => ?_, fun s hnone hclocks =>
    ⟨fun w tier rights vbase pbase len hst hw hpos hlen hv hdisjoint hcount hfree => ?_,
     fun w tier rights vbase pbase len hst hw hpos hlen hv hdisjoint hcount hexist hup hroom hmet => ?_,
     fun w tier rights vbase pbase len hup => ?_, fun w n e a b c d he hprot hown => ?_, fun w n e a b c d he hprot hmet => ?_,
     fun w n e a b c d he => ⟨fun hguard => ?_, fun hguard => ?_⟩⟩⟩
  · have hexec : exec (.leaseExtentRequest op w tier rights vbase pbase len) s = execLeaseExtentRequest op w tier rights vbase pbase len s := rfl
    rw [hexec, execLeaseExtentRequest, hclocks, Bool.not_false, if_pos rfl]
  · obtain ⟨hexist, hup, hempty, hroom⟩ := hfree
    rw [exec_addRequest hnone hclocks, addExtent_of_room hst hw hpos hlen hv hdisjoint hcount hexist hup hroom, hempty, List.isEmpty_nil, if_pos rfl]
    have hranged := ranged_grantRange (listed s (asked w tier rights vbase pbase len true)) w tier pbase len
    refine ⟨_, s.nextId, rfl, granted_grantRange _ _ _ _ _, Eq.trans (mem_of_ranged hranged) rfl, ?_⟩
    rw [extents_of_ranged hranged]
    exact tfind_tset_same ..
  · rw [exec_addRequest hnone hclocks, addExtent_of_room hst hw hpos hlen hv hdisjoint hcount hexist hup hroom,
      List.isEmpty_eq_false_iff.2 hmet, if_neg Bool.false_ne_true]
    by_cases hp : protOn s tier pbase len = true
    · rw [if_pos hp]
      refine ⟨_, s.nextId, rfl, rfl, rfl, fun _ => rfl, fun hall => ?_, tfind_tset_same ..⟩
      obtain ⟨x, hx, hxp⟩ := any_prot.1 hp
      rw [hall x hx] at hxp
      cases hxp
    · rw [if_neg hp]
      exact ⟨_, s.nextId, rfl, rfl, rfl, fun hex => absurd (any_prot.2 hex) hp, fun _ => rfl, tfind_tset_same ..⟩
  · rw [exec_addRequest hnone hclocks, addExtent_of_down hup]
  · have hfree : guarded s e = false := by
      have hnoprot : (entriesOn s e.tier e.pbase e.len).any (fun x => x.world == e.world && x.prot) = false := by
        refine List.any_eq_false.2 fun x hx => ?_
        rw [Bool.and_eq_true, beq_iff_eq, world_of_extentOf he]
        rintro ⟨hxw, hxp⟩
        rw [hown x hx hxw] at hxp
        cases hxp
      rw [guarded, world_of_extentOf he, hprot, protEntry, hnoprot]
      simp only [Bool.and_false, Bool.or_false]
    rw [exec_removeRequest hnone hclocks _ _ _ he, hfree, if_neg Bool.false_ne_true]
    exact ⟨_, rfl, leaves_of_request hnone n e rfl⟩
  · have hno : protOn s a d e.len = false := by
      refine Bool.eq_false_iff.2 fun h => ?_
      obtain ⟨x, hx, hxp⟩ := any_prot.1 h
      rw [hmet x hx] at hxp
      cases hxp
    have hstart : exec (.migrationStart n a d) s = execMigrationStart n a d s := rfl
    rw [exec_moveRequest hnone hclocks _ _ _ he, hprot, hno, hstart, execMigrationStart, hclocks, if_pos rfl]
    rfl
  · have hguarded : guarded s e = true := by
      rw [guarded, world_of_extentOf he, Bool.or_eq_true]
      exact hguard
    rw [exec_removeRequest hnone hclocks _ _ _ he, hguarded, if_pos rfl]
    rfl
  · have hguarded : (protEntry s e || protOn s a d e.len) = true := by
      rw [Bool.or_eq_true]
      exact hguard.imp_right any_prot.2
    rw [exec_moveRequest hnone hclocks _ _ _ he, hguarded, if_pos rfl]
    rfl

/-! ### Releases (R337, R341) -/

theorem worldAt_modWorld (s : State) (w v : Nat) (f : World → World) :
    worldAt (modWorld s w f) v = if v = w then f (worldAt s w) else worldAt s v := tget_tset ..

theorem exec_relreq {s : State} {w n : Nat} (hpos : 0 < w) (hw : w < 64) (hn : 0 < n) (hlt : n < 2 ^ 32) (hst : (worldAt s w).st ≠ .disabled) :
    exec (.relreq w n) s = .next (if (worldAt s w).st = .frozen then modWorld s w fun q => { q with relheld := BitVec.ofNat 32 n }
      else postRelease s w (BitVec.ofNat 32 n)) := by
  have hexec : exec (.relreq w n) s = .next (askRelease s w n) := rfl
  have hval : BitVec.ofNat 32 n ≠ 0 := by
    intro h
    have := congrArg BitVec.toNat h
    rw [BitVec.toNat_ofNat, Nat.mod_eq_of_lt hlt] at this
    exact absurd this hn.ne'
  have hno : ¬(w = 0 ∨ 64 ≤ w ∨ BitVec.ofNat 32 n = 0 ∨ (worldAt s w).st = .disabled) := by
    rintro (h | h | h | h)
    · exact absurd h hpos.ne'
    · exact absurd hw (Nat.not_lt.2 h)
    · exact hval h
    · exact hst h
  rw [hexec, askRelease]
  simp only [if_neg hno]

/-- A world's interrupt changes the outputs alone. -/
theorem postRelease_eq (s : State) (w : Nat) (v : BitVec 32) :
    postRelease s w v = { modWorld s w (fun q => { q with relcnt := v, relpend := true, relheld := 0 }) with
      outs := s.outs ++ if (worldAt s w).eqvec.getLsbD 7 then [.irq w ((worldAt s w).eqvec.toNat % 32)] else [] } := by
  unfold postRelease
  simp only
  split
  · rfl
  · rw [List.append_nil]
    rfl

theorem worldAt_postRelease (s : State) (w v : Nat) (n : BitVec 32) : worldAt (postRelease s w n) v =
    if v = w then { worldAt s w with relcnt := n, relpend := true, relheld := 0 } else worldAt s v := by
  rw [postRelease_eq]
  exact worldAt_modWorld s w v fun q => { q with relcnt := n, relpend := true, relheld := 0 }

/-- The extents of a state once a world has accepted a release of some: those are to leave, and are to be cleaned. -/
def offered (s : State) (w : Nat) (exts : List (Nat × Nat)) : State :=
  { modWorld s w (fun q => { q with relcnt := 0, relpend := false }) with
    extents := s.extents.map fun x =>
      if x.2.world = w ∧ exts.contains (x.2.vbase, x.2.len) then (x.1, { x.2 with leaving := true, clean := true }) else x }

theorem worldAt_offered (s : State) (w : Nat) (exts : List (Nat × Nat)) :
    worldAt (offered s w exts) w = { worldAt s w with relcnt := 0, relpend := false } :=
  (worldAt_modWorld s w w fun q => { q with relcnt := 0, relpend := false }).trans (if_pos rfl)

theorem exec_accept {s : State} {w : Nat} (exts : List (Nat × Nat)) (hclocks : clocksRun s = true) (hsession : (worldAt s w).session = true)
    (hst : (worldAt s w).st ≠ .disabled) : exec (.accept w exts) s = .next (sweep (offered s w exts).extents (offered s w exts)) := by
  have hexec : exec (.accept w exts) s = execAccept w exts s := rfl
  have hlive : ((worldAt s w).st == .disabled) = false := beq_eq_false_iff_ne.2 hst
  rw [hexec, execAccept]
  simp only [hsession, hclocks, hlive, Bool.not_true, Bool.or_self, Bool.false_eq_true, if_false]
  rfl

section
variable {s : State} {w : Nat} {exts : List (Nat × Nat)} {x : Nat × Extent}

/-- An extent that the world listed, as it leaves. -/
def leaver (x : Nat × Extent) : Nat × Extent := (x.1, { x.2 with leaving := true, clean := true })

theorem leaver_mem (hx : x ∈ s.extents) (hw : x.2.world = w) (hl : (x.2.vbase, x.2.len) ∈ exts) : leaver x ∈ (offered s w exts).extents :=
  List.mem_map.2 ⟨x, hx, if_pos ⟨hw, List.contains_iff_mem.2 hl⟩⟩

theorem leaver_goes (hu : unused s x.2 = true) : goes (offered s w exts) (leaver x) := ⟨rfl, hu⟩

/-- A listed extent of the state is an extent that leaves. -/
theorem eq_leaver (hx : x ∈ (offered s w exts).extents) (hl : x.2.world = w ∧ (x.2.vbase, x.2.len) ∈ exts) :
    ∃ y ∈ s.extents, y.2.world = w ∧ (y.2.vbase, y.2.len) ∈ exts ∧ x = leaver y := by
  obtain ⟨y, hy, rfl⟩ := List.mem_map.1 hx
  split at hl
  · next hc => exact ⟨y, hy, hc.1, List.contains_iff_mem.1 hc.2, if_pos hc⟩
  · next hc => exact absurd ⟨hl.1, List.contains_iff_mem.2 hl.2⟩ hc

end

theorem releasesAsked : ReleasesAsked := by
  refine ⟨fun s w n hpos hw hn hlt hst => ⟨fun hrun => ?_, fun hfrozen => ?_⟩, fun s w exts hnone hclocks hsession hst hunused => ?_⟩
  · rw [exec_relreq hpos hw hn hlt hst, if_neg hrun]
    refine ⟨_, rfl, ?_, ?_, fun v hv => ?_, ?_, ?_⟩
    · rw [worldAt_postRelease, if_pos rfl]
    · rw [worldAt_postRelease, if_pos rfl]
    · rw [worldAt_postRelease, if_neg hv]
    · rw [postRelease_eq]
      rfl
    · rw [postRelease_eq]
  · rw [exec_relreq hpos hw hn hlt hst, if_pos hfrozen]
  · have hworld : worldAt (sweep (offered s w exts).extents (offered s w exts)) w = { worldAt s w with relcnt := 0, relpend := false } := by
      have hswept := swept_sweep (offered s w exts).extents (offered s w exts)
      rw [Swept] at hswept
      rw [hswept]
      exact worldAt_offered s w exts
    refine ⟨_, exec_accept exts hclocks hsession hst, congrArg World.relcnt hworld, congrArg World.relpend hworld, fun x hx hl => ?_,
      fun x hx hxw hl hgranted => ⟨?_, fun htier i hi => ?_⟩⟩
    · have hin : x ∈ (offered s w exts).extents := by
        refine sweep_keeps (P := fun u => ∀ z ∈ u.extents, z ∈ (offered s w exts).extents) (fun u m f h z hz => ?_) _ (fun z hz => hz) x hx
        rw [extents_removeExtent] at hz
        exact h z (mem_tdel hz).1
      obtain ⟨y, hy, hyw, hyl, rfl⟩ := eq_leaver hin hl
      refine sweep_reaches (P := fun u => ∀ z ∈ u.extents, z.1 ≠ (leaver y).1) (fun u m f h z hz => ?_) (fun u z hz => ?_)
        (leaver_mem hy hyw hyl) (leaver_goes (hunused y hy hyw hyl)) _ hx rfl
      · rw [extents_removeExtent] at hz
        exact h z (mem_tdel hz).1
      · rw [extents_removeExtent] at hz
        exact (mem_tdel hz).2
    · exact sweep_reaches (P := fun u => Out.freed x.2.tier x.2.pbase x.2.len ∈ u.outs) (fun u m f h => outs_removeExtent m f h)
        (fun u => freed_removeExtent u _ (e := (leaver x).2) rfl hgranted) (leaver_mem hx hxw hl) (leaver_goes (hunused x hx hxw hl))
    · exact sweep_reaches (P := fun u => readKey u (runKey x.2.tier x.2.pbase + i) = 0) (fun u m f h => zero_removeExtent m f h)
        (fun u => scrubbed_removeExtent u _ (e := (leaver x).2) rfl hgranted htier hi) (leaver_mem hx hxw hl) (leaver_goes (hunused x hx hxw hl))

/-- Settles O48: requests are checked and refused or performed, and a walk removes every extent that is to leave (`sweep_reaches`). -/
theorem leasesChange : Obligations.LeasesChange := ⟨extentRequests, releasesAsked⟩

end Sys2Proof.LeaseOps
end

section
/-!
PROOF. What a stop, a resume and a cut leave of every rectangle (O52): its place, its dies and its state (`stance`). The work of the cores and of the
engines changes what a rectangle holds, never how it stands.
-/
open Sys2Proof Sys2Proof.Machine Sys2Proof.Claims

namespace Sys2Proof.Stops

open Sys2Proof.Scalars Sys2Proof.Accesses Sys2Proof.Rectangles

/-! ### How rectangles stand -/

/-- A rectangle without what its cores, tiles, queues and dies hold. -/
def outline (r : Rect) : Rect := { r with stages := [], queues := [], cores := [], tiles := [], dies := [], dom := {}, bal := {}, fences := [] }

/-- How the rectangles stand: the pass of the placer, the registers of the device, the outline of each rectangle and the state of each world. -/
def stance (s : State) : Pass × HostRegs × (Nat → Rect) × (Nat → WState) :=
  (s.pass, s.host, fun rid => outline (rectAt s rid), fun w => (worldAt s w).st)

theorem pass_of_stance {s u : State} (h : stance u = stance s) : u.pass = s.pass := congrArg Prod.fst h
theorem host_of_stance {s u : State} (h : stance u = stance s) : u.host = s.host := congrArg (fun x => x.2.1) h
theorem outline_of_stance {s u : State} (h : stance u = stance s) (rid : Nat) : outline (rectAt u rid) = outline (rectAt s rid) :=
  congrArg (fun x => x.2.2.1 rid) h
theorem st_of_stance {s u : State} (h : stance u = stance s) (w : Nat) : (worldAt u w).st = (worldAt s w).st := congrArg (fun x => x.2.2.2 w) h

/-- A part of a rectangle's outline is as before. -/
theorem rect_of_stance {α : Type} (π : Rect → α) (hπ : ∀ r, π (outline r) = π r) {s u : State} (h : stance u = stance s) (rid : Nat) :
    π (rectAt u rid) = π (rectAt s rid) := by
  rw [← hπ, outline_of_stance h, hπ]

theorem stance_modRect (s : State) (rid : Nat) (f : Rect → Rect) (hf : ∀ r, outline (f r) = outline r) : stance (modRect s rid f) = stance s := by
  have hout : (fun x => outline (rectAt (modRect s rid f) x)) = fun x => outline (rectAt s x) := by
    funext x
    by_cases hx : x = rid
    · subst hx
      rw [rectAt_modRect_same, hf]
    · rw [rectAt_modRect_other s f hx]
  show (s.pass, s.host, _, _) = _
  rw [hout]
  rfl

theorem stance_modWorld (s : State) (w : Nat) (f : World → World) (hf : ∀ q, (f q).st = q.st) : stance (modWorld s w f) = stance s := by
  have hst : (fun v => (worldAt (modWorld s w f) v).st) = fun v => (worldAt s v).st := by
    funext v
    rw [LeaseOps.worldAt_modWorld]
    split
    · next h => rw [h, hf]
    · rfl
  show (s.pass, s.host, _, _) = _
  rw [hst]
  rfl

@[simp] theorem stance_modCore (s : State) (rid c : Nat) (f : Core → Core) : stance (modCore s rid c f) = stance s :=
  stance_modRect s rid _ fun _ => rfl
@[simp] theorem stance_modCsr (s : State) (rid c : Nat) (f : Csrs → Csrs) : stance (modCsr s rid c f) = stance s := stance_modCore ..
@[simp] theorem stance_modArr (s : State) (rid c : Nat) (f : MArray → MArray) : stance (modArr s rid c f) = stance s := stance_modCore ..
@[simp] theorem stance_modTile (s : State) (rid t : Nat) (f : MTile → MTile) : stance (modTile s rid t f) = stance s :=
  stance_modRect s rid _ fun _ => rfl
@[simp] theorem stance_modSlot (s : State) (rid t k : Nat) (f : PSlot → PSlot) : stance (modSlot s rid t k f) = stance s := stance_modTile ..
@[simp] theorem stance_modDie (s : State) (d : Nat) (f : Die → Die) : stance (modDie s d f) = stance s := rfl
@[simp] theorem stance_emit (s : State) (o : Out) : stance (emit s o) = stance s := rfl
@[simp] theorem stance_tick (s : State) : stance (tick s) = stance s := rfl
@[simp] theorem stance_dropPins (s : State) (pins : List Nat) : stance (dropPins s pins) = stance s := rfl
@[simp] theorem stance_writeKeys (s : State) (k : Nat) (bs : List Byte) : stance (writeKeys s k bs) = stance s :=
  part_writeKeys stance (fun _ _ _ => rfl) bs s k

/-- What no step of a loop changes of the stance, the loop leaves. -/
theorem stance_foldl {β : Type} {f : State → β → State} (l : List β) (s : State) (hf : ∀ s x, stance (f s x) = stance s) :
    stance (l.foldl f s) = stance s := foldl_keeps stance l s hf

/-! ### The end of a task and a trap (R158, R293, R298, R299) -/

@[simp] theorem stance_post (s : State) (w : Nat) (e : ErrRec) : stance (post s w e) = stance s := by
  have hlost (u : State) (n : Nat → Nat) : stance (modWorld u w fun q => { q with lost := n q.lost }) = stance u := stance_modWorld u w _ fun _ => rfl
  have htail (u : State) : stance (modWorld u w fun q => { q with eqtail := q.eqtail + 1, lost := 0 }) = stance u :=
    stance_modWorld u w _ fun _ => rfl
  unfold post
  dsimp only
  split
  · exact hlost (tick s) (· + 1)
  · split
    · rw [stance_emit, htail, stance_writeKeys, stance_tick]
    · rw [htail, stance_writeKeys, stance_tick]

/-- A record posted where a condition says so. -/
@[simp] theorem stance_post_if (b : Bool) (s : State) (w : Nat) (e : ErrRec) : stance (if b then post s w e else s) = stance s := by
  split
  · exact stance_post ..
  · rfl

@[simp] theorem stance_postFor (s : State) (rid core cause kind faddr : Nat) (rcd : BitVec 512) (fslot : Nat) :
    stance (postFor s rid core cause kind faddr rcd fslot) = stance s := stance_post ..

theorem outline_releaseHeld (r : Rect) : outline (releaseHeld r) = outline r := by
  refine List.foldlRecOn _ _ (motive := fun t => outline t = outline r) rfl fun t ht x _ => ?_
  exact ht

@[simp] theorem stance_domainEnd (s : State) (rid c uid : Nat) : stance (domainEnd s rid c uid) = stance s := by
  unfold domainEnd
  split
  · exact stance_modRect s rid _ fun r => outline_releaseHeld _
  · exact stance_modRect (fresh s).2 rid _ fun _ => rfl

@[simp] theorem stance_releaseResv (s : State) (rid uid : Nat) : stance (releaseResv s rid uid) = stance s :=
  stance_modRect s rid _ fun _ => rfl

@[simp] theorem stance_releaseTask (s : State) (rid c : Nat) : stance (releaseTask s rid c) = stance s := by
  unfold releaseTask
  split
  · rfl
  · dsimp only
    rw [stance_foldl _ _ fun s p => stance_postFor .., stance_releaseResv, stance_modCore]

@[simp] theorem stance_discardTask (s : State) (rid c : Nat) : stance (discardTask s rid c) = stance s := by
  unfold discardTask
  split
  · exact stance_modCore ..
  · dsimp only
    rw [freeCore, stance_modCore, stance_domainEnd, stance_releaseTask, dropEntries, stance_modCore]

@[simp] theorem stance_discardWith (s : State) (rid c cause : Nat) : stance (discardWith s rid c cause) = stance s := by
  unfold discardWith
  dsimp only
  rw [stance_discardTask, stance_post, stance_modCsr]

@[simp] theorem stance_haltCore (s : State) (rid c : Nat) (record : Bool) : stance (haltCore s rid c record) = stance s := by
  unfold haltCore
  dsimp only
  split
  · simp only [stance_modCsr, stance_post_if]
  · simp only [stance_modCore, stance_domainEnd, dropEntries, stance_modCsr, stance_post_if]

@[simp] theorem stance_handlerFault (s : State) (rid c cause : Nat) : stance (handlerFault s rid c cause) = stance s := by
  unfold handlerFault
  dsimp only
  split
  · rw [stance_discardWith, stance_modCsr]
  · rw [stance_haltCore, stance_modCsr]

@[simp] theorem stance_enterHandler (s : State) (rid c : Nat) : stance (enterHandler s rid c) = stance s := by
  unfold enterHandler saveArea
  dsimp only
  split
  · rw [stance_handlerFault, stance_writeKeys, stance_modCsr]
  · rw [stance_modCore, stance_writeKeys, stance_modCsr]

@[simp] theorem stance_takeDeferred (s : State) (rid c : Nat) : stance (takeDeferred s rid c) = stance s := by
  unfold takeDeferred
  dsimp only
  split
  · rfl
  · split
    · rw [stance_enterHandler, stance_modCsr]
    · rw [stance_discardWith, stance_modCsr]

/-! ### Engines (R204, R206, R217, R246, R272) -/

theorem stance_settleMatrix (rid c n : Nat) (s : State) : stance (settleMatrix rid c n s) = stance s := by
  induction n generalizing s with
  | zero => rfl
  | succ n ih =>
    unfold settleMatrix
    split
    · split
      · rw [ih, stance_modArr]
      · unfold startGrant
        dsimp only
        split
        · split
          · rfl
          · rw [askLeave, stance_modDie, stance_modArr]
        · rfl
      · rfl
    · rfl

theorem stance_markStreams (s : State) (rid : Nat) (x y : SlotPh) : stance (markStreams s rid x y) = stance s := by
  unfold markStreams
  refine stance_foldl _ _ fun s t => stance_foldl _ _ fun s p => ?_
  split
  · split
    · exact stance_foldl _ _ fun s k => stance_modSlot ..
    · rfl
  · rfl

theorem stance_mapCells (s : State) (rid c : Nat) (f : MCell → MCell) : stance (mapCells s rid c f) = stance s :=
  stance_foldl _ _ fun _ _ => stance_modArr ..

theorem stance_preemptArray (s : State) (rid c : Nat) : stance (preemptArray s rid c) = stance s := by
  have hback : stance (giveBack s rid c) = stance s := stance_foldl _ _ fun s d => stance_modDie ..
  unfold preemptArray
  dsimp only
  rw [stance_modArr]
  split
  · rw [stance_modArr, stance_mapCells, hback]
  · rw [stance_modArr, stance_mapCells, hback]
  · rw [stance_modArr, hback]
  · exact hback

theorem stance_stopBoards (s : State) (rid c : Nat) : stance (stopBoards s rid c) = stance s := by
  refine stance_foldl _ _ fun s ix => ?_
  split
  · split
    · rw [noteSlot, stance_modSlot]
      exact (stance_modSlot ..).trans (stance_modCore ..)
    · rfl
  · rfl

theorem stance_saveCopies (s : State) (rid c : Nat) : stance (saveCopies s rid c) = stance s := by
  have hpins : stance ((copyQ s rid c).foldl (fun s q => dropPins s q.pins) s) = stance s := stance_foldl _ _ fun s q => stance_dropPins ..
  unfold saveCopies
  dsimp only
  split
  · exact hpins
  · rw [setCopyQ, stance_modCore, hpins]

theorem stance_saveEngines (s : State) (rid : Nat) : stance (saveEngines s rid) = stance s := by
  unfold saveEngines
  dsimp only
  rw [stance_markStreams]
  exact stance_foldl _ _ fun s c => by rw [stance_saveCopies, stance_stopBoards, stance_preemptArray]

/-- A rectangle that resumes runs; else it stands as before (R309). -/
theorem stance_resumeRect (s : State) (rid : Nat) : stance (resumeRect s rid) = stance (modRect s rid fun r => { r with freeze := .running }) := by
  unfold resumeRect
  dsimp only
  rw [stance_foldl _ _ fun s c => by split <;> simp [stance_settleMatrix], stance_markStreams, stance_foldl _ _ fun s c => stance_takeDeferred ..]

/-- What no change of a core changes, abandoning the blocks of a rectangle leaves (R308). -/
theorem part_abandonAll {α : Type} (π : State → α) (hπ : ∀ s rid c f, π (modCore s rid c f) = π s) (s : State) (rid : Nat) :
    π (abandonAll s rid) = π s := by
  refine foldl_keeps π _ _ fun s c => ?_
  unfold abandonUnbound
  dsimp only
  split
  · rfl
  · split
    · split
      · rfl
      · rw [hπ, dropBlock, hπ]
    · rw [hπ]
    · rfl

theorem stance_abandonAll (s : State) (rid : Nat) : stance (abandonAll s rid) = stance s := part_abandonAll stance stance_modCore s rid

end Sys2Proof.Stops
end

section
/-!
PROOF. PLACE Freeze and Resume (O52, R308, R309, R346). A core with a bound block runs on through the stop (`runsOn_abandonAll`), so that the stop stays
open; the result of a Freeze is written where its address was checked (`placeResult_of_footing`).
-/
open Sys2Proof Sys2Proof.Machine Sys2Proof.Claims

namespace Sys2Proof.Stops

open Sys2Proof.Scalars Sys2Proof.Accesses Sys2Proof.Rectangles Sys2Proof.QueueOps

/-! ### A core that must run on (R308, R309) -/

theorem mem_tset_other {α : Type} {t : Tab α} {k c : Nat} {x v : α} (hc : c ≠ k) (h : (c, x) ∈ t) : (c, x) ∈ tset t k v := by
  induction t with
  | nil => cases h
  | cons e t ih =>
    unfold tset
    split
    · exact List.mem_cons_of_mem _ h
    · rcases List.mem_cons.1 h with he | h
      · split
        · next hk => exact absurd (by rw [← he] at hk; exact hk.symm) hc
        · exact he ▸ List.mem_cons_self ..
      · split
        · exact List.mem_cons_of_mem _ h
        · exact List.mem_cons_of_mem _ (ih h)

/-- A core of a rectangle stands as it is given. -/
def holdsCore (s : State) (rid c : Nat) (k : Core) : Prop := (c, k) ∈ (rectAt s rid).cores ∧ coreAt s rid c = k

theorem holdsCore_modCore {s : State} {rid c x : Nat} {k : Core} (f : Core → Core) (hx : c ≠ x) (h : holdsCore s rid c k) :
    holdsCore (modCore s rid x f) rid c k := by
  obtain ⟨hmem, hat⟩ := h
  refine ⟨?_, ?_⟩
  · rw [rectAt_modCore_same]
    exact mem_tset_other hx hmem
  · rw [coreAt_modCore_other s f (.inr hx), hat]

/-- A core with a bound block keeps it when the blocks of its rectangle are abandoned. -/
theorem holdsCore_abandonAll {s : State} {rid c : Nat} {k : Core} {b : BlockRun} (hrun : k.phase = .run b) (hb : b.bound = true)
    (h : holdsCore s rid c k) : holdsCore (abandonAll s rid) rid c k := by
  refine List.foldlRecOn _ _ (motive := fun t => holdsCore t rid c k) h fun t ht x _ => ?_
  by_cases hx : c = x
  · subst hx
    simp only [abandonUnbound, ht.2, hrun, hb, if_true, ite_self]
    exact ht
  · unfold abandonUnbound
    dsimp only
    split
    · exact ht
    · split
      · split
        · exact ht
        · exact holdsCore_modCore _ hx (holdsCore_modCore _ hx ht)
      · exact holdsCore_modCore _ hx ht
      · exact ht

/-- A core that runs a block and is not halted has not stopped. -/
theorem coreStopped_of_run {k : Core} {b : BlockRun} (hrun : k.phase = .run b) (hh : k.csr.halted = false) : coreStopped k = false := by
  simp [coreStopped, debugHalted, hrun, hh]

/-- A stop stays open while a core runs on. -/
theorem settleStop_of_running {s : State} {rid c : Nat} {k : Core} (hmem : (c, k) ∈ (rectAt s rid).cores) (hk : coreStopped k = false) :
    settleStop s rid = s := by
  have hopen : allStopped s rid = false := by
    refine List.all_eq_false.2 ⟨_, hmem, ?_⟩
    simp [hk]
  simp [settleStop, hopen]

/-! ### The result of a Freeze (R103, R346) -/

/-- A result whose address was checked in a state with the same leases is written, and the vector raised. -/
theorem placeResult_of_footing {s u : State} {w : Nat} {res : W64} (hf : footing w u = footing w s)
    (ht : Machine.translate s (whoHost w) res 8 8 .write [0] = .ok ()) (hs : served s w (homeOf s (whoHost w) res) 8 = true)
    (v : Nat) (irq : Option Nat) :
    placeResult u w res v irq = raiseIrq (bumpRange (writeNat u (homeOf s (whoHost w) res).key 8 v) (homeOf s (whoHost w) res) 8) w irq := by
  have hsel := selector_of_translate ht
  have translated := (translate_of_footing hf (whoHost w) 8 8 .write hsel).trans ht
  have home := homeOf_of_footing hf (whoHost w) hsel
  have hserved := (served_of_footing hf w (homeOf s (whoHost w) res) 8).trans hs
  simp only [placeResult, translated, home, hserved, Bool.not_true, Bool.false_eq_true, if_false]

/-- What neither a written byte, a version nor a vector changes. -/
theorem part_written {α : Type} (π : State → α) (hkey : ∀ s k b, π (writeKey s k b) = π s) (hver : ∀ s v, π { s with versions := v } = π s)
    (hout : ∀ s o, π (emit s o) = π s) (u : State) (k n v w : Nat) (p : Place) (irq : Option Nat) :
    π (raiseIrq (bumpRange (writeNat u k n v) p n) w irq) = π u := by
  have hraise (s : State) : π (raiseIrq s w irq) = π s := by
    cases irq with
    | none => rfl
    | some x => exact hout ..
  rw [hraise, part_bumpRange π hver, writeNat, part_writeKeys π hkey]

theorem worldAt_modWorld_same (s : State) (w : Nat) (f : World → World) : worldAt (modWorld s w f) w = f (worldAt s w) := by
  rw [LeaseOps.worldAt_modWorld, if_pos rfl]

/-- What a Freeze that ends leaves: its packet is gone, and its result is written. -/
def ended (s : State) (w : Nat) (p : Placing) (v : Nat) : State :=
  raiseIrq (bumpRange (writeNat (modWorld s w fun q => { q with placing := none }) (homeOf s (whoHost w) p.res).key 8 v)
    (homeOf s (whoHost w) p.res) 8) w p.irq

theorem giveResult_of_free {s : State} {w : Nat} {p : Placing} (hheld : writeHeld s (whoHost w) p.res 8 = false)
    (ht : Machine.translate s (whoHost w) p.res 8 8 .write [0] = .ok ()) (hs : served s w (homeOf s (whoHost w) p.res) 8 = true) (v : Nat) :
    giveResult s w p v = ended s w p v := by
  have hf : footing w (modWorld s w fun q => { q with placing := none }) = footing w s :=
    footing_of_ground (ground_modWorld w s w _ fun _ => rfl)
  rw [giveResult, hheld, if_neg Bool.false_ne_true, placeResult_of_footing hf ht hs]
  rfl

theorem placing_ended (s : State) (w : Nat) (p : Placing) (v : Nat) : (worldAt (ended s w p v) w).placing = none := by
  have h : (ended s w p v).worlds = (modWorld s w fun q => { q with placing := none }).worlds :=
    part_written State.worlds (fun _ _ _ => rfl) (fun _ _ => rfl) (fun _ _ => rfl) _ _ _ _ _ _ _
  rw [worldAt, h, ← worldAt, worldAt_modWorld_same]

theorem result_ended {s : State} (hwf : Memory.wf s = true) (w : Nat) (p : Placing) (v : Nat) :
    readNat (ended s w p v) (homeOf s (whoHost w) p.res).key 8 = v % 2 ^ 64 := by
  have hstore : store (ended s w p v) =
      store (writeNat (modWorld s w fun q => { q with placing := none }) (homeOf s (whoHost w) p.res).key 8 v) := by
    rw [ended, store_raiseIrq, store_bumpRange]
  rw [readNat, readKeys_of_store hstore, ← readNat]
  exact readNat_writeNat (s := modWorld s w fun q => { q with placing := none }) _ 8 v hwf

theorem outs_ended (s : State) (w : Nat) (p : Placing) (v : Nat) :
    (ended s w p v).outs = s.outs ++ (match p.irq with | some v => [.irq w v] | none => []) := by
  have h : (bumpRange (writeNat (modWorld s w fun q => { q with placing := none }) (homeOf s (whoHost w) p.res).key 8 v)
      (homeOf s (whoHost w) p.res) 8).outs = s.outs := by
    rw [part_bumpRange State.outs fun _ _ => rfl, writeNat, part_writeKeys State.outs fun _ _ _ => rfl]
    rfl
  unfold ended
  cases p.irq with
  | none => exact h.trans (List.append_nil _).symm
  | some x => rw [← h]; rfl

theorem rectAt_ended (s : State) (w : Nat) (p : Placing) (v rid : Nat) : rectAt (ended s w p v) rid = rectAt s rid :=
  part_written (rectAt · rid) (fun _ _ _ => rfl) (fun _ _ => rfl) (fun _ _ => rfl) _ _ _ _ _ _ _

/-! ### A rectangle that is stuck (R309) -/

/-- The rectangle is stuck, and the device has reported the cores that still run. -/
def stuck (s : State) (rid : Nat) : State :=
  emit (modRect s rid fun r => { r with freeze := .stuck }) (.report rid (2 :: runningCores s rid))

theorem exec_boundBlockLimit {s : State} {rid : Nat} (hlive : (rectAt s rid).live = true) (hstop : (rectAt s rid).freeze = .stopping)
    (hmove : isMoving s rid = false) (hrun : runningCores s rid ≠ []) :
    exec (.boundBlockLimit rid) s = .next (endFreeze (stuck s rid) rid 11) := by
  have hexec : exec (.boundBlockLimit rid) s = execBoundBlockLimit rid s := rfl
  have hcores : runningCores (modRect s rid fun r => { r with freeze := .stuck }) rid = runningCores s rid := by
    rw [runningCores, rectAt_modRect_same]
    rfl
  have hsome : (runningCores s rid).isEmpty = false := List.isEmpty_eq_false_iff.2 hrun
  simp only [hexec, execBoundBlockLimit, hlive, hstop, hmove, hcores, hsome, true_and, true_or, Bool.not_false, if_true, stuck]

theorem rectAt_stuck (s : State) (rid : Nat) : rectAt (stuck s rid) rid = { rectAt s rid with freeze := .stuck } :=
  rectAt_modRect_same s rid fun r => { r with freeze := .stuck }

/-- How a rectangle stands in its stop holds no write. -/
theorem writeHeld_stuck (s : State) (rid : Nat) (who : Who) (a : W64) (n : Nat) : writeHeld (stuck s rid) who a n = writeHeld s who a n := by
  have hother {q : Nat} (h : q ≠ rid) : rectAt (stuck s rid) q = rectAt s q :=
    rectAt_modRect_other s (fun r => { r with freeze := .stuck }) h
  have hhome (who : Who) : homeOf (stuck s rid) who a = homeOf s who a := by
    by_cases h : who.rid = rid
    · subst h
      simp only [homeOf, rectAt_stuck]
      rfl
    · exact homeOf_congr a rfl (hother h)
  have htarget : targetOf (stuck s rid) who a = targetOf s who a := by
    by_cases h : who.rid = rid
    · subst h
      simp only [targetOf, hhome, rectAt_stuck]
      rfl
    · exact targetOf_congr a rfl (hother h)
  have htile (q t : Nat) : tileAt (stuck s rid) q t = tileAt s q t := by
    by_cases h : q = rid
    · subst h
      rw [tileAt, rectAt_stuck]
      rfl
    · rw [tileAt, hother h, tileAt]
  have hretained (p : Place) : retainedAt (stuck s rid) p n = retainedAt s p n := by
    cases p <;> simp only [retainedAt, htile]
  have hdomain (q : Nat) : domainRuns (stuck s rid) q = domainRuns s q := by
    by_cases h : q = rid
    · subst h
      simp only [domainRuns, rectAt_stuck]
      rfl
    · rw [domainRuns, hother h, domainRuns]
      rfl
  simp only [writeHeld, hhome, hretained, targetRuns, htarget, hdomain]
  rfl

theorem footing_stuck (w : Nat) (s : State) (rid : Nat) : footing w (stuck s rid) = footing w s := rfl

theorem endFreeze_of_open {s : State} {rid : Nat} {p : Placing} (h : (worldAt s (worldOf rid)).placing = some p) (hp : 8 * worldOf rid + p.slot = rid)
    (hr : p.result = none) (v : Nat) : endFreeze s rid v = giveResult s (worldOf rid) p v := by
  simp only [endFreeze, h, hp, hr, and_self, if_true]

theorem worldAt_stuck (s : State) (rid w : Nat) : worldAt (stuck s rid) w = worldAt s w := rfl

/-! ### Resuming (R246, R272, R309) -/

/-- Nothing of a rectangle waits for its resume: no trap is deferred and no matrix queue holds a command. -/
def nothingWaits (s : State) (rid : Nat) : Prop := ∀ c, (coreAt s rid c).csr.tpend = false ∧ (coreAt s rid c).arr.q = []

/-- What no change of a slot changes, marking the streams of a rectangle leaves (R246). -/
theorem part_markStreams {α : Type} (π : State → α) (hπ : ∀ s rid t k f, π (modSlot s rid t k f) = π s) (s : State) (rid : Nat) (x y : SlotPh) :
    π (markStreams s rid x y) = π s := by
  unfold markStreams
  refine foldl_keeps π _ _ fun s t => foldl_keeps π _ _ fun s p => ?_
  split
  · split
    · exact foldl_keeps π _ _ fun s k => hπ ..
    · rfl
  · rfl

theorem coreAt_modSlot (s : State) (q t k : Nat) (f : PSlot → PSlot) (rid c : Nat) : coreAt (modSlot s q t k f) rid c = coreAt s rid c :=
  coreAt_modRect s q rid c _ rfl

/-- Where nothing waits, a resume sets the rectangle running and marks its streams. -/
theorem resumeRect_of_nothing {s : State} {rid : Nat} (h : nothingWaits s rid) :
    resumeRect s rid = markStreams (modRect s rid fun r => { r with freeze := .running }) rid .frozen .running := by
  have hcore (c : Nat) : coreAt (modRect s rid fun r => { r with freeze := .running }) rid c = coreAt s rid c := coreAt_modRect s rid rid c _ rfl
  have hdefer (l : List Nat) : l.foldl (fun s c => takeDeferred s rid c) (modRect s rid fun r => { r with freeze := .running }) =
      modRect s rid fun r => { r with freeze := .running } :=
    List.foldlRecOn l _ (motive := (· = _)) rfl fun t ht c _ => by
      rw [ht, takeDeferred, hcore, (h c).1]
      rfl
  have hmark (c : Nat) : coreAt (markStreams (modRect s rid fun r => { r with freeze := .running }) rid .frozen .running) rid c = coreAt s rid c :=
    (part_markStreams (coreAt · rid c) (fun s q t k f => coreAt_modSlot s q t k f rid c) _ _ _ _).trans (hcore c)
  unfold resumeRect
  dsimp only
  rw [hdefer]
  refine List.foldlRecOn _ _ (motive := (· = _)) rfl fun t ht c _ => ?_
  rw [ht]
  split
  · rw [settleMatrix, arrAt, hmark, (h c).2]
  · rfl

/-! ### PLACE Freeze (R308, R346) -/

theorem worldOf_pktRid (w : Nat) (bs : List Byte) : worldOf (pktRid w bs) = w := by
  have : pktRect bs < 8 := Nat.mod_lt _ (by omega)
  simp only [worldOf, pktRid]
  omega

theorem placing_of_ready {s : State} {w op : Nat} {bs : List Byte} (h : placeReady s w op bs) : (worldAt s w).placing = none := by
  obtain ⟨-, -, ⟨hhead, -, -⟩, -⟩ := h
  unfold headPacket at hhead
  split at hhead
  · cases hp : (worldAt s w).placing with
    | none => rfl
    | some p => simp [queueHead, hp] at hhead
  · cases hhead

theorem live_of_ready {s : State} {w op : Nat} {bs : List Byte} (h : placeReady s w op bs) (hop : op ≠ 0) :
    (rectAt s (pktRid w bs)).live = true := by
  obtain ⟨-, -, -, -, hlive, -⟩ := h
  rw [hlive, decide_eq_true hop]

/-- A rectangle that a Freeze stops, with its packet open. -/
def freezing (s : State) (w : Nat) (bs : List Byte) : State :=
  modRect (modWorld (modRect (takeHead s w) (pktRid w bs) fun r => { r with hostStop := true }) w fun q =>
    { q with placing := some { slot := pktRect bs, res := pktRes bs, irq := pktIrq bs } }) (pktRid w bs) fun r => { r with freeze := .stopping }

theorem rectAt_freezing (s : State) (w : Nat) (bs : List Byte) :
    rectAt (freezing s w bs) (pktRid w bs) = { rectAt s (pktRid w bs) with hostStop := true, freeze := .stopping } := by
  have hhost : rectAt (modRect (takeHead s w) (pktRid w bs) fun r => { r with hostStop := true }) (pktRid w bs) =
      { rectAt s (pktRid w bs) with hostStop := true } := rectAt_modRect_same (takeHead s w) (pktRid w bs) fun r => { r with hostStop := true }
  refine (rectAt_modRect_same _ (pktRid w bs) fun r => { r with freeze := .stopping }).trans ?_
  exact congrArg (fun r : Rect => { r with freeze := .stopping }) hhost

theorem exec_placeFreeze {s : State} {w : Nat} {bs : List Byte} (h : placeReady s w 2 bs) (hrun : (rectAt s (pktRid w bs)).freeze = .running) :
    exec (.placeFreeze w) s = .next (settleStop (abandonAll (freezing s w bs) (pktRid w bs)) (pktRid w bs)) := by
  have hexec : exec (.placeFreeze w) s = execPlaceFreeze w s := rfl
  have hhost : (rectAt (modRect (takeHead s w) (pktRid w bs) fun r => { r with hostStop := true }) (pktRid w bs)).freeze = .running := by
    rw [rectAt_modRect_same]
    exact hrun
  have hopen (q : World → World) :
      (rectAt (modWorld (modRect (takeHead s w) (pktRid w bs) fun r => { r with hostStop := true }) w q) (pktRid w bs)).freeze = .running := hhost
  simp only [hexec, execPlaceFreeze, placing_of_ready h, servePlace_of_ready h (show 2 < 6 by omega) (ops := fun op => op == 2) rfl, hhost, startStop,
    hopen, if_true, reduceCtorEq, if_false]
  rfl

/-- A PLACE Freeze of a rectangle with a core that must run on stays open. -/
theorem freezeStaysOpen {s : State} {w c : Nat} {bs : List Byte} {b : BlockRun} (h : placeReady s w 2 bs)
    (hrun : (rectAt s (pktRid w bs)).freeze = .running)
    (hmem : (c, coreAt s (pktRid w bs) c) ∈ (rectAt s (pktRid w bs)).cores) (hb : runOf s (pktRid w bs) c = some b) (hbound : b.bound = true)
    (hhalt : (coreAt s (pktRid w bs) c).csr.halted = false) :
    ∃ t, exec (.placeFreeze w) s = .next t ∧ taken s t w ∧ (rectAt t (pktRid w bs)).freeze = .stopping ∧
      (rectAt t (pktRid w bs)).hostStop = true ∧ t.mem = s.mem ∧
      (worldAt t w).placing = some { slot := pktRect bs, res := pktRes bs, irq := pktIrq bs } := by
  have hrect := rectAt_freezing s w bs
  have hphase := runOf_phase.1 hb
  have hcore : holdsCore (freezing s w bs) (pktRid w bs) c (coreAt s (pktRid w bs) c) := by
    refine ⟨?_, ?_⟩
    · rw [hrect]
      exact hmem
    · rw [coreAt, hrect]
      rfl
  have hkept := holdsCore_abandonAll hphase hbound hcore
  have hopen := settleStop_of_running hkept.1 (coreStopped_of_run hphase hhalt)
  have hfoot : footing w (abandonAll (freezing s w bs) (pktRid w bs)) = footing w (takeHead s w) := by
    rw [part_abandonAll (footing w) fun _ _ _ _ => rfl]
    have hopened : footing w (modWorld (takeHead s w) w fun q =>
        { q with placing := some { slot := pktRect bs, res := pktRes bs, irq := pktIrq bs } }) = footing w (takeHead s w) :=
      footing_of_ground (ground_modWorld w (takeHead s w) w _ fun _ => rfl)
    exact hopened
  have hst := stance_abandonAll (freezing s w bs) (pktRid w bs)
  refine ⟨_, exec_placeFreeze h hrun, ?_⟩
  rw [hopen]
  refine ⟨taken_of_footing hfoot, ?_, ?_, ?_, ?_⟩
  · rw [rect_of_stance Rect.freeze (fun _ => rfl) hst, hrect]
  · rw [rect_of_stance Rect.hostStop (fun _ => rfl) hst, hrect]
  · exact part_abandonAll State.mem (fun _ _ _ _ => rfl) _ _
  · rw [part_abandonAll (worldAt · w) fun _ _ _ _ => rfl]
    exact congrArg World.placing (worldAt_modWorld_same (modRect (takeHead s w) (pktRid w bs) fun r => { r with hostStop := true }) w fun q =>
      { q with placing := some { slot := pktRect bs, res := pktRes bs, irq := pktIrq bs } })

theorem exec_placeFreeze_kept {s : State} {w v : Nat} {p : Placing} (h : (worldAt s w).placing = some p) (hr : p.result = some v) :
    exec (.placeFreeze w) s = .next (giveResult s w p v) := by
  have hexec : exec (.placeFreeze w) s = execPlaceFreeze w s := rfl
  simp only [hexec, execPlaceFreeze, h, hr]

/-! ### PLACE Resume (R309, R346) -/

/-- The rectangle of a Resume runs again; its answer has still to be written. -/
def resumed (s : State) (w : Nat) (bs : List Byte) : State :=
  markStreams (modRect (modRect (takeHead s w) (pktRid w bs) fun r => { r with hostStop := false }) (pktRid w bs) fun r =>
    { r with freeze := .running }) (pktRid w bs) .frozen .running

theorem exec_placeResume {s : State} {w : Nat} {bs : List Byte} (h : placeReady s w 3 bs) (hfrozen : (rectAt s (pktRid w bs)).freeze = .frozen)
    (hmove : isMoving s (pktRid w bs) = false) (hst : (worldAt s w).st ≠ .frozen) (hnone : nothingWaits s (pktRid w bs)) :
    exec (.placeResume w) s = .next (placeResult (resumed s w bs) w (pktRes bs) 0 (pktIrq bs)) := by
  have hexec : exec (.placeResume w) s = execPlaceResume w s := rfl
  have hlive := live_of_ready h (by omega)
  have hrect : rectAt (modRect (takeHead s w) (pktRid w bs) fun r => { r with hostStop := false }) (pktRid w bs) =
      { rectAt s (pktRid w bs) with hostStop := false } := rectAt_modRect_same (takeHead s w) (pktRid w bs) fun r => { r with hostStop := false }
  have htaken : worldAt (takeHead s w) w = { worldAt s w with lqhead := (worldAt s w).lqhead + 1 } :=
    worldAt_modWorld_same s w fun q => { q with lqhead := q.lqhead + 1 }
  have hworld : (worldAt (takeHead s w) w).st = (worldAt s w).st := by rw [htaken]
  have hwants : wantsStop (modRect (takeHead s w) (pktRid w bs) fun r => { r with hostStop := false }) (pktRid w bs) = false := by
    rw [wantsStop, hrect, worldOf_pktRid, show worldAt (modRect (takeHead s w) _ _) w = worldAt (takeHead s w) w from rfl, hworld]
    simp [hst]
  have hmoving : isMoving (modRect (takeHead s w) (pktRid w bs) fun r => { r with hostStop := false }) (pktRid w bs) = false := hmove
  have hwaits : nothingWaits (modRect (takeHead s w) (pktRid w bs) fun r => { r with hostStop := false }) (pktRid w bs) := by
    intro c
    rw [coreAt, hrect]
    exact hnone c
  simp only [hexec, execPlaceResume, servePlace_of_ready h (show 3 < 6 by omega) (ops := fun op => op == 3) rfl, tryResume, hwants, hmoving, hrect, hlive,
    hfrozen, ne_eq, reduceCtorEq, not_false_eq_true, Bool.not_false, and_self, if_true, resumeRect_of_nothing hwaits]
  rfl

theorem placeStops : PlaceStops := by
  refine ⟨?_, ?_, ?_, ?_, ?_, ?_⟩
  · intro s w bs c b hready hrun _ hmem hb hbound hhalt
    exact freezeStaysOpen hready hrun hmem hb hbound hhalt
  · intro s rid hlive hstop hmove hrun hplacing
    rw [exec_boundBlockLimit hlive hstop hmove hrun]
    simp only [endFreeze, worldAt_stuck, hplacing]
    rfl
  · intro s rid p hwf hlive hstop hmove hrun hplacing hp ht hs hr hheld
    have hheld' : writeHeld (stuck s rid) (whoHost (worldOf rid)) p.res 8 = false := (writeHeld_stuck ..).trans hheld
    have hsel := selector_of_translate ht
    have hfoot := footing_stuck (worldOf rid) s rid
    have hhome := homeOf_of_footing hfoot (whoHost (worldOf rid)) hsel
    have ht' := (translate_of_footing hfoot (whoHost (worldOf rid)) 8 8 .write hsel).trans ht
    have hs' : served (stuck s rid) (worldOf rid) (homeOf (stuck s rid) (whoHost (worldOf rid)) p.res) 8 = true := by
      rw [hhome, served_of_footing hfoot, hs]
    refine ⟨_, exec_boundBlockLimit hlive hstop hmove hrun, ?_⟩
    rw [endFreeze_of_open (s := stuck s rid) hplacing hp hr, giveResult_of_free hheld' ht' hs']
    refine ⟨?_, placing_ended .., ?_, outs_ended ..⟩
    · rw [rectAt_ended, rectAt_stuck]
    · rw [← hhome, result_ended (s := stuck s rid) hwf, Nat.mod_eq_of_lt (by omega)]
  · intro s rid p hlive hstop hmove hrun hplacing hp hr hheld
    refine ⟨_, exec_boundBlockLimit hlive hstop hmove hrun, ?_⟩
    rw [endFreeze_of_open (s := stuck s rid) hplacing hp hr, giveResult, writeHeld_stuck, hheld, if_pos rfl]
    refine ⟨?_, rfl⟩
    exact congrArg World.placing (worldAt_modWorld_same (stuck s rid) (worldOf rid) fun q => { q with placing := some { p with result := some 11 } })
  · intro s w p v hwf hplacing hr hheld ht hs
    refine ⟨_, exec_placeFreeze_kept hplacing hr, ?_⟩
    rw [giveResult_of_free hheld ht hs]
    exact ⟨placing_ended .., result_ended hwf ..⟩
  · intro s w bs hready hfrozen hmove hst hnone
    have hfoot : footing w (resumed s w bs) = footing w (takeHead s w) := part_markStreams (footing w) (fun _ _ _ _ _ => rfl) _ _ _ _
    have hwf : MemOk (resumed s w bs) := kept_markStreams _ _ _ hready.1
    have hmem : (resumed s w bs).mem = s.mem := part_markStreams State.mem (fun _ _ _ _ _ => rfl) _ _ _ _
    have hstance := stance_markStreams (modRect (modRect (takeHead s w) (pktRid w bs) fun r => { r with hostStop := false }) (pktRid w bs) fun r =>
      { r with freeze := .running }) (pktRid w bs) .frozen .running
    have hcore (c : Nat) : coreAt (resumed s w bs) (pktRid w bs) c = coreAt s (pktRid w bs) c := by
      rw [resumed, part_markStreams (coreAt · (pktRid w bs) c) fun s q t k f => coreAt_modSlot s q t k f _ c, coreAt_modRect _ _ _ _ _ rfl,
        coreAt_modRect _ _ _ _ _ rfl]
      rfl
    refine ⟨_, exec_placeResume hready hfrozen hmove hst hnone, answered_placeResult hready ⟨hwf, hfoot⟩ (by omega), ?_, ?_, ?_, ?_⟩
    · rw [rectAt_placeResult, resumed, rect_of_stance Rect.freeze (fun _ => rfl) hstance, rectAt_modRect_same]
    · rw [rectAt_placeResult, resumed, rect_of_stance Rect.hostStop (fun _ => rfl) hstance, rectAt_modRect_same, rectAt_modRect_same]
    · intro x hx
      rw [readKey_placeResult hready hfoot hx, readKey, hmem, ← readKey]
    · intro c
      rw [coreAt, rectAt_placeResult, ← coreAt, hcore]
      exact ⟨rfl, rfl⟩

end Sys2Proof.Stops
end

section
/-!
PROOF. Compaction (O52, R324 to R326). A pass starts with the oldest rectangle; a move that its cut ends puts the rectangle at its new anchor, one that its
limit ends leaves it. The engines that save and resume change no rectangle's place (`stance`).
-/
open Sys2Proof Sys2Proof.Machine Sys2Proof.Claims

namespace Sys2Proof.Stops

open Sys2Proof.Scalars Sys2Proof.Accesses Sys2Proof.Rectangles

/-! ### A pass starts (R324) -/

/-- A pass over the rectangles, with none of them visited yet. -/
def passBegun (s : State) (set : Nat) : State :=
  { s with pass := { todo := byAge s, dies := BitVec.ofNat 4 set }
           host := { s.host with compMoved := 0, compAband := 0, compDone := false } }

theorem exec_compact {s : State} (set : Nat) (hm : s.pass.moving = none) (ht : s.pass.todo = []) :
    exec (.compact set) s = .next (nextMove ((byAge s).length + 1) (passBegun s set)) := by
  have hexec : exec (.compact set) s = execCompact set s := rfl
  simp only [hexec, execCompact, startPass, hm, ht, Option.isSome_none, List.isEmpty_nil, Bool.not_true, Bool.or_self, Bool.false_eq_true, if_false]
  rfl

/-- A pass with nothing left to visit is done. -/
theorem nextMove_nil {s : State} (n : Nat) (hm : s.pass.moving = none) (ht : s.pass.todo = []) :
    nextMove (n + 1) s = { s with host := { s.host with compDone := true } } := by
  simp only [nextMove, hm, ht]

/-- While a clock stands still, a pass waits (R350). -/
theorem nextMove_of_waits {s : State} {rid : Nat} {rest : List Nat} (n : Nat) (hm : s.pass.moving = none) (ht : s.pass.todo = rid :: rest)
    (hc : clocksRun s = false) : nextMove (n + 1) s = s := by
  simp only [nextMove, hm, ht, hc, Bool.not_false, if_true]

/-- Where a rectangle may move does not turn on which rectangles are still to visit. -/
theorem moveTarget_pass {s : State} {m : Option (Nat × Nat × Nat)} (todo : List Nat) (dies : BitVec 4) (h : HostRegs) (rid : Nat) (set : BitVec 4)
    (hm : s.pass.moving = m) : moveTarget { s with pass := { todo := todo, dies := dies, moving := m }, host := h } rid set = moveTarget s rid set := by
  subst hm
  rfl

/-- The pass has taken a rectangle to move. -/
def moving (s : State) (rest : List Nat) (rid c r : Nat) : State :=
  { s with pass := { s.pass with todo := rest, moving := some (rid, c, r) } }

/-- The next rectangle of a pass, where a lower anchor takes it, stops. -/
theorem nextMove_of_target {s : State} {rid c r : Nat} {rest : List Nat} (n : Nat) (hm : s.pass.moving = none) (ht : s.pass.todo = rid :: rest)
    (hc : clocksRun s = true) (hlive : (rectAt s rid).live = true) (hel : eligible (rectAt s rid) s.pass.dies = true)
    (htarget : moveTarget s rid s.pass.dies = some (c, r)) :
    nextMove (n + 1) s = if (rectAt s rid).freeze = .running then
      abandonAll (modRect (moving s rest rid c r) rid fun r => { r with freeze := .stopping }) rid else moving s rest rid c r := by
  have hrect : rectAt { s with pass := { s.pass with todo := rest } } rid = rectAt s rid := rfl
  have htarget' : moveTarget { s with pass := { s.pass with todo := rest } } rid s.pass.dies = some (c, r) := htarget
  unfold nextMove
  split
  · next hm' ht' =>
    obtain ⟨rfl, rfl⟩ := List.cons.inj (ht.symm.trans ht')
    simp only [hc, hrect, hlive, hel, htarget', Bool.not_true, Bool.false_eq_true, if_false, and_self, if_true]
    rfl
  · next ht' => cases ht.symm.trans ht'
  · next hm' => cases hm.symm.trans hm'

/-! ### A move ends (R325, R326) -/

/-- The registers of a device after a move of its placer: moves and abandoned moves are counted up to 255. -/
def counted (h : HostRegs) (moved : Bool) : HostRegs :=
  if moved then { h with compMoved := min 255 (h.compMoved + 1) } else { h with compAband := min 255 (h.compAband + 1) }

theorem passOn_of_last {s : State} (moved : Bool) (h : s.pass.todo = []) :
    passOn s moved = { s with pass := { s.pass with moving := none }, host := { counted s.host moved with compDone := true } } :=
  nextMove_nil (s := { s with pass := { s.pass with moving := none }, host := counted s.host moved }) _ rfl h

theorem stance_moveMonitor (s : State) (n : Nat) (m : Tab Nat) (d : Nat) : stance (moveMonitor s n m d) = stance s := by
  unfold moveMonitor
  dsimp only
  split
  · rfl
  · split <;> rfl

/-- The engines of a rectangle have saved, and it is frozen. -/
def frozenAt (s : State) (rid : Nat) : State :=
  if (rectAt s rid).freeze = .frozen then s else modRect (saveEngines s rid) rid fun r => { r with freeze := .frozen }

theorem rectAt_frozenAt {α : Type} (π : Rect → α) (hπ : ∀ r, π (outline r) = π r) (hfreeze : ∀ r, π { r with freeze := .frozen } = π r) (s : State)
    (rid : Nat) : π (rectAt (frozenAt s rid) rid) = π (rectAt s rid) := by
  unfold frozenAt
  split
  · rfl
  · rw [rectAt_modRect_same, hfreeze, rect_of_stance π hπ (stance_saveEngines s rid)]

/-- The parts of the machine that neither a save nor a resume of a rectangle changes: the pass, the registers of the device, and the states of the worlds. -/
def device (s : State) : Pass × HostRegs × (Nat → WState) := (s.pass, s.host, fun w => (worldAt s w).st)

theorem device_of_stance {s u : State} (h : stance u = stance s) : device u = device s := by
  rw [device, pass_of_stance h, host_of_stance h, show (fun w => (worldAt u w).st) = fun w => (worldAt s w).st from funext (st_of_stance h)]
  rfl

theorem device_frozenAt (s : State) (rid : Nat) : device (frozenAt s rid) = device s := by
  unfold frozenAt
  split
  · rfl
  · exact Eq.trans (b := device (saveEngines s rid)) rfl (device_of_stance (stance_saveEngines s rid))

/-- Where the dies of a rectangle lie at a new anchor (R323). -/
def mapAt (q : Rect) (c r : Nat) : Tab Nat := newMap q (diesAt q.w q.h c r)

/-- The rectangle stands at a new anchor, with its dies and monitors mapped there, and the placer has let it go. -/
def reanchored (s : State) (rid c r : Nat) (m : Tab Nat) : State :=
  let u := modRect ((allMonitors s rid).foldl (fun u n => moveMonitor u n.1 m n.2) s) rid fun q => { q with ax := c, ay := r, dieMap := m }
  { u with pass := { u.pass with moving := none } }

/-- What a move makes of the state before its rectangle resumes. -/
def placedAt (s : State) (rid c r : Nat) : State := reanchored (frozenAt s rid) rid c r (mapAt (rectAt (frozenAt s rid) rid) c r)

theorem exec_moveCutReached {s : State} {rid c r : Nat} (hm : s.pass.moving = some (rid, c, r)) (hcut : cutReached s rid = true)
    (hc : clocksRun s = true) (hwants : wantsStop (placedAt s rid c r) rid = false) :
    exec (.moveCutReached rid) s = .next (passOn (resumeRect (placedAt s rid c r) rid) true) := by
  have hexec : exec (.moveCutReached rid) s = execMoveCutReached rid s := rfl
  have hgo : ¬(rid ≠ rid ∨ (!cutReached s rid) = true ∨ (!clocksRun s) = true) := by simp [hcut, hc]
  have hresume : (if wantsStop (placedAt s rid c r) rid = true then endFreeze (placedAt s rid c r) rid 0 else resumeRect (placedAt s rid c r) rid) =
      resumeRect (placedAt s rid c r) rid := if_neg (by rw [hwants]; exact Bool.false_ne_true)
  rw [hexec, ← hresume]
  unfold execMoveCutReached
  rw [hm]
  dsimp only
  rw [if_neg hgo]
  rfl

theorem stance_monitorsMoved (s : State) (m : Tab Nat) (l : List (Nat × Nat)) :
    stance (l.foldl (fun u n => moveMonitor u n.1 m n.2) s) = stance s :=
  stance_foldl l s fun u n => stance_moveMonitor u n.1 m n.2

theorem outline_reanchored (s : State) (rid c r : Nat) (m : Tab Nat) :
    outline (rectAt (reanchored s rid c r m) rid) = { outline (rectAt s rid) with ax := c, ay := r, dieMap := m } := by
  have hrect : rectAt (reanchored s rid c r m) rid = { rectAt ((allMonitors s rid).foldl (fun u n => moveMonitor u n.1 m n.2) s) rid with
      ax := c, ay := r, dieMap := m } := rectAt_modRect_same _ rid fun q => { q with ax := c, ay := r, dieMap := m }
  rw [hrect, ← outline_of_stance (stance_monitorsMoved s m (allMonitors s rid)) rid]
  rfl

theorem device_reanchored (s : State) (rid c r : Nat) (m : Tab Nat) :
    device (reanchored s rid c r m) = ({ s.pass with moving := none }, s.host, fun w => (worldAt s w).st) :=
  congrArg (fun d => (({ d.1 with moving := none } : Pass), d.2)) (device_of_stance (stance_monitorsMoved s m (allMonitors s rid)))

/-- A rectangle that resumes after a move, the last of its pass: it runs, and the pass is done. -/
theorem resumed_passOn {s : State} {rid : Nat} (moved : Bool) (ht : s.pass.todo = []) :
    (passOn (resumeRect s rid) moved).pass = { s.pass with moving := none } ∧
      (passOn (resumeRect s rid) moved).host = { counted s.host moved with compDone := true } ∧
      outline (rectAt (passOn (resumeRect s rid) moved) rid) = { outline (rectAt s rid) with freeze := .running } := by
  have hst := stance_resumeRect s rid
  have hpass : (resumeRect s rid).pass = s.pass := (pass_of_stance hst).trans rfl
  have hhost : (resumeRect s rid).host = s.host := (host_of_stance hst).trans rfl
  rw [passOn_of_last moved (by rw [hpass, ht])]
  refine ⟨?_, ?_, ?_⟩
  · rw [← hpass]
  · rw [← hhost]
  · refine (outline_of_stance hst rid).trans ?_
    rw [rectAt_modRect_same]
    rfl

/-- A move whose cut is reached, the last of its pass. -/
theorem cutMoves {s : State} {rid c r : Nat} (hm : s.pass.moving = some (rid, c, r)) (ht : s.pass.todo = []) (hcut : cutReached s rid = true)
    (hc : clocksRun s = true) (hwants : wantsStop s rid = false) :
    ∃ t, exec (.moveCutReached rid) s = .next t ∧ t.pass.moving = none ∧ (rectAt t rid).ax = c ∧ (rectAt t rid).ay = r ∧
      (rectAt t rid).dieMap = newMap (rectAt s rid) (diesAt (rectAt s rid).w (rectAt s rid).h c r) ∧
      (rectAt t rid).freeze = .running ∧ t.host.compMoved = min 255 (s.host.compMoved + 1) ∧
      t.host.compAband = s.host.compAband ∧ t.host.compDone = true := by
  have hfrozen := device_frozenAt s rid
  have hdevice := device_reanchored (frozenAt s rid) rid c r (mapAt (rectAt (frozenAt s rid) rid) c r)
  have hout := outline_reanchored (frozenAt s rid) rid c r (mapAt (rectAt (frozenAt s rid) rid) c r)
  have hpass : (placedAt s rid c r).pass.todo = [] :=
    (congrArg (fun d => d.1.todo) hdevice).trans ((congrArg (fun d => d.1.todo) hfrozen).trans ht)
  have hhost : (placedAt s rid c r).host = s.host := (congrArg (fun d => d.2.1) hdevice).trans (congrArg (fun d => d.2.1) hfrozen)
  have hworld : (worldAt (placedAt s rid c r) (worldOf rid)).st = (worldAt s (worldOf rid)).st :=
    (congrArg (fun d => d.2.2 (worldOf rid)) hdevice).trans (congrArg (fun d => d.2.2 (worldOf rid)) hfrozen)
  have hstop : (rectAt (placedAt s rid c r) rid).hostStop = (rectAt s rid).hostStop :=
    (congrArg Rect.hostStop hout).trans (rectAt_frozenAt Rect.hostStop (fun _ => rfl) (fun _ => rfl) s rid)
  have hwants' : wantsStop (placedAt s rid c r) rid = false := by
    rw [wantsStop, hstop, hworld]
    exact hwants
  have hmap : (rectAt (frozenAt s rid) rid).dieMap = (rectAt s rid).dieMap := rectAt_frozenAt Rect.dieMap (fun _ => rfl) (fun _ => rfl) s rid
  have hw : (rectAt (frozenAt s rid) rid).w = (rectAt s rid).w := rectAt_frozenAt Rect.w (fun _ => rfl) (fun _ => rfl) s rid
  have hh : (rectAt (frozenAt s rid) rid).h = (rectAt s rid).h := rectAt_frozenAt Rect.h (fun _ => rfl) (fun _ => rfl) s rid
  obtain ⟨hpass', hhost', hrect'⟩ := resumed_passOn (rid := rid) true hpass
  have hplaced : outline (rectAt (placedAt s rid c r) rid) = _ := hout
  rw [hplaced] at hrect'
  rw [hhost] at hhost'
  have hfield {α : Type} (π : Rect → α) (hπ : ∀ r, π (outline r) = π r) :
      π (rectAt (passOn (resumeRect (placedAt s rid c r) rid) true) rid) = π { outline (rectAt (frozenAt s rid) rid) with
        ax := c, ay := r, dieMap := mapAt (rectAt (frozenAt s rid) rid) c r, freeze := .running } := by
    rw [← hπ, hrect']
  refine ⟨_, exec_moveCutReached hm hcut hc hwants', congrArg Pass.moving hpass', hfield Rect.ax fun _ => rfl, hfield Rect.ay fun _ => rfl, ?_,
    hfield Rect.freeze fun _ => rfl, congrArg HostRegs.compMoved hhost', (congrArg HostRegs.compAband hhost').trans rfl, congrArg HostRegs.compDone hhost'⟩
  rw [hfield Rect.dieMap fun _ => rfl]
  show mapAt (rectAt (frozenAt s rid) rid) c r = _
  rw [mapAt, newMap, newMap, hmap, hw, hh]

/-- The rectangle of an abandoned move resumes where it stands. -/
def letGo (s : State) : State := { s with pass := { s.pass with moving := none } }

theorem exec_cutLimitExpiry {s : State} {rid c r : Nat} (hm : s.pass.moving = some (rid, c, r)) (hcut : cutReached s rid = false)
    (hc : clocksRun s = true) (hwants : wantsStop s rid = false) :
    exec (.cutLimitExpiry rid) s = .next (passOn (tryResume (letGo s) rid) false) := by
  have hexec : exec (.cutLimitExpiry rid) s = execCutLimitExpiry rid s := rfl
  have hgo : ¬(rid ≠ rid ∨ cutReached s rid = true ∨ (!clocksRun s) = true) := by simp [hcut, hc]
  have hresume : (if wantsStop (letGo s) rid = true then settleStop (abandonAll (letGo s) rid) rid else tryResume (letGo s) rid) =
      tryResume (letGo s) rid := if_neg (by rw [show wantsStop (letGo s) rid = wantsStop s rid from rfl, hwants]; exact Bool.false_ne_true)
  rw [hexec, ← hresume]
  unfold execCutLimitExpiry
  rw [hm]
  dsimp only
  rw [if_neg hgo]
  rfl

theorem tryResume_letGo {s : State} {rid : Nat} (hlive : (rectAt s rid).live = true) (hwants : wantsStop s rid = false) :
    tryResume (letGo s) rid = if (rectAt s rid).freeze ≠ .running then resumeRect (letGo s) rid else letGo s := by
  have hlive' : (rectAt (letGo s) rid).live = true := hlive
  have hwants' : wantsStop (letGo s) rid = false := hwants
  have hmove : isMoving (letGo s) rid = false := rfl
  simp only [tryResume, hlive', hwants', hmove, Bool.not_false, true_and, and_true]
  rfl

/-- A move whose limit expires first, the last of its pass. -/
theorem limitAbandons {s : State} {rid c r : Nat} (hm : s.pass.moving = some (rid, c, r)) (ht : s.pass.todo = []) (hcut : cutReached s rid = false)
    (hwants : wantsStop s rid = false) (hlive : (rectAt s rid).live = true) (hc : clocksRun s = true) :
    ∃ t, exec (.cutLimitExpiry rid) s = .next t ∧ t.pass.moving = none ∧ (rectAt t rid).ax = (rectAt s rid).ax ∧
      (rectAt t rid).ay = (rectAt s rid).ay ∧ (rectAt t rid).dieMap = (rectAt s rid).dieMap ∧ (rectAt t rid).freeze = .running ∧
      t.host.compAband = min 255 (s.host.compAband + 1) ∧ t.host.compMoved = s.host.compMoved ∧ t.host.compDone = true := by
  refine ⟨_, exec_cutLimitExpiry hm hcut hc hwants, ?_⟩
  rw [tryResume_letGo hlive hwants]
  split
  · obtain ⟨hpass, hhost, hrect⟩ := resumed_passOn (s := letGo s) (rid := rid) false ht
    have hfield {α : Type} (π : Rect → α) (hπ : ∀ r, π (outline r) = π r) :
        π (rectAt (passOn (resumeRect (letGo s) rid) false) rid) = π { outline (rectAt s rid) with freeze := .running } := by
      rw [← hπ, hrect]
      rfl
    exact ⟨congrArg Pass.moving hpass, hfield Rect.ax fun _ => rfl, hfield Rect.ay fun _ => rfl, hfield Rect.dieMap fun _ => rfl,
      hfield Rect.freeze fun _ => rfl, congrArg HostRegs.compAband hhost, (congrArg HostRegs.compMoved hhost).trans rfl, congrArg HostRegs.compDone hhost⟩
  · next hrun =>
    rw [passOn_of_last (s := letGo s) false ht]
    exact ⟨rfl, rfl, rfl, rfl, not_not.1 hrun, rfl, rfl, rfl⟩

theorem compactionMoves : CompactionMoves := by
  refine ⟨?_, ?_, ?_, ?_, ?_⟩
  · intro s set hm ht hsome hc
    obtain ⟨rid, rest, hage⟩ := List.exists_cons_of_ne_nil hsome
    refine ⟨_, exec_compact set hm ht, ?_⟩
    rw [nextMove_of_waits (s := passBegun s set) _ rfl hage hc]
    exact ⟨rfl, rfl, rfl, rfl⟩
  · intro s set rid rest c r hc hm ht hage hlive hel htarget
    have htarget' : moveTarget (passBegun s set) rid (BitVec.ofNat 4 set) = some (c, r) :=
      (moveTarget_pass (byAge s) (BitVec.ofNat 4 set) _ rid (BitVec.ofNat 4 set) hm).trans htarget
    refine ⟨_, exec_compact set hm ht, ?_⟩
    rw [nextMove_of_target (s := passBegun s set) _ rfl hage hc hlive hel htarget']
    have hrect : rectAt (passBegun s set) rid = rectAt s rid := rfl
    split
    · have hst := stance_abandonAll (modRect (moving (passBegun s set) rest rid c r) rid fun r => { r with freeze := .stopping }) rid
      have hpass := pass_of_stance hst
      have hhost := host_of_stance hst
      rw [hpass, hhost]
      refine ⟨rfl, rfl, rfl, rfl, rfl, rfl, part_abandonAll State.mem (fun _ _ _ _ => rfl) _ _, fun _ => ?_⟩
      rw [rect_of_stance Rect.freeze (fun _ => rfl) hst, rectAt_modRect_same]
    · next hstill => exact ⟨rfl, rfl, rfl, rfl, rfl, rfl, rfl, fun h => absurd h hstill⟩
  · intro s set hm ht hnone
    refine ⟨_, exec_compact set hm ht, ?_⟩
    rw [nextMove_nil (s := passBegun s set) _ rfl hnone]
    exact ⟨rfl, rfl, rfl, rfl, rfl⟩
  · intro s rid c r hm ht hcut hc hwants
    exact cutMoves hm ht hcut hc hwants
  · intro s rid c r hm ht hcut hwants hlive hc
    exact limitAbandons hm ht hcut hwants hlive hc

/-- Settles O52: a stop stays open while a core with a bound block runs; the result of a Freeze is written where it was checked; neither the engines nor
the cores change how a rectangle stands. -/
theorem rectanglesMove : Obligations.RectanglesMove := ⟨placeStops, compactionMoves⟩

end Sys2Proof.Stops
end

section
/-!
PROOF. What a board does with a tile that passes its station (O45, R258 to R261): one lemma for each of the things `captureTile` can do.
-/
open Sys2Proof Sys2Proof.Machine Sys2Proof.Claims

namespace Sys2Proof.Boards

/-! ### A tile comes to a capturing board (R259 to R262) -/

/-- A tile that a board cannot take: it did not come whole, or its header disagrees with the pattern or with its layer (R261). -/
def unfit (d : BitVec 512) (t : RingTile) (good : Bool) : Prop :=
  good = false ∨ t.aux = false ∧ (hKey t.header ≠ pKey d ∨ ivLayer t.header ≠ t.layer)

theorem unfit_iff (d : BitVec 512) (t : RingTile) (good : Bool) :
    (!good || (!t.aux && (hKey t.header != pKey d || ivLayer t.header != t.layer))) = true ↔ unfit d t good := by
  simp [unfit]

variable {d : BitVec 512} {b : Board} {t : RingTile} {good : Bool}

theorem captureTile_of_full (h : 8 ≤ b.buf.length) : captureTile d b t good = { b with overrun := true, ending := true } := by
  simp only [captureTile, h, if_true]

theorem captureTile_of_filled (h : b.buf.length < 8) (hw : payloadLen d ≤ b.walk) :
    captureTile d b t good = { b with short := true, ending := true } := by
  simp only [captureTile, Nat.not_le.2 h, hw, if_true, if_false]

theorem captureTile_of_unfit (h : b.buf.length < 8) (hw : b.walk < payloadLen d) (hbad : unfit d t good) :
    captureTile d b t good = { b with
      corrupted := b.corrupted + 1
      walk := b.walk + 4096
      hdrIx := if t.aux then b.hdrIx else b.hdrIx + 1
      ending := t.tidx + 1 == t.nt } := by
  simp only [captureTile, Nat.not_le.2 h, Nat.not_le.2 hw, (unfit_iff d t good).2 hbad, if_true, if_false]

theorem captureTile_of_fit (h : b.buf.length < 8) (hw : b.walk < payloadLen d) (hgood : ¬unfit d t good) :
    captureTile d b t good = { b with
      buf := b.buf ++ [(t, b.walk, b.hdrIx)]
      walk := b.walk + 256 * t.beats
      hdrIx := if t.aux then b.hdrIx else b.hdrIx + 1
      short := b.short || decide (payloadLen d < b.walk + 256 * t.beats)
      ending := t.tidx + 1 == t.nt || decide (payloadLen d < b.walk + 256 * t.beats) } := by
  have hfit : ¬(!good || (!t.aux && (hKey t.header != pKey d || ivLayer t.header != t.layer))) = true := fun h => hgood ((unfit_iff d t good).1 h)
  simp only [captureTile, Nat.not_le.2 h, Nat.not_le.2 hw, hfit, if_false, Bool.false_eq_true]

/-! ### A tile passes the station of a board (R258, R259) -/

theorem boardSees_of_capturing (he : b.ending = false) (hl : t.lane = b.lane) (hst : b.st = .capturing) (hlap : t.lap = b.lap)
    (hlayer : t.layer = b.layer) : boardSees d b t good = captureTile d b t good := by
  simp [boardSees, he, hl, hst, hlap, hlayer]

theorem capturesTake : CapturesTake := by
  intro d b t good he hl
  refine ⟨?_, ?_, ?_, ?_, ?_, ?_, ?_⟩
  · intro hst hgood hidx hlayer hlap
    simp [boardSees, he, hl, hst, hgood, hidx, hlayer, hlap]
  · intro hst hno
    have hhead : ¬(good = true ∧ t.tidx = 0 ∧ t.layer = b.layer) := by
      rintro ⟨rfl, hidx, hlayer⟩
      rcases hno with h | h | h
      · cases h
      · exact h hidx
      · exact h hlayer
    simp only [boardSees, he, hl, hst, hhead, if_false, Bool.false_eq_true, false_or, ne_eq, not_true_eq_false]
  · intro hst hgood hidx hlayer
    simp only [boardSees, he, hl, hst, hgood, hidx, hlayer, if_false, Bool.false_eq_true, false_or, ne_eq, not_true_eq_false, and_self, if_true]
  · intro hst hlap hlayer hfull
    rw [boardSees_of_capturing he hl hst hlap hlayer, captureTile_of_full hfull]
  · intro hst hlap hlayer hroom hfilled
    rw [boardSees_of_capturing he hl hst hlap hlayer, captureTile_of_filled hroom hfilled]
  · intro hst hlap hlayer hroom hleft
    rw [boardSees_of_capturing he hl hst hlap hlayer]
    refine ⟨fun hgood hfit => ?_, fun hbad => ?_⟩
    · have hno : ¬unfit d t good := by
        rintro (h | ⟨haux, h⟩)
        · rw [hgood] at h
          cases h
        · rcases hfit with h' | ⟨hkey, hiv⟩
          · rw [haux] at h'
            cases h'
          · exact h.elim (· hkey) (· hiv)
      rw [captureTile_of_fit hroom hleft hno]
      refine ⟨rfl, rfl, ?_, ?_⟩
      · simp
      · simp
    · rw [captureTile_of_unfit hroom hleft hbad]
      exact ⟨rfl, rfl, rfl, by simp⟩
  · intro hst hgood hother
    have hno : ¬(t.lap = b.lap ∧ t.layer = b.layer) := fun h => hother.elim (· h.1) (· h.2)
    simp only [boardSees, he, hl, hst, hgood, hno, if_false, Bool.false_eq_true, false_or, ne_eq, not_true_eq_false, if_true]

end Sys2Proof.Boards
end

section
/-!
PROOF. Boards arm, complete and are cancelled (O45, R258, R262, R265, R266, R272). What each operation of a board does to its slot and to its ring queue
is said once; the events are put together from them.
-/
open Sys2Proof Sys2Proof.Machine Sys2Proof.Claims

namespace Sys2Proof.Boards

open Sys2Proof.Accesses Sys2Proof.CopyOps
open Sys2Proof.Stops (coreAt_modSlot)

/-! ### The slot and the queue of a board -/

theorem tileAt_modTile_same (s : State) (rid t : Nat) (f : MTile → MTile) : tileAt (modTile s rid t f) rid t = f (tileAt s rid t) := by
  rw [tileAt, modTile, rectAt_modRect_same]
  exact tget_tset_same ..

theorem slotAt_modSlot_same (s : State) (rid t k : Nat) (f : PSlot → PSlot) : slotAt (modSlot s rid t k f) rid t k = f (slotAt s rid t k) := by
  rw [slotAt, modSlot, tileAt_modTile_same]
  exact tget_tset_same ..

theorem slotAt_modCore (s : State) (rid c : Nat) (f : Core → Core) (q t k : Nat) : slotAt (modCore s rid c f) q t k = slotAt s q t k := by
  rw [slotAt, tileAt_modCore, slotAt]

theorem laneAt_modLane_same (s : State) (n : Nat) (f : Lane → Lane) : laneAt (modLane s n f) n = f (laneAt s n) := tget_tset_same ..

theorem ringq_setRingQ (s : State) (rid c : Nat) (q : List RingCmd) : (coreAt (setRingQ s rid c q) rid c).ringq = q := by
  rw [setRingQ, coreAt_modCore_same]

/-- What a core holds beside its ring queue. -/
theorem core_setRingQ {α : Type} (π : Core → α) (hπ : ∀ k x, π { k with ringq := x } = π k) (s : State) (rid c : Nat) (q : List RingCmd) (r d : Nat) :
    π (coreAt (setRingQ s rid c q) r d) = π (coreAt s r d) := by
  rw [setRingQ, coreAt_modCore]
  split
  · next h =>
    rw [h.1, h.2]
    exact hπ ..
  · rfl

variable {s : State} {rid c k : Nat} {q : RingCmd} {b : Board}

theorem boardAt_of_is (h : boardIs s rid c k q b) : boardAt s rid c k = some (q, b) := by
  obtain ⟨hq, hw⟩ := h
  simp only [boardAt, ringQ, hq, hw]

theorem boardAt_head {qs : List RingCmd} (h : (coreAt s rid c).ringq = q :: qs) (hw : q.work = .board b) : boardAt s rid c 0 = some (q, b) :=
  boardAt_of_is ⟨by rw [h]; rfl, hw⟩

/-! ### A board's record (R238, R268) -/

theorem slotAt_noteBoard (s : State) (rid uid st status : Nat) (b : Board) :
    slotAt (noteBoard s rid uid st status b) rid b.tile b.slot =
      if (slotAt s rid b.tile b.slot).boardUid = uid then { slotAt s rid b.tile b.slot with board := boardWord st status b }
      else slotAt s rid b.tile b.slot := slotAt_modSlot_same ..

/-- A board that is put back changes its slot's record alone. -/
theorem slot_setBoard {α : Type} (π : PSlot → α) (hπ : ∀ x w, π { x with board := w } = π x) (s : State) (rid c k : Nat) (q : RingCmd) (b : Board) :
    π (slotAt (setBoard s rid c k q b) rid b.tile b.slot) = π (slotAt s rid b.tile b.slot) := by
  rw [setBoard, slotAt_noteBoard, apply_ite π, hπ, ite_self, setRingQ, slotAt_modCore]

theorem ringq_setBoard (h : (coreAt s rid c).ringq[k]? = some q) (x : Board) :
    (coreAt (setBoard s rid c k q x) rid c).ringq[k]? = some { q with work := .board x } := by
  rw [setBoard, noteBoard, coreAt_modSlot, ringq_setRingQ, getElem?_modAt, if_pos rfl, ringQ, h]
  rfl

/-- The two high fields of a 64-bit word. -/
theorem highFields {x y z : Nat} (hx : x < 16) (hy : y < 16) (hz : z < 2 ^ 56) :
    (BitVec.ofNat 64 (x * 2 ^ 60 + y * 2 ^ 56 + z)).extractLsb' 60 4 = BitVec.ofNat 4 x ∧
      ((BitVec.ofNat 64 (x * 2 ^ 60 + y * 2 ^ 56 + z)).extractLsb' 56 4).toNat = y := by
  have hlt : x * 2 ^ 60 + y * 2 ^ 56 + z < 2 ^ 64 := by omega
  have hword : (BitVec.ofNat 64 (x * 2 ^ 60 + y * 2 ^ 56 + z)).toNat = x * 2 ^ 60 + y * 2 ^ 56 + z := by
    rw [BitVec.toNat_ofNat, Nat.mod_eq_of_lt hlt]
  refine ⟨BitVec.eq_of_toNat_eq ?_, ?_⟩
  · rw [BitVec.extractLsb'_toNat, hword, BitVec.toNat_ofNat, Nat.shiftRight_eq_div_pow]
    omega
  · rw [BitVec.extractLsb'_toNat, hword, Nat.shiftRight_eq_div_pow]
    omega

/-- STATE and STATUS of a board's record (R268). -/
theorem boardWord_fields {st status : Nat} (b : Board) (hst : st < 16) (hstatus : status < 16) :
    (boardWord st status b).extractLsb' 60 4 = BitVec.ofNat 4 st ∧ ((boardWord st status b).extractLsb' 56 4).toNat = status := by
  have hlap : b.lap.toNat % 2 ^ 16 < 2 ^ 16 := Nat.mod_lt _ (by omega)
  have hcor := Nat.min_le_right b.corrupted 65535
  have htiles := Nat.min_le_right b.tiles 65535
  have hlow : b.lap.toNat % 2 ^ 16 * 2 ^ 32 + min b.corrupted 65535 * 2 ^ 16 + min b.tiles 65535 < 2 ^ 56 := by omega
  have hfields := highFields hst hstatus hlow
  simp only [boardWord, Nat.mod_eq_of_lt hst, Nat.mod_eq_of_lt hstatus]
  simpa only [Nat.add_assoc] using hfields

theorem boardStatus_lt (b : Board) : boardStatus b < 16 := by
  unfold boardStatus
  split_ifs <;> omega

/-! ### A board leaves its queue (R223, R238) -/

/-- What a slot shows of a board that has left: what became of it, and that it holds the slot no longer. -/
def released (uid : Nat) (st : BoardSt) (ph : SlotPh) (x : PSlot) : PSlot :=
  { x with st := if x.last = uid ∧ x.st ≠ .empty then ph else x.st, held := if st = .queued then x.held else false }

theorem slotAt_dropBoard (s : State) (rid c ix : Nat) (q : RingCmd) (b : Board) (ph : SlotPh) :
    slotAt (dropBoard s rid c ix q b ph) rid b.tile b.slot = released q.hdr.uid b.st ph (slotAt s rid b.tile b.slot) := by
  have hnoted : slotAt (noteSlot (setRingQ s rid c (dropAt (ringQ s rid c) ix)) rid b.tile b.slot q.hdr.uid ph) rid b.tile b.slot =
      { slotAt s rid b.tile b.slot with
        st := if (slotAt s rid b.tile b.slot).last = q.hdr.uid ∧ (slotAt s rid b.tile b.slot).st ≠ .empty then ph
          else (slotAt s rid b.tile b.slot).st } := by
    rw [noteSlot, slotAt_modSlot_same, setRingQ, slotAt_modCore]
    split <;> rfl
  unfold dropBoard released
  dsimp only
  split
  · exact hnoted
  · rw [slotAt_modSlot_same, hnoted]

theorem ringq_dropBoard (s : State) (rid c ix : Nat) (q : RingCmd) (b : Board) (ph : SlotPh) :
    (coreAt (dropBoard s rid c ix q b ph) rid c).ringq = dropAt (coreAt s rid c).ringq ix := by
  unfold dropBoard
  dsimp only
  split
  · rw [noteSlot, coreAt_modSlot, ringq_setRingQ, ringQ]
  · rw [coreAt_modSlot, noteSlot, coreAt_modSlot, ringq_setRingQ, ringQ]

theorem core_dropBoard {α : Type} (π : Core → α) (hπ : ∀ k x, π { k with ringq := x } = π k) (s : State) (rid c ix : Nat) (q : RingCmd) (b : Board)
    (ph : SlotPh) (r d : Nat) : π (coreAt (dropBoard s rid c ix q b ph) r d) = π (coreAt s r d) := by
  unfold dropBoard
  dsimp only
  split
  · rw [noteSlot, coreAt_modSlot, core_setRingQ π hπ]
  · rw [coreAt_modSlot, noteSlot, coreAt_modSlot, core_setRingQ π hπ]

theorem lanes_dropBoard (s : State) (rid c ix : Nat) (q : RingCmd) (b : Board) (ph : SlotPh) : (dropBoard s rid c ix q b ph).lanes = s.lanes := by
  unfold dropBoard
  dsimp only
  split <;> rfl

theorem slotAt_tokenSub (s : State) (rid d t r x n : Nat) : slotAt (tokenSub s rid d t) r x n = slotAt s r x n := slotAt_modCore ..

/-! ### A board arms (R258, R265, R272) -/

/-- A board as it arms. -/
def armed (b : Board) : Board :=
  { b with
    st := .armed
    missedLap := none
    missed := false
    lap := 0
    walk := 0
    hdrIx := 0
    tiles := 0
    corrupted := 0
    overrun := false
    short := false
    buf := [] }

theorem nonempty_of_boardCause (h : boardCause s rid b = none) : (slotAt s rid b.tile b.slot).st ≠ .empty := by
  intro hst
  simp [boardCause, startCause, hst] at h

theorem exec_boardArm (hunit : boardUnit s rid c b = true) (hb : boardIs s rid c k q b)
    (hst : b.st = .queued ∧ (slotAt s rid b.tile b.slot).held = false ∨ b.st = .stopped) (hf : b.failed = none)
    (hblock : boardBlocked (coreAt s rid c).ringq k = false) (hact : boardsActive (coreAt s rid c).ringq < 4) (hc : boardCause s rid b = none) :
    exec (.boardArm rid c k) s = .next (armBoard s rid c k q b) := by
  have hexec : exec (.boardArm rid c k) s = execBoardArm rid c k s := rfl
  have hfree : (b.failed.isSome || b.st == .armed || b.st == .capturing || (b.st == .queued && (slotAt s rid b.tile b.slot).held)) = false := by
    rcases hst with ⟨hst, hheld⟩ | hst
    · simp [hf, hst, hheld]
    · simp [hf, hst]
  simp only [hexec, execBoardArm, boardAt_of_is hb, ringQ, hunit, hblock, Nat.not_le.2 hact, hfree, hc, Bool.not_true, decide_false, Bool.or_self,
    Bool.false_eq_true, if_false]

/-- The lane of a board that arms has counted a head that it missed. -/
def missCounted (s : State) (rid : Nat) (b : Board) : State :=
  if b.missed then modLane s b.lane fun l => { l with stations := tmod {} l.stations (tileDie (rectAt s rid) b.tile) fun x =>
    { x with missed := min (x.missed + 1) 65535 } } else s

theorem rects_missCounted (s : State) (rid : Nat) (b : Board) : (missCounted s rid b).rects = s.rects := by
  unfold missCounted
  split <;> rfl

theorem rectAt_missCounted (s : State) (rid : Nat) (b : Board) (r : Nat) : rectAt (missCounted s rid b) r = rectAt s r := by
  rw [rectAt, rects_missCounted, rectAt]

/-- The state before an arming board is put back: its slot is held and runs. -/
def holding (s : State) (rid : Nat) (q : RingCmd) (b : Board) : State :=
  useSlot (modSlot (missCounted s rid b) rid b.tile b.slot fun x => { x with held := true }) rid b.tile b.slot q.hdr.uid .running

theorem armBoard_eq (s : State) (rid c k : Nat) (q : RingCmd) (b : Board) :
    armBoard s rid c k q b = setBoard (holding s rid q b) rid c k q (armed b) := rfl

theorem coreAt_holding (s : State) (rid : Nat) (q : RingCmd) (b : Board) (r d : Nat) : coreAt (holding s rid q b) r d = coreAt s r d := by
  rw [holding, useSlot, coreAt_modSlot, coreAt_modSlot, coreAt, rectAt_missCounted, coreAt]

theorem slotAt_holding (s : State) (rid : Nat) (q : RingCmd) (b : Board) : slotAt (holding s rid q b) rid b.tile b.slot =
    { slotAt s rid b.tile b.slot with
      held := true
      last := q.hdr.uid
      st := if (slotAt s rid b.tile b.slot).st = .empty then .empty else .running
      index := 0 } := by
  have hslot : slotAt (missCounted s rid b) rid b.tile b.slot = slotAt s rid b.tile b.slot := by
    rw [slotAt, tileAt, rectAt_missCounted, slotAt, tileAt]
  rw [holding, useSlot, slotAt_modSlot_same, slotAt_modSlot_same, hslot]

/-! ### A board completes (R117, R138, R262) -/

/-- The station of a board counts it. -/
def boardCounted (s : State) (rid : Nat) (b : Board) : State :=
  modLane s b.lane fun l => { l with stations := tmod {} l.stations (tileDie (rectAt s rid) b.tile) fun x =>
    { x with
      boards := min (x.boards + 1) 65535
      overruns := if boardStatus b = 1 then min (x.overruns + 1) 65535 else x.overruns } }

/-- The state before a completed board leaves its queue: its record has its status. -/
def statusNoted (s : State) (rid : Nat) (q : RingCmd) (b : Board) : State :=
  noteEvent (noteBoard (boardCounted s rid b) rid q.hdr.uid 4 (boardStatus b) b) rid (tileDie (rectAt s rid) b.tile) 4

theorem coreAt_statusNoted (s : State) (rid : Nat) (q : RingCmd) (b : Board) (r d : Nat) : coreAt (statusNoted s rid q b) r d = coreAt s r d :=
  coreAt_modSlot (boardCounted s rid b) ..

theorem slotAt_statusNoted (s : State) (rid : Nat) (q : RingCmd) (b : Board) : slotAt (statusNoted s rid q b) rid b.tile b.slot =
    if (slotAt s rid b.tile b.slot).boardUid = q.hdr.uid then { slotAt s rid b.tile b.slot with board := boardWord 4 (boardStatus b) b }
    else slotAt s rid b.tile b.slot := slotAt_noteBoard (boardCounted s rid b) ..

variable {qs : List RingCmd}

theorem exec_boardComplete (hunit : boardUnit s rid c b = true) (hq : (coreAt s rid c).ringq = q :: qs) (hw : q.work = .board b)
    (he : b.ending = true) (hbuf : b.buf = []) (hf : b.failed = none) (hplain : plainSignal s rid q.hdr) :
    exec (.boardComplete rid c 0) s = .next (tokenSub (dropBoard (statusNoted s rid q b) rid c 0 q b .completed) rid q.hdr.core q.hdr.tok) := by
  have hexec : exec (.boardComplete rid c 0) s = execBoardComplete rid c 0 s := rfl
  rw [← signal_of_plain _ hplain]
  simp only [hexec, execBoardComplete, boardAt_head hq hw, hunit, he, hbuf, hf, maySignal_of_plain hplain, Bool.not_true, Bool.false_eq_true, ne_eq,
    not_true_eq_false, List.isEmpty_nil, or_self, if_false, Option.isSome_none]
  rfl

theorem exec_boardComplete_failed {e : Nat} {a : W64} (hunit : boardUnit s rid c b = true) (hq : (coreAt s rid c).ringq = q :: qs)
    (hw : q.work = .board b) (he : b.ending = true) (hbuf : b.buf = []) (hf : b.failed = some (e, a)) :
    exec (.boardComplete rid c 0) s = .next (failCommand (dropBoard s rid c 0 q b .failed) rid q.hdr e a) := by
  have hexec : exec (.boardComplete rid c 0) s = execBoardComplete rid c 0 s := rfl
  simp only [hexec, execBoardComplete, boardAt_head hq hw, hunit, he, hbuf, hf, Bool.not_true, Bool.false_eq_true, ne_eq,
    not_true_eq_false, List.isEmpty_nil, or_self, if_false, Option.isSome_some, if_true, settleFailed]

/-- A board completes with its status, and its station counts it. -/
theorem boardCompletes (hunit : boardUnit s rid c b = true) (hq : (coreAt s rid c).ringq = q :: qs) (hw : q.work = .board b)
    (he : b.ending = true) (hbuf : b.buf = []) (hst : b.st ≠ .queued) (hf : b.failed = none) (hplain : plainSignal s rid q.hdr) :
    ∃ u, exec (.boardComplete rid c 0) s = .next u ∧ (coreAt u rid c).ringq = qs ∧
      tokOf u rid q.hdr = tokOf s rid q.hdr - 1 ∧ (slotAt u rid b.tile b.slot).held = false ∧
      ((slotAt s rid b.tile b.slot).boardUid = q.hdr.uid → ((slotAt u rid b.tile b.slot).board.extractLsb' 60 4) = 4 ∧
        ((slotAt u rid b.tile b.slot).board.extractLsb' 56 4).toNat = boardStatus b) ∧
      (shows s rid b.tile b.slot q.hdr.uid → (slotAt u rid b.tile b.slot).st = .completed) ∧
      (tget {} (laneAt u b.lane).stations (tileDie (rectAt s rid) b.tile)).boards =
        min ((tget {} (laneAt s b.lane).stations (tileDie (rectAt s rid) b.tile)).boards + 1) 65535 := by
  refine ⟨_, exec_boardComplete hunit hq hw he hbuf hf hplain, ?_, ?_, ?_, ?_, ?_, ?_⟩
  · rw [core_tokenSub Core.ringq fun _ _ => rfl, ringq_dropBoard, coreAt_statusNoted, hq]
    rfl
  · rw [tokOf_tokenSub, tokOf, core_dropBoard Core.tok fun _ _ => rfl, coreAt_statusNoted, tokOf]
  · rw [slotAt_tokenSub, slotAt_dropBoard]
    exact if_neg hst
  · intro huid
    rw [slotAt_tokenSub, slotAt_dropBoard, slotAt_statusNoted, if_pos huid]
    exact boardWord_fields b (by omega) (boardStatus_lt b)
  · rintro ⟨hlast, hsome⟩
    rw [slotAt_tokenSub, slotAt_dropBoard, slotAt_statusNoted]
    split <;> exact if_pos ⟨hlast, hsome⟩
  · have hlanes : laneAt (tokenSub (dropBoard (statusNoted s rid q b) rid c 0 q b .completed) rid q.hdr.core q.hdr.tok) b.lane =
        laneAt (boardCounted s rid b) b.lane := congrArg (tget ({} : Lane) · b.lane) (lanes_dropBoard ..)
    rw [hlanes, boardCounted, laneAt_modLane_same]
    dsimp only
    rw [tget_tmod, if_pos rfl]

/-! ### RDROP (R266) -/

theorem exec_rdropHead {t n : Nat} (hunit : coreUnit s rid c = true) (htile : tileUnit s rid t = true)
    (hplain : plainSignal s rid q.hdr) {ahead : List RingCmd} (hq : splitDrop [] (coreAt s rid c).ringq = some (ahead, q, t, n))
    (hall : ahead.all (boardInto t n) = true) :
    exec (.rdropHead rid c) s = .next (tokenSub (setRingQ (cancelBoards rid c ahead.length s) rid c
      ((ringQ (cancelBoards rid c ahead.length s) rid c).drop 1)) rid q.hdr.core q.hdr.tok) := by
  have hexec : exec (.rdropHead rid c) s = execRdropHead rid c s := rfl
  rw [← signal_of_plain _ hplain]
  simp only [hexec, execRdropHead, hunit, ringQ, hq, hall, htile, maySignal_of_plain hplain, Bool.not_true, Bool.or_self, Bool.false_eq_true, if_false]

/-- A board that an RDROP cancels. -/
def cancelledBoard (s : State) (rid c : Nat) (p : RingCmd) (b : Board) : State :=
  tokenSub (dropBoard (noteBoard s rid p.hdr.uid 5 5 b) rid c 0 p b .cancelled) rid p.hdr.core p.hdr.tok

theorem cancelBoards_one {p : RingCmd} (hq : (coreAt s rid c).ringq = p :: qs) (hw : p.work = .board b) (hf : b.failed = none) :
    cancelBoards rid c 1 s = cancelledBoard s rid c p b := by
  simp only [cancelBoards, boardAt_head hq hw, hf, Option.isSome_none, Bool.false_eq_true, if_false]
  rfl

theorem ringq_cancelledBoard {p : RingCmd} (hq : (coreAt s rid c).ringq = p :: qs) : (coreAt (cancelledBoard s rid c p b) rid c).ringq = qs := by
  rw [cancelledBoard, core_tokenSub Core.ringq fun _ _ => rfl, ringq_dropBoard, noteBoard, coreAt_modSlot, hq]
  rfl

/-- The slot of a cancelled board, but for its record. -/
theorem slot_cancelledBoard {α : Type} (π : PSlot → α) (hπ : ∀ x w, π { x with board := w } = π x) (s : State) (rid c : Nat) (p : RingCmd) (b : Board) :
    π (slotAt (cancelledBoard s rid c p b) rid b.tile b.slot) = π (released p.hdr.uid b.st .cancelled (slotAt s rid b.tile b.slot)) := by
  rw [cancelledBoard, slotAt_tokenSub, slotAt_dropBoard, slotAt_noteBoard]
  split
  · exact hπ (released p.hdr.uid b.st .cancelled (slotAt s rid b.tile b.slot)) _
  · rfl

theorem boardsComplete : BoardsComplete := by
  refine ⟨?_, ?_, ?_, ?_⟩
  · intro s rid c k q b hunit hb hst hf hblock hact hc
    refine ⟨_, armed b, (exec_boardArm hunit hb hst hf hblock hact hc).trans (by rw [armBoard_eq]), ?_, rfl, rfl, rfl, rfl, rfl, ?_, ?_⟩
    · exact ringq_setBoard (by rw [coreAt_holding]; exact hb.1) _
    · exact (slot_setBoard PSlot.held (fun _ _ => rfl) _ rid c k q (armed b)).trans (congrArg PSlot.held (slotAt_holding s rid q b))
    · refine (slot_setBoard PSlot.st (fun _ _ => rfl) _ rid c k q (armed b)).trans ((congrArg PSlot.st (slotAt_holding s rid q b)).trans ?_)
      exact if_neg (nonempty_of_boardCause hc)
  · intro s rid c q b qs hunit hq hw he hbuf hst hf hplain
    exact boardCompletes hunit hq hw he hbuf hst hf hplain
  · intro s rid c q b qs e a hunit hq hw he hbuf hf
    refine ⟨_, exec_boardComplete_failed hunit hq hw he hbuf hf, ?_⟩
    rw [ringq_dropBoard, hq]
    rfl
  · intro s rid c q qs t n hunit htile hw hplain
    refine ⟨fun hq => ?_, fun p b hq hp ht hn hf => ?_⟩
    · have hsplit : splitDrop [] (coreAt s rid c).ringq = some ([], q, t, n) := by
        rw [hq]
        simp only [splitDrop, hw, List.reverse_nil]
      refine ⟨_, exec_rdropHead hunit htile hplain hsplit rfl, ?_, ?_⟩
      · rw [core_tokenSub Core.ringq fun _ _ => rfl, ringq_setRingQ]
        exact congrArg (List.drop 1) hq
      · rw [tokOf_tokenSub, tokOf, core_setRingQ Core.tok fun _ _ => rfl]
        rfl
    · subst ht hn
      have hsplit : splitDrop [] (coreAt s rid c).ringq = some ([p], q, b.tile, b.slot) := by
        rw [hq]
        simp only [splitDrop, hp, hw, List.reverse_singleton]
      have hinto : [p].all (boardInto b.tile b.slot) = true := by simp [boardInto, hp]
      refine ⟨_, exec_rdropHead hunit htile hplain hsplit hinto, ?_, ?_, ?_⟩
      · rw [core_tokenSub Core.ringq fun _ _ => rfl, ringq_setRingQ, List.length_singleton, cancelBoards_one hq hp hf, ringQ, ringq_cancelledBoard hq]
        rfl
      · rintro ⟨hlast, hsome⟩
        rw [slotAt_tokenSub, setRingQ, slotAt_modCore, List.length_singleton, cancelBoards_one hq hp hf, slot_cancelledBoard PSlot.st fun _ _ => rfl]
        exact if_pos ⟨hlast, hsome⟩
      · intro hst
        rw [slotAt_tokenSub, setRingQ, slotAt_modCore, List.length_singleton, cancelBoards_one hq hp hf, slot_cancelledBoard PSlot.held fun _ _ => rfl]
        exact if_neg hst

end Sys2Proof.Boards
end

section
/-!
PROOF. The station writes a buffered tile of a board (O45, R138, R140, R259, R260). The bytes go to their offsets one after the other, so that an offset
holds the last one written to it (`overwritten`); tasks that a write aborts change neither the place nor the addresses of the tile (`Landed`).
-/
open Sys2Proof Sys2Proof.Machine Sys2Proof.Claims

namespace Sys2Proof.Boards

open Sys2Proof.Accesses Sys2Proof.CopyOps
open Sys2Proof.Stops (coreAt_modSlot)

/-! ### The bytes of a tile along its walk (R260) -/

theorem placeBytes_eq {s : State} {rid tile : Nat} {d : BitVec 512} (xs : List Byte) {n : Nat} {off : Nat → Nat}
    (h : ∀ j, j < min xs.length (payloadLen d - n) → payloadByte s rid tile d none (n + j) = .ok (.byAt (off j))) :
    placeBytes s rid tile d n xs = (((List.range (min xs.length (payloadLen d - n))).map off).zip xs, none) := by
  induction xs generalizing n off with
  | nil => simp [placeBytes]
  | cons x xs ih =>
    by_cases hn : payloadLen d ≤ n
    · simp [placeBytes, hn]
    · have hmin : min (x :: xs).length (payloadLen d - n) = min xs.length (payloadLen d - (n + 1)) + 1 := by
        rw [List.length_cons]
        omega
      rw [hmin] at h ⊢
      have hfirst := h 0 (by omega)
      have hrest := ih (n := n + 1) (off := fun j => off (j + 1)) fun j hj => by
        rw [Nat.add_right_comm]
        exact h (j + 1) (by omega)
      rw [Nat.add_zero] at hfirst
      simp only [placeBytes, hn, if_false, hfirst, hrest, List.range_succ_eq_map, List.map_cons, List.map_map, List.zip_cons_cons]
      rfl

/-- The header of a tile at its place of the header area. -/
def headerBytes (h : BitVec 512) (a : Nat) : List (Nat × Byte) := (List.range 64).map fun i => (a + i, BitVec.ofNat 8 (recBytes h i 1))

/-! ### What no earlier board owes (R138, R259) -/

/-- A walk that visits one of some offsets visits that one. -/
theorem walkMeets_single {d : BitVec 512} {n : Nat} {offs : List Nat} (h : walkMeets d n offs = true) : ∃ o ∈ offs, walkMeets d n [o] = true := by
  simp only [walkMeets, Bool.and_eq_true, List.any_eq_true] at h
  obtain ⟨-, i, hi, o, ho, hat⟩ := h
  obtain ⟨hmem, hnear⟩ := List.mem_filter.1 ho
  refine ⟨o, hmem, ?_⟩
  simp only [walkMeets, List.filter_cons, hnear, if_true, List.filter_nil, List.isEmpty_cons, Bool.not_false, Bool.true_and, List.any_eq_true,
    List.mem_singleton]
  exact ⟨i, hi, o, rfl, Bool.and_eq_true_iff.2 hat⟩

theorem boardOwes_single {d : BitVec 512} {b : Board} {offs : List Nat} (h : boardOwes d b offs = true) : ∃ o ∈ offs, boardOwes d b [o] = true := by
  simp only [boardOwes, Bool.and_eq_true, Bool.or_eq_true] at h
  obtain ⟨hopen, hwalk | ⟨hhdr, hany⟩⟩ := h
  · obtain ⟨o, ho, hat⟩ := walkMeets_single hwalk
    refine ⟨o, ho, ?_⟩
    simp only [boardOwes, Bool.and_eq_true, Bool.or_eq_true]
    exact ⟨hopen, .inl hat⟩
  · obtain ⟨o, ho, hat⟩ := List.any_eq_true.1 hany
    refine ⟨o, ho, ?_⟩
    simp only [boardOwes, Bool.and_eq_true, Bool.or_eq_true, List.any_cons, List.any_nil, Bool.or_false]
    exact ⟨hopen, .inr ⟨hhdr, Bool.and_eq_true_iff.1 hat⟩⟩

theorem boardsAhead_of_each {s : State} {rid c k tile : Nat} {offs : List Nat} (h : ∀ o ∈ offs, boardsAhead s rid c k tile [o] = false) :
    boardsAhead s rid c k tile offs = false := by
  rw [Bool.eq_false_iff]
  intro hany
  obtain ⟨q, hq, howes⟩ := List.any_eq_true.1 hany
  split at howes
  · next b hb =>
    obtain ⟨htile, howes⟩ := Bool.and_eq_true_iff.1 howes
    obtain ⟨o, ho, hat⟩ := boardOwes_single howes
    refine Bool.eq_false_iff.1 (h o ho) (List.any_eq_true.2 ⟨q, hq, ?_⟩)
    rw [hb]
    exact Bool.and_eq_true_iff.2 ⟨htile, hat⟩
  · cases howes

/-! ### Bytes written one after the other (R140) -/

/-- The byte at a key after some bytes of a memory tile were written over it. -/
def overwritten (rid tile : Nat) (bs : List (Nat × Byte)) (y : Nat) (v : Byte) : Byte :=
  bs.foldl (fun v x => if y = Place.key (.mt rid tile x.1) then x.2 else v) v

theorem overwritten_of_out {rid tile : Nat} {bs : List (Nat × Byte)} {y : Nat} (v : Byte) (h : ∀ x ∈ bs, y ≠ Place.key (.mt rid tile x.1)) :
    overwritten rid tile bs y v = v :=
  List.foldlRecOn bs _ (motive := (· = v)) rfl fun w hw x hx => by rw [if_neg (h x hx), hw]

theorem overwritten_append (rid tile : Nat) (xs ys : List (Nat × Byte)) (y : Nat) (v : Byte) :
    overwritten rid tile (xs ++ ys) y v = overwritten rid tile ys y (overwritten rid tile xs y v) := List.foldl_append

theorem key_tile_inj {rid tile o x : Nat} : Place.key (.mt rid tile o) = Place.key (.mt rid tile x) ↔ o = x := by
  simp only [Place.key]
  omega

/-- The last byte written to an offset stands there. -/
theorem overwritten_of_last {rid tile : Nat} {bs : List (Nat × Byte)} {j : Nat} {o : Nat} {w : Byte} (v : Byte) (hj : bs[j]? = some (o, w))
    (hlast : ∀ i x, j < i → bs[i]? = some x → x.1 ≠ o) : overwritten rid tile bs (Place.key (.mt rid tile o)) v = w := by
  obtain ⟨hlt, hat⟩ := List.getElem?_eq_some_iff.1 hj
  have hsplit : bs = bs.take j ++ (o, w) :: bs.drop (j + 1) := by
    rw [← hat, ← List.drop_eq_getElem_cons hlt, List.take_append_drop]
  rw [hsplit, overwritten_append, overwritten, List.foldl_cons, if_pos rfl]
  refine overwritten_of_out w fun x hx => ?_
  obtain ⟨i, hi⟩ := List.mem_iff_getElem?.1 hx
  rw [List.getElem?_drop] at hi
  exact fun he => hlast _ x (by omega) hi (key_tile_inj.1 he).symm

/-! ### Writes of a command at a memory tile (R102, R160) -/

/-- What a write at memory leaves of its rectangle: where it and its extents lie, and what its cores' engines hold. -/
structure Landed (rid : Nat) (s u : State) : Prop where
  shape : Reshaped (rectAt s rid) (rectAt u rid)
  extents : u.extents = s.extents
  core : ∀ c, Squashed (coreAt s rid c) (coreAt u rid c)

theorem Landed.refl (rid : Nat) (s : State) : Landed rid s s := ⟨rfl, rfl, fun _ => .refl _⟩

theorem Landed.trans {rid : Nat} {s u v : State} (h : Landed rid s u) (k : Landed rid u v) : Landed rid s v :=
  ⟨h.shape.trans k.shape, k.extents.trans h.extents, fun c => (h.core c).trans (k.core c)⟩

theorem Landed.keepsQuiet {rid : Nat} {s u : State} (h : Landed rid s u) (hq : quiet s rid) : quiet u rid := by
  intro c
  rcases (h.core c).1 with hc | hc
  · rw [hc, hq c]
  · exact hc

theorem Landed.homeOf {rid : Nat} {s u : State} (h : Landed rid s u) {who : Who} (hw : who.rid = rid) (a : W64) :
    Machine.homeOf u who a = Machine.homeOf s who a := by
  have hshape := h.shape
  rw [Reshaped] at hshape
  subst hw
  simp only [Machine.homeOf, extentAt, h.extents]
  rw [hshape]
  rfl

theorem Landed.tileAddr {rid : Nat} {s u : State} (h : Landed rid s u) (c tile : Nat) (o : Int) :
    Machine.tileAddr (rectAt u rid) c tile o = Machine.tileAddr (rectAt s rid) c tile o := by
  have hshape := h.shape
  rw [Reshaped] at hshape
  rw [hshape]
  rfl

theorem Landed.ringq {rid : Nat} {s u : State} (h : Landed rid s u) (c : Nat) : (coreAt u rid c).ringq = (coreAt s rid c).ringq :=
  (congrArg Core.ringq (h.core c).2).trans rfl

theorem landed_performWrite {s : State} {who : Who} (uid : Nat) (a : W64) (bs : List Byte) (hq : quiet s who.rid) :
    Landed who.rid s (performWrite s who uid a bs) := by
  have haborts := aborts_performWrite s who uid a bs
  refine ⟨?_, ?_, fun c => ?_⟩
  · rw [← rectAt_landed s who a bs]
    exact haborts.rect
  · exact (haborts.part (quiet_landed who a bs hq) State.extents fun _ _ => rfl).trans
      (part_landed State.extents (fun _ _ _ => rfl) (fun _ _ => rfl) (fun _ _ _ => rfl) ..)
  · rw [← coreAt_landed s who a bs]
    exact haborts.core c

/-- A command writes bytes of a memory tile that lies in its rectangle. -/
theorem writeTile_lands {rid tile : Nat} {h : Hdr} (bs : List (Nat × Byte)) {s : State} (hwf : Memory.wf s = true) (hq : quiet s rid)
    (hhome : ∀ x ∈ bs, homeOf s (whoCmd rid h) (tileAddr (rectAt s rid) h.core tile x.1) = .mt rid tile x.1) :
    Landed rid s (writeTile s rid tile h bs) ∧ ∀ y, readKey (writeTile s rid tile h bs) y = overwritten rid tile bs y (readKey s y) := by
  induction bs generalizing s with
  | nil => exact ⟨.refl .., fun _ => rfl⟩
  | cons x bs ih =>
    have hfirst := hhome x (List.mem_cons_self ..)
    have hmem := mem_performWrite (who := whoCmd rid h) h.task (tileAddr (rectAt s rid) h.core tile x.1) [x.2] hq
    have hland : Landed rid s _ := landed_performWrite (who := whoCmd rid h) h.task (tileAddr (rectAt s rid) h.core tile x.1) [x.2] hq
    rw [hfirst] at hmem
    have hwf' : Memory.wf (performWrite s (whoCmd rid h) h.task (tileAddr (rectAt s rid) h.core tile x.1) [x.2]) = true :=
      kept_performWrite _ _ _ _ hwf
    obtain ⟨hlands, hreads⟩ := ih hwf' (hland.keepsQuiet hq) fun z hz => by
      rw [hland.tileAddr, hland.homeOf rfl]
      exact hhome z (List.mem_cons_of_mem _ hz)
    refine ⟨hland.trans hlands, fun y => (hreads y).trans ?_⟩
    have hread : readKey (performWrite s (whoCmd rid h) h.task (tileAddr (rectAt s rid) h.core tile x.1) [x.2]) y =
        if y = Place.key (.mt rid tile x.1) then x.2 else readKey s y := by
      rw [readKey_congr hmem]
      split
      · next hy =>
        rw [hy]
        exact readKey_writeKey_same _ _ hwf
      · next hy => exact readKey_writeKey_other _ hy
    rw [hread]
    rfl

/-! ### A capture is written (R259, R260) -/

section
variable {s : State} {rid c k n p : Nat} {q : RingCmd} {b : Board} {t : RingTile}

/-- Nothing holds the write of a byte of a board: no earlier board owes it, no MMAC retains it, and no committed store is on its way to it. -/
def unheld (s : State) (rid c k : Nat) (q : RingCmd) (b : Board) (o : Nat) : Prop :=
  boardsAhead s rid c k b.tile [o] = false ∧ retainedAt s (.mt rid b.tile o) 1 = false ∧
    drainingLine s (whoCmd rid q.hdr) (tileAddr (rectAt s rid) q.hdr.core b.tile o) 1 = false

/-- The board has counted its oldest tile, whose bytes stand in memory. -/
def tileCounted (s : State) (rid c k : Nat) (q : RingCmd) (b : Board) (t : RingTile) (n : Nat) (bs : List (Nat × Byte)) : State :=
  setBoard (noteIndex (writeTile s rid b.tile q.hdr bs) rid b.tile b.slot q.hdr.uid
    (min (n + t.payload.length) (payloadLen (slotAt s rid b.tile b.slot).desc))) rid c k q { b with tiles := b.tiles + 1, buf := b.buf.drop 1 }

/-- The bytes of a capture: the header where the pattern takes one, then the payload. -/
def captured (s : State) (rid : Nat) (b : Board) (t : RingTile) (p : Nat) (zs : List (Nat × Byte)) : List (Nat × Byte) :=
  (if !t.aux && pHdr (slotAt s rid b.tile b.slot).desc then headerBytes t.header (pHdrBase (slotAt s rid b.tile b.slot).desc + 64 * p) else []) ++ zs

theorem writeCapture_of_free {zs : List (Nat × Byte)} (hps : placeBytes s rid b.tile (slotAt s rid b.tile b.slot).desc n t.payload = (zs, none))
    (hok : (!t.aux && pHdr (slotAt s rid b.tile b.slot).desc) = true →
      elementOk (tileAt s rid b.tile).qbase ((pHdrBase (slotAt s rid b.tile b.slot).desc + 64 * p : Nat) : Int) 64 = true)
    (hfree : ∀ x ∈ captured s rid b t p zs, unheld s rid c k q b x.1) :
    writeCapture s rid c k q b t n p = tileCounted s rid c k q b t n (captured s rid b t p zs) := by
  have hahead : boardsAhead s rid c k b.tile ((captured s rid b t p zs).map (·.1)) = false := by
    refine boardsAhead_of_each fun o ho => ?_
    obtain ⟨x, hx, rfl⟩ := List.mem_map.1 ho
    exact (hfree x hx).1
  have hdrain : ((captured s rid b t p zs).any fun x =>
      drainingLine s (whoCmd rid q.hdr) (tileAddr (rectAt s rid) q.hdr.core b.tile x.1) 1) = false :=
    List.any_eq_false.2 fun x hx => by rw [(hfree x hx).2.2]; exact Bool.false_ne_true
  have hretain : ((captured s rid b t p zs).any fun x => retainedAt s (.mt rid b.tile x.1) 1) = false :=
    List.any_eq_false.2 fun x hx => by rw [(hfree x hx).2.1]; exact Bool.false_ne_true
  have hcast : ((pHdrBase (slotAt s rid b.tile b.slot).desc : Int) + 64 * (p : Int)) =
      ((pHdrBase (slotAt s rid b.tile b.slot).desc + 64 * p : Nat) : Int) := by push_cast; rfl
  cases hh : !t.aux && pHdr (slotAt s rid b.tile b.slot).desc with
  | false =>
    have hcap : captured s rid b t p zs = zs := by rw [captured, hh]; rfl
    rw [hcap] at hahead hdrain hretain ⊢
    simp only [writeCapture, hps, hh, Bool.false_and, Bool.false_eq_true, if_false, List.nil_append, hahead, hdrain, hretain, Bool.or_self,
      Option.isSome_none]
    rfl
  | true =>
    have hcap : captured s rid b t p zs =
        headerBytes t.header (pHdrBase (slotAt s rid b.tile b.slot).desc + 64 * p) ++ zs := by rw [captured, hh]; rfl
    rw [hcap] at hahead hdrain hretain ⊢
    have hok' := hok hh
    rw [← hcast] at hok'
    have hnat : ((pHdrBase (slotAt s rid b.tile b.slot).desc : Int) + 64 * (p : Int)).toNat = pHdrBase (slotAt s rid b.tile b.slot).desc + 64 * p := by
      rw [hcast, Int.toNat_natCast]
    unfold headerBytes at hahead hdrain hretain ⊢
    simp only [writeCapture, hps, hh, hok', hnat, Bool.and_self, if_true, hahead, hdrain, hretain, Bool.or_self, Bool.false_eq_true, if_false,
      Option.isSome_none, Bool.not_true, Bool.and_false, Bool.false_and]
    rfl

theorem mem_captured {off : Nat → Nat} {m : Nat} {x : Nat × Byte} (hx : x ∈ captured s rid b t p (((List.range m).map off).zip t.payload)) :
    (t.aux = false ∧ pHdr (slotAt s rid b.tile b.slot).desc = true ∧
      ∃ i, i < 64 ∧ x.1 = pHdrBase (slotAt s rid b.tile b.slot).desc + 64 * p + i) ∨ ∃ j, j < m ∧ x.1 = off j := by
  rcases List.mem_append.1 hx with h | h
  · left
    split at h
    · next hh =>
      rw [Bool.and_eq_true, Bool.not_eq_true'] at hh
      obtain ⟨i, hi, rfl⟩ := List.mem_map.1 h
      exact ⟨hh.1, hh.2, i, List.mem_range.1 hi, rfl⟩
    · cases h
  · right
    obtain ⟨j, hj, he⟩ := List.mem_map.1 (List.of_mem_zip h).1
    exact ⟨j, List.mem_range.1 hj, he.symm⟩

theorem exec_captureWrite {rest : List (RingTile × Nat × Nat)} (htile : tileUnit s rid b.tile = true) (hb : boardIs s rid c k q b)
    (hbuf : b.buf = (t, n, p) :: rest) : exec (.captureWrite rid c k) s = .next (writeCapture s rid c k q b t n p) := by
  have hexec : exec (.captureWrite rid c k) s = execCaptureWrite rid c k s := rfl
  simp only [hexec, execCaptureWrite, boardAt_of_is hb, htile, hbuf, Bool.not_true, Bool.false_eq_true, if_false]

theorem readKey_tileCounted (bs : List (Nat × Byte)) (y : Nat) :
    readKey (tileCounted s rid c k q b t n bs) y = readKey (writeTile s rid b.tile q.hdr bs) y := rfl

theorem ringq_tileCounted {bs : List (Nat × Byte)} (hland : Landed rid s (writeTile s rid b.tile q.hdr bs)) (hb : boardIs s rid c k q b) :
    (coreAt (tileCounted s rid c k q b t n bs) rid c).ringq[k]? =
      some { q with work := .board { b with tiles := b.tiles + 1, buf := b.buf.drop 1 } } := by
  refine ringq_setBoard ?_ _
  rw [noteIndex, coreAt_modSlot, hland.ringq]
  exact hb.1

/-- The place of a payload byte among the bytes of a capture. -/
theorem getElem?_payload {off : Nat → Nat} {m j : Nat} {x : Nat × Byte} :
    (((List.range m).map off).zip t.payload)[j]? = some x ↔ j < m ∧ x.1 = off j ∧ t.payload[j]? = some x.2 := by
  rw [List.getElem?_zip_eq_some, List.getElem?_map, Option.map_eq_some_iff]
  constructor
  · rintro ⟨⟨i, hi, he⟩, hx⟩
    obtain ⟨hlt, rfl⟩ := List.getElem?_eq_some_iff.1 hi
    rw [List.length_range] at hlt
    rw [List.getElem_range] at he
    exact ⟨hlt, he.symm, hx⟩
  · rintro ⟨hj, he, hx⟩
    exact ⟨⟨j, by rw [List.getElem?_range hj], he.symm⟩, hx⟩

theorem getElem?_headerBytes {h : BitVec 512} {a i : Nat} {x : Nat × Byte} :
    (headerBytes h a)[i]? = some x ↔ i < 64 ∧ x = (a + i, h.extractLsb' (8 * i) 8) := by
  have hbyte : BitVec.ofNat 8 (recBytes h i 1) = BitVec.ofNat 8 (h.toNat / 256 ^ i) := by
    apply BitVec.eq_of_toNat_eq
    simp [recBytes]
  rw [headerBytes, List.getElem?_map, Option.map_eq_some_iff]
  constructor
  · rintro ⟨n, hn, he⟩
    obtain ⟨hlt, rfl⟩ := List.getElem?_eq_some_iff.1 hn
    rw [List.length_range] at hlt
    rw [List.getElem_range, hbyte, ← byte_ofNat _ hlt, BitVec.ofNat_toNat, BitVec.setWidth_eq] at he
    exact ⟨hlt, he.symm⟩
  · rintro ⟨hi, rfl⟩
    refine ⟨i, by rw [List.getElem?_range hi], ?_⟩
    rw [hbyte, ← byte_ofNat _ hi, BitVec.ofNat_toNat, BitVec.setWidth_eq]

/-- A payload byte that no later one covers stands at its offset. -/
theorem payload_stands {off : Nat → Nat} {m j : Nat} (hs : List (Nat × Byte)) (v : Byte) (hj : j < min t.payload.length m)
    (hlast : ∀ i, j < i → i < min t.payload.length m → off i ≠ off j) (rid tile : Nat) :
    some (overwritten rid tile (hs ++ ((List.range (min t.payload.length m)).map off).zip t.payload) (Place.key (.mt rid tile (off j))) v) =
      t.payload[j]? := by
  have hlen : j < t.payload.length := by omega
  rw [List.getElem?_eq_getElem hlen]
  refine congrArg some (overwritten_of_last (j := hs.length + j) v ?_ fun i x hi hx => ?_)
  · rw [List.getElem?_append_right (by omega), Nat.add_sub_cancel_left]
    exact getElem?_payload.2 ⟨hj, rfl, List.getElem?_eq_getElem hlen⟩
  · rw [List.getElem?_append_right (by omega)] at hx
    obtain ⟨hlt, he, -⟩ := getElem?_payload.1 hx
    rw [he]
    exact hlast _ (by omega) hlt

/-- A header byte that no payload byte covers stands at its place. -/
theorem header_stands {off : Nat → Nat} {m j a : Nat} (h : BitVec 512) (v : Byte) (hj : j < 64) (hout : ∀ i, i < m → off i ≠ a + j) (rid tile : Nat) :
    overwritten rid tile (headerBytes h a ++ ((List.range m).map off).zip t.payload) (Place.key (.mt rid tile (a + j))) v =
      h.extractLsb' (8 * j) 8 := by
  have hlen : (headerBytes h a).length = 64 := by rw [headerBytes, List.length_map, List.length_range]
  refine overwritten_of_last (j := j) v ?_ fun i x hi hx => ?_
  · rw [List.getElem?_append_left (by omega)]
    exact getElem?_headerBytes.2 ⟨hj, rfl⟩
  · by_cases hin : i < 64
    · rw [List.getElem?_append_left (by omega)] at hx
      obtain ⟨-, rfl⟩ := getElem?_headerBytes.1 hx
      show a + i ≠ a + j
      omega
    · rw [List.getElem?_append_right (by omega)] at hx
      obtain ⟨hlt, he, -⟩ := getElem?_payload.1 hx
      rw [he]
      exact hout _ hlt

end

theorem elementOk_of_aligned {q a : Nat} (h64 : a % 64 = 0) (hend : a + 64 ≤ 2 ^ 21) (hq : a + 64 ≤ q) : elementOk q (a : Int) 64 = true := by
  simp only [elementOk, Bool.and_eq_true, decide_eq_true_iff, beq_iff_eq]
  refine ⟨⟨⟨?_, ?_⟩, ?_⟩, ?_⟩ <;> omega

theorem captureWrites : CaptureWrites := by
  intro s rid c k q b t n p rest off hwf hq htile hb hbuf d m ha headed free hpay hhdr
  have hps := placeBytes_eq (s := s) (rid := rid) (tile := b.tile) (d := d) t.payload (n := n) (off := off) fun j hj => (hpay j hj).1
  have hheaded : (!t.aux && pHdr d) = true ↔ headed := by
    rw [Bool.and_eq_true, Bool.not_eq_true']
  have hok (h : (!t.aux && pHdr d) = true) : elementOk (tileAt s rid b.tile).qbase (ha : Int) 64 = true := by
    obtain ⟨h64, hend, hbase, -⟩ := hhdr (hheaded.1 h)
    exact elementOk_of_aligned h64 hend hbase
  have hfree : ∀ x ∈ captured s rid b t p (((List.range m).map off).zip t.payload), free x.1 := by
    intro x hx
    rcases mem_captured hx with ⟨haux, hp, i, hi, he⟩ | ⟨j, hj, he⟩
    · obtain ⟨-, -, -, hbytes⟩ := hhdr ⟨haux, hp⟩
      rw [he]
      exact hbytes i hi
    · rw [he]
      exact (hpay j hj).2
  have hexec := exec_captureWrite htile hb hbuf
  rw [writeCapture_of_free hps hok fun x hx => ⟨(hfree x hx).1, (hfree x hx).2.1, (hfree x hx).2.2.1⟩] at hexec
  obtain ⟨hland, hreads⟩ := writeTile_lands (h := q.hdr) _ hwf hq fun x hx => (hfree x hx).2.2.2
  refine ⟨_, hexec, ?_, fun j hj hlast => ?_, fun hhead j hj hout => ?_, fun y hpayout hhdrout => ?_⟩
  · rw [ringq_tileCounted hland hb, hbuf]
    rfl
  · rw [readKey_tileCounted, hreads]
    exact payload_stands _ _ hj hlast rid b.tile
  · rw [readKey_tileCounted, hreads, captured, if_pos (hheaded.2 hhead)]
    exact header_stands t.header _ hj hout rid b.tile
  · rw [readKey_tileCounted, hreads]
    refine overwritten_of_out _ fun x hx => ?_
    rcases mem_captured hx with ⟨haux, hp, i, hi, he⟩ | ⟨j, hj, he⟩
    · rw [he]
      exact hhdrout ⟨haux, hp⟩ i hi
    · rw [he]
      exact hpayout j hj

/-- Settles O45: what a station does with a tile of a board, what each event of a board does to its slot and queue, and that an offset holds the last byte
written to it (`overwritten`). -/
theorem boardsCapture : Obligations.BoardsCapture := ⟨capturesTake, boardsComplete, captureWrites⟩

end Sys2Proof.Boards
end
